-- ==== Sys2Proof/Syntax.lean ====
section
/-! DEFINITION. The syntax of Epuebry (R37 to R59): the operand forms of an instruction word, and one constructor for
every row of spec/opcode_table.json. Rows 0 to 217 are encoded instructions. Rows 218 to 313 are the operations and
events of the device; each is a constructor too, and its arguments are the data that the outside (the host, Crew, a link,
a physical fault) supplies with it. -/

namespace Sys2Proof

/-- A scalar register number `x0` to `x63` (R42). -/
abbrev XReg := BitVec 6
/-- A vector register number `v0` to `v63` (R42); the count N in force is checked at issue. -/
abbrev VReg := BitVec 6
/-- An accumulator tile number (R42); its range is checked at issue. -/
abbrev AReg := BitVec 6
/-- A predicate register number `p0` to `p15` (R42). -/
abbrev PReg := BitVec 4

/-- The guard of an instruction: the predicate number PG and the negation PN (R38, R39). -/
structure Grd where
  pg : BitVec 4
  pn : Bool
deriving DecidableEq, Repr

/-- The header of a guarded instruction: guard and token wait mask (R38). -/
structure Hdr where
  pg : BitVec 4
  pn : Bool
  wm : BitVec 8
deriving DecidableEq, Repr

/-- The guard part of a header. -/
def Hdr.grd (g : Hdr) : Grd := ⟨g.pg, g.pn⟩
/-- The header of an instruction of R40, which cannot be guarded: PG = 0 and PN = 0. -/
def Hdr.plain (wm : BitVec 8) : Hdr := ⟨0, false, wm⟩
/-- The header of an instruction that waits on no token mask (R312). -/
def Grd.hdr (g : Grd) : Hdr := ⟨g.pg, g.pn, 0⟩

/-- The scopes of R56. -/
inductive Scope where
  | hart | gang | die | pkg | pod
deriving DecidableEq, Repr

/-- The conditions of CMP and BR (R57). -/
inductive Cond where
  | eq | ne | lt | ge | ltu | geu
deriving DecidableEq, Repr

/-- The conditions of BRP (R57). -/
inductive PCond where
  | t | f | any | none
deriving DecidableEq, Repr

/-- The conditions of FCMP (R57). -/
inductive FCond where
  | eq | ne | lt | le | un
deriving DecidableEq, Repr

/-- The conditions of VCMP (R57). -/
inductive VCond where
  | eq | ne | lt | ge | le | gt | un
deriving DecidableEq, Repr

/-- The operations of VRED and VSCAN (R57). -/
inductive ROp where
  | add | min | max | and | or | xor
deriving DecidableEq, Repr

/-- The operations of AMO and VAMO (R57). -/
inductive AOp where
  | add | min | max | and | or | xor | swap
deriving DecidableEq, Repr

/-- The reductions of the collectives, field ROP (R54). -/
inductive COp where
  | add | min | max | blkAdd
deriving DecidableEq, Repr

/-- The replicate modifiers of a vector source (R50). -/
inductive Rep where
  | none | e | s4 | s8 | s16 | s32
deriving DecidableEq, Repr

/-- The element tags of R72. -/
inductive Tag where
  | none | si8 | si16 | si32 | si64 | ui8 | ui16 | ui32 | ui64 | si4 | ui4
  | e2m1 | e3m2 | e2m3 | e4m3 | e5m2 | bf16 | fp16 | fp32 | fp64 | e8m0 | sx3 | sx5 | sx8
deriving DecidableEq, Repr

/-- A vector source with its replicate modifier (R50). -/
structure VSrc where
  v   : VReg
  rep : Rep
deriving DecidableEq, Repr

/-- The two sources of a V3 instruction; `q` makes the first one the pass-queue operand (R50). -/
structure VBin where
  q : Bool
  a : VSrc
  b : VSrc
deriving DecidableEq, Repr

/-- The memory operand of LD, ST and LEA (R45). -/
inductive MemOp where
  | direct (xa : XReg) (imm : BitVec 27)
  | indexed (xa xb : XReg) (log2s : BitVec 2)
deriving DecidableEq, Repr

/-- The ordering modifiers of an atomic: scope, acquire, release (R46). -/
structure Ord where
  sc : Scope
  aq : Bool
  rl : Bool
deriving DecidableEq, Repr

/-- The tail of a VM instruction: eviction priority, last use, token or counter, non-blocking (R51, R52). -/
structure VmTail where
  evp : BitVec 2
  lu  : Bool
  tc  : BitVec 3
  nb  : Bool
deriving DecidableEq, Repr

/-- The five-bit code of a tag (R72). -/
def Tag.code : Tag → BitVec 5
  | .none => 0x00 | .si8 => 0x01 | .si16 => 0x02 | .si32 => 0x03 | .si64 => 0x04
  | .ui8 => 0x05 | .ui16 => 0x06 | .ui32 => 0x07 | .ui64 => 0x08 | .si4 => 0x09 | .ui4 => 0x0A
  | .e2m1 => 0x10 | .e3m2 => 0x11 | .e2m3 => 0x12 | .e4m3 => 0x13 | .e5m2 => 0x14
  | .bf16 => 0x15 | .fp16 => 0x16 | .fp32 => 0x17 | .fp64 => 0x18 | .e8m0 => 0x19
  | .sx3 => 0x1A | .sx5 => 0x1B | .sx8 => 0x1C

/-- The tag with a given code, if the code is assigned (R72). -/
def Tag.ofCode? (c : BitVec 5) : Option Tag :=
  match c.toNat with
  | 0x00 => some .none | 0x01 => some .si8 | 0x02 => some .si16 | 0x03 => some .si32 | 0x04 => some .si64
  | 0x05 => some .ui8 | 0x06 => some .ui16 | 0x07 => some .ui32 | 0x08 => some .ui64 | 0x09 => some .si4
  | 0x0A => some .ui4 | 0x10 => some .e2m1 | 0x11 => some .e3m2 | 0x12 => some .e2m3 | 0x13 => some .e4m3
  | 0x14 => some .e5m2 | 0x15 => some .bf16 | 0x16 => some .fp16 | 0x17 => some .fp32 | 0x18 => some .fp64
  | 0x19 => some .e8m0 | 0x1A => some .sx3 | 0x1B => some .sx5 | 0x1C => some .sx8
  | _ => Option.none

/-- The instructions and the events of the device, one constructor per row of the opcode table. -/
inductive Instr where
  -- rows 0 to 217: encoded instructions
  /-- ADD (R137). -/
  | add (g : Hdr) (xd xa xb : XReg)
  /-- ADD_IMM (R137). -/
  | addImm (g : Hdr) (xd xa : XReg) (imm : BitVec 27)
  /-- SUB (R137). -/
  | sub (g : Hdr) (xd xa xb : XReg)
  /-- SUB_IMM (R137). -/
  | subImm (g : Hdr) (xd xa : XReg) (imm : BitVec 27)
  /-- AND (R137). -/
  | and (g : Hdr) (xd xa xb : XReg)
  /-- AND_IMM (R137). -/
  | andImm (g : Hdr) (xd xa : XReg) (imm : BitVec 27)
  /-- OR (R137). -/
  | or (g : Hdr) (xd xa xb : XReg)
  /-- OR_IMM (R137). -/
  | orImm (g : Hdr) (xd xa : XReg) (imm : BitVec 27)
  /-- XOR (R137). -/
  | xor (g : Hdr) (xd xa xb : XReg)
  /-- XOR_IMM (R137). -/
  | xorImm (g : Hdr) (xd xa : XReg) (imm : BitVec 27)
  /-- ANDN (R137). -/
  | andn (g : Hdr) (xd xa xb : XReg)
  /-- ANDN_IMM (R137). -/
  | andnImm (g : Hdr) (xd xa : XReg) (imm : BitVec 27)
  /-- SHL (R137). -/
  | shl (g : Hdr) (xd xa xb : XReg)
  /-- SHL_IMM (R137). -/
  | shlImm (g : Hdr) (xd xa : XReg) (imm : BitVec 27)
  /-- SHR (R137). -/
  | shr (g : Hdr) (xd xa xb : XReg)
  /-- SHR_IMM (R137). -/
  | shrImm (g : Hdr) (xd xa : XReg) (imm : BitVec 27)
  /-- SHA (R137). -/
  | sha (g : Hdr) (xd xa xb : XReg)
  /-- SHA_IMM (R137). -/
  | shaImm (g : Hdr) (xd xa : XReg) (imm : BitVec 27)
  /-- ROTL (R137). -/
  | rotl (g : Hdr) (xd xa xb : XReg)
  /-- ROTL_IMM (R137). -/
  | rotlImm (g : Hdr) (xd xa : XReg) (imm : BitVec 27)
  /-- MIN (R137). -/
  | min (g : Hdr) (xd xa xb : XReg)
  /-- MIN_IMM (R137). -/
  | minImm (g : Hdr) (xd xa : XReg) (imm : BitVec 27)
  /-- MAX (R137). -/
  | max (g : Hdr) (xd xa xb : XReg)
  /-- MAX_IMM (R137). -/
  | maxImm (g : Hdr) (xd xa : XReg) (imm : BitVec 27)
  /-- MINU (R137). -/
  | minu (g : Hdr) (xd xa xb : XReg)
  /-- MINU_IMM (R137). -/
  | minuImm (g : Hdr) (xd xa : XReg) (imm : BitVec 27)
  /-- MAXU (R137). -/
  | maxu (g : Hdr) (xd xa xb : XReg)
  /-- MAXU_IMM (R137). -/
  | maxuImm (g : Hdr) (xd xa : XReg) (imm : BitVec 27)
  /-- SLT (R137). -/
  | slt (g : Hdr) (xd xa xb : XReg)
  /-- SLT_IMM (R137). -/
  | sltImm (g : Hdr) (xd xa : XReg) (imm : BitVec 27)
  /-- SLTU (R137). -/
  | sltu (g : Hdr) (xd xa xb : XReg)
  /-- SLTU_IMM (R137). -/
  | sltuImm (g : Hdr) (xd xa : XReg) (imm : BitVec 27)
  /-- MUL (R138). -/
  | mul (g : Hdr) (xd xa xb : XReg)
  /-- MULH (R138). -/
  | mulh (g : Hdr) (xd xa xb : XReg)
  /-- MULHU (R138). -/
  | mulhu (g : Hdr) (xd xa xb : XReg)
  /-- DIV (R138). -/
  | div (g : Hdr) (xd xa xb : XReg)
  /-- DIVU (R138). -/
  | divu (g : Hdr) (xd xa xb : XReg)
  /-- REM (R138). -/
  | rem (g : Hdr) (xd xa xb : XReg)
  /-- REMU (R138). -/
  | remu (g : Hdr) (xd xa xb : XReg)
  /-- CLZ (R139). -/
  | clz (g : Hdr) (xd xa : XReg)
  /-- CTZ (R139). -/
  | ctz (g : Hdr) (xd xa : XReg)
  /-- POPC (R139). -/
  | popc (g : Hdr) (xd xa : XReg)
  /-- BEXT (R139). -/
  | bext (g : Hdr) (xd xa xb : XReg)
  /-- BDEP (R139). -/
  | bdep (g : Hdr) (xd xa xb : XReg)
  /-- BREV (R139). -/
  | brev (g : Hdr) (xd xa : XReg)
  /-- LI (R140). -/
  | li (g : Hdr) (xd : XReg) (imm : BitVec 37)
  /-- LIH (R140). -/
  | lih (g : Hdr) (xd : XReg) (imm : BitVec 27)
  /-- LEA (R145). -/
  | lea (g : Hdr) (xd : XReg) (m : MemOp)
  /-- PAMK (R141). -/
  | pamk (g : Hdr) (xd xa xb : XReg)
  /-- PAX (R141). -/
  | pax (g : Hdr) (xd xa : XReg)
  /-- CMP (R142). -/
  | cmp (g : Hdr) (c : Cond) (pd : PReg) (xa xb : XReg)
  /-- PAND (R143). -/
  | pand (g : Hdr) (pd pa pb : PReg)
  /-- POR (R143). -/
  | por (g : Hdr) (pd pa pb : PReg)
  /-- PXOR (R143). -/
  | pxor (g : Hdr) (pd pa pb : PReg)
  /-- PNOT (R143). -/
  | pnot (g : Hdr) (pd pa : PReg)
  /-- PMOV (R143). -/
  | pmov (g : Hdr) (pd pa : PReg)
  /-- PFIRST (R143). -/
  | pfirst (g : Hdr) (pd pa : PReg)
  /-- PCNT (R143). -/
  | pcnt (g : Hdr) (xd : XReg) (pa : PReg)
  /-- PSET (R143). -/
  | pset (g : Hdr) (pd : PReg) (xa : XReg)
  /-- BR (R144). -/
  | br (g : Hdr) (c : Cond) (xa xb : XReg) (ofs : BitVec 27)
  /-- BRP (R144). -/
  | brp (g : Hdr) (c : PCond) (pa : PReg) (ofs : BitVec 27)
  /-- J (R144). -/
  | j (g : Hdr) (ofs : BitVec 27)
  /-- JAL (R144). -/
  | jal (g : Hdr) (xl : XReg) (ofs : BitVec 27)
  /-- JALR (R144). -/
  | jalr (g : Hdr) (xd xa : XReg) (imm : BitVec 27)
  /-- LD (R146). -/
  | ld (g : Hdr) (xd : XReg) (m : MemOp) (sz : BitVec 2) (zx : Bool)
  /-- ST (R146). -/
  | st (g : Hdr) (xs : XReg) (m : MemOp) (sz : BitVec 2)
  /-- AMO (R325). -/
  | amo (g : Hdr) (op : AOp) (xd xa xb : XReg) (o : Ord) (dbl : Bool)
  /-- CAS (R325). -/
  | cas (g : Hdr) (xd xa xb : XReg) (o : Ord) (dbl : Bool)
  /-- BINC (R325). -/
  | binc (g : Hdr) (xd xa xb : XReg) (o : Ord) (dbl : Bool)
  /-- CCLEAN (R266). -/
  | cclean (g : Hdr) (xa xb : XReg)
  /-- CFLUSH (R266). -/
  | cflush (g : Hdr) (xa xb : XReg)
  /-- FADD (R147). -/
  | fadd (g : Hdr) (sgl : Bool) (xd xa xb : XReg) (rnd : BitVec 2)
  /-- FSUB (R147). -/
  | fsub (g : Hdr) (sgl : Bool) (xd xa xb : XReg) (rnd : BitVec 2)
  /-- FMUL (R147). -/
  | fmul (g : Hdr) (sgl : Bool) (xd xa xb : XReg) (rnd : BitVec 2)
  /-- FDIV (R147). -/
  | fdiv (g : Hdr) (sgl : Bool) (xd xa xb : XReg) (rnd : BitVec 2)
  /-- FMIN (R147). -/
  | fmin (g : Hdr) (sgl : Bool) (xd xa xb : XReg)
  /-- FMAX (R147). -/
  | fmax (g : Hdr) (sgl : Bool) (xd xa xb : XReg)
  /-- FSQRT (R147). -/
  | fsqrt (g : Hdr) (sgl : Bool) (xd xa : XReg) (rnd : BitVec 2)
  /-- FFMA (R148). -/
  | ffma (g : Hdr) (sgl : Bool) (rnd : BitVec 2) (xd xa xb xc : XReg)
  /-- FCVT (R149). -/
  | fcvt (g : Hdr) (dst src : Tag) (rnd : BitVec 2) (xd xa : XReg)
  /-- FCMP (R150). -/
  | fcmp (g : Hdr) (c : FCond) (sgl : Bool) (pd : PReg) (xa xb : XReg)
  /-- CSRR (R151). -/
  | csrr (g : Hdr) (xd : XReg) (n : BitVec 12)
  /-- CSRW (R151). -/
  | csrw (g : Hdr) (xd : XReg) (n : BitVec 12) (xa : XReg)
  /-- CSRS (R151). -/
  | csrs (g : Hdr) (xd : XReg) (n : BitVec 12) (xa : XReg)
  /-- CSRC (R151). -/
  | csrc (g : Hdr) (xd : XReg) (n : BitVec 12) (xa : XReg)
  /-- FENCE_SV (R322). -/
  | fenceSv (wm : BitVec 8) (sc : Scope)
  /-- FENCE_VS (R322). -/
  | fenceVs (wm : BitVec 8) (sc : Scope)
  /-- FENCE_VV (R322). -/
  | fenceVv (wm : BitVec 8) (sc : Scope)
  /-- FENCE_A (R322). -/
  | fenceA (wm : BitVec 8) (sc : Scope)
  /-- QFENCE (R313). -/
  | qfence (wm : BitVec 8) (sc : Scope) (qs : BitVec 4)
  /-- ECALL (R367). -/
  | ecall (wm : BitVec 8) (imm : BitVec 16)
  /-- EBREAK (R367). -/
  | ebreak (wm : BitVec 8) (imm : BitVec 16)
  /-- TRET (R368). -/
  | tret (wm : BitVec 8)
  /-- WAIT (R369). -/
  | wait (wm : BitVec 8) (xd xa : XReg)
  /-- LNCH (R123). -/
  | lnch (g : Hdr) (xd xa : XReg)
  /-- CLAIM (R124). -/
  | claim (g : Hdr) (xd xa : XReg)
  /-- GBAR_ARR (R125). -/
  | gbarArr (g : Hdr) (sc : Scope) (xd : XReg)
  /-- GBAR_WAIT (R125). -/
  | gbarWait (g : Hdr) (sc : Scope) (xa : XReg)
  /-- EXIT (R126). -/
  | exit (g : Hdr)
  /-- YIELD (R128). -/
  | yield (g : Hdr) (xd : XReg)
  /-- WAITM (R129). -/
  | waitm (g : Hdr) (sc : Scope) (xd xa xb : XReg) (imm : BitVec 16)
  /-- TINV (R366). -/
  | tinv (wm : BitVec 8) (sc : Scope) (all : Bool) (t : BitVec 6) (xa xb : XReg)
  /-- CLSET (R289). -/
  | clset (wm : BitVec 8) (cls : BitVec 2) (t : BitVec 6) (xd xa : XReg)
  /-- BIND (R291). -/
  | bind (wm : BitVec 8) (t : BitVec 6) (xd xa : XReg)
  /-- VSAVE (R370). -/
  | vsave (wm : BitVec 8) (xd xa xb : XReg)
  /-- VREST (R371). -/
  | vrest (wm : BitVec 8) (xd xa : XReg)
  /-- VCFG (R171). -/
  | vcfg (wm : BitVec 8) (xd : XReg) (regs blk : BitVec 2)
  /-- SETVL (R172). -/
  | setvl (wm : BitVec 8) (xd xa : XReg) (t : BitVec 5)
  /-- SETVH (R172). -/
  | setvh (wm : BitVec 8) (xd xa : XReg) (t : BitVec 5)
  /-- VTAG (R173). -/
  | vtag (wm : BitVec 8) (vd : VReg) (t : BitVec 5)
  /-- VMOV (R175). -/
  | vmov (g : Hdr) (vd : VReg) (a : VSrc)
  /-- VSLICE_EXTRACT (R176). -/
  | vsliceExtract (g : Hdr) (col : Bool) (vd va : VReg) (xb : XReg)
  /-- VSLICE_INSERT (R176). -/
  | vsliceInsert (g : Hdr) (col : Bool) (vd va : VReg) (xb : XReg)
  /-- VBCAST (R177). -/
  | vbcast (g : Hdr) (vd : VReg) (xa : XReg)
  /-- VXT (R178). -/
  | vxt (g : Hdr) (xd : XReg) (va : VReg) (xb : XReg)
  /-- VINS (R179). -/
  | vins (g : Hdr) (vd : VReg) (xa xb : XReg)
  /-- VADD (R186). -/
  | vadd (g : Hdr) (vd : VReg) (o : VBin) (sat : Bool) (rnd : BitVec 2)
  /-- VSUB (R186). -/
  | vsub (g : Hdr) (vd : VReg) (o : VBin) (sat : Bool) (rnd : BitVec 2)
  /-- VMIN (R186). -/
  | vmin (g : Hdr) (vd : VReg) (o : VBin) (sat : Bool) (rnd : BitVec 2)
  /-- VMAX (R186). -/
  | vmax (g : Hdr) (vd : VReg) (o : VBin) (sat : Bool) (rnd : BitVec 2)
  /-- VABS (R187). -/
  | vabs (g : Hdr) (vd : VReg) (a : VSrc) (sat : Bool) (rnd : BitVec 2)
  /-- VNEG (R187). -/
  | vneg (g : Hdr) (vd : VReg) (a : VSrc) (sat : Bool) (rnd : BitVec 2)
  /-- VMUL (R186). -/
  | vmul (g : Hdr) (vd : VReg) (o : VBin) (sat : Bool) (rnd : BitVec 2)
  /-- VMULH (R188). -/
  | vmulh (g : Hdr) (vd : VReg) (o : VBin)
  /-- VDIV (R189). -/
  | vdiv (g : Hdr) (vd : VReg) (o : VBin) (sat : Bool) (rnd : BitVec 2)
  /-- VREM (R189). -/
  | vrem (g : Hdr) (vd : VReg) (o : VBin) (sat : Bool)
  /-- VSQRT (R191). -/
  | vsqrt (g : Hdr) (vd : VReg) (a : VSrc) (sat : Bool) (rnd : BitVec 2)
  /-- VRCP (R191). -/
  | vrcp (g : Hdr) (vd : VReg) (a : VSrc) (sat : Bool) (rnd : BitVec 2)
  /-- VRSQ (R191). -/
  | vrsq (g : Hdr) (vd : VReg) (a : VSrc) (sat : Bool) (rnd : BitVec 2)
  /-- VFMA (R190). -/
  | vfma (g : Hdr) (vd : VReg) (o : VBin) (vc : VReg) (sat : Bool) (rnd : BitVec 2)
  /-- VFMS (R190). -/
  | vfms (g : Hdr) (vd : VReg) (o : VBin) (vc : VReg) (sat : Bool) (rnd : BitVec 2)
  /-- VFNMA (R190). -/
  | vfnma (g : Hdr) (vd : VReg) (o : VBin) (vc : VReg) (sat : Bool) (rnd : BitVec 2)
  /-- VCMP (R196). -/
  | vcmp (g : Hdr) (c : VCond) (pd : PReg) (a b : VSrc)
  /-- VAND (R192). -/
  | vand (g : Hdr) (vd : VReg) (o : VBin)
  /-- VOR (R192). -/
  | vor (g : Hdr) (vd : VReg) (o : VBin)
  /-- VXOR (R192). -/
  | vxor (g : Hdr) (vd : VReg) (o : VBin)
  /-- VNOT (R192). -/
  | vnot (g : Hdr) (vd : VReg) (a : VSrc)
  /-- VSHL (R192). -/
  | vshl (g : Hdr) (vd : VReg) (o : VBin)
  /-- VSHR (R192). -/
  | vshr (g : Hdr) (vd : VReg) (o : VBin)
  /-- VSHA (R192). -/
  | vsha (g : Hdr) (vd : VReg) (o : VBin)
  /-- VROT (R192). -/
  | vrot (g : Hdr) (vd : VReg) (o : VBin)
  /-- VCLZ (R193). -/
  | vclz (g : Hdr) (vd : VReg) (a : VSrc)
  /-- VPOPC (R193). -/
  | vpopc (g : Hdr) (vd : VReg) (a : VSrc)
  /-- VBREV (R193). -/
  | vbrev (g : Hdr) (vd : VReg) (a : VSrc)
  /-- VBITIL (R195). -/
  | vbitil (g : Hdr) (k3 : Bool) (vd : VReg) (a b : VSrc) (vc : VReg)
  /-- VBITDL (R195). -/
  | vbitdl (g : Hdr) (k3 : Bool) (vd : VReg) (a : VSrc) (jx : BitVec 2)
  /-- VRED (R198). -/
  | vred (g : Hdr) (op : ROp) (vd va : VReg) (sat : Bool) (rnd : BitVec 2)
  /-- VSCAN (R199). -/
  | vscan (g : Hdr) (op : ROp) (vd va : VReg) (sat : Bool) (rnd : BitVec 2)
  /-- VMAXI (R200). -/
  | vmaxi (g : Hdr) (vd va : VReg) (xb : XReg) (pm : PReg)
  /-- VMINI (R200). -/
  | vmini (g : Hdr) (vd va : VReg) (xb : XReg) (pm : PReg)
  /-- VSLIDE_UP (R202). -/
  | vslideUp (g : Hdr) (vd va : VReg) (xb : XReg)
  /-- VSLIDE_DN (R202). -/
  | vslideDn (g : Hdr) (vd va : VReg) (xb : XReg)
  /-- VPERM (R203). -/
  | vperm (g : Hdr) (vd va vb : VReg)
  /-- VCOMPR (R204). -/
  | vcompr (g : Hdr) (vd va : VReg)
  /-- VEXPD (R204). -/
  | vexpd (g : Hdr) (vd va : VReg)
  /-- VIOTA (R205). -/
  | viota (g : Hdr) (vd : VReg) (pa : PReg)
  /-- VTRANS (R206). -/
  | vtrans (g : Hdr) (vd va : VReg)
  /-- VCVT (R208). -/
  | vcvt (g : Hdr) (vd : VReg) (a : VSrc) (sat : Bool) (rnd : BitVec 2)
  /-- VQNT (R209). -/
  | vqnt (g : Hdr) (vd va vs : VReg) (rnd : BitVec 2)
  /-- VDQNT (R210). -/
  | vdqnt (g : Hdr) (vd va vs : VReg) (sat : Bool) (rnd : BitVec 2)
  /-- VSEL (R197). -/
  | vsel (g : Hdr) (vd : VReg) (a b : VSrc) (pc : PReg)
  /-- VEXP2 (R191). -/
  | vexp2 (g : Hdr) (vd : VReg) (a : VSrc) (sat : Bool) (rnd : BitVec 2)
  /-- VLOG2 (R191). -/
  | vlog2 (g : Hdr) (vd : VReg) (a : VSrc) (sat : Bool) (rnd : BitVec 2)
  /-- VLD (R263). -/
  | vld (g : Hdr) (vd : VReg) (xa : XReg) (t : VmTail)
  /-- VLD_P (R263). -/
  | vldP (g : Hdr) (vd : VReg) (xa xb : XReg) (t : VmTail)
  /-- VLDS (R263). -/
  | vlds (g : Hdr) (vd : VReg) (xa xb : XReg) (t : VmTail)
  /-- VGTH (R263). -/
  | vgth (g : Hdr) (vd : VReg) (xa : XReg) (vb : VReg) (s : BitVec 2) (t : VmTail)
  /-- VGTH_CL (R245). -/
  | vgthCl (g : Hdr) (vd : VReg) (xa : XReg) (vb : VReg) (s : BitVec 2) (t : VmTail)
  /-- VLDW (R264). -/
  | vldw (g : Hdr) (vd : VReg) (xa xb : XReg) (t : VmTail)
  /-- PREF (R265). -/
  | pref (g : Hdr) (xa xb : XReg) (t : VmTail)
  /-- VST (R263). -/
  | vst (g : Hdr) (vs : VReg) (xa : XReg) (t : VmTail)
  /-- VST_P (R263). -/
  | vstP (g : Hdr) (vs : VReg) (xa xb : XReg) (t : VmTail)
  /-- VSTS (R263). -/
  | vsts (g : Hdr) (vs : VReg) (xa xb : XReg) (t : VmTail)
  /-- VSCT (R263). -/
  | vsct (g : Hdr) (vs : VReg) (xa : XReg) (vb : VReg) (s : BitVec 2) (t : VmTail)
  /-- VSCT_CL (R245). -/
  | vsctCl (g : Hdr) (vs : VReg) (xa : XReg) (vb : VReg) (s : BitVec 2) (t : VmTail)
  /-- VAMO (R327). -/
  | vamo (g : Hdr) (op : AOp) (nr : Bool) (vd : VReg) (xa : XReg) (vb : VReg) (s : BitVec 2) (o : Ord) (t : VmTail)
  /-- VCAS (R327). -/
  | vcas (g : Hdr) (vd : VReg) (xa : XReg) (vb : VReg) (s : BitVec 2) (o : Ord) (t : VmTail)
  /-- VBINC (R327). -/
  | vbinc (g : Hdr) (vd : VReg) (xa : XReg) (vb : VReg) (s : BitVec 2) (o : Ord) (t : VmTail)
  /-- VSTM (R332). -/
  | vstm (g : Hdr) (vs : VReg) (xa : XReg) (r : BitVec 2) (t : VmTail)
  /-- VPUSH (R335). -/
  | vpush (wm : BitVec 8) (sc : Scope) (vs : VReg) (xa : XReg) (tc : BitVec 3) (nb : Bool)
  /-- VTAKE (R338). -/
  | vtake (wm : BitVec 8) (sc : Scope) (vd vm : VReg)
  /-- VFES_RD (R339). -/
  | vfesRd (wm : BitVec 8) (xd : XReg) (vm : VReg)
  /-- VFES_CLR (R339). -/
  | vfesClr (wm : BitVec 8) (xd : XReg) (vm : VReg)
  /-- VFES_SET (R339). -/
  | vfesSet (wm : BitVec 8) (xd : XReg) (vm : VReg)
  /-- STRM (R304). -/
  | strm (g : Hdr) (xd xa xb : XReg) (lu : Bool) (evp : BitVec 2) (cnt : Bool) (n : BitVec 3)
  /-- STRM_2D (R304). -/
  | strm2d (g : Hdr) (xd xa xb : XReg) (lu : Bool) (evp : BitVec 2) (cnt : Bool) (n : BitVec 3)
  /-- WAIT_K (R312). -/
  | waitK (gd : Grd) (t : Bool) (mask : BitVec 8) (xd xa : XReg)
  /-- CCWAIT (R312). -/
  | ccwait (gd : Grd) (t : Bool) (n : BitVec 3) (xd xa xb : XReg)
  /-- CCRD (R312). -/
  | ccrd (gd : Grd) (n : BitVec 3) (xd : XReg)
  /-- CCRD_CLR (R312). -/
  | ccrdClr (gd : Grd) (n : BitVec 3) (xd : XReg)
  /-- WOPEN (R267). -/
  | wopen (g : Hdr) (w : BitVec 2) (xa xb : XReg)
  /-- WCLOSE (R267). -/
  | wclose (g : Hdr) (w : BitVec 2)
  /-- WINV (R267). -/
  | winv (g : Hdr) (w : BitVec 2)
  /-- MATT (R232). -/
  | matt (g : Hdr) (xd xa : XReg)
  /-- MDET (R233). -/
  | mdet (g : Hdr)
  /-- MUNF (R234). -/
  | munf (g : Hdr) (xa : XReg)
  /-- MMA (R235). -/
  | mma (g : Hdr) (ta : AReg) (ma mb : BitVec 6) (ms : VReg) (tk : Option (BitVec 3)) (asrc bsrc sat scl : Bool)
  /-- MACC_LD (R236). -/
  | maccLd (g : Hdr) (ta : AReg) (va : VReg) (xs : XReg) (tk : Option (BitVec 3))
  /-- MACC_ST (R237). -/
  | maccSt (g : Hdr) (vd : VReg) (ta : AReg) (xs : XReg) (tk : Option (BitVec 3))
  /-- MACC_Z (R238). -/
  | maccZ (g : Hdr) (ta : AReg) (tk : Option (BitVec 3)) (si : Bool)
  /-- MEPI (R239). -/
  | mepi (g : Hdr) (vd : VReg) (ta : AReg) (vb vs : VReg) (tk : Option (BitVec 3)) (sat : Bool) (rnd act : BitVec 2) (scl bia : Bool)
  /-- WSLD (R268). -/
  | wsld (g : Hdr) (xd xa xb : XReg) (tk : Option (BitVec 3))
  /-- WSBERTH_GET (R269). -/
  | wsberthGet (g : Hdr) (xd xa : XReg)
  /-- WSBERTH_RDY (R269). -/
  | wsberthRdy (g : Hdr) (xd xa : XReg)
  /-- WSBERTH_DROP (R269). -/
  | wsberthDrop (g : Hdr) (xd xa : XReg)
  /-- COLL_AR_V (R407). -/
  | collArV (wm : BitVec 8) (op : COp) (vd va : VReg) (xb : XReg) (grp : BitVec 6) (tk : Option (BitVec 3))
  /-- COLL_AR_M (R407). -/
  | collArM (wm : BitVec 8) (op : COp) (xd xa xb : XReg) (grp : BitVec 6) (tk : Option (BitVec 3))
  /-- COLL_RS_V (R407). -/
  | collRsV (wm : BitVec 8) (op : COp) (vd va : VReg) (xb : XReg) (grp : BitVec 6) (tk : Option (BitVec 3))
  /-- COLL_RS_M (R407). -/
  | collRsM (wm : BitVec 8) (op : COp) (xd xa xb : XReg) (grp : BitVec 6) (tk : Option (BitVec 3))
  /-- COLL_AG_V (R407). -/
  | collAgV (wm : BitVec 8) (vd va : VReg) (xb : XReg) (grp : BitVec 6) (tk : Option (BitVec 3))
  /-- COLL_AG_M (R407). -/
  | collAgM (wm : BitVec 8) (xd xa xb : XReg) (grp : BitVec 6) (tk : Option (BitVec 3))
  /-- COLL_BC_V (R407). -/
  | collBcV (wm : BitVec 8) (vd va : VReg) (xb : XReg) (grp : BitVec 6) (tk : Option (BitVec 3))
  /-- COLL_BC_M (R407). -/
  | collBcM (wm : BitVec 8) (xd xa xb : XReg) (grp : BitVec 6) (tk : Option (BitVec 3))
  /-- COLL_SRS (R408). -/
  | collSrs (wm : BitVec 8) (xd xa xb : XReg) (grp : BitVec 6) (tk : Option (BitVec 3))
  /-- COLL_BAR (R409). -/
  | collBar (wm : BitVec 8) (xb : XReg) (grp : BitVec 6) (tk : Option (BitVec 3))
  /-- COLL_WAIT (R410). -/
  | collWait (wm : BitVec 8) (xd xa : XReg) (grp : BitVec 6)
  /-- COLL_STAT (R411). -/
  | collStat (wm : BitVec 8) (xd xa : XReg) (grp : BitVec 6)
  /-- COLL_STAT_CLR (R411). -/
  | collStatClr (wm : BitVec 8) (xd xa : XReg) (grp : BitVec 6)
  -- rows 218 to 313: operations and events
  /-- NON_INSTRUCTION_WORD (R60). -/
  | nonInstructionWord (w : Word)
  /-- LAUNCH_PORT_WRITE (R101). -/
  | launchPortWrite
  /-- QABORT (R108). -/
  | qabort
  /-- QCTL_HALTED_CLEAR (R104). -/
  | qctlHaltedClear
  /-- GANG_PLACEMENT (R109). -/
  | gangPlacement
  /-- SCHEDULER_RESERVATION (R112). -/
  | schedulerReservation
  /-- PREEMPT_SELECTION (R114). -/
  | preemptSelection
  /-- CORESIDENT_PREEMPT_SELECTION (R439). -/
  | coresidentPreemptSelection
  /-- GANG_RESUME (R116). -/
  | gangResume
  /-- LANE_GROUP_ISSUE (R119). -/
  | laneGroupIssue
  /-- TRAP_ENTRY (R359). -/
  | trapEntry
  /-- TRAP_REPORT (R360). -/
  | trapReport
  /-- TRES_RESUME (R360). -/
  | tresResume
  /-- TRES_TAKE_TRAP (R360). -/
  | tresTakeTrap
  /-- TRES_END (R360). -/
  | tresEnd
  /-- TIMER_COMPARE (R354). -/
  | timerCompare
  /-- HOME_ACCESS (R273). -/
  | homeAccess
  /-- SCRUB_ERROR (R279). -/
  | scrubError
  /-- REMOTE_ATOMIC_ARRIVAL (R330). -/
  | remoteAtomicArrival
  /-- LOAD_ELEMENT_ARRIVAL (R260). -/
  | loadElementArrival
  /-- STREAM_DISPATCH (R300). -/
  | streamDispatch
  /-- STREAM_GRANULE (R304). -/
  | streamGranule
  /-- NB_RETIRE (R307). -/
  | nbRetire
  /-- EFACT_RESUME (R309). -/
  | efactResume
  /-- EFACT_ABANDON (R309). -/
  | efactAbandon
  /-- MATRIX_QUEUE_EXECUTE (R228). -/
  | matrixQueueExecute
  /-- MATRIX_WAITLIST_EXPIRE (R214). -/
  | matrixWaitlistExpire
  /-- BERTH_AGEING (R257). -/
  | berthAgeing
  /-- REFRESH_SLOT_END (R255). -/
  | refreshSlotEnd
  /-- WFRAC_WRITE (R249). -/
  | wfracWrite
  /-- PUSH_ARRIVAL (R336). -/
  | pushArrival
  /-- PUSH_RETRY (R336). -/
  | pushRetry
  /-- PUSH_RESERVATION_EXPIRE (R336). -/
  | pushReservationExpire
  /-- MIGRATION_START (R349). -/
  | migrationStart
  /-- MIGRATION_FREE (R349). -/
  | migrationFree
  /-- MIGRATION_LINE_MOVE (R349). -/
  | migrationLineMove
  /-- FRAME_CLASS_CHANGE (R289). -/
  | frameClassChange
  /-- DIE_FLIT_RECEIVE (R374). -/
  | dieFlitReceive
  /-- WAVELENGTH_RETRAIN_TRIGGER (R377). -/
  | wavelengthRetrainTrigger
  /-- WLCTL_FORCE (R377). -/
  | wlctlForce
  /-- WLCTL_OFF_SET (R377). -/
  | wlctlOffSet
  /-- WLCTL_OFF_CLEAR (R377). -/
  | wlctlOffClear
  /-- WAVELENGTH_FLIT_BOUNDARY (R377). -/
  | wavelengthFlitBoundary
  /-- WAVELENGTH_TRAINING_DONE (R377). -/
  | wavelengthTrainingDone
  /-- LINK_TABLE_UPDATE (R387). -/
  | linkTableUpdate
  /-- FABRIC_PACKET_RECEIVE (R384). -/
  | fabricPacketReceive
  /-- TRANSPORT_RESEND (R384). -/
  | transportResend
  /-- REQUEST_TIMEOUT (R385). -/
  | requestTimeout
  /-- GRANT_CRC_CHECK (R382). -/
  | grantCrcCheck
  /-- PORT_GROUP_RESET_DONE (R382). -/
  | portGroupResetDone
  /-- PORT_GROUP_LOST (R383). -/
  | portGroupLost
  /-- MACHINE_FAULT (R364). -/
  | machineFault
  /-- CHUNK_MARK (R396). -/
  | chunkMark
  /-- COLLECTIVE_RECOMPUTE (R398). -/
  | collectiveRecompute
  /-- COLLECTIVE_TIMEOUT (R401). -/
  | collectiveTimeout
  /-- GROUP_DISABLE (R390). -/
  | groupDisable
  /-- PCIE_PORT_FAILOVER (R414). -/
  | pciePortFailover
  /-- HOST_WINDOW_ACCESS (R416). -/
  | hostWindowAccess
  /-- NOTE_WRITE (R417). -/
  | noteWrite
  /-- MAILBOX_GO (R418). -/
  | mailboxGo
  /-- MAILBOX_READY_CLEAR (R418). -/
  | mailboxReadyClear
  /-- FRAME_SET (R420). -/
  | frameSet
  /-- QUEUE_BIND (R420). -/
  | queueBind
  /-- FUNC_BIND (R420). -/
  | funcBind
  /-- HART_BIND (R420). -/
  | hartBind
  /-- PART_READ (R420). -/
  | partRead
  /-- CREW_LOAD (R420). -/
  | crewLoad
  /-- CREW_START (R424). -/
  | crewStart
  /-- PILOT_LOAD (R420). -/
  | pilotLoad
  /-- PILOT_STAGE (R420). -/
  | pilotStage
  /-- UNDOCK (R428). -/
  | undock
  /-- UNDOCK_STATUS (R420). -/
  | undockStatus
  /-- LOG_READ (R420). -/
  | logRead
  /-- GET_VERSION (R423). -/
  | getVersion
  /-- GET_CAPABILITIES (R423). -/
  | getCapabilities
  /-- NEGOTIATE_ALGORITHMS (R423). -/
  | negotiateAlgorithms
  /-- GET_DIGESTS (R423). -/
  | getDigests
  /-- GET_CERTIFICATE (R423). -/
  | getCertificate
  /-- CHALLENGE (R423). -/
  | challenge
  /-- GET_MEASUREMENTS (R423). -/
  | getMeasurements
  /-- KEY_EXCHANGE (R423). -/
  | keyExchange
  /-- FINISH (R423). -/
  | finish
  /-- POWER_CAP_SET (R432). -/
  | powerCapSet
  /-- CLOCK_STEP_RAISE (R432). -/
  | clockStepRaise
  /-- CLOCK_STEP_LOWER (R432). -/
  | clockStepLower
  /-- OVER_TEMPERATURE (R432). -/
  | overTemperature
  /-- IDENTITY_STORE_READ (R431). -/
  | identityStoreRead
  /-- PILOT_BANK_ACTIVATE (R425). -/
  | pilotBankActivate
  /-- POWER_ON (R426). -/
  | powerOn
  /-- MANAGEMENT_TAKEOVER (R427). -/
  | managementTakeover
  /-- UNDOCK_BUDGET_EXPIRE (R429). -/
  | undockBudgetExpire
  /-- LATCH_FORCED_OPEN (R429). -/
  | latchForcedOpen
  /-- REGISTER_WRITE (R242). -/
  | registerWrite
  /-- INSTRUCTION_FETCH_FAULT (R62). -/
  | instructionFetchFault
  /-- STORED_DATA_ERROR (R278). -/
  | storedDataError
  /-- FABRIC_LANE_FAILURE (R380). -/
  | fabricLaneFailure
deriving DecidableEq, Repr

/-- The rows of the opcode table that are operations or events of the device and have no encoding of their own. -/
def Instr.isEvent : Instr → Bool
  | .nonInstructionWord .. => true
  | .launchPortWrite => true
  | .qabort => true
  | .qctlHaltedClear => true
  | .gangPlacement => true
  | .schedulerReservation => true
  | .preemptSelection => true
  | .coresidentPreemptSelection => true
  | .gangResume => true
  | .laneGroupIssue => true
  | .trapEntry => true
  | .trapReport => true
  | .tresResume => true
  | .tresTakeTrap => true
  | .tresEnd => true
  | .timerCompare => true
  | .homeAccess => true
  | .scrubError => true
  | .remoteAtomicArrival => true
  | .loadElementArrival => true
  | .streamDispatch => true
  | .streamGranule => true
  | .nbRetire => true
  | .efactResume => true
  | .efactAbandon => true
  | .matrixQueueExecute => true
  | .matrixWaitlistExpire => true
  | .berthAgeing => true
  | .refreshSlotEnd => true
  | .wfracWrite => true
  | .pushArrival => true
  | .pushRetry => true
  | .pushReservationExpire => true
  | .migrationStart => true
  | .migrationFree => true
  | .migrationLineMove => true
  | .frameClassChange => true
  | .dieFlitReceive => true
  | .wavelengthRetrainTrigger => true
  | .wlctlForce => true
  | .wlctlOffSet => true
  | .wlctlOffClear => true
  | .wavelengthFlitBoundary => true
  | .wavelengthTrainingDone => true
  | .linkTableUpdate => true
  | .fabricPacketReceive => true
  | .transportResend => true
  | .requestTimeout => true
  | .grantCrcCheck => true
  | .portGroupResetDone => true
  | .portGroupLost => true
  | .machineFault => true
  | .chunkMark => true
  | .collectiveRecompute => true
  | .collectiveTimeout => true
  | .groupDisable => true
  | .pciePortFailover => true
  | .hostWindowAccess => true
  | .noteWrite => true
  | .mailboxGo => true
  | .mailboxReadyClear => true
  | .frameSet => true
  | .queueBind => true
  | .funcBind => true
  | .hartBind => true
  | .partRead => true
  | .crewLoad => true
  | .crewStart => true
  | .pilotLoad => true
  | .pilotStage => true
  | .undock => true
  | .undockStatus => true
  | .logRead => true
  | .getVersion => true
  | .getCapabilities => true
  | .negotiateAlgorithms => true
  | .getDigests => true
  | .getCertificate => true
  | .challenge => true
  | .getMeasurements => true
  | .keyExchange => true
  | .finish => true
  | .powerCapSet => true
  | .clockStepRaise => true
  | .clockStepLower => true
  | .overTemperature => true
  | .identityStoreRead => true
  | .pilotBankActivate => true
  | .powerOn => true
  | .managementTakeover => true
  | .undockBudgetExpire => true
  | .latchForcedOpen => true
  | .registerWrite => true
  | .instructionFetchFault => true
  | .storedDataError => true
  | .fabricLaneFailure => true
  | _ => false

end Sys2Proof
end

