-- ==== Sys2Proof/WellFormed.lean ====
section
/-! DEFINITION. Which operands an instruction's entry accepts, as far as the instruction word alone shows it (R60, R438).
A word whose operands are not well-formed is no instruction. -/

namespace Sys2Proof

/-- A scope that orders nothing is written as the hart's (R324). -/
def Ord.wf (o : Ord) : Bool := o.aq || o.rl || o.sc == .hart

/-- The pass-queue operand takes no replicate modifier and names no register (R42, R50). -/
def VBin.wf (o : VBin) : Bool := !o.q || (o.a.rep == .none && o.a.v == 0)

/-- The tags between which FCVT converts (R59). -/
def Tag.scalarOk : Tag → Bool
  | .si32 | .si64 | .ui32 | .ui64 | .bf16 | .fp16 | .fp32 | .fp64 => true
  | _ => false

/-- The decode rules of the instruction entries (R60). -/
def Instr.wf : Instr → Bool
  -- LD with FN[2] = 1 and size 11 (R45)
  | .ld _ _ _ sz zx => !(zx && sz == 3)
  | .amo _ _ _ _ _ o _ | .cas _ _ _ _ o _ | .binc _ _ _ _ o _ => o.wf
  | .fcvt _ dst src _ _ _ => dst.scalarOk && src.scalarOk
  | .qfence _ _ qs => qs != 0
  | .claim _ xd xa => !(xd == xa && xd != 0)
  | .tinv _ _ all t _ _ => !all || t == 0
  | .clset _ cls _ _ _ => cls != 3
  | .vadd _ _ o _ _ | .vsub _ _ o _ _ | .vmin _ _ o _ _ | .vmax _ _ o _ _ | .vmul _ _ o _ _ | .vdiv _ _ o _ _ => o.wf
  | .vmulh _ _ o | .vand _ _ o | .vor _ _ o | .vxor _ _ o | .vshl _ _ o | .vshr _ _ o | .vsha _ _ o | .vrot _ _ o => o.wf
  | .vrem _ _ o _ => o.wf
  | .vfma _ _ o _ _ _ | .vfms _ _ o _ _ _ | .vfnma _ _ o _ _ _ => o.wf
  | .vbitil _ k3 _ _ _ vc => k3 || vc == 0
  | .vbitdl _ k3 _ _ jx => if k3 then jx != 3 else jx.toNat < 2
  | .vldw _ _ _ _ t => !t.nb
  | .pref _ _ _ t => !t.nb && t.tc == 0
  | .vst _ _ _ t | .vstP _ _ _ _ t | .vsts _ _ _ _ t | .vsct _ _ _ _ _ t | .vsctCl _ _ _ _ _ t => !t.lu
  | .vamo _ _ _ _ _ _ _ o t | .vcas _ _ _ _ _ o t | .vbinc _ _ _ _ _ o t => o.wf && !t.lu
  | .vstm _ _ xa r t => !t.lu && xa != 0 && xa.toNat + r.toNat ≤ 63
  | .strm2d _ _ _ xb _ _ _ _ => xb != 0 && xb.toNat ≤ 60
  | .waitK _ t mask _ xa => mask != 0 && (t || xa == 0)
  | .ccwait _ t _ _ _ xb => t || xb == 0
  | .mma _ _ _ _ ms _ _ _ _ scl => scl || ms == 0
  | .mepi _ _ _ vb vs _ _ _ act scl bia => act != 3 && (scl || vs == 0) && (bia || vb == 0)
  | .wsld _ xd xa xb _ => xd != 0 && xa != 0 && xb != 0 && xd != xa && xd != xb && xa != xb
  | .collArM _ _ _ _ xb _ _ | .collRsM _ _ _ _ xb _ _ => xb.toNat ≤ 62
  | .collAgM _ _ _ xb _ _ | .collBcM _ _ _ xb _ _ => xb.toNat ≤ 62
  | .collSrs _ _ _ xb _ _ => xb.toNat ≤ 61
  | _ => true

end Sys2Proof
end

