-- ==== Sys2Proof/Decode.lean ====
section
/-! DEFINITION. Decoding an instruction word, and encoding one (R37 to R60). The decoder reads the operands that the
opcode map R58 and the formats R43 to R56 give, then refuses every word whose reserved or zero bits are set, whose guard
R40 forbids, or whose operands the entry refuses. -/

namespace Sys2Proof

/-- Why a word is no instruction (R60). -/
inductive DecodeError where
  | opcode | function | condition | mode | scope | replicate | reduction | tag | guard | reserved | operands | length
deriving DecidableEq, Repr

/-! ## Codes of the operand forms -/

/-- The code of a scope (R56). -/
def Scope.code : Scope → BitVec 3
  | .hart => 0 | .gang => 1 | .die => 2 | .pkg => 3 | .pod => 4
/-- The code of a condition (R57). -/
def Cond.code : Cond → BitVec 4
  | .eq => 0 | .ne => 1 | .lt => 2 | .ge => 3 | .ltu => 4 | .geu => 5
/-- The code of a predicate condition (R57). -/
def PCond.code : PCond → BitVec 4
  | .t => 0 | .f => 1 | .any => 2 | .none => 3
/-- The code of a floating-point condition (R57). -/
def FCond.code : FCond → BitVec 3
  | .eq => 0 | .ne => 1 | .lt => 2 | .le => 3 | .un => 4
/-- The code of a vector condition (R57). -/
def VCond.code : VCond → BitVec 3
  | .eq => 0 | .ne => 1 | .lt => 2 | .ge => 3 | .le => 4 | .gt => 5 | .un => 6
/-- The code of a reduction (R57). -/
def ROp.code : ROp → BitVec 3
  | .add => 0 | .min => 1 | .max => 2 | .and => 3 | .or => 4 | .xor => 5
/-- The code of an atomic operation (R57). -/
def AOp.code : AOp → BitVec 3
  | .add => 0 | .min => 1 | .max => 2 | .and => 3 | .or => 4 | .xor => 5 | .swap => 6
/-- The code of an atomic operation in a four-bit function field (R46). -/
def AOp.code4 (o : AOp) : BitVec 4 := 0#1 ++ o.code
/-- The code of a collective's reduction (R54). -/
def COp.code : COp → BitVec 3
  | .add => 0 | .min => 1 | .max => 2 | .blkAdd => 3
/-- The fields RM and RS of a replicate modifier (R50). -/
def Rep.code : Rep → BitVec 4
  | .none => 0b0000 | .e => 0b0100 | .s4 => 0b1000 | .s8 => 0b1001 | .s16 => 0b1010 | .s32 => 0b1011

/-- Reads a scope (R56). -/
def rScope (c : BitVec 3) : Except DecodeError Scope :=
  match c.toNat with
  | 0 => .ok .hart | 1 => .ok .gang | 2 => .ok .die | 3 => .ok .pkg | 4 => .ok .pod | _ => .error .scope
/-- Reads a condition; the two bits above it must be zero (R57). -/
def rCond (c : BitVec 4) (hi : BitVec 2) : Except DecodeError Cond :=
  if hi ≠ 0 then .error .condition else
  match c.toNat with
  | 0 => .ok .eq | 1 => .ok .ne | 2 => .ok .lt | 3 => .ok .ge | 4 => .ok .ltu | 5 => .ok .geu | _ => .error .condition
/-- Reads a predicate condition (R57). -/
def rPCond (c : BitVec 4) : Except DecodeError PCond :=
  match c.toNat with
  | 0 => .ok .t | 1 => .ok .f | 2 => .ok .any | 3 => .ok .none | _ => .error .condition
/-- Reads a floating-point condition (R57). -/
def rFCond (c : BitVec 3) : Except DecodeError FCond :=
  match c.toNat with
  | 0 => .ok .eq | 1 => .ok .ne | 2 => .ok .lt | 3 => .ok .le | 4 => .ok .un | _ => .error .condition
/-- Reads a vector condition (R57). -/
def rVCond (c : BitVec 6) : Except DecodeError VCond :=
  match c.toNat with
  | 0 => .ok .eq | 1 => .ok .ne | 2 => .ok .lt | 3 => .ok .ge | 4 => .ok .le | 5 => .ok .gt | 6 => .ok .un
  | _ => .error .condition
/-- Reads a reduction (R57). -/
def rROp (c : BitVec 6) : Except DecodeError ROp :=
  match c.toNat with
  | 0 => .ok .add | 1 => .ok .min | 2 => .ok .max | 3 => .ok .and | 4 => .ok .or | 5 => .ok .xor | _ => .error .function
/-- Reads an atomic operation (R57). -/
def rAOp (c : Nat) : Except DecodeError AOp :=
  match c with
  | 0 => .ok .add | 1 => .ok .min | 2 => .ok .max | 3 => .ok .and | 4 => .ok .or | 5 => .ok .xor | 6 => .ok .swap
  | _ => .error .function
/-- Reads a collective's reduction (R54). -/
def rCOp (c : BitVec 3) : Except DecodeError COp :=
  match c.toNat with
  | 0 => .ok .add | 1 => .ok .min | 2 => .ok .max | 3 => .ok .blkAdd | _ => .error .reduction
/-- Reads a tag (R72); an instruction word that carries a tag of its own takes an assigned code only (R59). -/
def rTag (c : BitVec 5) : Except DecodeError Tag :=
  match Tag.ofCode? c with
  | some t => .ok t
  | none => .error .tag
/-- Reads a replicate modifier (R50). -/
def rRep (c : BitVec 4) : Except DecodeError Rep :=
  match c.toNat with
  | 0b0000 => .ok .none | 0b0100 => .ok .e | 0b1000 => .ok .s4 | 0b1001 => .ok .s8 | 0b1010 => .ok .s16
  | 0b1011 => .ok .s32 | _ => .error .replicate

/-! ## Fields of a word -/

/-- The header's guard and wait mask (R38). -/
def gH (w : Word) : Hdr := ⟨w.extractLsb' 52 4, w.getLsbD 51, w.extractLsb' 43 8⟩
/-- The register field in bits [42:37]. -/
def f37 (w : Word) : BitVec 6 := w.extractLsb' 37 6
/-- The register field in bits [36:31]. -/
def f31 (w : Word) : BitVec 6 := w.extractLsb' 31 6
/-- The register field in bits [30:25]. -/
def f25 (w : Word) : BitVec 6 := w.extractLsb' 25 6
/-- The second source of the V3 format, bits [26:21] (R49). -/
def f21 (w : Word) : BitVec 6 := w.extractLsb' 21 6
/-- The predicate number in a register field; the two bits above it are checked as reserved bits (R42). -/
def low4 (f : BitVec 6) : BitVec 4 := f.extractLsb' 0 4
/-- The window number in a register field; the four bits above it are checked as reserved bits (R42). -/
def low2 (f : BitVec 6) : BitVec 2 := f.extractLsb' 0 2
/-- The function code in bits [24:19] (R43, R53 to R55). -/
def gFn (w : Word) : Nat := (w.extractLsb' 19 6).toNat
/-- The function code of the V3 format, bits [16:11] (R49). -/
def gFnV (w : Word) : BitVec 6 := w.extractLsb' 11 6
/-- The memory operand of the SI-M layout (R45). -/
def gMem (w : Word) : MemOp :=
  if w.getLsbD 30 then .indexed (f31 w) (w.extractLsb' 21 6) (w.extractLsb' 0 2)
  else .direct (f31 w) (w.extractLsb' 0 27)
/-- The tail of the VM format (R51). -/
def gTail (w : Word) : VmTail := ⟨w.extractLsb' 20 2, w.getLsbD 19, w.extractLsb' 16 3, w.getLsbD 15⟩
/-- The token an MX instruction sets (R53); a TOK without TV is caught as a reserved field. -/
def gTkM (w : Word) : Option (BitVec 3) := if w.getLsbD 12 then some (w.extractLsb' 9 3) else none
/-- The token a CL instruction sets (R54). -/
def gTkC (w : Word) : Option (BitVec 3) := if w.getLsbD 8 then some (w.extractLsb' 5 3) else none
/-- The ordering modifiers of the SI-A layout (R46). -/
def rOrdA (w : Word) : Except DecodeError Ord := do
  let sc ← rScope (w.extractLsb' 18 3); .ok ⟨sc, w.getLsbD 17, w.getLsbD 16⟩
/-- The ordering modifiers of a vector atomic (R327): SC in the format, AQ and RL in IMM6. -/
def rOrdV (w : Word) : Except DecodeError Ord := do
  let sc ← rScope (w.extractLsb' 12 3); .ok ⟨sc, w.getLsbD 2, w.getLsbD 3⟩
/-- The first vector source (R49). -/
def rVSrcA (w : Word) : Except DecodeError VSrc := do
  let r ← rRep (w.extractLsb' 27 4); .ok ⟨f31 w, r⟩
/-- The second vector source (R49). -/
def rVSrcB (w : Word) : Except DecodeError VSrc := do
  let r ← rRep (w.extractLsb' 17 4); .ok ⟨f21 w, r⟩
/-- The two vector sources and the pass-queue bit (R49, R50). -/
def rVBin (w : Word) : Except DecodeError VBin := do
  let a ← rVSrcA w; let b ← rVSrcB w; .ok ⟨w.getLsbD 7, a, b⟩

/-! ## Reading the operands, one definition per major opcode -/

/-- The instructions of major opcode 0x01 (R58). -/
def parse01 (w : Word) : Except DecodeError Instr :=
  match gFn w with
  | 0 => .ok (.add (gH w) (f37 w) (f31 w) (f25 w))
  | 1 => .ok (.sub (gH w) (f37 w) (f31 w) (f25 w))
  | 2 => .ok (.and (gH w) (f37 w) (f31 w) (f25 w))
  | 3 => .ok (.or (gH w) (f37 w) (f31 w) (f25 w))
  | 4 => .ok (.xor (gH w) (f37 w) (f31 w) (f25 w))
  | 5 => .ok (.andn (gH w) (f37 w) (f31 w) (f25 w))
  | 6 => .ok (.shl (gH w) (f37 w) (f31 w) (f25 w))
  | 7 => .ok (.shr (gH w) (f37 w) (f31 w) (f25 w))
  | 8 => .ok (.sha (gH w) (f37 w) (f31 w) (f25 w))
  | 9 => .ok (.rotl (gH w) (f37 w) (f31 w) (f25 w))
  | 10 => .ok (.min (gH w) (f37 w) (f31 w) (f25 w))
  | 11 => .ok (.max (gH w) (f37 w) (f31 w) (f25 w))
  | 12 => .ok (.minu (gH w) (f37 w) (f31 w) (f25 w))
  | 13 => .ok (.maxu (gH w) (f37 w) (f31 w) (f25 w))
  | 14 => .ok (.slt (gH w) (f37 w) (f31 w) (f25 w))
  | 15 => .ok (.sltu (gH w) (f37 w) (f31 w) (f25 w))
  | _ => .error .function

/-- The instructions of major opcode 0x02 (R58). -/
def parse02 (w : Word) : Except DecodeError Instr :=
  match gFn w with
  | 0 => .ok (.mul (gH w) (f37 w) (f31 w) (f25 w))
  | 1 => .ok (.mulh (gH w) (f37 w) (f31 w) (f25 w))
  | 2 => .ok (.mulhu (gH w) (f37 w) (f31 w) (f25 w))
  | 3 => .ok (.div (gH w) (f37 w) (f31 w) (f25 w))
  | 4 => .ok (.divu (gH w) (f37 w) (f31 w) (f25 w))
  | 5 => .ok (.rem (gH w) (f37 w) (f31 w) (f25 w))
  | 6 => .ok (.remu (gH w) (f37 w) (f31 w) (f25 w))
  | _ => .error .function

/-- The instructions of major opcode 0x03 (R58). -/
def parse03 (w : Word) : Except DecodeError Instr :=
  match gFn w with
  | 0 => .ok (.clz (gH w) (f37 w) (f31 w))
  | 1 => .ok (.ctz (gH w) (f37 w) (f31 w))
  | 2 => .ok (.popc (gH w) (f37 w) (f31 w))
  | 3 => .ok (.bext (gH w) (f37 w) (f31 w) (f25 w))
  | 4 => .ok (.bdep (gH w) (f37 w) (f31 w) (f25 w))
  | 5 => .ok (.brev (gH w) (f37 w) (f31 w))
  | _ => .error .function

/-- The instructions of major opcode 0x04 (R58). -/
def parse04 (w : Word) : Except DecodeError Instr :=
  match (w.extractLsb' 27 4).toNat with
  | 0 => .ok (.addImm (gH w) (f37 w) (f31 w) (w.extractLsb' 0 27))
  | 1 => .ok (.subImm (gH w) (f37 w) (f31 w) (w.extractLsb' 0 27))
  | 2 => .ok (.andImm (gH w) (f37 w) (f31 w) (w.extractLsb' 0 27))
  | 3 => .ok (.orImm (gH w) (f37 w) (f31 w) (w.extractLsb' 0 27))
  | 4 => .ok (.xorImm (gH w) (f37 w) (f31 w) (w.extractLsb' 0 27))
  | 5 => .ok (.andnImm (gH w) (f37 w) (f31 w) (w.extractLsb' 0 27))
  | 6 => .ok (.shlImm (gH w) (f37 w) (f31 w) (w.extractLsb' 0 27))
  | 7 => .ok (.shrImm (gH w) (f37 w) (f31 w) (w.extractLsb' 0 27))
  | 8 => .ok (.shaImm (gH w) (f37 w) (f31 w) (w.extractLsb' 0 27))
  | 9 => .ok (.rotlImm (gH w) (f37 w) (f31 w) (w.extractLsb' 0 27))
  | 10 => .ok (.minImm (gH w) (f37 w) (f31 w) (w.extractLsb' 0 27))
  | 11 => .ok (.maxImm (gH w) (f37 w) (f31 w) (w.extractLsb' 0 27))
  | 12 => .ok (.minuImm (gH w) (f37 w) (f31 w) (w.extractLsb' 0 27))
  | 13 => .ok (.maxuImm (gH w) (f37 w) (f31 w) (w.extractLsb' 0 27))
  | 14 => .ok (.sltImm (gH w) (f37 w) (f31 w) (w.extractLsb' 0 27))
  | 15 => .ok (.sltuImm (gH w) (f37 w) (f31 w) (w.extractLsb' 0 27))
  | _ => .error .function

/-- The instructions of major opcode 0x10 (R58). -/
def parse10 (w : Word) : Except DecodeError Instr :=
  .ok (.li (gH w) (f37 w) (w.extractLsb' 0 37))

/-- The instructions of major opcode 0x11 (R58). -/
def parse11 (w : Word) : Except DecodeError Instr :=
  .ok (.lih (gH w) (f37 w) (w.extractLsb' 0 27))

/-- The instructions of major opcode 0x12 (R58). -/
def parse12 (w : Word) : Except DecodeError Instr :=
  .ok (.lea (gH w) (f37 w) (gMem w))

/-- The instructions of major opcode 0x13 (R58). -/
def parse13 (w : Word) : Except DecodeError Instr :=
  match gFn w with
  | 0 => .ok (.pamk (gH w) (f37 w) (f31 w) (f25 w))
  | 1 => .ok (.pax (gH w) (f37 w) (f31 w))
  | _ => .error .function

/-- The instructions of major opcode 0x18 (R58). -/
def parse18 (w : Word) : Except DecodeError Instr :=
  (do let c ← rCond (w.extractLsb' 19 4) (w.extractLsb' 23 2); .ok (.cmp (gH w) c (low4 (f37 w)) (f31 w) (f25 w)))

/-- The instructions of major opcode 0x19 (R58). -/
def parse19 (w : Word) : Except DecodeError Instr :=
  match gFn w with
  | 0 => .ok (.pand (gH w) (low4 (f37 w)) (low4 (f31 w)) (low4 (f25 w)))
  | 1 => .ok (.por (gH w) (low4 (f37 w)) (low4 (f31 w)) (low4 (f25 w)))
  | 2 => .ok (.pxor (gH w) (low4 (f37 w)) (low4 (f31 w)) (low4 (f25 w)))
  | 3 => .ok (.pnot (gH w) (low4 (f37 w)) (low4 (f31 w)))
  | 4 => .ok (.pmov (gH w) (low4 (f37 w)) (low4 (f31 w)))
  | 5 => .ok (.pfirst (gH w) (low4 (f37 w)) (low4 (f31 w)))
  | 6 => .ok (.pcnt (gH w) (f37 w) (low4 (f31 w)))
  | 7 => .ok (.pset (gH w) (low4 (f37 w)) (f31 w))
  | _ => .error .function

/-- The instructions of major opcode 0x20 (R58). -/
def parse20 (w : Word) : Except DecodeError Instr :=
  (do let c ← rCond (w.extractLsb' 27 4) 0; .ok (.br (gH w) c (f37 w) (f31 w) (w.extractLsb' 0 27)))

/-- The instructions of major opcode 0x21 (R58). -/
def parse21 (w : Word) : Except DecodeError Instr :=
  (do let c ← rPCond (w.extractLsb' 27 4); .ok (.brp (gH w) c (low4 (f37 w)) (w.extractLsb' 0 27)))

/-- The instructions of major opcode 0x22 (R58). -/
def parse22 (w : Word) : Except DecodeError Instr :=
  .ok (.j (gH w) (w.extractLsb' 0 27))

/-- The instructions of major opcode 0x23 (R58). -/
def parse23 (w : Word) : Except DecodeError Instr :=
  .ok (.jal (gH w) (f37 w) (w.extractLsb' 0 27))

/-- The instructions of major opcode 0x24 (R58). -/
def parse24 (w : Word) : Except DecodeError Instr :=
  match (w.extractLsb' 27 4).toNat with
  | 0 => .ok (.jalr (gH w) (f37 w) (f31 w) (w.extractLsb' 0 27))
  | _ => .error .function

/-- The instructions of major opcode 0x28 (R58). -/
def parse28 (w : Word) : Except DecodeError Instr :=
  .ok (.ld (gH w) (f37 w) (gMem w) (w.extractLsb' 27 2) (w.getLsbD 29))

/-- The instructions of major opcode 0x29 (R58). -/
def parse29 (w : Word) : Except DecodeError Instr :=
  .ok (.st (gH w) (f37 w) (gMem w) (w.extractLsb' 27 2))

/-- The instructions of major opcode 0x2A (R58). -/
def parse2A (w : Word) : Except DecodeError Instr :=
  (do let op ← rAOp (w.extractLsb' 27 4).toNat; let o ← rOrdA w; .ok (.amo (gH w) op (f37 w) (f31 w) (w.extractLsb' 21 6) o (w.getLsbD 15)))

/-- The instructions of major opcode 0x2B (R58). -/
def parse2B (w : Word) : Except DecodeError Instr :=
  match (w.extractLsb' 27 4).toNat with
  | 0 => (do let o ← rOrdA w; .ok (.cas (gH w) (f37 w) (f31 w) (w.extractLsb' 21 6) o (w.getLsbD 15)))
  | 1 => (do let o ← rOrdA w; .ok (.binc (gH w) (f37 w) (f31 w) (w.extractLsb' 21 6) o (w.getLsbD 15)))
  | _ => .error .function

/-- The instructions of major opcode 0x2C (R58). -/
def parse2C (w : Word) : Except DecodeError Instr :=
  match gFn w with
  | 0 => .ok (.cclean (gH w) (f31 w) (f25 w))
  | 1 => .ok (.cflush (gH w) (f31 w) (f25 w))
  | _ => .error .function

/-- The instructions of major opcode 0x30 (R58). -/
def parse30 (sgl : Bool) (w : Word) : Except DecodeError Instr :=
  match (w.extractLsb' 22 3).toNat with
  | 0 => .ok (.fadd (gH w) sgl (f37 w) (f31 w) (f25 w) (w.extractLsb' 19 2))
  | 1 => .ok (.fsub (gH w) sgl (f37 w) (f31 w) (f25 w) (w.extractLsb' 19 2))
  | 2 => .ok (.fmul (gH w) sgl (f37 w) (f31 w) (f25 w) (w.extractLsb' 19 2))
  | 3 => .ok (.fdiv (gH w) sgl (f37 w) (f31 w) (f25 w) (w.extractLsb' 19 2))
  | 4 => .ok (.fmin (gH w) sgl (f37 w) (f31 w) (f25 w))
  | 5 => .ok (.fmax (gH w) sgl (f37 w) (f31 w) (f25 w))
  | 6 => .ok (.fsqrt (gH w) sgl (f37 w) (f31 w) (w.extractLsb' 19 2))
  | _ => .error .function

/-- The instructions of major opcode 0x32 (R58). -/
def parse32 (w : Word) : Except DecodeError Instr :=
  match gFn w with
  | 0 => .ok (.ffma (gH w) (w.getLsbD 6) (w.extractLsb' 7 2) (f37 w) (f31 w) (f25 w) (w.extractLsb' 0 6))
  | _ => .error .function

/-- The instructions of major opcode 0x33 (R58). -/
def parse33 (w : Word) : Except DecodeError Instr :=
  match gFn w with
  | 0 => (do let src ← rTag (w.extractLsb' 5 5); let dst ← rTag (w.extractLsb' 0 5); .ok (.fcvt (gH w) dst src (w.extractLsb' 10 2) (f37 w) (f31 w)))
  | 1 => (do let c ← rFCond (w.extractLsb' 0 3); .ok (.fcmp (gH w) c (w.getLsbD 3) (low4 (f37 w)) (f31 w) (f25 w)))
  | _ => .error .function

/-- The instructions of major opcode 0x38 (R58). -/
def parse38 (w : Word) : Except DecodeError Instr :=
  match (w.extractLsb' 27 4).toNat with
  | 0 => .ok (.csrr (gH w) (f37 w) (w.extractLsb' 0 12))
  | 1 => .ok (.csrw (gH w) (f37 w) (w.extractLsb' 0 12) (f31 w))
  | 2 => .ok (.csrs (gH w) (f37 w) (w.extractLsb' 0 12) (f31 w))
  | 3 => .ok (.csrc (gH w) (f37 w) (w.extractLsb' 0 12) (f31 w))
  | _ => .error .function

/-- The instructions of major opcode 0x39 (R58). -/
def parse39 (w : Word) : Except DecodeError Instr :=
  match gFn w with
  | 0 => (do let sc ← rScope (w.extractLsb' 16 3); .ok (.fenceSv (gH w).wm sc))
  | 1 => (do let sc ← rScope (w.extractLsb' 16 3); .ok (.fenceVs (gH w).wm sc))
  | 2 => (do let sc ← rScope (w.extractLsb' 16 3); .ok (.fenceVv (gH w).wm sc))
  | 3 => (do let sc ← rScope (w.extractLsb' 16 3); .ok (.fenceA (gH w).wm sc))
  | _ => .error .function

/-- The instructions of major opcode 0x3A (R58). -/
def parse3A (w : Word) : Except DecodeError Instr :=
  match gFn w with
  | 0 => (do let sc ← rScope (w.extractLsb' 16 3); .ok (.qfence (gH w).wm sc (w.extractLsb' 0 4)))
  | _ => .error .function

/-- The instructions of major opcode 0x3B (R58). -/
def parse3B (w : Word) : Except DecodeError Instr :=
  match gFn w with
  | 0 => .ok (.ecall (gH w).wm (w.extractLsb' 0 16))
  | 1 => .ok (.ebreak (gH w).wm (w.extractLsb' 0 16))
  | 2 => .ok (.tret (gH w).wm)
  | 3 => .ok (.wait (gH w).wm (f37 w) (f31 w))
  | _ => .error .function

/-- The instructions of major opcode 0x3C (R58). -/
def parse3C (w : Word) : Except DecodeError Instr :=
  match gFn w with
  | 0 => .ok (.lnch (gH w) (f37 w) (f31 w))
  | 1 => .ok (.claim (gH w) (f37 w) (f31 w))
  | 2 => (do let sc ← rScope (w.extractLsb' 16 3); .ok (.gbarArr (gH w) sc (f37 w)))
  | 3 => (do let sc ← rScope (w.extractLsb' 16 3); .ok (.gbarWait (gH w) sc (f31 w)))
  | 4 => .ok (.exit (gH w))
  | 5 => .ok (.yield (gH w) (f37 w))
  | 6 => (do let sc ← rScope (w.extractLsb' 16 3); .ok (.waitm (gH w) sc (f37 w) (f31 w) (f25 w) (w.extractLsb' 0 16)))
  | _ => .error .function

/-- The instructions of major opcode 0x3D (R58). -/
def parse3D (w : Word) : Except DecodeError Instr :=
  match gFn w with
  | 0 => (do let sc ← rScope (w.extractLsb' 16 3); .ok (.tinv (gH w).wm sc (w.getLsbD 6) (w.extractLsb' 0 6) (f31 w) (f25 w)))
  | 1 => .ok (.clset (gH w).wm (w.extractLsb' 0 2) (w.extractLsb' 8 6) (f37 w) (f31 w))
  | 2 => .ok (.bind (gH w).wm (w.extractLsb' 0 6) (f37 w) (f31 w))
  | _ => .error .function

/-- The instructions of major opcode 0x3E (R58). -/
def parse3E (w : Word) : Except DecodeError Instr :=
  match gFn w with
  | 0 => .ok (.vsave (gH w).wm (f37 w) (f31 w) (f25 w))
  | 1 => .ok (.vrest (gH w).wm (f37 w) (f31 w))
  | _ => .error .function

/-- The instructions of major opcode 0x40 (R58). -/
def parse40 (w : Word) : Except DecodeError Instr :=
  match gFn w with
  | 0 => .ok (.vcfg (gH w).wm (f37 w) (w.extractLsb' 0 2) (w.extractLsb' 2 2))
  | 1 => .ok (.setvl (gH w).wm (f37 w) (f31 w) (w.extractLsb' 0 5))
  | 2 => .ok (.setvh (gH w).wm (f37 w) (f31 w) (w.extractLsb' 0 5))
  | 3 => .ok (.vtag (gH w).wm (f37 w) (w.extractLsb' 0 5))
  | _ => .error .function

/-- The instructions of major opcode 0x41 (R58). -/
def parse41 (w : Word) : Except DecodeError Instr :=
  match (gFnV w).toNat with
  | 0 => (do let a ← rVSrcA w; .ok (.vmov (gH w) (f37 w) a))
  | 1 => (if w.getLsbD 2 then .ok (.vsliceInsert (gH w) (w.getLsbD 1) (f37 w) (f31 w) (f21 w)) else .ok (.vsliceExtract (gH w) (w.getLsbD 1) (f37 w) (f31 w) (f21 w)))
  | 2 => .ok (.vbcast (gH w) (f37 w) (f31 w))
  | 3 => .ok (.vxt (gH w) (f37 w) (f31 w) (f21 w))
  | 4 => .ok (.vins (gH w) (f37 w) (f31 w) (f21 w))
  | _ => .error .function

/-- The instructions of major opcode 0x42 (R58). -/
def parse42 (w : Word) : Except DecodeError Instr :=
  match (gFnV w).toNat with
  | 0 => (do let o ← rVBin w; .ok (.vadd (gH w) (f37 w) o (w.getLsbD 10) (w.extractLsb' 8 2)))
  | 1 => (do let o ← rVBin w; .ok (.vsub (gH w) (f37 w) o (w.getLsbD 10) (w.extractLsb' 8 2)))
  | 2 => (do let o ← rVBin w; .ok (.vmin (gH w) (f37 w) o (w.getLsbD 10) (w.extractLsb' 8 2)))
  | 3 => (do let o ← rVBin w; .ok (.vmax (gH w) (f37 w) o (w.getLsbD 10) (w.extractLsb' 8 2)))
  | 4 => (do let a ← rVSrcA w; .ok (.vabs (gH w) (f37 w) a (w.getLsbD 10) (w.extractLsb' 8 2)))
  | 5 => (do let a ← rVSrcA w; .ok (.vneg (gH w) (f37 w) a (w.getLsbD 10) (w.extractLsb' 8 2)))
  | _ => .error .function

/-- The instructions of major opcode 0x43 (R58). -/
def parse43 (w : Word) : Except DecodeError Instr :=
  match (gFnV w).toNat with
  | 0 => (do let o ← rVBin w; .ok (.vmul (gH w) (f37 w) o (w.getLsbD 10) (w.extractLsb' 8 2)))
  | 1 => (do let o ← rVBin w; .ok (.vmulh (gH w) (f37 w) o))
  | 2 => (do let o ← rVBin w; .ok (.vdiv (gH w) (f37 w) o (w.getLsbD 10) (w.extractLsb' 8 2)))
  | 3 => (do let o ← rVBin w; .ok (.vrem (gH w) (f37 w) o (w.getLsbD 10)))
  | _ => .error .function

/-- The instructions of major opcode 0x44 (R58). -/
def parse44 (w : Word) : Except DecodeError Instr :=
  match (gFnV w).toNat with
  | 0 => (do let a ← rVSrcA w; .ok (.vsqrt (gH w) (f37 w) a (w.getLsbD 10) (w.extractLsb' 8 2)))
  | 1 => (do let a ← rVSrcA w; .ok (.vrcp (gH w) (f37 w) a (w.getLsbD 10) (w.extractLsb' 8 2)))
  | 2 => (do let a ← rVSrcA w; .ok (.vrsq (gH w) (f37 w) a (w.getLsbD 10) (w.extractLsb' 8 2)))
  | _ => .error .function

/-- The instructions of major opcode 0x45 (R58). -/
def parse45 (w : Word) : Except DecodeError Instr :=
  match (gFnV w).toNat with
  | 0 => (do let o ← rVBin w; .ok (.vfma (gH w) (f37 w) o (w.extractLsb' 1 6) (w.getLsbD 10) (w.extractLsb' 8 2)))
  | 1 => (do let o ← rVBin w; .ok (.vfms (gH w) (f37 w) o (w.extractLsb' 1 6) (w.getLsbD 10) (w.extractLsb' 8 2)))
  | 2 => (do let o ← rVBin w; .ok (.vfnma (gH w) (f37 w) o (w.extractLsb' 1 6) (w.getLsbD 10) (w.extractLsb' 8 2)))
  | _ => .error .function

/-- The instructions of major opcode 0x46 (R58). -/
def parse46 (w : Word) : Except DecodeError Instr :=
  (do let a ← rVSrcA w; let b ← rVSrcB w; let c ← rVCond (gFnV w); .ok (.vcmp (gH w) c (low4 (f37 w)) a b))

/-- The instructions of major opcode 0x47 (R58). -/
def parse47 (w : Word) : Except DecodeError Instr :=
  match (gFnV w).toNat with
  | 0 => (do let o ← rVBin w; .ok (.vand (gH w) (f37 w) o))
  | 1 => (do let o ← rVBin w; .ok (.vor (gH w) (f37 w) o))
  | 2 => (do let o ← rVBin w; .ok (.vxor (gH w) (f37 w) o))
  | 3 => (do let a ← rVSrcA w; .ok (.vnot (gH w) (f37 w) a))
  | 4 => (do let o ← rVBin w; .ok (.vshl (gH w) (f37 w) o))
  | 5 => (do let o ← rVBin w; .ok (.vshr (gH w) (f37 w) o))
  | 6 => (do let o ← rVBin w; .ok (.vsha (gH w) (f37 w) o))
  | 7 => (do let o ← rVBin w; .ok (.vrot (gH w) (f37 w) o))
  | _ => .error .function

/-- The instructions of major opcode 0x48 (R58). -/
def parse48 (w : Word) : Except DecodeError Instr :=
  match (gFnV w).toNat with
  | 0 => (do let a ← rVSrcA w; .ok (.vclz (gH w) (f37 w) a))
  | 1 => (do let a ← rVSrcA w; .ok (.vpopc (gH w) (f37 w) a))
  | 2 => (do let a ← rVSrcA w; let b ← rVSrcB w; .ok (.vbitil (gH w) (w.getLsbD 8) (f37 w) a b (w.extractLsb' 1 6)))
  | 3 => (do let a ← rVSrcA w; .ok (.vbitdl (gH w) (w.getLsbD 8) (f37 w) a (w.extractLsb' 1 2)))
  | 4 => (do let a ← rVSrcA w; .ok (.vbrev (gH w) (f37 w) a))
  | _ => .error .function

/-- The instructions of major opcode 0x49 (R58). -/
def parse49 (w : Word) : Except DecodeError Instr :=
  (do let op ← rROp (gFnV w); .ok (.vred (gH w) op (f37 w) (f31 w) (w.getLsbD 10) (w.extractLsb' 8 2)))

/-- The instructions of major opcode 0x4A (R58). -/
def parse4A (w : Word) : Except DecodeError Instr :=
  (do let op ← rROp (gFnV w); .ok (.vscan (gH w) op (f37 w) (f31 w) (w.getLsbD 10) (w.extractLsb' 8 2)))

/-- The instructions of major opcode 0x4B (R58). -/
def parse4B (w : Word) : Except DecodeError Instr :=
  match (gFnV w).toNat with
  | 0 => .ok (.vmaxi (gH w) (f37 w) (f31 w) (f21 w) (w.extractLsb' 1 4))
  | 1 => .ok (.vmini (gH w) (f37 w) (f31 w) (f21 w) (w.extractLsb' 1 4))
  | _ => .error .function

/-- The instructions of major opcode 0x4C (R58). -/
def parse4C (w : Word) : Except DecodeError Instr :=
  match (gFnV w).toNat with
  | 0 => .ok (.vslideUp (gH w) (f37 w) (f31 w) (f21 w))
  | 1 => .ok (.vslideDn (gH w) (f37 w) (f31 w) (f21 w))
  | 2 => .ok (.vperm (gH w) (f37 w) (f31 w) (f21 w))
  | 3 => .ok (.vcompr (gH w) (f37 w) (f31 w))
  | 4 => .ok (.vexpd (gH w) (f37 w) (f31 w))
  | 5 => .ok (.viota (gH w) (f37 w) (low4 (f31 w)))
  | 6 => .ok (.vtrans (gH w) (f37 w) (f31 w))
  | _ => .error .function

/-- The instructions of major opcode 0x4D (R58). -/
def parse4D (w : Word) : Except DecodeError Instr :=
  match (gFnV w).toNat with
  | 0 => (do let a ← rVSrcA w; .ok (.vcvt (gH w) (f37 w) a (w.getLsbD 10) (w.extractLsb' 8 2)))
  | 1 => .ok (.vqnt (gH w) (f37 w) (f31 w) (f21 w) (w.extractLsb' 8 2))
  | 2 => .ok (.vdqnt (gH w) (f37 w) (f31 w) (f21 w) (w.getLsbD 10) (w.extractLsb' 8 2))
  | _ => .error .function

/-- The instructions of major opcode 0x4E (R58). -/
def parse4E (w : Word) : Except DecodeError Instr :=
  match (gFnV w).toNat with
  | 0 => (do let a ← rVSrcA w; let b ← rVSrcB w; .ok (.vsel (gH w) (f37 w) a b (w.extractLsb' 1 4)))
  | _ => .error .function

/-- The instructions of major opcode 0x4F (R58). -/
def parse4F (w : Word) : Except DecodeError Instr :=
  match (gFnV w).toNat with
  | 0 => (do let a ← rVSrcA w; .ok (.vexp2 (gH w) (f37 w) a (w.getLsbD 10) (w.extractLsb' 8 2)))
  | 1 => (do let a ← rVSrcA w; .ok (.vlog2 (gH w) (f37 w) a (w.getLsbD 10) (w.extractLsb' 8 2)))
  | _ => .error .function

/-- The instructions of major opcode 0x50 (R58). -/
def parse50 (w : Word) : Except DecodeError Instr :=
  match (w.extractLsb' 6 6).toNat with
  | 0 => (match (w.extractLsb' 22 3).toNat with | 0 => .ok (.vld (gH w) (f37 w) (f31 w) (gTail w)) | 1 => .ok (.vldP (gH w) (f37 w) (f31 w) (f25 w) (gTail w)) | _ => .error .mode)
  | 1 => .ok (.vlds (gH w) (f37 w) (f31 w) (f25 w) (gTail w))
  | 2 => (match (w.extractLsb' 22 3).toNat with | 0 => .ok (.vgth (gH w) (f37 w) (f31 w) (f25 w) (w.extractLsb' 0 2) (gTail w)) | 1 => .ok (.vgthCl (gH w) (f37 w) (f31 w) (f25 w) (w.extractLsb' 0 2) (gTail w)) | _ => .error .mode)
  | 3 => .ok (.vldw (gH w) (f37 w) (f31 w) (f25 w) (gTail w))
  | 4 => .ok (.pref (gH w) (f31 w) (f25 w) (gTail w))
  | _ => .error .function

/-- The instructions of major opcode 0x51 (R58). -/
def parse51 (w : Word) : Except DecodeError Instr :=
  match (w.extractLsb' 6 6).toNat with
  | 0 => (match (w.extractLsb' 22 3).toNat with | 0 => .ok (.vst (gH w) (f37 w) (f31 w) (gTail w)) | 1 => .ok (.vstP (gH w) (f37 w) (f31 w) (f25 w) (gTail w)) | _ => .error .mode)
  | 1 => .ok (.vsts (gH w) (f37 w) (f31 w) (f25 w) (gTail w))
  | 2 => (match (w.extractLsb' 22 3).toNat with | 0 => .ok (.vsct (gH w) (f37 w) (f31 w) (f25 w) (w.extractLsb' 0 2) (gTail w)) | 1 => .ok (.vsctCl (gH w) (f37 w) (f31 w) (f25 w) (w.extractLsb' 0 2) (gTail w)) | _ => .error .mode)
  | _ => .error .function

/-- The instructions of major opcode 0x52 (R58). -/
def parse52 (w : Word) : Except DecodeError Instr :=
  match (w.extractLsb' 6 6).toNat with
  | 8 => (do let o ← rOrdV w; .ok (.vcas (gH w) (f37 w) (f31 w) (f25 w) (w.extractLsb' 0 2) o (gTail w)))
  | 9 => (do let o ← rOrdV w; .ok (.vbinc (gH w) (f37 w) (f31 w) (f25 w) (w.extractLsb' 0 2) o (gTail w)))
  | _ => (do let op ← rAOp (w.extractLsb' 6 6).toNat; let o ← rOrdV w; .ok (.vamo (gH w) op (w.getLsbD 4) (f37 w) (f31 w) (f25 w) (w.extractLsb' 0 2) o (gTail w)))

/-- The instructions of major opcode 0x53 (R58). -/
def parse53 (w : Word) : Except DecodeError Instr :=
  match (w.extractLsb' 6 6).toNat with
  | 0 => .ok (.vstm (gH w) (f37 w) (f31 w) (w.extractLsb' 0 2) (gTail w))
  | _ => .error .function

/-- The instructions of major opcode 0x54 (R58). -/
def parse54 (w : Word) : Except DecodeError Instr :=
  match (w.extractLsb' 6 6).toNat with
  | 0 => (do let sc ← rScope (w.extractLsb' 12 3); .ok (.vpush (gH w).wm sc (f37 w) (f31 w) (w.extractLsb' 16 3) (w.getLsbD 15)))
  | 1 => (do let sc ← rScope (w.extractLsb' 12 3); .ok (.vtake (gH w).wm sc (f37 w) (w.extractLsb' 0 6)))
  | 2 => (match (w.extractLsb' 22 3).toNat with | 0 => .ok (.vfesRd (gH w).wm (f25 w) (f37 w)) | 1 => .ok (.vfesClr (gH w).wm (f25 w) (f37 w)) | 2 => .ok (.vfesSet (gH w).wm (f25 w) (f37 w)) | _ => .error .mode)
  | _ => .error .function

/-- The instructions of major opcode 0x60 (R58). -/
def parse60 (w : Word) : Except DecodeError Instr :=
  match gFn w with
  | 0 => .ok (.strm (gH w) (f37 w) (f31 w) (f25 w) (w.getLsbD 6) (w.extractLsb' 4 2) (w.getLsbD 3) (w.extractLsb' 0 3))
  | 1 => .ok (.strm2d (gH w) (f37 w) (f31 w) (f25 w) (w.getLsbD 6) (w.extractLsb' 4 2) (w.getLsbD 3) (w.extractLsb' 0 3))
  | _ => .error .function

/-- The instructions of major opcode 0x61 (R58). -/
def parse61 (w : Word) : Except DecodeError Instr :=
  match gFn w with
  | 0 => .ok (.waitK (gH w).grd (w.getLsbD 8) (w.extractLsb' 0 8) (f37 w) (f31 w))
  | _ => .error .function

/-- The instructions of major opcode 0x62 (R58). -/
def parse62 (w : Word) : Except DecodeError Instr :=
  match gFn w with
  | 0 => .ok (.ccwait (gH w).grd (w.getLsbD 3) (w.extractLsb' 0 3) (f37 w) (f31 w) (f25 w))
  | 1 => (if w.getLsbD 3 then .ok (.ccrdClr (gH w).grd (w.extractLsb' 0 3) (f37 w)) else .ok (.ccrd (gH w).grd (w.extractLsb' 0 3) (f37 w)))
  | _ => .error .function

/-- The instructions of major opcode 0x63 (R58). -/
def parse63 (w : Word) : Except DecodeError Instr :=
  match gFn w with
  | 0 => .ok (.wopen (gH w) (low2 (f37 w)) (f31 w) (f25 w))
  | 1 => .ok (.wclose (gH w) (low2 (f37 w)))
  | 2 => .ok (.winv (gH w) (low2 (f37 w)))
  | _ => .error .function

/-- The instructions of major opcode 0x68 (R58). -/
def parse68 (w : Word) : Except DecodeError Instr :=
  match gFn w with
  | 0 => .ok (.matt (gH w) (f37 w) (f31 w))
  | 1 => .ok (.mdet (gH w))
  | _ => .error .function

/-- The instructions of major opcode 0x69 (R58). -/
def parse69 (w : Word) : Except DecodeError Instr :=
  match gFn w with
  | 0 => .ok (.munf (gH w) (f31 w))
  | _ => .error .function

/-- The instructions of major opcode 0x6A (R58). -/
def parse6A (w : Word) : Except DecodeError Instr :=
  match gFn w with
  | 0 => .ok (.mma (gH w) (f37 w) (f31 w) (f25 w) (w.extractLsb' 13 6) (gTkM w) (w.getLsbD 8) (w.getLsbD 7) (w.getLsbD 6) (w.getLsbD 0))
  | _ => .error .function

/-- The instructions of major opcode 0x6B (R58). -/
def parse6B (w : Word) : Except DecodeError Instr :=
  match gFn w with
  | 0 => .ok (.maccLd (gH w) (f37 w) (f31 w) (f25 w) (gTkM w))
  | 1 => .ok (.maccSt (gH w) (f37 w) (f31 w) (f25 w) (gTkM w))
  | 2 => .ok (.maccZ (gH w) (f37 w) (gTkM w) (w.getLsbD 0))
  | _ => .error .function

/-- The instructions of major opcode 0x6C (R58). -/
def parse6C (w : Word) : Except DecodeError Instr :=
  match gFn w with
  | 0 => .ok (.mepi (gH w) (f37 w) (f31 w) (f25 w) (w.extractLsb' 13 6) (gTkM w) (w.getLsbD 6) (w.extractLsb' 4 2) (w.extractLsb' 0 2) (w.getLsbD 2) (w.getLsbD 3))
  | _ => .error .function

/-- The instructions of major opcode 0x6D (R58). -/
def parse6D (w : Word) : Except DecodeError Instr :=
  match gFn w with
  | 0 => .ok (.wsld (gH w) (f37 w) (f31 w) (f25 w) (gTkM w))
  | 1 => (match (w.extractLsb' 0 2).toNat with | 0 => .ok (.wsberthGet (gH w) (f37 w) (f31 w)) | 1 => .ok (.wsberthRdy (gH w) (f37 w) (f31 w)) | 2 => .ok (.wsberthDrop (gH w) (f37 w) (f31 w)) | _ => .error .function)
  | _ => .error .function

/-- The instructions of major opcode 0x70 (R58). -/
def parse70 (w : Word) : Except DecodeError Instr :=
  match gFn w with
  | 0 => (if w.getLsbD 9 then (do let op ← rCOp (w.extractLsb' 10 3); .ok (.collArM (gH w).wm op (f37 w) (f31 w) (f25 w) (w.extractLsb' 13 6) (gTkC w))) else (do let op ← rCOp (w.extractLsb' 10 3); .ok (.collArV (gH w).wm op (f37 w) (f31 w) (f25 w) (w.extractLsb' 13 6) (gTkC w))))
  | 1 => (if w.getLsbD 9 then (do let op ← rCOp (w.extractLsb' 10 3); .ok (.collRsM (gH w).wm op (f37 w) (f31 w) (f25 w) (w.extractLsb' 13 6) (gTkC w))) else (do let op ← rCOp (w.extractLsb' 10 3); .ok (.collRsV (gH w).wm op (f37 w) (f31 w) (f25 w) (w.extractLsb' 13 6) (gTkC w))))
  | 2 => (if w.getLsbD 9 then .ok (.collAgM (gH w).wm (f37 w) (f31 w) (f25 w) (w.extractLsb' 13 6) (gTkC w)) else .ok (.collAgV (gH w).wm (f37 w) (f31 w) (f25 w) (w.extractLsb' 13 6) (gTkC w)))
  | 3 => (if w.getLsbD 9 then .ok (.collBcM (gH w).wm (f37 w) (f31 w) (f25 w) (w.extractLsb' 13 6) (gTkC w)) else .ok (.collBcV (gH w).wm (f37 w) (f31 w) (f25 w) (w.extractLsb' 13 6) (gTkC w)))
  | 4 => .ok (.collSrs (gH w).wm (f37 w) (f31 w) (f25 w) (w.extractLsb' 13 6) (gTkC w))
  | _ => .error .function

/-- The instructions of major opcode 0x71 (R58). -/
def parse71 (w : Word) : Except DecodeError Instr :=
  match gFn w with
  | 0 => .ok (.collBar (gH w).wm (f25 w) (w.extractLsb' 13 6) (gTkC w))
  | 1 => .ok (.collWait (gH w).wm (f37 w) (f31 w) (w.extractLsb' 13 6))
  | 2 => (if w.getLsbD 9 then .ok (.collStatClr (gH w).wm (f37 w) (f31 w) (w.extractLsb' 13 6)) else .ok (.collStat (gH w).wm (f37 w) (f31 w) (w.extractLsb' 13 6)))
  | _ => .error .function

/-- Reads the operands of a word, before the checks of reserved bits and of operand values (R58). -/
def parse (w : Word) : Except DecodeError Instr :=
  match (w.extractLsb' 56 8).toNat with
  | 0x01 => parse01 w
  | 0x02 => parse02 w
  | 0x03 => parse03 w
  | 0x04 => parse04 w
  | 0x10 => parse10 w
  | 0x11 => parse11 w
  | 0x12 => parse12 w
  | 0x13 => parse13 w
  | 0x18 => parse18 w
  | 0x19 => parse19 w
  | 0x20 => parse20 w
  | 0x21 => parse21 w
  | 0x22 => parse22 w
  | 0x23 => parse23 w
  | 0x24 => parse24 w
  | 0x28 => parse28 w
  | 0x29 => parse29 w
  | 0x2A => parse2A w
  | 0x2B => parse2B w
  | 0x2C => parse2C w
  | 0x30 => parse30 false w
  | 0x31 => parse30 true w
  | 0x32 => parse32 w
  | 0x33 => parse33 w
  | 0x38 => parse38 w
  | 0x39 => parse39 w
  | 0x3A => parse3A w
  | 0x3B => parse3B w
  | 0x3C => parse3C w
  | 0x3D => parse3D w
  | 0x3E => parse3E w
  | 0x40 => parse40 w
  | 0x41 => parse41 w
  | 0x42 => parse42 w
  | 0x43 => parse43 w
  | 0x44 => parse44 w
  | 0x45 => parse45 w
  | 0x46 => parse46 w
  | 0x47 => parse47 w
  | 0x48 => parse48 w
  | 0x49 => parse49 w
  | 0x4A => parse4A w
  | 0x4B => parse4B w
  | 0x4C => parse4C w
  | 0x4D => parse4D w
  | 0x4E => parse4E w
  | 0x4F => parse4F w
  | 0x50 => parse50 w
  | 0x51 => parse51 w
  | 0x52 => parse52 w
  | 0x53 => parse53 w
  | 0x54 => parse54 w
  | 0x60 => parse60 w
  | 0x61 => parse61 w
  | 0x62 => parse62 w
  | 0x63 => parse63 w
  | 0x68 => parse68 w
  | 0x69 => parse69 w
  | 0x6A => parse6A w
  | 0x6B => parse6B w
  | 0x6C => parse6C w
  | 0x6D => parse6D w
  | 0x70 => parse70 w
  | 0x71 => parse71 w
  | _ => .error .opcode


/-! ## Encoding -/

/-- The 21 bits of the header (R38). -/
def encHead (op : BitVec 8) (g : Hdr) : BitVec 21 := op ++ g.pg ++ BitVec.ofBool g.pn ++ g.wm
/-- A predicate number in a six-bit register field (R42). -/
def pfield (p : PReg) : BitVec 6 := 0#2 ++ p
/-- The S3 format (R43). -/
def encS3 (op : BitVec 8) (g : Hdr) (d a b fn : BitVec 6) : Word := encHead op g ++ d ++ a ++ b ++ fn ++ 0#19
/-- The SI format (R44); the B format has the same fields (R48). -/
def encSI (op : BitVec 8) (g : Hdr) (d a : BitVec 6) (fn : BitVec 4) (imm : BitVec 27) : Word :=
  encHead op g ++ d ++ a ++ fn ++ imm
/-- The SI-M layout (R45). -/
def encMem (op : BitVec 8) (g : Hdr) (d : BitVec 6) (m : MemOp) (zx : Bool) (sz : BitVec 2) : Word :=
  match m with
  | .direct xa imm => encSI op g d xa (0#1 ++ BitVec.ofBool zx ++ sz) imm
  | .indexed xa xb s => encSI op g d xa (1#1 ++ BitVec.ofBool zx ++ sz) (xb ++ 0#19 ++ s)
/-- The SL format (R47). -/
def encSL (op : BitVec 8) (g : Hdr) (d : BitVec 6) (imm : BitVec 37) : Word := encHead op g ++ d ++ imm
/-- The V3 format (R49). -/
def encV3 (op : BitVec 8) (g : Hdr) (d va : BitVec 6) (ra : BitVec 4) (vb : BitVec 6) (rb : BitVec 4) (fn : BitVec 6)
    (sat : Bool) (rnd : BitVec 2) (q : Bool) (aux : BitVec 6) : Word :=
  encHead op g ++ d ++ va ++ ra ++ vb ++ rb ++ fn ++ BitVec.ofBool sat ++ rnd ++ BitVec.ofBool q ++ aux ++ 0#1
/-- The VM format (R51). -/
def encVM (op : BitVec 8) (g : Hdr) (d a b : BitVec 6) (mode : BitVec 3) (t : VmTail) (sc : BitVec 3) (fn imm : BitVec 6) :
    Word :=
  encHead op g ++ d ++ a ++ b ++ mode ++ t.evp ++ BitVec.ofBool t.lu ++ t.tc ++ BitVec.ofBool t.nb ++ sc ++ fn ++ imm
/-- The fields TV and TOK (R53). -/
def encTk : Option (BitVec 3) → BitVec 4
  | none => 0
  | some k => 1#1 ++ k
/-- The MX format (R53). -/
def encMX (op : BitVec 8) (g : Hdr) (d a b fn ms : BitVec 6) (tk : Option (BitVec 3)) (asrc bsrc sat : Bool)
    (rnd : BitVec 2) (imm : BitVec 4) : Word :=
  encHead op g ++ d ++ a ++ b ++ fn ++ ms ++ encTk tk ++ BitVec.ofBool asrc ++ BitVec.ofBool bsrc ++ BitVec.ofBool sat
    ++ rnd ++ imm
/-- The CL format (R54). -/
def encCL (op : BitVec 8) (g : Hdr) (d a b fn grp : BitVec 6) (rop : BitVec 3) (mem : Bool) (tk : Option (BitVec 3)) :
    Word :=
  encHead op g ++ d ++ a ++ b ++ fn ++ grp ++ rop ++ BitVec.ofBool mem ++ encTk tk ++ 0#5
/-- The SY format (R55). -/
def encSY (op : BitVec 8) (g : Hdr) (d a b fn : BitVec 6) (sc : BitVec 3) (imm : BitVec 16) : Word :=
  encHead op g ++ d ++ a ++ b ++ fn ++ sc ++ imm

/-- The instruction word of an encoded instruction (R43 to R59). An event has no word of its own: it answers 0, which
is no instruction (R60); a refused word answers itself. -/
def encode : Instr → Word
  | .add g xd xa xb => encS3 0x01 g xd xa xb 0
  | .addImm g xd xa imm => encSI 0x04 g xd xa 0 imm
  | .sub g xd xa xb => encS3 0x01 g xd xa xb 1
  | .subImm g xd xa imm => encSI 0x04 g xd xa 1 imm
  | .and g xd xa xb => encS3 0x01 g xd xa xb 2
  | .andImm g xd xa imm => encSI 0x04 g xd xa 2 imm
  | .or g xd xa xb => encS3 0x01 g xd xa xb 3
  | .orImm g xd xa imm => encSI 0x04 g xd xa 3 imm
  | .xor g xd xa xb => encS3 0x01 g xd xa xb 4
  | .xorImm g xd xa imm => encSI 0x04 g xd xa 4 imm
  | .andn g xd xa xb => encS3 0x01 g xd xa xb 5
  | .andnImm g xd xa imm => encSI 0x04 g xd xa 5 imm
  | .shl g xd xa xb => encS3 0x01 g xd xa xb 6
  | .shlImm g xd xa imm => encSI 0x04 g xd xa 6 imm
  | .shr g xd xa xb => encS3 0x01 g xd xa xb 7
  | .shrImm g xd xa imm => encSI 0x04 g xd xa 7 imm
  | .sha g xd xa xb => encS3 0x01 g xd xa xb 8
  | .shaImm g xd xa imm => encSI 0x04 g xd xa 8 imm
  | .rotl g xd xa xb => encS3 0x01 g xd xa xb 9
  | .rotlImm g xd xa imm => encSI 0x04 g xd xa 9 imm
  | .min g xd xa xb => encS3 0x01 g xd xa xb 10
  | .minImm g xd xa imm => encSI 0x04 g xd xa 10 imm
  | .max g xd xa xb => encS3 0x01 g xd xa xb 11
  | .maxImm g xd xa imm => encSI 0x04 g xd xa 11 imm
  | .minu g xd xa xb => encS3 0x01 g xd xa xb 12
  | .minuImm g xd xa imm => encSI 0x04 g xd xa 12 imm
  | .maxu g xd xa xb => encS3 0x01 g xd xa xb 13
  | .maxuImm g xd xa imm => encSI 0x04 g xd xa 13 imm
  | .slt g xd xa xb => encS3 0x01 g xd xa xb 14
  | .sltImm g xd xa imm => encSI 0x04 g xd xa 14 imm
  | .sltu g xd xa xb => encS3 0x01 g xd xa xb 15
  | .sltuImm g xd xa imm => encSI 0x04 g xd xa 15 imm
  | .mul g xd xa xb => encS3 0x02 g xd xa xb 0
  | .mulh g xd xa xb => encS3 0x02 g xd xa xb 1
  | .mulhu g xd xa xb => encS3 0x02 g xd xa xb 2
  | .div g xd xa xb => encS3 0x02 g xd xa xb 3
  | .divu g xd xa xb => encS3 0x02 g xd xa xb 4
  | .rem g xd xa xb => encS3 0x02 g xd xa xb 5
  | .remu g xd xa xb => encS3 0x02 g xd xa xb 6
  | .clz g xd xa => encS3 0x03 g xd xa 0 0
  | .ctz g xd xa => encS3 0x03 g xd xa 0 1
  | .popc g xd xa => encS3 0x03 g xd xa 0 2
  | .bext g xd xa xb => encS3 0x03 g xd xa xb 3
  | .bdep g xd xa xb => encS3 0x03 g xd xa xb 4
  | .brev g xd xa => encS3 0x03 g xd xa 0 5
  | .li g xd imm => encSL 0x10 g xd imm
  | .lih g xd imm => encSL 0x11 g xd (0#10 ++ imm)
  | .lea g xd m => encMem 0x12 g xd m false 0
  | .pamk g xd xa xb => encS3 0x13 g xd xa xb 0
  | .pax g xd xa => encS3 0x13 g xd xa 0 1
  | .cmp g c pd xa xb => encS3 0x18 g (pfield pd) xa xb (0#2 ++ c.code)
  | .pand g pd pa pb => encS3 0x19 g (pfield pd) (pfield pa) (pfield pb) 0
  | .por g pd pa pb => encS3 0x19 g (pfield pd) (pfield pa) (pfield pb) 1
  | .pxor g pd pa pb => encS3 0x19 g (pfield pd) (pfield pa) (pfield pb) 2
  | .pnot g pd pa => encS3 0x19 g (pfield pd) (pfield pa) 0 3
  | .pmov g pd pa => encS3 0x19 g (pfield pd) (pfield pa) 0 4
  | .pfirst g pd pa => encS3 0x19 g (pfield pd) (pfield pa) 0 5
  | .pcnt g xd pa => encS3 0x19 g xd (pfield pa) 0 6
  | .pset g pd xa => encS3 0x19 g (pfield pd) xa 0 7
  | .br g c xa xb ofs => encSI 0x20 g xa xb c.code ofs
  | .brp g c pa ofs => encSI 0x21 g (pfield pa) 0 c.code ofs
  | .j g ofs => encSI 0x22 g 0 0 0 ofs
  | .jal g xl ofs => encSI 0x23 g xl 0 0 ofs
  | .jalr g xd xa imm => encSI 0x24 g xd xa 0 imm
  | .ld g xd m sz zx => encMem 0x28 g xd m zx sz
  | .st g xs m sz => encMem 0x29 g xs m false sz
  | .amo g op xd xa xb o dbl => encSI 0x2A g xd xa op.code4 (xb ++ o.sc.code ++ BitVec.ofBool o.aq ++ BitVec.ofBool o.rl ++ BitVec.ofBool dbl ++ 0#15)
  | .cas g xd xa xb o dbl => encSI 0x2B g xd xa 0 (xb ++ o.sc.code ++ BitVec.ofBool o.aq ++ BitVec.ofBool o.rl ++ BitVec.ofBool dbl ++ 0#15)
  | .binc g xd xa xb o dbl => encSI 0x2B g xd xa 1 (xb ++ o.sc.code ++ BitVec.ofBool o.aq ++ BitVec.ofBool o.rl ++ BitVec.ofBool dbl ++ 0#15)
  | .cclean g xa xb => encS3 0x2C g 0 xa xb 0
  | .cflush g xa xb => encS3 0x2C g 0 xa xb 1
  | .fadd g sgl xd xa xb rnd => encS3 (if sgl then 0x31 else 0x30) g xd xa xb (0#3 ++ 0#1 ++ rnd)
  | .fsub g sgl xd xa xb rnd => encS3 (if sgl then 0x31 else 0x30) g xd xa xb (1#3 ++ 0#1 ++ rnd)
  | .fmul g sgl xd xa xb rnd => encS3 (if sgl then 0x31 else 0x30) g xd xa xb (2#3 ++ 0#1 ++ rnd)
  | .fdiv g sgl xd xa xb rnd => encS3 (if sgl then 0x31 else 0x30) g xd xa xb (3#3 ++ 0#1 ++ rnd)
  | .fmin g sgl xd xa xb => encS3 (if sgl then 0x31 else 0x30) g xd xa xb (4#3 ++ 0#1 ++ 0#2)
  | .fmax g sgl xd xa xb => encS3 (if sgl then 0x31 else 0x30) g xd xa xb (5#3 ++ 0#1 ++ 0#2)
  | .fsqrt g sgl xd xa rnd => encS3 (if sgl then 0x31 else 0x30) g xd xa 0 (6#3 ++ 0#1 ++ rnd)
  | .ffma g sgl rnd xd xa xb xc => encSY 0x32 g xd xa xb 0 0 (0#7 ++ rnd ++ BitVec.ofBool sgl ++ xc)
  | .fcvt g dst src rnd xd xa => encSY 0x33 g xd xa 0 0 0 (0#4 ++ rnd ++ src.code ++ dst.code)
  | .fcmp g c sgl pd xa xb => encSY 0x33 g (pfield pd) xa xb 1 0 (0#12 ++ BitVec.ofBool sgl ++ c.code)
  | .csrr g xd n => encSI 0x38 g xd 0 0 (0#15 ++ n)
  | .csrw g xd n xa => encSI 0x38 g xd xa 1 (0#15 ++ n)
  | .csrs g xd n xa => encSI 0x38 g xd xa 2 (0#15 ++ n)
  | .csrc g xd n xa => encSI 0x38 g xd xa 3 (0#15 ++ n)
  | .fenceSv wm sc => encSY 0x39 (.plain wm) 0 0 0 0 sc.code 0
  | .fenceVs wm sc => encSY 0x39 (.plain wm) 0 0 0 1 sc.code 0
  | .fenceVv wm sc => encSY 0x39 (.plain wm) 0 0 0 2 sc.code 0
  | .fenceA wm sc => encSY 0x39 (.plain wm) 0 0 0 3 sc.code 0
  | .qfence wm sc qs => encSY 0x3A (.plain wm) 0 0 0 0 sc.code (0#12 ++ qs)
  | .ecall wm imm => encSY 0x3B (.plain wm) 0 0 0 0 0 imm
  | .ebreak wm imm => encSY 0x3B (.plain wm) 0 0 0 1 0 imm
  | .tret wm => encSY 0x3B (.plain wm) 0 0 0 2 0 0
  | .wait wm xd xa => encSY 0x3B (.plain wm) xd xa 0 3 0 0
  | .lnch g xd xa => encSY 0x3C g xd xa 0 0 0 0
  | .claim g xd xa => encSY 0x3C g xd xa 0 1 0 0
  | .gbarArr g sc xd => encSY 0x3C g xd 0 0 2 sc.code 0
  | .gbarWait g sc xa => encSY 0x3C g 0 xa 0 3 sc.code 0
  | .exit g => encSY 0x3C g 0 0 0 4 0 0
  | .yield g xd => encSY 0x3C g xd 0 0 5 0 0
  | .waitm g sc xd xa xb imm => encSY 0x3C g xd xa xb 6 sc.code imm
  | .tinv wm sc all t xa xb => encSY 0x3D (.plain wm) 0 xa xb 0 sc.code (0#9 ++ BitVec.ofBool all ++ t)
  | .clset wm cls t xd xa => encSY 0x3D (.plain wm) xd xa 0 1 0 (0#2 ++ t ++ 0#6 ++ cls)
  | .bind wm t xd xa => encSY 0x3D (.plain wm) xd xa 0 2 0 (0#10 ++ t)
  | .vsave wm xd xa xb => encSY 0x3E (.plain wm) xd xa xb 0 0 0
  | .vrest wm xd xa => encSY 0x3E (.plain wm) xd xa 0 1 0 0
  | .vcfg wm xd regs blk => encSY 0x40 (.plain wm) xd 0 0 0 0 (0#12 ++ blk ++ regs)
  | .setvl wm xd xa t => encSY 0x40 (.plain wm) xd xa 0 1 0 (0#11 ++ t)
  | .setvh wm xd xa t => encSY 0x40 (.plain wm) xd xa 0 2 0 (0#11 ++ t)
  | .vtag wm vd t => encSY 0x40 (.plain wm) vd 0 0 3 0 (0#11 ++ t)
  | .vmov g vd a => encV3 0x41 g vd a.v a.rep.code 0 0 0 false 0 false 0
  | .vsliceExtract g col vd va xb => encV3 0x41 g vd va 0 xb 0 1 false 0 false (0#4 ++ 0#1 ++ BitVec.ofBool col)
  | .vsliceInsert g col vd va xb => encV3 0x41 g vd va 0 xb 0 1 false 0 false (0#4 ++ 1#1 ++ BitVec.ofBool col)
  | .vbcast g vd xa => encV3 0x41 g vd xa 0 0 0 2 false 0 false 0
  | .vxt g xd va xb => encV3 0x41 g xd va 0 xb 0 3 false 0 false 0
  | .vins g vd xa xb => encV3 0x41 g vd xa 0 xb 0 4 false 0 false 0
  | .vadd g vd o sat rnd => encV3 0x42 g vd o.a.v o.a.rep.code o.b.v o.b.rep.code 0 sat rnd o.q 0
  | .vsub g vd o sat rnd => encV3 0x42 g vd o.a.v o.a.rep.code o.b.v o.b.rep.code 1 sat rnd o.q 0
  | .vmin g vd o sat rnd => encV3 0x42 g vd o.a.v o.a.rep.code o.b.v o.b.rep.code 2 sat rnd o.q 0
  | .vmax g vd o sat rnd => encV3 0x42 g vd o.a.v o.a.rep.code o.b.v o.b.rep.code 3 sat rnd o.q 0
  | .vabs g vd a sat rnd => encV3 0x42 g vd a.v a.rep.code 0 0 4 sat rnd false 0
  | .vneg g vd a sat rnd => encV3 0x42 g vd a.v a.rep.code 0 0 5 sat rnd false 0
  | .vmul g vd o sat rnd => encV3 0x43 g vd o.a.v o.a.rep.code o.b.v o.b.rep.code 0 sat rnd o.q 0
  | .vmulh g vd o => encV3 0x43 g vd o.a.v o.a.rep.code o.b.v o.b.rep.code 1 false 0 o.q 0
  | .vdiv g vd o sat rnd => encV3 0x43 g vd o.a.v o.a.rep.code o.b.v o.b.rep.code 2 sat rnd o.q 0
  | .vrem g vd o sat => encV3 0x43 g vd o.a.v o.a.rep.code o.b.v o.b.rep.code 3 sat 0 o.q 0
  | .vsqrt g vd a sat rnd => encV3 0x44 g vd a.v a.rep.code 0 0 0 sat rnd false 0
  | .vrcp g vd a sat rnd => encV3 0x44 g vd a.v a.rep.code 0 0 1 sat rnd false 0
  | .vrsq g vd a sat rnd => encV3 0x44 g vd a.v a.rep.code 0 0 2 sat rnd false 0
  | .vfma g vd o vc sat rnd => encV3 0x45 g vd o.a.v o.a.rep.code o.b.v o.b.rep.code 0 sat rnd o.q vc
  | .vfms g vd o vc sat rnd => encV3 0x45 g vd o.a.v o.a.rep.code o.b.v o.b.rep.code 1 sat rnd o.q vc
  | .vfnma g vd o vc sat rnd => encV3 0x45 g vd o.a.v o.a.rep.code o.b.v o.b.rep.code 2 sat rnd o.q vc
  | .vcmp g c pd a b => encV3 0x46 g (pfield pd) a.v a.rep.code b.v b.rep.code (0#3 ++ c.code) false 0 false 0
  | .vand g vd o => encV3 0x47 g vd o.a.v o.a.rep.code o.b.v o.b.rep.code 0 false 0 o.q 0
  | .vor g vd o => encV3 0x47 g vd o.a.v o.a.rep.code o.b.v o.b.rep.code 1 false 0 o.q 0
  | .vxor g vd o => encV3 0x47 g vd o.a.v o.a.rep.code o.b.v o.b.rep.code 2 false 0 o.q 0
  | .vnot g vd a => encV3 0x47 g vd a.v a.rep.code 0 0 3 false 0 false 0
  | .vshl g vd o => encV3 0x47 g vd o.a.v o.a.rep.code o.b.v o.b.rep.code 4 false 0 o.q 0
  | .vshr g vd o => encV3 0x47 g vd o.a.v o.a.rep.code o.b.v o.b.rep.code 5 false 0 o.q 0
  | .vsha g vd o => encV3 0x47 g vd o.a.v o.a.rep.code o.b.v o.b.rep.code 6 false 0 o.q 0
  | .vrot g vd o => encV3 0x47 g vd o.a.v o.a.rep.code o.b.v o.b.rep.code 7 false 0 o.q 0
  | .vclz g vd a => encV3 0x48 g vd a.v a.rep.code 0 0 0 false 0 false 0
  | .vpopc g vd a => encV3 0x48 g vd a.v a.rep.code 0 0 1 false 0 false 0
  | .vbrev g vd a => encV3 0x48 g vd a.v a.rep.code 0 0 4 false 0 false 0
  | .vbitil g k3 vd a b vc => encV3 0x48 g vd a.v a.rep.code b.v b.rep.code 2 false (0#1 ++ BitVec.ofBool k3) false vc
  | .vbitdl g k3 vd a jx => encV3 0x48 g vd a.v a.rep.code 0 0 3 false (0#1 ++ BitVec.ofBool k3) false (0#4 ++ jx)
  | .vred g op vd va sat rnd => encV3 0x49 g vd va 0 0 0 (0#3 ++ op.code) sat rnd false 0
  | .vscan g op vd va sat rnd => encV3 0x4A g vd va 0 0 0 (0#3 ++ op.code) sat rnd false 0
  | .vmaxi g vd va xb pm => encV3 0x4B g vd va 0 xb 0 0 false 0 false (0#2 ++ pm)
  | .vmini g vd va xb pm => encV3 0x4B g vd va 0 xb 0 1 false 0 false (0#2 ++ pm)
  | .vslideUp g vd va xb => encV3 0x4C g vd va 0 xb 0 0 false 0 false 0
  | .vslideDn g vd va xb => encV3 0x4C g vd va 0 xb 0 1 false 0 false 0
  | .vperm g vd va vb => encV3 0x4C g vd va 0 vb 0 2 false 0 false 0
  | .vcompr g vd va => encV3 0x4C g vd va 0 0 0 3 false 0 false 0
  | .vexpd g vd va => encV3 0x4C g vd va 0 0 0 4 false 0 false 0
  | .viota g vd pa => encV3 0x4C g vd (pfield pa) 0 0 0 5 false 0 false 0
  | .vtrans g vd va => encV3 0x4C g vd va 0 0 0 6 false 0 false 0
  | .vcvt g vd a sat rnd => encV3 0x4D g vd a.v a.rep.code 0 0 0 sat rnd false 0
  | .vqnt g vd va vs rnd => encV3 0x4D g vd va 0 vs 0 1 false rnd false 0
  | .vdqnt g vd va vs sat rnd => encV3 0x4D g vd va 0 vs 0 2 sat rnd false 0
  | .vsel g vd a b pc => encV3 0x4E g vd a.v a.rep.code b.v b.rep.code 0 false 0 false (0#2 ++ pc)
  | .vexp2 g vd a sat rnd => encV3 0x4F g vd a.v a.rep.code 0 0 0 sat rnd false 0
  | .vlog2 g vd a sat rnd => encV3 0x4F g vd a.v a.rep.code 0 0 1 sat rnd false 0
  | .vld g vd xa t => encVM 0x50 g vd xa 0 0 t 0 0 0
  | .vldP g vd xa xb t => encVM 0x50 g vd xa xb 1 t 0 0 0
  | .vlds g vd xa xb t => encVM 0x50 g vd xa xb 0 t 0 1 0
  | .vgth g vd xa vb s t => encVM 0x50 g vd xa vb 0 t 0 2 (0#4 ++ s)
  | .vgthCl g vd xa vb s t => encVM 0x50 g vd xa vb 1 t 0 2 (0#4 ++ s)
  | .vldw g vd xa xb t => encVM 0x50 g vd xa xb 0 t 0 3 0
  | .pref g xa xb t => encVM 0x50 g 0 xa xb 0 t 0 4 0
  | .vst g vs xa t => encVM 0x51 g vs xa 0 0 t 0 0 0
  | .vstP g vs xa xb t => encVM 0x51 g vs xa xb 1 t 0 0 0
  | .vsts g vs xa xb t => encVM 0x51 g vs xa xb 0 t 0 1 0
  | .vsct g vs xa vb s t => encVM 0x51 g vs xa vb 0 t 0 2 (0#4 ++ s)
  | .vsctCl g vs xa vb s t => encVM 0x51 g vs xa vb 1 t 0 2 (0#4 ++ s)
  | .vamo g op nr vd xa vb s o t => encVM 0x52 g vd xa vb 0 t o.sc.code (0#3 ++ op.code) (0#1 ++ BitVec.ofBool nr ++ BitVec.ofBool o.rl ++ BitVec.ofBool o.aq ++ s)
  | .vcas g vd xa vb s o t => encVM 0x52 g vd xa vb 0 t o.sc.code 8 (0#1 ++ 0#1 ++ BitVec.ofBool o.rl ++ BitVec.ofBool o.aq ++ s)
  | .vbinc g vd xa vb s o t => encVM 0x52 g vd xa vb 0 t o.sc.code 9 (0#1 ++ 0#1 ++ BitVec.ofBool o.rl ++ BitVec.ofBool o.aq ++ s)
  | .vstm g vs xa r t => encVM 0x53 g vs xa 0 0 t 0 0 (0#4 ++ r)
  | .vpush wm sc vs xa tc nb => encVM 0x54 (.plain wm) vs xa 0 0 ⟨0, false, tc, nb⟩ sc.code 0 0
  | .vtake wm sc vd vm => encVM 0x54 (.plain wm) vd 0 0 0 ⟨0, false, 0, false⟩ sc.code 1 vm
  | .vfesRd wm xd vm => encVM 0x54 (.plain wm) vm 0 xd 0 ⟨0, false, 0, false⟩ 0 2 0
  | .vfesClr wm xd vm => encVM 0x54 (.plain wm) vm 0 xd 1 ⟨0, false, 0, false⟩ 0 2 0
  | .vfesSet wm xd vm => encVM 0x54 (.plain wm) vm 0 xd 2 ⟨0, false, 0, false⟩ 0 2 0
  | .strm g xd xa xb lu evp cnt n => encSY 0x60 g xd xa xb 0 0 (0#9 ++ BitVec.ofBool lu ++ evp ++ BitVec.ofBool cnt ++ n)
  | .strm2d g xd xa xb lu evp cnt n => encSY 0x60 g xd xa xb 1 0 (0#9 ++ BitVec.ofBool lu ++ evp ++ BitVec.ofBool cnt ++ n)
  | .waitK gd t mask xd xa => encSY 0x61 gd.hdr xd xa 0 0 0 (0#7 ++ BitVec.ofBool t ++ mask)
  | .ccwait gd t n xd xa xb => encSY 0x62 gd.hdr xd xa xb 0 0 (0#12 ++ BitVec.ofBool t ++ n)
  | .ccrd gd n xd => encSY 0x62 gd.hdr xd 0 0 1 0 (0#12 ++ 0#1 ++ n)
  | .ccrdClr gd n xd => encSY 0x62 gd.hdr xd 0 0 1 0 (0#12 ++ 1#1 ++ n)
  | .wopen g w xa xb => encS3 0x63 g (0#4 ++ w) xa xb 0
  | .wclose g w => encS3 0x63 g (0#4 ++ w) 0 0 1
  | .winv g w => encS3 0x63 g (0#4 ++ w) 0 0 2
  | .matt g xd xa => encMX 0x68 g xd xa 0 0 0 none false false false 0 0
  | .mdet g => encMX 0x68 g 0 0 0 1 0 none false false false 0 0
  | .munf g xa => encMX 0x69 g 0 xa 0 0 0 none false false false 0 0
  | .mma g ta ma mb ms tk asrc bsrc sat scl => encMX 0x6A g ta ma mb 0 ms tk asrc bsrc sat 0 (0#3 ++ BitVec.ofBool scl)
  | .maccLd g ta va xs tk => encMX 0x6B g ta va xs 0 0 tk false false false 0 0
  | .maccSt g vd ta xs tk => encMX 0x6B g vd ta xs 1 0 tk false false false 0 0
  | .maccZ g ta tk si => encMX 0x6B g ta 0 0 2 0 tk false false false 0 (0#3 ++ BitVec.ofBool si)
  | .mepi g vd ta vb vs tk sat rnd act scl bia => encMX 0x6C g vd ta vb 0 vs tk false false sat rnd (BitVec.ofBool bia ++ BitVec.ofBool scl ++ act)
  | .wsld g xd xa xb tk => encMX 0x6D g xd xa xb 0 0 tk false false false 0 0
  | .wsberthGet g xd xa => encMX 0x6D g xd xa 0 1 0 none false false false 0 (0#2 ++ 0#2)
  | .wsberthRdy g xd xa => encMX 0x6D g xd xa 0 1 0 none false false false 0 (0#2 ++ 1#2)
  | .wsberthDrop g xd xa => encMX 0x6D g xd xa 0 1 0 none false false false 0 (0#2 ++ 2#2)
  | .collArV wm op vd va xb grp tk => encCL 0x70 (.plain wm) vd va xb 0 grp op.code false tk
  | .collArM wm op xd xa xb grp tk => encCL 0x70 (.plain wm) xd xa xb 0 grp op.code true tk
  | .collRsV wm op vd va xb grp tk => encCL 0x70 (.plain wm) vd va xb 1 grp op.code false tk
  | .collRsM wm op xd xa xb grp tk => encCL 0x70 (.plain wm) xd xa xb 1 grp op.code true tk
  | .collAgV wm vd va xb grp tk => encCL 0x70 (.plain wm) vd va xb 2 grp 0 false tk
  | .collAgM wm xd xa xb grp tk => encCL 0x70 (.plain wm) xd xa xb 2 grp 0 true tk
  | .collBcV wm vd va xb grp tk => encCL 0x70 (.plain wm) vd va xb 3 grp 0 false tk
  | .collBcM wm xd xa xb grp tk => encCL 0x70 (.plain wm) xd xa xb 3 grp 0 true tk
  | .collSrs wm xd xa xb grp tk => encCL 0x70 (.plain wm) xd xa xb 4 grp 0 true tk
  | .collBar wm xb grp tk => encCL 0x71 (.plain wm) 0 0 xb 0 grp 0 false tk
  | .collWait wm xd xa grp => encCL 0x71 (.plain wm) xd xa 0 1 grp 0 false none
  | .collStat wm xd xa grp => encCL 0x71 (.plain wm) xd xa 0 2 grp 0 false none
  | .collStatClr wm xd xa grp => encCL 0x71 (.plain wm) xd xa 0 2 grp 0 true none
  | .nonInstructionWord w => w
  | .launchPortWrite => 0
  | .qabort => 0
  | .qctlHaltedClear => 0
  | .gangPlacement => 0
  | .schedulerReservation => 0
  | .preemptSelection => 0
  | .coresidentPreemptSelection => 0
  | .gangResume => 0
  | .laneGroupIssue => 0
  | .trapEntry => 0
  | .trapReport => 0
  | .tresResume => 0
  | .tresTakeTrap => 0
  | .tresEnd => 0
  | .timerCompare => 0
  | .homeAccess => 0
  | .scrubError => 0
  | .remoteAtomicArrival => 0
  | .loadElementArrival => 0
  | .streamDispatch => 0
  | .streamGranule => 0
  | .nbRetire => 0
  | .efactResume => 0
  | .efactAbandon => 0
  | .matrixQueueExecute => 0
  | .matrixWaitlistExpire => 0
  | .berthAgeing => 0
  | .refreshSlotEnd => 0
  | .wfracWrite => 0
  | .pushArrival => 0
  | .pushRetry => 0
  | .pushReservationExpire => 0
  | .migrationStart => 0
  | .migrationFree => 0
  | .migrationLineMove => 0
  | .frameClassChange => 0
  | .dieFlitReceive => 0
  | .wavelengthRetrainTrigger => 0
  | .wlctlForce => 0
  | .wlctlOffSet => 0
  | .wlctlOffClear => 0
  | .wavelengthFlitBoundary => 0
  | .wavelengthTrainingDone => 0
  | .linkTableUpdate => 0
  | .fabricPacketReceive => 0
  | .transportResend => 0
  | .requestTimeout => 0
  | .grantCrcCheck => 0
  | .portGroupResetDone => 0
  | .portGroupLost => 0
  | .machineFault => 0
  | .chunkMark => 0
  | .collectiveRecompute => 0
  | .collectiveTimeout => 0
  | .groupDisable => 0
  | .pciePortFailover => 0
  | .hostWindowAccess => 0
  | .noteWrite => 0
  | .mailboxGo => 0
  | .mailboxReadyClear => 0
  | .frameSet => 0
  | .queueBind => 0
  | .funcBind => 0
  | .hartBind => 0
  | .partRead => 0
  | .crewLoad => 0
  | .crewStart => 0
  | .pilotLoad => 0
  | .pilotStage => 0
  | .undock => 0
  | .undockStatus => 0
  | .logRead => 0
  | .getVersion => 0
  | .getCapabilities => 0
  | .negotiateAlgorithms => 0
  | .getDigests => 0
  | .getCertificate => 0
  | .challenge => 0
  | .getMeasurements => 0
  | .keyExchange => 0
  | .finish => 0
  | .powerCapSet => 0
  | .clockStepRaise => 0
  | .clockStepLower => 0
  | .overTemperature => 0
  | .identityStoreRead => 0
  | .pilotBankActivate => 0
  | .powerOn => 0
  | .managementTakeover => 0
  | .undockBudgetExpire => 0
  | .latchForcedOpen => 0
  | .registerWrite => 0
  | .instructionFetchFault => 0
  | .storedDataError => 0
  | .fabricLaneFailure => 0


/-! ## The decoder -/

/-- The major opcodes whose instructions cannot be guarded (R40). -/
def unguardedOps : List Nat := [0x39, 0x3A, 0x3B, 0x3D, 0x3E, 0x40, 0x70, 0x71]

/-- The decoder: the instruction of a word, or the reason why the word is none (R60). After the operands are read, every
bit that the instruction's layout does not use must be zero, which is to say that the word is the one that the layout
gives these operands; and the operands must be ones that the entry accepts. -/
def decode (w : Word) : Except DecodeError Instr :=
  if (w.extractLsb' 56 8).toNat ∈ unguardedOps ∧ w.extractLsb' 51 5 ≠ 0 then .error .guard
  else match parse w with
    | .error e => .error e
    | .ok i => if encode i = w then (if i.wf then .ok i else .error .operands) else .error .reserved

/-- The decoder on bytes as they lie in memory, the first at the lowest address: the instruction and the bytes behind its
eight (R6, R37). -/
def decodeBytes (bs : List Byte) : Except DecodeError (Instr × List Byte) :=
  if bs.length < 8 then .error .length
  else match decode (BitVec.ofNat 64 (ofBytes (bs.take 8))) with
    | .ok i => .ok (i, bs.drop 8)
    | .error e => .error e

/-- The eight bytes of a word in memory (R37). -/
def wordBytes (w : Word) : List Byte := bytesOf 8 w.toNat

/-- The instruction that the decoder reads from a word of the opcode table's numbering (bits above `nbits` are zero). -/
def decodeTableWord (nbits w : Nat) : Option Instr :=
  match decodeBytes (wordBytes (BitVec.ofNat 64 (w % 2 ^ nbits))) with
  | .ok (i, _) => some i
  | .error _ => none

end Sys2Proof
end

