-- ==== Sys2Proof/Machine/Num.lean ====
section
/-! DEFINITION. Number formats and exact arithmetic (file 03): the value of every tag, the one rounding step (R83, R87
to R92), the rules for results that are no numbers (R84 to R86), conversions (R78, R82, R90, R91), stochastic words
(R88), the matrix step (R94, R95) and the reduction tree (R96). -/

namespace Sys2Proof.Machine
open Sys2Proof

/-! ## Flags (R92) -/

/-- Sticky flags in the order of `fcsr` bits [5:0]: IS, NV, DZ, OF, UF, NX (R93). -/
abbrev Flags := BitVec 6

/-- NX. -/
def fNX : Flags := 1
/-- UF. -/
def fUF : Flags := 2
/-- OF. -/
def fOF : Flags := 4
/-- DZ. -/
def fDZ : Flags := 8
/-- NV. -/
def fNV : Flags := 16
/-- IS. -/
def fIS : Flags := 32

/-- The flag if the condition holds. -/
def flagIf (b : Bool) (f : Flags) : Flags := if b then f else 0

/-- The rounding modes of R87. -/
inductive RMode where
  | rne | rtz | rdn | rup | rmm | sr
deriving DecidableEq, Repr

/-! ## Tags -/

/-- The special encodings of a floating-point layout (R75). -/
inductive Special where
  | finite | nanOnly | ieee
deriving DecidableEq, Repr

/-- A floating-point layout (R75). -/
structure Fp where
  e    : Nat
  m    : Nat
  bias : Nat
  sp   : Special
deriving DecidableEq, Repr

/-- The layout of a floating-point tag (R75). -/
def Fp.ofTag : Tag → Option Fp
  | .e2m1 => some ⟨2, 1, 1, .finite⟩
  | .e3m2 => some ⟨3, 2, 3, .finite⟩
  | .e2m3 => some ⟨2, 3, 1, .finite⟩
  | .e4m3 => some ⟨4, 3, 7, .nanOnly⟩
  | .e5m2 => some ⟨5, 2, 15, .ieee⟩
  | .fp16 => some ⟨5, 10, 15, .ieee⟩
  | .bf16 => some ⟨8, 7, 127, .ieee⟩
  | .fp32 => some ⟨8, 23, 127, .ieee⟩
  | .fp64 => some ⟨11, 52, 1023, .ieee⟩
  | _ => none

/-- The layouts of the scalar instructions. -/
def fp32 : Fp := ⟨8, 23, 127, .ieee⟩
def fp64 : Fp := ⟨11, 52, 1023, .ieee⟩

/-- Width in bits of one element; 0 for NONE and for the block tags (R72). -/
def tagWidth : Tag → Nat
  | .si8 | .ui8 | .e4m3 | .e5m2 | .e8m0 => 8
  | .si16 | .ui16 | .bf16 | .fp16 => 16
  | .si32 | .ui32 | .fp32 => 32
  | .si64 | .ui64 | .fp64 => 64
  | .si4 | .ui4 | .e2m1 => 4
  | .e3m2 | .e2m3 => 6
  | .none | .sx3 | .sx5 | .sx8 => 0

/-- Width in bits of one block of 32 elements of a block tag (R72). -/
def tagBlockBits : Tag → Nat
  | .sx3 => 128 | .sx5 => 192 | .sx8 => 288 | _ => 0

/-- The element width w inside an SX block (R80). -/
def sxWidth : Tag → Nat
  | .sx3 => 3 | .sx5 => 5 | .sx8 => 8 | _ => 0

end Sys2Proof.Machine

namespace Sys2Proof
open Sys2Proof.Machine

/-- Block tags (R72). -/
def Tag.isBlock : Tag → Bool
  | .sx3 | .sx5 | .sx8 => true
  | _ => false
/-- Signed integer tags. -/
def Tag.isSigned : Tag → Bool
  | .si4 | .si8 | .si16 | .si32 | .si64 => true
  | _ => false
/-- Integer tags. -/
def Tag.isInt : Tag → Bool
  | .si4 | .si8 | .si16 | .si32 | .si64 | .ui4 | .ui8 | .ui16 | .ui32 | .ui64 => true
  | _ => false
/-- Floating-point tags. -/
def Tag.isFloat (t : Tag) : Bool := (Fp.ofTag t).isSome
/-- Narrow tags (R72, R73). -/
def Tag.isNarrow : Tag → Bool
  | .si4 | .ui4 | .e2m1 | .e3m2 | .e2m3 | .e8m0 | .sx3 | .sx5 | .sx8 => true
  | _ => false
/-- Arithmetic tags: every tag but NONE that is not narrow (R72, R73). -/
def Tag.isArith (t : Tag) : Bool := t != .none && !t.isNarrow

/-- The lowest value of an integer tag (R74). -/
def Tag.intMin (t : Tag) : Int := if t.isSigned then -(2 ^ (tagWidth t - 1) : Nat) else 0
/-- The highest value of an integer tag (R74). -/
def Tag.intMax (t : Tag) : Int :=
  if t.isSigned then (2 ^ (tagWidth t - 1) : Nat) - 1 else (2 ^ tagWidth t : Nat) - 1

end Sys2Proof

namespace Sys2Proof.Machine
open Sys2Proof

/-! ## Exact values -/

/-- An exact result (R83): NaN, an infinity, or a real. A real is the sign, and the magnitude `mant * 2 ^ exp`; with
`sticky` the magnitude lies strictly between `mant` and `mant + 1` times `2 ^ exp`, and `mant` has at least 34 bits more
than any destination keeps. -/
inductive Exact where
  | nan
  | inf (neg : Bool)
  | fin (neg : Bool) (mant : Nat) (exp : Int) (sticky : Bool)
deriving DecidableEq, Repr

/-- A zero of a given sign. -/
def Exact.zero (neg : Bool) : Exact := .fin neg 0 0 false
/-- The integer as an exact value. -/
def Exact.ofInt (i : Int) : Exact := .fin (i < 0) i.natAbs 0 false
/-- Changes the sign of everything but NaN. -/
def Exact.neg : Exact → Exact
  | .nan => .nan
  | .inf n => .inf (!n)
  | .fin n m e s => .fin (!n) m e s
/-- The magnitude. -/
def Exact.abs : Exact → Exact
  | .nan => .nan
  | .inf _ => .inf false
  | .fin _ m e s => .fin false m e s
/-- Multiplies by a power of two. -/
def Exact.scale (k : Int) : Exact → Exact
  | .fin n m e s => .fin n m (if m = 0 then e else e + k) s
  | x => x
def Exact.isNan : Exact → Bool
  | .nan => true
  | _ => false
def Exact.isInf : Exact → Bool
  | .inf _ => true
  | _ => false
/-- A zero of either sign. -/
def Exact.isZero : Exact → Bool
  | .fin _ 0 _ false => true
  | _ => false
def Exact.isNeg : Exact → Bool
  | .nan => false
  | .inf n => n
  | .fin n _ _ _ => n

/-- The value of `bits` under a floating-point layout (R75). -/
def Fp.value (f : Fp) (bits : Nat) : Exact :=
  let frac := bits % 2 ^ f.m
  let ex := bits / 2 ^ f.m % 2 ^ f.e
  let s : Bool := bits / 2 ^ (f.e + f.m) % 2 == 1
  let top := 2 ^ f.e - 1
  if ex = 0 then (if frac = 0 then .zero s else .fin s frac (1 - (f.bias : Int) - f.m) false)
  else if f.sp = .ieee ∧ ex = top then (if frac = 0 then .inf s else .nan)
  else if f.sp = .nanOnly ∧ ex = top ∧ frac = 2 ^ f.m - 1 then .nan
  else .fin s (2 ^ f.m + frac) ((ex : Int) - f.bias - f.m) false

/-- The canonical NaN of a layout (R76); the layouts without NaN have none and answer 0 (R90). -/
def Fp.nanBits (f : Fp) : Nat :=
  match f.sp with
  | .finite => 0
  | .nanOnly => 2 ^ (f.e + f.m) - 1
  | .ieee => (2 ^ f.e - 1) * 2 ^ f.m + 2 ^ (f.m - 1)
/-- The magnitude bits of the largest finite value (R75). -/
def Fp.maxBits (f : Fp) : Nat :=
  match f.sp with
  | .finite => 2 ^ (f.e + f.m) - 1
  | .nanOnly => 2 ^ (f.e + f.m) - 2
  | .ieee => (2 ^ f.e - 1) * 2 ^ f.m - 1
/-- The sign bit. -/
def Fp.signBit (f : Fp) (neg : Bool) : Nat := if neg then 2 ^ (f.e + f.m) else 0
/-- Width in bits of the layout. -/
def Fp.width (f : Fp) : Nat := f.e + f.m + 1

/-- The quotient of `mant * 2 ^ exp` by `2 ^ q`: its floor, and the rest as a numerator over `2 ^ d`. -/
def quant (mant : Nat) (exp q : Int) : Nat × Nat × Nat :=
  if q ≤ exp then (mant * 2 ^ (exp - q).toNat, 0, 0)
  else
    let d := (q - exp).toNat
    (mant / 2 ^ d, mant % 2 ^ d, d)

/-- Whether a magnitude with floor `n`, rest `r / 2 ^ d` (and a little more when `sticky`) goes to `n + 1` (R87, R88). -/
def roundsUp (mode : RMode) (neg : Bool) (draw : BitVec 32) (n r d : Nat) (sticky : Bool) : Bool :=
  let inexact := r != 0 || sticky
  let half := 2 ^ d / 2
  match mode with
  | .rne => d != 0 && (decide (half < r) || (r == half && (sticky || n % 2 == 1)))
  | .rtz => false
  | .rdn => inexact && neg
  | .rup => inexact && !neg
  | .rmm => d != 0 && decide (half ≤ r)
  | .sr => inexact && decide (draw.toNat < r * 2 ^ 32 / 2 ^ d)

/-- What an overflow delivers (R89). -/
def Fp.overflowBits (f : Fp) (mode : RMode) (sat neg : Bool) : Nat :=
  let big := f.signBit neg + f.maxBits
  let away := match f.sp with
    | .finite => big
    | .nanOnly => f.nanBits
    | .ieee => f.signBit neg + (2 ^ f.e - 1) * 2 ^ f.m
  if sat then big else
  match mode with
  | .rtz => big
  | .rdn => if neg then away else big
  | .rup => if neg then big else away
  | _ => away

/-- `Round` (R83, R87 to R92): the bits and the flags of an exact value in a floating-point layout. -/
def Fp.round (f : Fp) (mode : RMode) (sat : Bool) (draw : BitVec 32) : Exact → Nat × Flags
  | .nan => match f.sp with
    | .finite => (0, fNV)
    | _ => (f.nanBits, 0)
  | .inf neg => match f.sp with
    | .ieee => (f.signBit neg + (2 ^ f.e - 1) * 2 ^ f.m, 0)
    | .nanOnly => if sat then (f.signBit neg + f.maxBits, fOF ||| fNX) else (f.nanBits, fNV)
    | .finite => (f.signBit neg + f.maxBits, fOF ||| fNX)
  | .fin neg mant exp sticky =>
    if mant = 0 then (f.signBit neg, 0) else
    let qmin : Int := 1 - (f.bias : Int) - f.m
    let qU : Int := (mant.log2 : Int) + exp - f.m
    let q := max qU qmin
    let (n, r, d) := quant mant exp q
    let big := if roundsUp mode neg draw n r d sticky then n + 1 else n
    let (nU, rU, dU) := quant mant exp qU
    let bigU := if roundsUp mode neg draw nU rU dU sticky then nU + 1 else nU
    let inexact := r != 0 || sticky
    -- the largest finite value is `sigMax * 2 ^ qMax`
    let qMax : Int := qmin + ((f.maxBits / 2 ^ f.m : Nat) : Int) - 1
    let sigMax := 2 ^ f.m + f.maxBits % 2 ^ f.m
    if qMax < q ∨ (q = qMax ∧ sigMax < big) then (f.overflowBits mode sat neg, fOF ||| fNX)
    else
      let bits := if big < 2 ^ f.m then big else ((q - qmin).toNat + 1) * 2 ^ f.m + big - 2 ^ f.m
      let tiny := if bigU = 2 ^ (f.m + 1) then decide (qU + 1 < qmin) else decide (qU < qmin)
      (f.signBit neg + bits, flagIf inexact fNX ||| flagIf (inexact && tiny) fUF)

/-- `Round(x, integer, mode)`: the integer and whether it differs from x. Only for reals. -/
def roundInt (mode : RMode) (draw : BitVec 32) (neg : Bool) (mant : Nat) (exp : Int) (sticky : Bool) : Int × Bool :=
  let (n, r, d) := quant mant exp 0
  let big := if roundsUp mode neg draw n r d sticky then n + 1 else n
  (if neg then -(big : Int) else big, r != 0 || sticky)

/-! ## Arithmetic on exact values (R84, R85) -/

/-- The exact sum; `rdn` gives the sign of a zero sum (R85). -/
def Exact.add (rdn : Bool) : Exact → Exact → Exact × Flags
  | .nan, _ => (.nan, 0)
  | _, .nan => (.nan, 0)
  | .inf a, .inf b => if a = b then (.inf a, 0) else (.nan, fNV)
  | .inf a, .fin .. => (.inf a, 0)
  | .fin .., .inf b => (.inf b, 0)
  | .fin na ma ea sa, .fin nb mb eb sb =>
    if ma = 0 ∧ mb = 0 then (.zero (if na = nb then na else rdn), 0)
    else
      let e := min ea eb
      let va : Int := (ma * 2 ^ (ea - e).toNat : Nat)
      let vb : Int := (mb * 2 ^ (eb - e).toNat : Nat)
      let v := (if na then -va else va) + (if nb then -vb else vb)
      if v = 0 then (.zero rdn, 0) else (.fin (v < 0) v.natAbs e (sa || sb), 0)

/-- The exact product. -/
def Exact.mul : Exact → Exact → Exact × Flags
  | .nan, _ => (.nan, 0)
  | _, .nan => (.nan, 0)
  | .inf a, .inf b => (.inf (a != b), 0)
  | .inf a, .fin n m _ _ => if m = 0 then (.nan, fNV) else (.inf (a != n), 0)
  | .fin n m _ _, .inf b => if m = 0 then (.nan, fNV) else (.inf (n != b), 0)
  | .fin na ma ea _, .fin nb mb eb _ =>
    if ma = 0 ∨ mb = 0 then (.zero (na != nb), 0) else (.fin (na != nb) (ma * mb) (ea + eb) false, 0)

/-- The exact fused product and sum (R84). -/
def Exact.fma (rdn : Bool) (a b c : Exact) : Exact × Flags :=
  let (p, f) := a.mul b
  let (r, g) := p.add rdn c
  (r, f ||| g)

/-- How many bits the quotients and roots below keep before the sticky part. -/
def guardBits : Nat := 110

/-- The exact quotient. -/
def Exact.div : Exact → Exact → Exact × Flags
  | .nan, _ => (.nan, 0)
  | _, .nan => (.nan, 0)
  | .inf _, .inf _ => (.nan, fNV)
  | .inf a, .fin n _ _ _ => (.inf (a != n), 0)
  | .fin n _ _ _, .inf b => (.zero (n != b), 0)
  | .fin na ma ea _, .fin nb mb eb _ =>
    if mb = 0 then (if ma = 0 then (.nan, fNV) else (.inf (na != nb), fDZ))
    else if ma = 0 then (.zero (na != nb), 0)
    else
      let k := guardBits + 2 + mb.log2 - ma.log2
      let num := ma * 2 ^ k
      (.fin (na != nb) (num / mb) (ea - eb - k) (num % mb != 0), 0)

/-- The integer square root, found bit by bit from the highest. -/
def isqrtGo (n : Nat) : Nat → Nat → Nat
  | 0, r => r
  | b + 1, r => isqrtGo n b (if (r + 2 ^ b) * (r + 2 ^ b) ≤ n then r + 2 ^ b else r)
/-- The floor of the square root. -/
def isqrt (n : Nat) : Nat := isqrtGo n (n.log2 / 2 + 1) 0

/-- The exact square root. -/
def Exact.sqrt : Exact → Exact × Flags
  | .nan => (.nan, 0)
  | .inf n => if n then (.nan, fNV) else (.inf false, 0)
  | .fin n m e _ =>
    if m = 0 then (.zero n, 0) else if n then (.nan, fNV) else
    -- scale so that the exponent is even and the root has enough bits
    let k := 2 * guardBits + (if e % 2 = 0 then 0 else 1)
    let v := m * 2 ^ k
    let r := isqrt v
    (.fin false r ((e - k) / 2) (r * r != v), 0)

/-- The exact reciprocal. -/
def Exact.rcp (x : Exact) : Exact × Flags := (Exact.fin false 1 0 false).div x

/-- The exact reciprocal square root. -/
def Exact.rsqrt : Exact → Exact × Flags
  | .nan => (.nan, 0)
  | .inf n => if n then (.nan, fNV) else (.zero false, 0)
  | .fin n m e _ =>
    if m = 0 then (.inf n, fDZ) else if n then (.nan, fNV) else
    -- 1 / sqrt (m * 2 ^ e), with an even exponent
    let (m, e) := if e % 2 = 0 then (m, e) else (2 * m, e - 1)
    let k := guardBits + 2 + m.log2
    let v := 2 ^ (2 * k) / m
    let r := isqrt v
    (.fin false r (-(k : Int) - e / 2) (r * r * m != 2 ^ (2 * k)), 0)

/-! ### exp2 and log2

Both are found by interval arithmetic at a rising working precision: as soon as the lower and the upper bound have the same
floor, that floor is exact. The definitions end in the plain mathematical definition of the floor, so that they are
correct at every precision. -/

/-- The floor of a common multiple of the bounds, when they agree. -/
def agree (lo hi : Int) (drop : Nat) : Option Int :=
  let a := lo / (2 ^ drop : Nat)
  if a = hi / (2 ^ drop : Nat) then some a else none

/-- The sum of `z ^ (2 i + 1) / (2 i + 1)`, in units of `2 ^ -w`, each term rounded down. -/
def atanhGo (w : Nat) (z2 : Nat) : Nat → Nat → Nat → Nat
  | 0, _, _ => 0
  | fuel + 1, i, zp => zp / (2 * i + 1) + atanhGo w z2 fuel (i + 1) (zp * z2 / 2 ^ w)

/-- Bounds of `atanh (num / den)` in units of `2 ^ -w`, for `0 ≤ num / den ≤ 1 / 3`. Every term is rounded down at most three
units, and the tail of the series is below one unit. -/
def atanhBounds (w num den : Nat) : Nat × Nat :=
  let z := num * 2 ^ w / den
  let terms := w / 3 + 2
  let lo := atanhGo w (z * z / 2 ^ w) terms 0 z
  (lo, lo + 4 * terms + 4)

/-- Bounds of `ln 2` in units of `2 ^ -w`. -/
def ln2Bounds (w : Nat) : Nat × Nat :=
  let (lo, hi) := atanhBounds w 1 3
  (2 * lo, 2 * hi)

/-- The sum of `y ^ i / i!` in units of `2 ^ -w`, every step rounded down (`up` false) or up (`up` true). -/
def expGo (w y : Nat) (up : Bool) : Nat → Nat → Nat → Nat
  | 0, _, t => if up then 2 * t + 2 else 0
  | fuel + 1, i, t =>
    let p := t * y
    let nextT := if up then (p / 2 ^ w + 1) / (i + 1) + 1 else p / 2 ^ w / (i + 1)
    t + expGo w y up fuel (i + 1) nextT

/-- One attempt at the floor of `2 ^ p * 2 ^ (num / 2 ^ k)`, for `num < 2 ^ k`, at working precision `w`. -/
def exp2Try (p num k w : Nat) : Option Int :=
  let flo := num * 2 ^ w / 2 ^ k
  let (llo, lhi) := ln2Bounds w
  let ylo := flo * llo / 2 ^ w
  let yhi := (flo + 1) * lhi / 2 ^ w + 1
  agree (expGo w ylo false w 0 (2 ^ w)) (expGo w yhi true w 0 (2 ^ w)) (w - p)

/-- The `2 ^ k`-th root of `n`, rounded down. -/
def rootPow2 : Nat → Nat → Nat
  | 0, n => n
  | k + 1, n => rootPow2 k (isqrt n)

/-- The floor of `2 ^ p * 2 ^ (num / 2 ^ k)`, for `num < 2 ^ k`. -/
def exp2Floor (p num k : Nat) : Nat :=
  match exp2Try p num k (p + 64) with
  | some v => v.toNat
  | none => match exp2Try p num k (p + 1200) with
    | some v => v.toNat
    | none => rootPow2 k (2 ^ (p * 2 ^ k + num))

/-- The exact power of two (R191). -/
def Exact.exp2 : Exact → Exact
  | .nan => .nan
  | .inf n => if n then .zero false else .inf false
  | .fin n m e _ =>
    if m = 0 then .fin false 1 0 false
    else if 13 ≤ (m.log2 : Int) + e then
      -- beyond every format: far above the largest or far below the smallest value
      if n then .fin false (2 ^ guardBits) (-9000) true else .fin false (2 ^ guardBits) 9000 true
    else if 0 ≤ e then
      let v : Int := (m * 2 ^ e.toNat : Nat)
      .fin false 1 (if n then -v else v) false
    else
      let k := (-e).toNat
      let v : Int := if n then -(m : Int) else m
      let ip := v / (2 ^ k : Nat)
      let fr := (v % (2 ^ k : Nat)).toNat
      if fr = 0 then .fin false 1 ip false
      else .fin false (exp2Floor guardBits fr k) (ip - guardBits) true

/-- One attempt at the floor of `2 ^ p * log2 (m / 2 ^ s)`, for `3 / 4 ≤ m / 2 ^ s < 3 / 2`, at working precision `w`. -/
def log2Try (p m s w : Nat) : Option Int :=
  let one := 2 ^ s
  let (num, neg) := if one ≤ m then (m - one, false) else (one - m, true)
  let (alo, ahi) := atanhBounds w num (m + one)
  let (llo, lhi) := ln2Bounds w
  -- log2 = 2 atanh / ln 2
  let lo : Int := (2 * alo * 2 ^ w / lhi : Nat)
  let hi : Int := (2 * ahi * 2 ^ w / llo + 1 : Nat)
  let (lo, hi) := if neg then (-hi, -lo) else (lo, hi)
  agree lo hi (w - p)

/-- The floor of `2 ^ p * log2 (m / 2 ^ s)`, for `3 / 4 ≤ m / 2 ^ s < 3 / 2`. -/
def log2Floor (p m s : Nat) : Int :=
  match log2Try p m s (p + 80) with
  | some v => v
  | none => match log2Try p m s (p + 1200) with
    | some v => v
    | none => ((m ^ 2 ^ p).log2 : Int) - (s * 2 ^ p : Nat)

/-- The exact binary logarithm (R191). -/
def Exact.log2 : Exact → Exact × Flags
  | .nan => (.nan, 0)
  | .inf n => if n then (.nan, fNV) else (.inf false, 0)
  | .fin n m e _ =>
    if m = 0 then (.inf true, fDZ) else if n then (.nan, fNV) else
    let l := m.log2
    if m = 2 ^ l then (Exact.ofInt ((l : Int) + e), 0)
    else
      -- m = 2 ^ s * (m / 2 ^ s) with the quotient in [3/4, 3/2)
      let s := if 2 * m < 3 * 2 ^ l then l else l + 1
      let p := 2 * guardBits
      let v := log2Floor p m s + ((s : Int) + e) * (2 ^ p : Nat)
      -- v is the floor; the logarithm is irrational, so it lies strictly above
      (if 0 ≤ v then .fin false v.toNat (-(p : Int)) true
       else .fin true (-(v + 1)).toNat (-(p : Int)) true, 0)

/-! ## Comparison (R86) -/

/-- The order of two reals or infinities as an integer comparison: negative, zero or positive; the zeros are equal. -/
def Exact.cmp? : Exact → Exact → Option Ordering
  | .nan, _ => none
  | _, .nan => none
  | .inf a, .inf b => some (if a = b then .eq else if a then .lt else .gt)
  | .inf a, .fin .. => some (if a then .lt else .gt)
  | .fin .., .inf b => some (if b then .gt else .lt)
  | .fin na ma ea _, .fin nb mb eb _ =>
    let e := min ea eb
    let va : Int := (ma * 2 ^ (ea - e).toNat : Nat)
    let vb : Int := (mb * 2 ^ (eb - e).toNat : Nat)
    some (compare (if na then -va else va) (if nb then -vb else vb))

/-- Whether the first operand is the minimum (or, with `mx`, the maximum) of two that are not NaN; −0 is below +0. -/
def Exact.firstWins (mx : Bool) (a b : Exact) : Bool :=
  match a.cmp? b with
  | some .lt => !mx
  | some .gt => mx
  | _ => if mx then !a.isNeg else a.isNeg

/-- The minimum or maximum of two values given with their bits; `nanBits` is the canonical NaN (R86). -/
def minMaxBits (mx : Bool) (nanBits : Nat) (a b : Exact) (abits bbits : Nat) : Nat :=
  if a.isNan then (if b.isNan then nanBits else bbits)
  else if b.isNan then abits
  else if a.firstWins mx b then abits else bbits

/-! ## Values of tagged elements -/

/-- The value of an element under its tag: an integer or an exact real (R72 to R81). -/
inductive Val where
  | int (i : Int)
  | real (x : Exact)
deriving DecidableEq, Repr

/-- The value of the bits of an element under a tag that is no block tag (R74, R75, R78). -/
def tagValue (t : Tag) (bits : Nat) : Val :=
  match Fp.ofTag t with
  | some f => .real (f.value bits)
  | none =>
    if t = .e8m0 then (if bits = 0xFF then .real .nan else .real (.fin false 1 ((bits : Int) - 127) false))
    else
      let w := tagWidth t
      let v := bits % 2 ^ w
      if t.isSigned ∧ 2 ^ (w - 1) ≤ v then .int ((v : Int) - (2 ^ w : Nat)) else .int v

/-- A value as an exact real. -/
def Val.exact : Val → Exact
  | .int i => .ofInt i
  | .real x => x

/-- The factor of an E8M0 scale: NaN or a power of two (R78, R79). -/
def scaleValue (code : Nat) : Exact := if code = 0xFF then .nan else .fin false 1 ((code : Int) - 127) false

/-- The two's complement bits of an integer in `w` bits. -/
def intBits (w : Nat) (i : Int) : Nat := (i % (2 ^ w : Nat)).toNat

/-- `Sat` (R14, R91): the clamped integer, and whether it changed. -/
def satInt (t : Tag) (i : Int) : Int × Bool :=
  if i < t.intMin then (t.intMin, true) else if t.intMax < i then (t.intMax, true) else (i, false)

/-- Narrowing of an exact integer result: `Wrap`, or `Sat` with IS (R91). -/
def narrowInt (t : Tag) (sat : Bool) (i : Int) : Nat × Flags :=
  if sat then
    let (v, c) := satInt t i
    (intBits (tagWidth t) v, flagIf c fIS)
  else (intBits (tagWidth t) i, 0)

/-- A real rounded to an integer tag (R90, R91). -/
def realToInt (t : Tag) (mode : RMode) (draw : BitVec 32) : Exact → Nat × Flags
  | .nan => (0, fNV)
  | .inf n => (intBits (tagWidth t) (if n then t.intMin else t.intMax), fNV)
  | .fin n m e s =>
    let (v, ix) := roundInt mode draw n m e s
    let (c, out) := satInt t v
    (intBits (tagWidth t) c, if out then fNV else flagIf ix fNX)

/-- A value converted into E8M0 (R78). -/
def toE8M0 (mode : RMode) (draw : BitVec 32) : Exact → Nat × Flags
  | .nan => (0xFF, fNV)
  | .inf n => if n then (0xFF, fNV) else (0xFE, fOF ||| fNX)
  | .fin n m e s =>
    if m = 0 ∨ n then (0xFF, fNV) else
    let l := m.log2
    let k : Int := (l : Int) + e
    -- position of x between 2^k and 2^(k+1): (m - 2^l) / 2^l
    let r := m - 2 ^ l
    let code : Int := k + 127
    let up := match mode with
      | .rne => l != 0 && (decide (2 ^ l / 2 < r) || (r == 2 ^ l / 2 && (s || code % 2 == 1)))
      | .rtz | .rdn => false
      | .rup => r != 0 || s
      | .rmm => l != 0 && decide (2 ^ l / 2 ≤ r)
      | .sr => (r != 0 || s) && decide (draw.toNat < r * 2 ^ 32 / 2 ^ l)
    let c : Int := if up then code + 1 else code
    let nx := flagIf (r != 0 || s) fNX
    if 254 < c then (0xFE, fOF ||| fNX) else if c < 0 then (0x00, fUF ||| fNX) else (c.toNat, nx)

/-- A value delivered into a tag that is no block tag (R78, R83, R90, R91). -/
def deliver (t : Tag) (mode : RMode) (sat : Bool) (draw : BitVec 32) (v : Val) : Nat × Flags :=
  match Fp.ofTag t with
  | some f => f.round mode sat draw v.exact
  | none =>
    if t = .e8m0 then toE8M0 mode draw v.exact
    else match v with
      | .int i => narrowInt t sat i
      | .real x => realToInt t mode draw x

/-! ## SX blocks (R80 to R82) -/

/-- The value of element `i` of the block with the given bits, least significant byte first (R81). -/
def sxElem (t : Tag) (blk : Nat) (i : Nat) : Exact :=
  let w := sxWidth t
  let x := blk % 256
  let s := blk / 2 ^ (8 + 2 * (i / 4)) % 4
  let q := blk / 2 ^ (32 + w * i) % 2 ^ w
  let qi : Int := if 2 ^ (w - 1) ≤ q then (q : Int) - (2 ^ w : Nat) else q
  if x = 0xFF then .nan
  else if qi = 0 then .zero false
  else .fin (qi < 0) qi.natAbs ((x : Int) - 127 - s - (w - 2 : Nat)) false

/-- floor(log2 |x|) of a nonzero real. -/
def Exact.ilog : Exact → Int
  | .fin _ m e _ => (m.log2 : Int) + e
  | _ => 0

/-- The greatest floor(log2 |x|) over the nonzero reals of a list, if there is one. -/
def maxIlog : List Exact → Option Int
  | [] => none
  | x :: xs =>
    match maxIlog xs with
    | none => if x.isZero then none else some x.ilog
    | some m => if x.isZero then some m else some (max m x.ilog)

/-- The shift of a sub-block: the largest s in 0 to 3 with `M < 2 ^ (X - 126 - s)`, or 0 (R82). -/
def sxShift (x : Int) (m : Option Int) : Nat :=
  match m with
  | none => 3
  | some l => if l < x - 129 then 3 else if l < x - 128 then 2 else if l < x - 127 then 1 else 0

/-- The elements of a block: encoded q values and flags, from element `i` on (R82). -/
def sxQuant (w : Nat) (mode : RMode) (draw : Nat → BitVec 32) (x : Int) (shift : Nat → Nat) :
    List Exact → Nat → List Nat × Flags
  | [], _ => ([], 0)
  | v :: vs, i =>
    let (qs, fl) := sxQuant w mode draw x shift vs (i + 1)
    match v with
    | .fin n m e s =>
      let (q, ix) := roundInt mode (draw i) n m (e + (w - 2 : Nat) - (x - 127 - shift (i / 4))) s
      let hi : Int := (2 ^ (w - 1) : Nat) - 1
      let lo : Int := -(2 ^ (w - 1) : Nat)
      let c := if hi < q then hi else if q < lo then lo else q
      (intBits w c :: qs, fl ||| flagIf (ix || c != q) fNX ||| flagIf (m != 0 && c == 0) fUF)
    | _ => (0 :: qs, fl)

/-- The packing of a list of `w`-bit values, the first lowest (R74). -/
def packNat (w : Nat) : List Nat → Nat
  | [] => 0
  | v :: vs => v % 2 ^ w + 2 ^ w * packNat w vs

/-- The conversion of 32 exact values into an SX block: the bits of the block and the flags (R82). -/
def toSX (t : Tag) (mode : RMode) (draw : Nat → BitVec 32) (vs : List Exact) : Nat × Flags :=
  if vs.any (fun v => v.isNan || v.isInf) then (0xFF, fNV)
  else
    let w := sxWidth t
    let x0 : Int := match maxIlog vs with
      | none => 0
      | some l => l + 127
    let above : Bool := decide (254 < x0)
    let x : Int := if 254 < x0 then 254 else if x0 < 0 then 0 else x0
    let shift (j : Nat) : Nat := sxShift x (maxIlog ((vs.drop (4 * j)).take 4))
    let (qs, fl) := sxQuant w mode draw x shift vs 0
    let shifts := packNat 2 ((List.range 8).map shift)
    (x.toNat + 2 ^ 8 * shifts + 2 ^ 32 * packNat w qs, fl ||| flagIf above fOF)

/-! ## Stochastic words (R88) -/

/-- `Mix` (R88). -/
def mix (z : BitVec 32) : BitVec 32 :=
  let z := (z ^^^ (z >>> 16)) * 0x7FEB352D#32
  let z := (z ^^^ (z >>> 15)) * 0x846CA68B#32
  z ^^^ (z >>> 16)

/-- The random word of draw index `d` under generator state `s` (R88). -/
def drawWord (s : BitVec 32) (d : Nat) : BitVec 32 := mix (s ^^^ (BitVec.ofNat 32 d * 0x9E3779B9#32))

/-- One advance of the generator (R88). -/
def seedNext (s : BitVec 32) : BitVec 32 :=
  let s := s ^^^ (s <<< 13)
  let s := s ^^^ (s >>> 17)
  s ^^^ (s <<< 5)

/-- A seed as it is stored: 0 is replaced (R93). -/
def seedStore (s : BitVec 32) : BitVec 32 := if s = 0 then 0x9E3779B9#32 else s

/-! ## The matrix step (R94, R95) -/

/-- The window sum of R94: the truncated products in units of `2 ^ u`. -/
def windowSum (u : Int) : List Exact → Int
  | [] => 0
  | .fin n m e _ :: ps =>
    let t : Nat := (quant m e u).1
    windowSum u ps + (if n then -(t : Int) else t)
  | _ :: ps => windowSum u ps

/-- The exact sum of a list of reals. -/
def exactSum : List Exact → Exact
  | [] => .zero false
  | p :: ps => (p.add false (exactSum ps)).1

/-- Whether two exact reals without sticky part are equal as numbers. -/
def Exact.sameReal (a b : Exact) : Bool := a.cmp? b == some .eq

/-- One floating-point matrix step on an FP32 accumulator element: its bits and the flags of the tile status (R94). -/
def matStep (acc : Nat) (ps : List Exact) : Nat × Flags :=
  let a := fp32.value acc
  if ps.any Exact.isNan || (ps.any (· == .inf false) && ps.any (· == .inf true)) then (fp32.nanBits, fNV)
  else if ps.any (· == .inf false) then
    let (x, f) := a.add false (.inf false)
    let (b, g) := fp32.round .rne false 0 x
    (b, f ||| g)
  else if ps.any (· == .inf true) then
    let (x, f) := a.add false (.inf true)
    let (b, g) := fp32.round .rne false 0 x
    (b, f ||| g)
  else match maxIlog ps with
    | none => (acc, 0)
    | some top =>
      let u := top - 95
      let s := windowSum u ps
      let w := (Exact.ofInt s).scale u
      let (x, f) := a.add false w
      let (b, g) := fp32.round .rne false 0 x
      -- NX and the inexact condition of UF compare with the true sum
      let (true_, _) := a.add false (exactSum ps)
      let nx : Bool := match a with
        | .fin .. => !((fp32.value b).sameReal true_)
        | _ => false
      let tinyWindow : Bool := match x with
        | .fin n m e s' =>
          m != 0 &&
          (let qU : Int := (m.log2 : Int) + e - 23
           let (n', r, d) := quant m e qU
           let big := if roundsUp .rne n 0 n' r d s' then n' + 1 else n'
           if big = 2 ^ 24 then decide (qU + 1 < -149) else decide (qU < -149))
        | _ => false
      (b, f ||| (g &&& (fNV ||| fOF)) ||| flagIf nx fNX ||| flagIf (nx && tinyWindow) fUF)

/-- One integer matrix step on an SI32 accumulator element: its bits, and whether it saturated (R95). -/
def matStepInt (sat : Bool) (acc : Nat) (sum : Int) : Nat × Bool :=
  let t := (if 2 ^ 31 ≤ acc % 2 ^ 32 then ((acc % 2 ^ 32 : Nat) : Int) - (2 ^ 32 : Nat) else (acc % 2 ^ 32 : Nat)) + sum
  if sat then
    let (v, c) := satInt .si32 t
    (intBits 32 v, c)
  else (intBits 32 t, false)

/-! ## The reduction tree (R96) -/

/-- The largest power of two below `n`, for `n ≥ 2`. -/
def splitPoint (n : Nat) : Nat := 2 ^ (n - 1).log2

/-- `Reduce` (R96): the value of the tree over the `n` leaves from `lo` on. `node a b d` is the operation of the node with
split index `d`; the fuel `n` is the number of leaves, which each call halves at least or lowers. -/
def reduceTree {α : Type} (node : α → α → Nat → α) (leaf : Nat → α) : Nat → Nat → Nat → α
  | 0, lo, _ => leaf lo
  | fuel + 1, lo, n =>
    if n ≤ 1 then leaf lo
    else
      let m := splitPoint n
      node (reduceTree node leaf fuel lo m) (reduceTree node leaf fuel (lo + m) (n - m)) (lo + m)

/-- The tree over leaves 0 to `n - 1`; its depth is at most `log2 n + 1`. -/
def reduceAll {α : Type} (node : α → α → Nat → α) (leaf : Nat → α) (n : Nat) : α :=
  reduceTree node leaf (n.log2 + 1) 0 n

end Sys2Proof.Machine
end

