-- ==== Sys2Proof/Config.lean ====
section
/-! DEFINITION. The constants that the manual fixes for the part, and the free values: what the manual leaves open is a
constant without a body, so that no proof can see what it is. -/

namespace Sys2Proof.Config
open Sys2Proof

/-! ## Constants of the LH-FIK1024 (R23) -/

/-- Dies of a package (R16). -/
def dies : Nat := 10
/-- Clusters of a compute die (R20). -/
def clustersPerDie : Nat := 32
/-- Bytes of vector register storage per hart (R20). -/
def vstBytes : Nat := 131072
/-- Bits of vector register storage per hart. -/
def vstBits : Nat := 1048576
/-- Bits of a predicate register (R131). -/
def predBits : Nat := 32768
/-- Entries of one TLB slice (R347). -/
def tlbEntries : Nat := 256
/-- Home and window ways of a quay set (R23). -/
def quayWays : Nat := 16
/-- Quay banks of a die and sets of a bank (R246). -/
def quayBanks : Nat := 61
def quaySets : Nat := 2048
/-- Launches that a queue holds (R99). -/
def queueDepth : Nat := 256
/-- Streams and non-blocking instructions that a queue holds (R295). -/
def copyDepth : Nat := 8
def nbDepth : Nat := 16

/-! ## Free values -/

/-- Which of `n` earlier writes an indeterminate byte shows (R4): any of them. The first argument numbers the choice. -/
opaque pick : Nat → Nat → Nat
/-- Which TLB entry a full slice gives up (R347 names none). -/
opaque tlbVictim : Nat → Nat
/-- How many 32-byte sectors the memory-side cache needs for a line with given bytes (R292): 1 to 4, by a method programs cannot
see. -/
opaque sectors : Nat → Nat
/-- What another package returns for a read of a byte of it, whether what it returns is poisoned, whether it refuses the access, and
the class of a frame of it. -/
opaque remoteByte : Nat → Nat → BitVec 8
opaque remotePoison : Nat → Nat → Bool
opaque remoteFault : Nat → Nat → Nat
opaque remoteCls : Nat → Nat → Nat
/-- How many corrected and detected errors a request meets in another package, and whether a transit slot there names a page. -/
opaque remoteErrors : Nat → Nat → Nat × Nat
opaque remoteSlot : Nat → Nat → Bool
/-- What GBAR.ARR returns on a hart that belongs to no gang, for which R125 gives no phase. -/
opaque noGangPhase : Nat → BitVec 32
/-- Registers of a hart that resumes after it was parked: R116 names what it keeps, and these are not among it. -/
opaque staleX : Nat → Nat → BitVec 64
opaque staleP : Nat → Nat → BitVec 32768
opaque staleV : Nat → BitVec 1048576

/-- The integer that a NaN or an infinity enters a block-scaled collective as: R400 states none. -/
opaque blockEntry : Nat → Int

/-! ## Pilot, Crew and the boot ROM (log 9) -/

/-- Whether the signature of an image verifies, and the fused minimum version of its kind (R422). Kind 0 is Pilot, kind 1 is Crew. -/
opaque imageSigned : Nat → List (Nat × BitVec 8) → Bool
opaque minVersion : Nat → Nat
/-- The digest and the security version of an image, and the digest of the boot ROM (R423). -/
opaque imageDigest : List (Nat × BitVec 8) → BitVec 512
opaque imageVersion : List (Nat × BitVec 8) → Nat
opaque romDigest : BitVec 512
/-- Whether an image passes the checks of R422: its signature, and a security version that is not below the minimum. -/
def imageOk (kind : Nat) (im : List (Nat × BitVec 8)) : Bool := imageSigned kind im && decide (minVersion kind ≤ imageVersion im)
/-- SHAKE256 with 64 bytes of output (R422), which the manual names and does not define. -/
opaque shake256 : List (BitVec 8) → BitVec 512
/-- Where an image starts a hart. -/
opaque entryOf : List (Nat × BitVec 8) → Nat → BitVec 64
/-- Whether a neighbour package can hold what an undock would move there (R428). -/
opaque neighbourFits : Nat → Bool
/-- The bytes of the serial number and of the fingerprint of the identity key (R431), the certificate chain and its digest, and
Pilot's signatures, each over what it answers (R423). -/
opaque serial : Nat → BitVec 8
opaque fingerprint : Nat → BitVec 8
opaque certificate : Nat
opaque certDigest : BitVec 512
opaque signature : Nat → Nat
/-- The bytes of an answer of SPDM in a mailbox: SPDM 1.3 gives their form, and the manual only names it. -/
opaque spdmBytes : Nat → List (BitVec 8)
/-- The bytes of an answer of PLDM in a mailbox: PLDM gives their form, and the manual only names it. -/
opaque pldmBytes : Nat → List (BitVec 8)

end Sys2Proof.Config
end

