-- ==== Sys2Proof/Machine/Table.lean ====
section
/-! DEFINITION. Sparse data by key: a list of key and value pairs in one canonical form (keys strictly rising, no entry equal
to what an unlisted key reads as), so that equal contents are equal data. Memory and every other sparse store of the
machine are held this way. -/

namespace Sys2Proof.Machine
open Sys2Proof

/-- A sparse table. -/
abbrev Tab (α : Type) := List (Nat × α)

/-- What a key reads as; `d` gives the value of an unlisted key. -/
def Tab.get {α : Type} (d : Nat → α) : Tab α → Nat → α
  | [], k => d k
  | (j, v) :: t, k => if k = j then v else Tab.get d t k

/-- Removes a key. -/
def Tab.erase {α : Type} (k : Nat) : Tab α → Tab α
  | [] => []
  | (j, v) :: t => if k = j then Tab.erase k t else (j, v) :: Tab.erase k t

/-- Puts an entry in front of the first larger key. -/
def Tab.insert {α : Type} (k : Nat) (v : α) : Tab α → Tab α
  | [] => [(k, v)]
  | (j, w) :: t => if k < j then (k, v) :: (j, w) :: t else (j, w) :: Tab.insert k v t

/-- Writes a key; a value that an unlisted key reads as removes the entry. -/
def Tab.set {α : Type} [DecidableEq α] (d : Nat → α) (t : Tab α) (k : Nat) (v : α) : Tab α :=
  if v = d k then t.erase k else (t.erase k).insert k v

/-- Sets every key in `lo ≤ k < hi` back to what an unlisted key reads as. -/
def Tab.clearRange {α : Type} (lo hi : Nat) : Tab α → Tab α
  | [] => []
  | (j, v) :: t => if lo ≤ j ∧ j < hi then Tab.clearRange lo hi t else (j, v) :: Tab.clearRange lo hi t

/-- The canonical form. -/
def Tab.wf {α : Type} [DecidableEq α] (d : Nat → α) : Tab α → Bool
  | [] => true
  | [(k, v)] => v != d k
  | (k, v) :: (j, w) :: t => v != d k && decide (k < j) && Tab.wf d ((j, w) :: t)

/-- Reads `n` keys from `k` on. -/
def Tab.getRange {α : Type} (d : Nat → α) (t : Tab α) (k : Nat) : Nat → List α
  | 0 => []
  | n + 1 => t.get d k :: Tab.getRange d t (k + 1) n

/-- Writes a list of values from `k` on. -/
def Tab.setRange {α : Type} [DecidableEq α] (d : Nat → α) (t : Tab α) (k : Nat) : List α → Tab α
  | [] => t
  | v :: vs => Tab.setRange d (t.set d k v) (k + 1) vs

end Sys2Proof.Machine
end

