-- ==== Sys2Proof/Machine/State.lean ====
section
/-! DEFINITION. The state of the machine: every piece of state that the manual gives a package, as plain data, and
State.reset. -/

namespace Sys2Proof.Machine
open Sys2Proof

/-! ## Names -/

/-- Privilege modes (R28). -/
inductive Mode where
  | u | s | p
deriving DecidableEq, Repr

/-- What a hart is doing: no launch, running, held for a report (R360), parked (R115), halted (R359, R364), or ending after a
double trap, until its matrix queue has completed (R224, R359). -/
inductive Run where
  | idle | running | held | parked | halted | ending
deriving DecidableEq, Repr

/-- Reliability classes (R33). -/
inductive Cls where
  | f | d | n
deriving DecidableEq, Repr

/-- Trap causes (R13). -/
inductive Cause where
  | illegalInstr | illegalOperand | privilege | misaligned | pageFault | accessFault | poison | errorBudget
  | ecall | ebreak | remoteFault | collFault | preempt | timer | linkEvent | launchAbort
deriving DecidableEq, Repr

/-- The code of a cause (R13). -/
def Cause.code : Cause → BitVec 8
  | .illegalInstr => 0x01 | .illegalOperand => 0x02 | .privilege => 0x03 | .misaligned => 0x04
  | .pageFault => 0x05 | .accessFault => 0x06 | .poison => 0x07 | .errorBudget => 0x08
  | .ecall => 0x09 | .ebreak => 0x0A | .remoteFault => 0x0B | .collFault => 0x0C
  | .preempt => 0x10 | .timer => 0x11 | .linkEvent => 0x12 | .launchAbort => 0x13

/-- A launch: its queue and its sequence number (R105). -/
structure LaunchId where
  q   : Nat
  seq : Nat
deriving DecidableEq, Repr

/-- A trap about to be taken: its cause, `tepc`, `tval`, the marks of `tstat`, and the page batch (R353, R356). -/
structure Trap where
  cause : Cause
  epc   : Word
  val   : Word
  npg   : Nat := 0
  vec   : Bool := false
  eng   : Bool := false
  eq    : Bool := false
  fb    : List Word := []
deriving DecidableEq, Repr

/-! ## Engine work of a hart (file 11) -/

/-- The fault that stopped a piece of engine work (R308). -/
structure EngFault where
  cause : Cause
  addr  : Word
  fb    : List Word := []
deriving DecidableEq, Repr

/-- A stream (R303, R304). -/
structure Stream where
  src    : Word
  dst    : Word
  rb     : Nat
  rows   : Nat
  sp     : Int
  dp     : Int
  evp    : BitVec 2
  lu     : Bool
  cnt    : Bool
  n      : BitVec 3
  mode   : Mode
  tenant : BitVec 6
  launch : Option LaunchId
  chan   : Option Nat      -- the copy channel it holds (R300)
  w      : Nat             -- the write pointer (R304)
  owed   : Nat := 0        -- bytes that wait for an earlier stream before they count into its counter (R299)
  stop   : Option EngFault
  since  : Nat             -- when it entered the queue (R301)
deriving DecidableEq, Repr

/-- The kinds of a non-blocking instruction's element access. -/
inductive NbKind where
  | load | store | atomic (op : Nat) (noRet : Bool) | multi (bases : List Word) | push (no : Nat)
deriving DecidableEq, Repr

/-- One element (or SX block) of a non-blocking instruction that is not done: its index, the bytes at its address, and
for a store or an atomic the bits captured at issue. -/
structure NbElem where
  e    : Nat
  va   : Word
  bit  : Nat := 0          -- the bit of the first byte at which a sub-byte element starts
  data : Nat := 0
  poi  : Bool := false     -- the captured bits are poisoned
deriving DecidableEq, Repr

/-- A non-blocking vector memory instruction (R306, R307). -/
structure NbOp where
  word   : Word
  kind   : NbKind
  vd     : Nat             -- destination or source register
  size   : Nat             -- bits of an element
  signed : Bool
  ord    : Nat             -- atomics: the code of the element tag, unused otherwise
  cl     : Bool := false   -- a cluster-spanning form (R245)
  aq     : Bool := false   -- an atomic with AQ (R328)
  rl     : Bool := false   -- an atomic with RL
  poison : Bool := false   -- a register operand of it was poisoned (R306)
  begun  : Bool := false   -- an element of it has been accessed (R308)
  tc     : BitVec 3
  evp    : BitVec 2
  lu     : Bool
  mode   : Mode
  tenant : BitVec 6
  launch : Option LaunchId
  todo   : List NbElem
  bad    : List (Nat × EngFault)
  halt   : Bool
deriving DecidableEq, Repr

/-- The status of an engine queue as R302 shows it. -/
structure EngSt where
  cause : BitVec 8 := 0
  cnt   : Bool := false
  sel   : BitVec 3 := 0
  halt  : Bool := false
  addr  : BitVec 57 := 0
  done  : Word := 0
  fb    : List Word := []
  due   : Bool := false    -- the fault has not been taken by the hart yet
deriving DecidableEq, Repr

/-! ## Matrix work, pushes and collectives of a hart -/

/-- The A operand of an MMA: captured register bits with their poison, or output positions of the unfolding state (R226,
R230). -/
inductive MxA where
  | reg (bits poi : Nat)
  | unf (d : Vector Word 4) (p : Word)
deriving DecidableEq, Repr

/-- The B operand of an MMA: captured register bits with their poison, or a weight-store offset (R226). -/
inductive MxB where
  | reg (bits poi : Nat)
  | ws (off : Nat)
deriving DecidableEq, Repr

/-- An MMA in the matrix queue (R228); the scales are one byte each, with a poison bit each. -/
structure MmaOp where
  tile : Nat
  vl   : Nat
  vh   : Nat
  tag  : Tag
  sat  : Bool
  scl  : Bool
  blk  : Nat
  a    : MxA
  b    : MxB
  sa   : Nat
  saP  : Nat
  sb   : Nat
  sbP  : Nat
  regs : List Nat                              -- the vector registers that it reads (R222)
deriving DecidableEq, Repr

/-- Work of the matrix queue (R221). -/
inductive MxWork where
  | mma (o : MmaOp)
  | ld (tile vl vh : Nat) (si : Bool) (status : BitVec 8) (bits : Nat)
  | zero (tile : Nat) (si : Bool)
deriving DecidableEq, Repr

/-- An entry of the matrix queue, with the token that it sets. -/
structure MxOp where
  work : MxWork
  tk   : Option (BitVec 3)
deriving DecidableEq, Repr

/-- A push that has not been accepted (R335 to R337, R340). -/
structure Push where
  no     : Nat             -- order of issue
  desc   : Word
  tag    : Tag
  sc     : BitVec 3
  nb     : Bool
  tc     : BitVec 3
  n      : Nat
  data   : Nat
  poi    : Nat             -- its poisoned bits
  tenant : BitVec 6        -- the sender's tenant
  nacks  : Nat
  next   : Nat             -- cycle of the sender's die from which it may be sent again
  gone   : Bool            -- withdrawn (R340)
  sent   : Bool := false   -- on its way to another package (R337)
deriving DecidableEq, Repr

/-- A collective that a hart has issued and that has not ended (R295, R396): group, number, token, and the registers that
it will write. -/
structure HColl where
  grp : Nat
  k   : Nat
  tk  : Option (BitVec 3)
  regs : List Nat
deriving DecidableEq, Repr

/-- A register-form result that waits for the hart to run in U mode (R402): the low `n` bits of `vd` with their poison, and for
scales the low bits of `vd` + 1 (how many, bits, poison). -/
structure CollRes where
  vd    : Nat
  n     : Nat
  bits  : Nat
  poi   : Nat
  scale : Option (Nat × Nat × Nat)
deriving DecidableEq, Repr


/-! ## Harts -/

/-- The external traps pending for a hart (R357). -/
structure Pend where
  abort   : Option Nat := none                 -- LAUNCH_ABORT with the launch's sequence number
  budget  : Option Word := none                -- ERROR_BUDGET with the counts at that moment (R285)
  push    : List (Cause × Word) := []          -- rejected pushes, in the order of rejection
  coll    : List (Nat × Nat × Word) := []      -- group, number of the collective, tval
  preempt : Bool := false
  link    : Option Word := none
  timer   : Bool := false
deriving DecidableEq, Repr

/-- An open window: base, length, and the moment of its latest WOPEN or WINV (R250, R252). -/
structure Win where
  base  : Word
  len   : Word
  since : Nat
deriving DecidableEq, Repr

/-- An instruction that the scalar unit has gone over ahead of the hart's turn (R20, R41, R351): one that it left in the vector queue, with the
cycle of its entry (R119); a scalar load, with the value that it has read; any other scalar instruction. -/
inductive Ahead where
  | queued (since : Nat)
  | load (v : Word)
  | scalar
deriving DecidableEq, Repr

/-- A hart (R20, R130, R131). -/
structure Hart where
  hid      : BitVec 20
  run      : Run
  mode     : Mode
  tenant   : BitVec 6
  launch   : Option LaunchId
  gid      : Word
  kclass   : BitVec 2
  pc       : Word
  x        : Vector Word 64
  sb       : Vector Word 4                     -- S bank of x60 to x63 (R358)
  xcor     : BitVec 68                         -- registers with an error not found yet (64 to 67: the S bank)
  xbad     : BitVec 68                         -- registers with a double-bit error (R130)
  p        : Vector (BitVec 32768) 16
  pcor     : BitVec 16
  pbad     : BitVec 16
  vl       : Nat
  vh       : Nat
  regs     : BitVec 2                          -- vcfg.REGS (R166)
  nxt      : BitVec 2                          -- vcfg.NEXT
  blk      : BitVec 2                          -- vcfg.BLK
  vstart   : BitVec 15
  vdirty   : Word
  vqin     : Word
  vqout    : Word
  fm       : BitVec 32768
  vst      : BitVec 1048576                    -- vector register storage (R153)
  vpoi     : BitVec 1048576                    -- poisoned bits of it (R163)
  vcor     : List Nat                          -- 64-bit words of it with an error not found yet
  struck   : Tab Nat                           -- the bad bits of the registers and words with an error not found yet
  vtag     : Vector (BitVec 5) 64
  full     : BitVec 64
  resv     : List (Nat × Nat × Nat)            -- register, holder's hid, expiry (R336)
  fcsr     : Word
  instret  : Word
  mgrant   : Nat
  tcause   : BitVec 8
  tepc     : Word
  tval     : Word
  tvec     : Word
  tstat    : Word
  fb       : Vector Word 8
  tcmp     : Word
  report   : Option Trap                       -- the trap of a held hart (R360)
  posted   : Bool                              -- its report has been written to the ring
  pend     : Pend
  tok      : BitVec 8                          -- set tokens (R297)
  cc       : Vector Word 8
  win      : Vector (Option Win) 4             -- windows (R250)
  unf      : Option (Vector Word 4)            -- unfolding state (R229)
  copyQ    : List Stream
  copySt   : EngSt
  nbQ      : List NbOp
  nbSt     : EngSt
  inWait   : Bool                              -- the present instruction is a WAIT that has begun to wait (R369)
  woken    : Bool                              -- what ends a WAIT with 1 has happened since it began (R369)
  mq       : List MxOp                         -- matrix queue (R221)
  pushes   : List Push                         -- pushes not accepted, in program order (R340)
  pushNo   : Nat                               -- pushes issued so far
  colls    : List HColl                        -- collective queue (R295)
  collCnt  : Tab Nat                           -- collectives issued on each group (R391)
  collRank : Tab Nat                           -- 1 + the global rank last named on each group (R411)
  collRes  : List CollRes                      -- results held for U mode (R402)
  stopAt   : Option Nat                        -- the model's own: an outside trap stops the next vector instruction after so many elements
  preempting : Bool                            -- handling PREEMPT (R127)
  depth  : Nat                                 -- traps taken and not returned from: inside a handler when it is not 0 (R424)
  exiting  : Bool                              -- began EXIT in U mode (R126)
  reissue  : Bool                              -- the next instruction continues under fm (R355)
  waitStart : Option Nat                       -- cycle at which the waiting instruction first waited
  headSince : Nat                              -- cycle at which the present instruction became the head (R119)
  ahead  : List Ahead                          -- the next instructions that the scalar unit has gone over, in program order (R20, R351)
  trapped  : Bool                              -- the last instruction ended in a synchronous trap
deriving DecidableEq, Repr

/-! ## Launches and gangs (file 04) -/

/-- States of a launch (R108). -/
inductive LState where
  | queued | placing | draining | aborting | failed | complete | retired
deriving DecidableEq, Repr

/-- A launch from acceptance to retirement. -/
structure Launch where
  lid     : LaunchId
  pk      : BitVec 512
  tenant  : BitVec 6
  st      : LState
  cursor  : Nat
  placed  : Nat
  started : Bool
  left    : Bool                               -- left QUEUED without starting (R106)
  ebcnt   : Word
  eblim   : Word
  ebDone  : Bool                               -- ERROR_BUDGET was raised and not re-armed (R285)
  cause   : BitVec 8                           -- the QFAIL cause it enters COMPLETE or FAILED with
  waits   : Option Nat                         -- cycle since which its next gang found no cluster (R112)
deriving DecidableEq, Repr

/-- Residence of a gang. -/
inductive Resid where
  | resident | preempting | parked
deriving DecidableEq, Repr

/-- A barrier register (R121). -/
structure Bar where
  used    : Bool := false
  members : BitVec 16 := 0
  arrived : BitVec 16 := 0
  phase   : BitVec 32 := 0
deriving DecidableEq, Repr

/-- A gang (R109, R115, R116). -/
structure Gang where
  lid    : LaunchId
  num    : Nat
  cl     : Nat                                 -- cluster: 32 * die + cluster
  harts  : List Nat                            -- hids, in order of gang-local index
  live   : List Nat                            -- those that have not ended or parked
  ended  : List Nat                            -- those that ended
  spmOff : Nat
  spmLen : Nat
  accOff : List Nat                            -- per hart, offset in its core's slot
  accLen : Nat
  bar    : Nat
  cls    : Cls
  tenant : BitVec 6
  st     : Resid
  since  : Nat                                 -- cycle of its placement
  parkNo : Nat                                 -- order of parking
  forL   : Option LaunchId                     -- the launch for which it was pre-empted
  yielded : Bool                               -- parked through YIELD (R128)
  barSaved : Bar
  grants : List Nat                            -- recorded grants per hart (R215)
  rowsResv : Nat                               -- matrix rows reserved for its resumption (R215)
  saved  : List Hart                           -- the contexts of its parked harts (R116)
deriving DecidableEq, Repr

/-- A launch queue (R103, R104). -/
structure Queue where
  tenant : BitVec 6 := 0
  pceil  : BitVec 3 := 0
  halted : Bool := false
  ldok   : Bool := false
  en     : Bool := false
  qseq   : Nat := 0
  qcnt   : Nat := 0
  qfail  : Word := 0
deriving DecidableEq, Repr

/-- A reservation of a cluster (R112). -/
structure Reserve where
  cl   : Nat
  lid  : LaunchId
  prio : Nat
deriving DecidableEq, Repr

/-! ## Cores, clusters, dies -/

/-- A core: its class mode and the previous holders of its stores (R34, R111). -/
structure Core where
  cls : Cls
  spm : List (Nat × Nat × BitVec 6)            -- ranges held before: from, to, tenant; the latest first
  acc : List (Nat × Nat × BitVec 6)
  rr  : Vector (BitVec 2) 4                    -- round-robin pointers of its lane groups (R119)
deriving DecidableEq, Repr

/-- A place in the waiting list of a matrix unit (R214). -/
structure Waiter where
  hid  : Nat
  want : Nat
  resv : Nat
  last : Nat                                   -- cycle of its latest MATT
deriving DecidableEq, Repr

/-- A cluster: barrier registers, matrix waiting list, copy channels. -/
structure Cluster where
  bars  : Vector Bar 16
  wait  : List Waiter
  chans : Vector (Option Nat) 8                -- OWNER of each busy channel (R302)
deriving DecidableEq, Repr

/-- A weight-store berth (R256, R257). -/
structure Berth where
  st     : BitVec 2 := 0
  tenant : BitVec 6 := 0
  expert : BitVec 32 := 0
  count  : Nat := 0
  owner  : Option LaunchId := none             -- the launch that made it FILLING
deriving DecidableEq, Repr

/-- A frame table entry, and the change in progress with its next step (R276, R289). -/
structure Frame where
  tenant : BitVec 6 := 0
  cls    : Cls := .f
  gen    : BitVec 32 := 0
  change : Option (Cls × BitVec 6 × Nat) := none
deriving DecidableEq, Repr

/-- A transit slot (R349). -/
structure Transit where
  old : BitVec 36 := 0
  new : BitVec 36 := 0
  st  : BitVec 2 := 0
  err : Bool := false
  ptr : Nat := 0
deriving DecidableEq, Repr

/-- The states of a wavelength (R376, R377). -/
inductive WState where
  | active | leaving | training | joining | failed | off
deriving DecidableEq, Repr

/-- The registers of one wavelength of an incoming strand (R376), the mark for OFF and the failures in a row (R377). -/
structure Wave where
  st     : WState := .training
  berx   : BitVec 8 := 255
  retrains : BitVec 16 := 0
  cor    : Word := 0
  unc    : Word := 0
  off    : Bool := false
  thr    : BitVec 8 := 64
  marked : Bool := false
  fails  : Nat := 0
deriving DecidableEq, Repr

/-- The receiving end of a flow of the fabric or of a die pair: every number below `base` has been received, and of those from `base` on the listed
ones; a store that was refused keeps its answer (R375, R384). -/
structure Flow where
  base : Nat := 0
  got  : List Nat := []
  refused : List (Nat × BitVec 8) := []        -- stores that were refused, with the cause of their acknowledgement (R384)
deriving DecidableEq, Repr

/-- The receiving end of a strand: the link sequence number of the next flit, and whether a replay has been asked for
(R374). -/
structure Strand where
  next   : Nat := 0
  replay : Bool := false
deriving DecidableEq, Repr

/-- A record of a die's error log (R420). -/
structure LogRec where
  time  : Nat
  cause : BitVec 8
  cls   : BitVec 8
  addr  : Nat
  count : Nat
deriving DecidableEq, Repr

/-- A die. -/
structure Die where
  frames : Tab Frame
  wfrac  : Nat
  wsctl  : Word
  berths : Vector Berth 32
  tdeleg : Word
  tvdef  : Word
  sxdef  : Word
  slots  : Vector Transit 16
  cyc    : Nat                                 -- cycles since reset, in units of 1/32 cycle
  clk    : BitVec 4                            -- clock step (R432)
  trained : Bool                               -- bring-up training has ended: an unlisted wavelength is ACTIVE
  waves  : Tab Wave                            -- incoming wavelengths, by 128 * peer + 8 * strand + wavelength (R376)
  strands : Tab Strand                         -- incoming strands, by 16 * peer + strand (R374)
  flits  : Tab Flow                            -- the flits accepted, by the die they come from (R375)
  held   : List (Nat × Nat)                    -- flits kept for replay: the die they go to and their flow number (R374, R375)
  log    : List LogRec                         -- the error log, the oldest first (R279, R420)
deriving DecidableEq, Repr

/-! ## Caches -/

/-- A line in a quay or in the memory-side cache (R247, R292). `back` stands while the quay holds a newer copy of a line of the
memory-side cache: which granules of the older copy are poisoned (R280). -/
structure Line where
  dirty : Bool
  evp   : BitVec 2
  age   : Nat
  back  : Option (Bool × Bool) := none
deriving DecidableEq, Repr

/-- A window copy: die, tenant, pod line (R251). -/
structure Copy where
  die    : Nat
  tenant : BitVec 6
  line   : Nat
  evp    : BitVec 2
  age    : Nat
  at_    : Nat                                 -- the moment from which its bytes are (R252)
  data   : Nat                                 -- its 128 bytes
  poi    : BitVec 16                           -- its poisoned words
deriving DecidableEq, Repr

/-- A translation held by a TLB slice (R347). -/
structure TlbEntry where
  core   : Nat
  tenant : BitVec 6
  page   : Nat                                 -- bits [56:16] of the virtual address
  size   : Nat                                 -- pages of 64 KiB in the page that it is a piece of
  ppn    : BitVec 36
  flags  : BitVec 4                            -- U, X, W, R
  slot   : Option (BitVec 4)                   -- T and SLOT
deriving DecidableEq, Repr

/-- Where a stored error lies (R278). -/
inductive ErrAt where
  | hbm (unit : Nat)                           -- granule number: physical address / 64
  | quay (unit : Nat)                          -- word number: physical address / 8
  | local_ (unit : Nat)                        -- scratchpad, accumulator or weight-store word: physical address / 8
deriving DecidableEq, Repr

/-- A stored error that nothing has found yet: the bad bits of its granule or word, and whether its code misses it (R278): the bytes
of a copy then show it, and those of HBM do once they are fetched. -/
structure StoredErr where
  at_ : ErrAt
  mask : Nat
  esc : Bool := false
deriving DecidableEq, Repr

/-- A range of bytes whose values are indeterminate since a moment of the write history (R4): among all the values that they have
been given, or the latest `most` of them. -/
structure Indet where
  lo : Nat
  hi : Nat
  at_ : Nat
  most : Nat
deriving DecidableEq, Repr

/-- An answer to an atomic access or push that a home keeps (R329, R386): the old value, or the cause of a refusal. -/
structure Reply where
  home  : Nat
  src   : Nat
  tag   : BitVec 16
  cause : BitVec 8
  old   : Word
deriving DecidableEq, Repr

/-! ## Links between packages (R379 to R388) -/

/-- A port group: its dead lanes, whether it is resetting, since when it is out of service, and whether it is lost (R380 to
R383). -/
structure PortGroup where
  dead     : BitVec 72 := 0
  resetting : Bool := false
  outSince : Option Nat := none
  lost     : Bool := false
deriving DecidableEq, Repr

/-- A push on its way to another package: its sender, its number, its place in the flow, when it was first and last sent, and
how often (R384 to R386). -/
structure OutPush where
  hid   : Nat
  no    : Nat
  dst   : Nat
  seq   : Nat
  src   : Nat             -- its source and its sequence tag (R329, R386)
  tag   : BitVec 16
  first : Nat
  last  : Nat
  tries : Nat
  grp   : Option Nat      -- the port group on which it is in flight (R382, R383)
deriving DecidableEq, Repr

/-! ## Collectives (R390 to R411) -/

/-- A collective group descriptor (R390). -/
structure Group where
  gctl   : Word := 0
  gstage : Word := 0
  gmask0 : Word := 0
  gmask1 : Word := 0
deriving DecidableEq, Repr

/-- The collective instructions that form instances (R404). -/
inductive CollKind where
  | ar | rs | ag | bc | srs | bar
deriving DecidableEq, Repr

/-- One rank's call of an instance, with what a register form captured at issue (R391, R397, R405). -/
structure CollCall where
  hid    : Nat
  lrank  : Nat
  rank   : Nat                                 -- the global rank
  kind   : CollKind
  rop    : COp
  mem    : Bool
  tag    : Tag
  count  : Nat
  blk    : Nat
  root   : Nat
  vd     : Nat
  dst    : Word
  src    : Word
  pairs  : Nat                                 -- COLL.SRS: length of the list
  bits   : Nat                                 -- register forms: the source string, its poison, the scales and theirs
  poi    : Nat
  sc     : Nat
  scP    : Nat
  mode   : Mode
  tenant : BitVec 6
  inPlace : Bool
  spans  : List (Nat × Nat)                    -- the destination's bytes as they lay at issue: from, to
  reads  : List (Nat × Nat)                    -- the source's bytes likewise
  ord    : Nat                                 -- its place in program order among the collectives of its hart (R296)
  at_    : Nat                                 -- number of writes to memory before the issue
deriving DecidableEq, Repr

/-- The trees of a chunk (R392 to R395): the parent of each die, the root's being itself; the die path (5 for the fallback
tree); the package tree, or 2 in a single-package group. -/
structure ChunkTree where
  path : Nat
  par  : List Nat
  pkt  : Nat
deriving DecidableEq, Repr

/-- A staging slot in use (R397): local rank, chunk, slot, and what was copied: data, poison, scales, their poison. -/
structure Staged where
  lrank : Nat
  chunk : Nat
  slot  : Nat
  bits  : Nat
  poi   : Nat
  sc    : Nat
  scP   : Nat
deriving DecidableEq, Repr

/-- An instance in progress (R391, R396). -/
structure CollInst where
  grp    : Nat
  k      : Nat
  lid    : LaunchId
  calls  : List CollCall
  first  : Nat                                 -- `time` of its first call
  chunks : Nat
  marked : List Nat
  assign : List (Nat × ChunkTree)
  started : List Nat                           -- the chunks that have started (R397)
  slots  : List Staged
deriving DecidableEq, Repr

/-- The ending of an instance that COLL_FAULT ended, kept for late calls (R401): the local ranks that have not called. -/
structure CollEnd where
  grp    : Nat
  k      : Nat
  lid    : LaunchId
  reason : Nat
  missing : List Nat
deriving DecidableEq, Repr

/-- The status items of a global rank on a group (R411). -/
structure CollStat where
  lid    : LaunchId
  grp    : Nat
  rank   : Nat
  done   : Nat := 0
  reason : Nat := 0
  flags  : BitVec 6 := 0
  esc    : Nat := 0
  restarts : Nat := 0
  drop   : Nat := 0
deriving DecidableEq, Repr

/-! ## Host and service (file 15) -/

/-- A host function: its partition entry (R421), its launch-port status and its notification (R417). -/
structure Func where
  v      : Bool := false
  tenant : BitVec 6 := 0
  queue  : BitVec 6 := 0
  hw     : BitVec 16 := 0
  lastSeq : BitVec 24 := 0
  nref   : BitVec 16 := 0
  badwr  : Bool := false
  ref    : Bool := false
  code   : BitVec 8 := 0
  noteEn : Bool := false
  noteAt : BitVec 24 := 0
deriving DecidableEq, Repr

/-- A mailbox to Pilot (R418, R419): the request's length, GO, the response's length, READY, the two buffers. -/
structure Mailbox where
  len   : BitVec 16 := 0
  go    : Bool := false
  rlen  : BitVec 16 := 0
  ready : Bool := false
  req   : Tab Byte := []
  resp  : Tab Byte := []
deriving DecidableEq, Repr

/-- The states of an undock (R420, R428, R429). -/
inductive UndockSt where
  | running | released | failed
deriving DecidableEq, Repr

/-- The latest undock: the neighbour, the step and when it began, the state, when the undock began and ended, the queues that were enabled
before it, and the launches and parked gangs that step 3 has moved to the neighbour (R428, R429). -/
structure Undock where
  nb      : Nat
  step    : Nat
  st      : UndockSt
  began   : Nat
  stepAt  : Nat
  ended   : Nat
  queues  : BitVec 64
  launches : List Launch := []
  gangs   : List Gang := []
deriving DecidableEq, Repr

/-- A checked Crew image that waits for the system harts to finish their handlers, and where its CREW_START is answered (R424). -/
structure Handover where
  image : Tab Byte
  path  : Nat
  id    : List Byte
deriving DecidableEq, Repr

/-- What Pilot holds: its image banks, the Crew images, the class-map capacity record with its generation, the SPDM session,
the power cap (R420 to R432). -/
structure Pilot where
  banks   : Vector (Tab Byte) 2                -- Pilot images
  active  : Bool := false                      -- which bank is active
  staged  : Option Nat := none                 -- length of a checked image in the other bank
  crewNew : Tab Byte := []                     -- Crew staging store
  crew    : Tab Byte := []                     -- the running Crew image
  handover : Option Handover := none           -- the Crew image that takes over next (R424)
  trial   : Bool := false                      -- the active Pilot image is new and has not reported ready (R425)
  classes : List Nat                           -- frames of class F, D, N of each compute die
  gen     : BitVec 32 := 0                     -- record generation
  version : Bool := false                      -- SPDM: GET_VERSION done
  caps    : Bool := false                      -- SPDM: GET_CAPABILITIES done
  algs    : Bool := false                      -- SPDM: algorithms negotiated
  keyEx   : Bool := false                      -- SPDM: a key exchange has begun
  session : Bool := false                      -- SPDM: the session is established
  cap     : Nat := 7500                        -- power cap in W
  power   : Bool := true                       -- main power is applied
  alive   : Bool := false                      -- the I3C endpoint has outlived the removal of power (R432)
  owed    : List (Nat × List Byte) := []       -- answers that wait for READY of their mailbox to be clear (R418, R419)
deriving DecidableEq, Repr

/-- A response of SPDM (R423). -/
inductive SpdmRsp where
  | version
  | capabilities
  | algorithms (registry asym hash : Nat)
  | digests (d : BitVec 512)
  | certificate (bytes : Nat)
  | challengeAuth
  | measurements (blocks : List (Nat × BitVec 512 × Nat))
  | keyExchange
  | finish
  | error
deriving DecidableEq, Repr

/-- What leaves the package: an answer to a request of another package (R330, R384), a cumulative acknowledgement (R384), the
completion of a host read (R416), an MSI-X vector (R414, R417), a response on the I3C path (R420), an SPDM response with Pilot's signature (R423), bytes
of the identity store (R431), a PLDM event of a clock step and the reading of a PLDM sensor (R430), RELEASE (R428). -/
inductive Sent where
  | answer (src : Nat) (tag : BitVec 16) (cause : BitVec 8) (data : Nat)
  | ack (pkg upTo : Nat)
  | completion (fn : Nat) (abort : Bool) (data : Nat)
  | msi (fn vec : Nat)
  | response (bytes : List Byte)
  | spdm (r : SpdmRsp) (sig : Nat)
  | bus (bytes : List Byte)
  | clock (die : Nat) (step : BitVec 4)
  | sensor (kind die value : Nat)
  | release
deriving DecidableEq, Repr

/-! ## Requests from outside -/

/-- What a request of another agent does (R315, R324, R335): the atomic operation with its code (R57; 8 for CAS, 9 for BINC)
and element tag. -/
inductive OutKind where
  | read | write | atomic (op : Nat) (tag : Tag) | push (desc : Word) (tag : Tag) (elems : Nat)
deriving DecidableEq, Repr

/-- A request of an agent outside the package, as it arrives at its home (R273, R330, R384). -/
structure OutReq where
  src    : Nat
  tag    : BitVec 16
  kind   : OutKind
  mode   : Mode
  tenant : BitVec 6
  pod    : Nat
  n      : Nat
  data   : Nat
  data2  : Nat
deriving DecidableEq, Repr

/-- The part of another member package in a chunk (R399, R400): its elements that have a value, their bits under the tag and
their poison; for AG and BC the contribution of each of its ranks in order; for block-scaled add its integers with the scale
of each block, and its largest scale of each block. -/
structure PkgPart where
  has   : Nat
  bits  : Nat
  poi   : Nat
  ranks : List (Nat × Nat)
  ints  : List Int
  scales : List Nat
  tops  : List Nat
deriving DecidableEq, Repr

/-- What other packages bring into an instance: their parts, in ascending package number, or an ending with a reason. -/
inductive RallyIn where
  | parts (l : List PkgPart)
  | ended (reason : Nat)
deriving DecidableEq, Repr

/-! ## The package -/

/-- What the outside supplies with an event of the opcode table: the operands of the operation. -/
inductive Input where
  | none
  | hart (hid : Nat)                           -- a hart
  | unit (k : Nat)                             -- a cluster, a core, a die or another numbered unit
  | work (hid i j : Nat)                       -- entry `i` of a queue of a hart, and an index in it
  | nums (l : List Nat)                        -- the operands of an event in the order that its meaning gives
  | request (r : OutReq)                       -- a request of an agent outside the package
  | packet (src seq errs : Nat) (r : OutReq)   -- a packet of a fabric flow, with its unknown symbol errors (R380)
  | rally (l : LaunchId) (grp k c : Nat) (o : RallyIn)
  | message (path : Nat) (bytes : List Byte)   -- a message on path 0 (host), 1 (I3C) or 2 (system mailbox)
  | moved (l : Launch) (gs : List Gang)        -- a launch that an undock moves here, with its parked gangs (R429)
deriving DecidableEq, Repr
/-- Who moves next: a hart, an event of the opcode table, or time. -/
inductive Turn where
  | hart (hid : Nat)
  | ahead (hid n : Nat)                        -- the scalar unit of a hart goes over its next `n` instructions ahead of its vector queue (R20, R351)
  | event (i : Instr) (d : Input)
  | elapse (ns : Nat)
deriving DecidableEq, Repr

/-- The whole package. -/
structure State where
  hart    : Hart                               -- the hart in focus
  rest    : Tab Hart                           -- every other hart whose state differs from its reset state
  agenda  : List Turn
  input   : Input                              -- what the outside supplies with the present event
  pkg     : BitVec 7
  time    : Nat                                -- ns since reset (R136)
  -- memory and its marks
  mem     : List Host.Cell
  written : List (Nat × Byte × Nat)            -- address, byte and number of every write, the latest first
  zeroed  : List (Nat × Nat)                   -- ranges that the device has zeroed, the latest first
  wno     : Nat                                -- number of writes so far
  indet   : List Indet
  poison  : Tab Bool                           -- poisoned 4-byte units
  gran    : Tab Bool                           -- granules poisoned in HBM
  errs    : List StoredErr
  quay    : Tab Line                           -- home lines in quay ways, by line number
  msc     : Tab Line                           -- lines in the memory-side cache
  pack    : Tab (Nat × Nat)                    -- the physical line of its set, and the sectors, of each of them (R292)
  copies  : List Copy
  tlb     : List TlbEntry
  tick    : Nat                                -- age stamp
  -- dies, clusters, cores
  dies    : Vector Die 10
  clusters : Tab Cluster                       -- by 32 * die + cluster
  cores   : Tab Core                           -- by 128 * die + 4 * cluster + core
  -- scheduler
  queues  : Vector Queue 64
  launches : List Launch
  gangs   : List Gang
  promises : List Gang                         -- victims that are gone: their places stay promised to the launch of `forL` (R114)
  resvs   : List Reserve
  rr      : Nat                                -- round-robin pointer between queues (R106)
  schcfg  : Word
  ebdef   : Word
  asroot  : Vector Word 64
  parks   : Nat                                -- parkings so far
  -- trap report ring (R360)
  ring    : Vector (Vector Word 16) 64
  trqh    : Word
  trqt    : Word
  fault   : Bool                               -- a machine fault has stopped the package (R364)
  mgmtDie : Nat                                -- the management die (R427)
  atags   : Tab Nat                            -- next sequence tag, by source and home (R329)
  replies : List Reply                         -- the reply caches, the newest first (R329)
  lost    : List (Nat × Nat)                   -- home and source of the reply caches that a machine fault lost (R330)
  sent    : List Sent                          -- what the package has sent out, the latest first
  -- links
  ltab    : Tab Word                           -- the live link table's die pairs, by 10 * from + to (R387)
  ltpg    : Vector Word 2                      -- LTPG (R388)
  reach   : Vector (BitVec 128) 2              -- LTRCH: packages routed through port groups A and B (R388)
  lttree  : Word                               -- LTTREE
  ltevt   : Word                               -- LTEVT
  pgs     : Vector PortGroup 2
  flows   : Tab Flow                           -- by source package (R384)
  outNo   : Tab Nat                            -- packets sent, by destination package (R384)
  outbox  : List OutPush
  -- collectives
  groups  : Vector Group 64
  insts   : List CollInst
  ends    : List CollEnd
  stats   : List CollStat
  -- host and service
  funcs   : Vector Func 64
  hmb     : Mailbox                            -- management mailbox of function 0 (R418)
  smb     : Mailbox                            -- system mailbox (R419)
  port1   : Bool                               -- PCI Express port 1 is the active one (R414)
  pilot   : Pilot
  undock  : Option Undock
  -- the model's own
  free    : Nat                                -- how many free values have been used
deriving DecidableEq, Repr

/-- Why the machine stops with a fault: no rule of this hardware stops the whole machine in a way that leaves it no next
state, so that no meaning raises one. -/
inductive Fault where
  /-- Raised by nothing; kept so that the type has a name for a step that cannot go on. Safe. -/
  | stuck
deriving DecidableEq, Repr

/-- Why an instruction has no meaning in the model. -/
inductive Refusal where
  /-- An arm of the dispatcher that has no meaning yet. Safe: nothing can be proved about what it does. -/
  | notModelled (mnemonic : String)
deriving DecidableEq, Repr

/-! ## Reset -/

/-- The die field of a `hid` (R22). -/
def hidDie (h : BitVec 20) : Nat := (h.extractLsb' 9 4).toNat
/-- The cluster field of a `hid`. -/
def hidCluster (h : BitVec 20) : Nat := (h.extractLsb' 4 5).toNat
/-- The core field of a `hid`. -/
def hidCore (h : BitVec 20) : Nat := (h.extractLsb' 2 2).toNat
/-- The hart field of a `hid`. -/
def hidHart (h : BitVec 20) : Nat := (h.extractLsb' 0 2).toNat

/-- The mode of a hart that runs nothing yet (R28): P on the management hart, S on the system harts, U elsewhere. -/
def hidMode (h : BitVec 20) : Mode :=
  if hidDie h < 8 then .u else if hidCluster h = 31 then .p else .s

/-- A hart after the reset of its package. -/
def Hart.reset (hid : BitVec 20) : Hart where
  hid := hid
  run := .idle
  mode := hidMode hid
  tenant := 0
  launch := none
  gid := 0
  kclass := 0
  pc := 0
  x := Vector.replicate 64 0
  sb := Vector.replicate 4 0
  xcor := 0
  xbad := 0
  p := Vector.replicate 16 0
  pcor := 0
  pbad := 0
  vl := 1
  vh := 1
  regs := 0
  nxt := 0
  blk := 0
  vstart := 0
  vdirty := 0
  vqin := 0
  vqout := 0
  fm := 0
  vst := 0
  vpoi := 0
  vcor := []
  struck := []
  vtag := Vector.replicate 64 0
  full := 0
  resv := []
  fcsr := 0
  instret := 0
  mgrant := 0
  tcause := 0
  tepc := 0
  tval := 0
  tvec := 0
  tstat := 0
  fb := Vector.replicate 8 0
  tcmp := 0
  report := none
  posted := false
  pend := {}
  tok := 0
  cc := Vector.replicate 8 0
  win := Vector.replicate 4 none
  unf := none
  copyQ := []
  copySt := {}
  nbQ := []
  nbSt := {}
  inWait := false
  woken := false
  mq := []
  pushes := []
  pushNo := 0
  colls := []
  collCnt := []
  collRank := []
  collRes := []
  stopAt := none
  preempting := false
  depth := 0
  exiting := false
  reissue := false
  waitStart := none
  headSince := 0
  ahead := []
  trapped := false

/-- An unlisted hart is in its reset state. -/
def restHart (k : Nat) : Hart := Hart.reset (BitVec.ofNat 20 k)

/-- A core after reset. -/
def Core.reset : Core := ⟨.f, [], [], Vector.replicate 4 0⟩
/-- A cluster after reset. -/
def Cluster.reset : Cluster := ⟨Vector.replicate 16 {}, [], Vector.replicate 8 none⟩

/-- A die after reset (R249, R256, R276, R349, R360). -/
def Die.reset : Die where
  frames := []
  wfrac := 0
  wsctl := 256#16 ++ 0#10 ++ 20#6 ++ 0xFFFFFFFF#32
  berths := Vector.replicate 32 {}
  tdeleg := 0
  tvdef := 0
  sxdef := 0
  slots := Vector.replicate 16 {}
  cyc := 0
  clk := 0
  trained := false
  waves := []
  strands := []
  flits := []
  held := []
  log := []

/-- The package right after reset: no power-on sequence has run, no launch exists, and no hart runs. -/
def State.reset : State where
  hart := Hart.reset 0
  rest := []
  agenda := []
  input := .none
  pkg := 0
  time := 0
  mem := []
  written := []
  zeroed := []
  wno := 0
  indet := []
  poison := []
  gran := []
  errs := []
  quay := []
  msc := []
  pack := []
  copies := []
  tlb := []
  tick := 0
  dies := Vector.replicate 10 Die.reset
  clusters := []
  cores := []
  queues := Vector.replicate 64 {}
  launches := []
  gangs := []
  promises := []
  resvs := []
  rr := 0
  schcfg := 0#53 ++ 14#5 ++ 16#6
  ebdef := 0xFFFFFFFFFFFFFFFF
  asroot := Vector.replicate 64 0
  parks := 0
  ring := Vector.replicate 64 (Vector.replicate 16 0)
  trqh := 0
  trqt := 0
  fault := false
  mgmtDie := 8
  atags := []
  replies := []
  lost := []
  sent := []
  ltab := []
  ltpg := Vector.replicate 2 0
  reach := Vector.replicate 2 0
  lttree := 0
  ltevt := 0
  pgs := Vector.replicate 2 {}
  flows := []
  outNo := []
  outbox := []
  groups := Vector.replicate 64 {}
  insts := []
  ends := []
  stats := []
  funcs := (Vector.replicate 64 ({} : Func)).set 0 { v := true }
  hmb := {}
  smb := {}
  port1 := false
  pilot := { banks := Vector.replicate 2 [], classes := (List.replicate 8 [128, 0, 0]).flatten }
  undock := none
  free := 0


end Sys2Proof.Machine
end

