-- ==== Sys2Proof/Machine/Base.lean ====
section
/-! DEFINITION. Named reads and writes of the state: every register has one home and is reached through these. -/

namespace Sys2Proof.Machine
open Sys2Proof

/-! ## Names of harts, cores and clusters -/

/-- The key of a hart's cluster: 32 * die + cluster. -/
def clusterKey (h : BitVec 20) : Nat := 32 * hidDie h + hidCluster h
/-- The key of a hart's core: 128 * die + 4 * cluster + core. -/
def coreKey (h : BitVec 20) : Nat := 4 * clusterKey h + hidCore h
/-- The index 4 * core + hart of a hart in its cluster (R302). -/
def hartJ (h : BitVec 20) : Nat := 4 * hidCore h + hidHart h
/-- The index 16 * cluster + 4 * core + hart of a hart on its die (R354). -/
def hartI (h : BitVec 20) : Nat := 16 * hidCluster h + hartJ h
/-- The package field of a `hid`. -/
def hidPkg (h : BitVec 20) : BitVec 7 := h.extractLsb' 13 7
/-- The `hid` of hart `j` of a cluster key, in package `p`. -/
def mkHid (p : BitVec 7) (cl j : Nat) : BitVec 20 :=
  p ++ BitVec.ofNat 4 (cl / 32) ++ BitVec.ofNat 5 (cl % 32) ++ BitVec.ofNat 4 j

/-- Compute harts lie on dies 0 to 7 (R22). -/
def Hart.isCompute (h : Hart) : Bool := decide (hidDie h.hid < 8)
/-- The management hart (R19, R22). -/
def Hart.isMgmt (h : Hart) : Bool := decide (8 ≤ hidDie h.hid) && hidCluster h.hid == 31
/-- System harts (R18, R22). -/
def Hart.isSys (h : Hart) : Bool := decide (8 ≤ hidDie h.hid) && hidCluster h.hid != 31

/-- Whether a number in the form of a `hid` names a hart of package `p` whose management die is `m` (R22). -/
def namesHart (p : BitVec 7) (m : Nat) (h : BitVec 20) : Bool :=
  hidPkg h == p &&
  (decide (hidDie h < 8) ||
   (decide (hidDie h < 10) && hidCluster h == 0) ||
   (hidDie h == m && hidCluster h == 31 && hidCore h == 0 && hidHart h == 0))

/-! ## Updates of the parts of the state -/

/-- Changes the hart in focus. -/
def State.upd (s : State) (f : Hart → Hart) : State := { s with hart := f s.hart }

/-- The hart with a given `hid`. -/
def State.getHart (s : State) (hid : BitVec 20) : Hart :=
  if s.hart.hid = hid then s.hart else Tab.get restHart s.rest hid.toNat
/-- Writes a hart back. -/
def State.setHart (s : State) (h : Hart) : State :=
  if s.hart.hid = h.hid then { s with hart := h } else { s with rest := Tab.set restHart s.rest h.hid.toNat h }
/-- Changes the hart with a given `hid`. -/
def State.updHart (s : State) (hid : BitVec 20) (f : Hart → Hart) : State := s.setHart (f (s.getHart hid))
/-- Brings a hart into focus. -/
def State.focus (s : State) (hid : BitVec 20) : State :=
  if s.hart.hid = hid then s else
  let h := Tab.get restHart s.rest hid.toNat
  { s with hart := h, rest := Tab.set restHart (Tab.erase hid.toNat s.rest) s.hart.hid.toNat s.hart }

/-- The die with a given number. -/
def State.die (s : State) (d : Nat) : Die := if h : d < 10 then s.dies[d] else Die.reset
/-- Changes a die. -/
def State.updDie (s : State) (d : Nat) (f : Die → Die) : State :=
  if h : d < 10 then { s with dies := s.dies.set d (f s.dies[d]) } else s
/-- The core with a given key. -/
def State.core (s : State) (k : Nat) : Core := Tab.get (fun _ => Core.reset) s.cores k
/-- Changes a core. -/
def State.updCore (s : State) (k : Nat) (f : Core → Core) : State :=
  { s with cores := Tab.set (fun _ => Core.reset) s.cores k (f (s.core k)) }
/-- The cluster with a given key. -/
def State.cluster (s : State) (k : Nat) : Cluster := Tab.get (fun _ => Cluster.reset) s.clusters k
/-- Changes a cluster. -/
def State.updCluster (s : State) (k : Nat) (f : Cluster → Cluster) : State :=
  { s with clusters := Tab.set (fun _ => Cluster.reset) s.clusters k (f (s.cluster k)) }
/-- The launch queue with a given number. -/
def State.queue (s : State) (q : Nat) : Queue := if h : q < 64 then s.queues[q] else {}
/-- Changes a launch queue. -/
def State.updQueue (s : State) (q : Nat) (f : Queue → Queue) : State :=
  if h : q < 64 then { s with queues := s.queues.set q (f s.queues[q]) } else s
/-- The frame table entry `f` of a die (R276). -/
def State.frame (s : State) (d f : Nat) : Frame := Tab.get (fun _ => {}) (s.die d).frames f
/-- Changes a frame table entry. -/
def State.updFrame (s : State) (d f : Nat) (g : Frame → Frame) : State :=
  s.updDie d (fun die => { die with frames := Tab.set (fun _ => {}) die.frames f (g (Tab.get (fun _ => {}) die.frames f)) })

/-- The launch with a given identity. -/
def State.launchOf (s : State) (l : LaunchId) : Option Launch := s.launches.find? (fun x => x.lid == l)
/-- Changes one launch. -/
def State.updLaunch (s : State) (l : LaunchId) (f : Launch → Launch) : State :=
  { s with launches := s.launches.map (fun x => if x.lid = l then f x else x) }
/-- Changes the gangs that meet a condition. -/
def State.updGangs (s : State) (c : Gang → Bool) (f : Gang → Gang) : State :=
  { s with gangs := s.gangs.map (fun g => if c g then f g else g) }
/-- The gang that holds a hart: resident, or being pre-empted. -/
def State.gangOf (s : State) (hid : BitVec 20) : Option Gang :=
  s.gangs.find? (fun g => g.st != .parked && g.live.contains hid.toNat)

/-- The cycle counter of a die (R136). -/
def State.cycleOf (s : State) (d : Nat) : Nat := (s.die d).cyc / 32
/-- The cycle counter of the hart in focus. -/
def State.cycle (s : State) : Nat := s.cycleOf (hidDie s.hart.hid)

/-- Uses up one free value: its number, and the state behind it. -/
def State.fresh (s : State) : Nat × State := (s.free, { s with free := s.free + 1 })

/-! ## Scalar registers and predicates (R130, R131, R358) -/

/-- Whether a register name refers to the S bank (R358). -/
def Hart.inSBank (h : Hart) (i : XReg) : Bool := h.isCompute && h.mode == .s && decide (60 ≤ i.toNat)

/-- A scalar register of a hart; `x0` reads 0. -/
def Hart.getX (h : Hart) (i : XReg) : Word :=
  if i = 0 then 0
  else if h.inSBank i then h.sb[(i.extractLsb' 0 2).toNat]'(i.extractLsb' 0 2).isLt
  else h.x[i.toNat]'i.isLt

/-- The place of a register in the error marks. -/
def Hart.errIx (h : Hart) (i : XReg) : Nat := if h.inSBank i then i.toNat + 4 else i.toNat

/-- Clears one bit. -/
def clearBit {w : Nat} (v : BitVec w) (i : Nat) : BitVec w := v &&& ~~~(BitVec.twoPow w i)
/-- Sets one bit. -/
def setBit {w : Nat} (v : BitVec w) (i : Nat) : BitVec w := v ||| BitVec.twoPow w i
/-- Writes one bit. -/
def putBit {w : Nat} (v : BitVec w) (i : Nat) (b : Bool) : BitVec w := if b then setBit v i else clearBit v i

/-- Writes a scalar register of a hart; a write to `x0` is ignored. A write replaces a stored error. -/
def Hart.setX (h : Hart) (i : XReg) (v : Word) : Hart :=
  if i = 0 then h else
  let h' := { h with xcor := clearBit h.xcor (h.errIx i), xbad := clearBit h.xbad (h.errIx i) }
  if h.inSBank i then { h' with sb := h'.sb.set (i.extractLsb' 0 2).toNat v (i.extractLsb' 0 2).isLt }
  else { h' with x := h'.x.set i.toNat v i.isLt }

/-- `X(i)` of the hart in focus (R14). -/
def State.x (s : State) (i : XReg) : Word := s.hart.getX i
/-- Writes `X(i)` of the hart in focus. -/
def State.setX (s : State) (i : XReg) (v : Word) : State := s.upd (fun h => h.setX i v)

/-- A predicate register of a hart; `p0` reads all ones (R131). -/
def Hart.getP (h : Hart) (i : PReg) : BitVec 32768 :=
  if i = 0 then BitVec.allOnes 32768 else h.p[i.toNat]'i.isLt
/-- Writes a predicate register; a write to `p0` is ignored. -/
def Hart.setP (h : Hart) (i : PReg) (v : BitVec 32768) : Hart :=
  if i = 0 then h else
  { h with p := h.p.set i.toNat v i.isLt, pcor := clearBit h.pcor i.toNat, pbad := clearBit h.pbad i.toNat }
/-- A predicate register of the hart in focus. -/
def State.pred (s : State) (i : PReg) : BitVec 32768 := s.hart.getP i
/-- Writes a predicate register of the hart in focus. -/
def State.setP (s : State) (i : PReg) (v : BitVec 32768) : State := s.upd (fun h => h.setP i v)

/-- Bit 0 of the guard predicate, inverted by PN (R39). -/
def Hart.guard (h : Hart) (g : Grd) : Bool := (h.getP g.pg).getLsbD 0 != g.pn
/-- `Active(e)` (R14). -/
def Hart.active (h : Hart) (g : Grd) (e : Nat) : Bool := (h.getP g.pg).getLsbD e != g.pn

/-! ## fcsr (R93) -/

/-- Sets sticky flags. -/
def State.raise (s : State) (f : Flags) : State := s.upd (fun h => { h with fcsr := h.fcsr ||| f.setWidth 64 })

/-- The mode of a code of `fcsr.RM` (R87); the two codes that RM never holds read as RNE. -/
def rmOf (c : BitVec 3) : RMode :=
  match c.toNat with
  | 1 => .rtz | 2 => .rdn | 3 => .rup | 4 => .rmm | 5 => .sr | _ => .rne

/-- The mode that a field RND selects (R49, R87). -/
def Hart.rmode (h : Hart) (rnd : BitVec 2) : RMode :=
  match rnd.toNat with
  | 1 => .rne | 2 => .rtz | 3 => .sr | _ => rmOf (h.fcsr.extractLsb' 8 3)

/-- The generator state S (R88). -/
def Hart.seed (h : Hart) : BitVec 32 := h.fcsr.extractLsb' 32 32
/-- Writes the generator state. -/
def Hart.setSeed (h : Hart) (v : BitVec 32) : Hart := { h with fcsr := seedStore v ++ h.fcsr.extractLsb' 0 32 }
/-- Advances the generator once when an instruction drew at least one word (R88). -/
def State.advanceSeed (s : State) (drew : Bool) : State :=
  if drew then s.upd (fun h => { h with fcsr := seedNext h.seed ++ h.fcsr.extractLsb' 0 32 }) else s

/-! ## Vector register storage (R153, R154) -/

/-- The register count in force (R166). -/
def Hart.nregs (h : Hart) : Nat := 8 * 2 ^ h.regs.toNat
/-- Bits of one register. -/
def Hart.regBits (h : Hart) : Nat := Config.vstBits / h.nregs
/-- Elements of the tile: `vl` × `vh`. -/
def Hart.n (h : Hart) : Nat := h.vl * h.vh
/-- Block size BLK (R166). -/
def Hart.blkSize (h : Hart) : Nat := 4 * 2 ^ h.blk.toNat

/-- MVL of a tag under register count `nr` (R154). -/
def mvl (t : Tag) (nr : Nat) : Nat :=
  let bytes := Config.vstBytes / nr
  if t.isBlock then 32 * (bytes / (tagBlockBits t / 8)) else if t = .none then 0 else 8 * bytes / tagWidth t

/-- The tag of a vector register. -/
def Hart.tag (h : Hart) (v : Nat) : Tag := if hv : v < 64 then (Tag.ofCode? h.vtag[v]).getD .none else .none

/-- Field `e` of width `w` of a string. -/
def elemAt (w bits e : Nat) : Nat := (bits >>> (e * w)) % 2 ^ w
/-- A string with field `e` of width `w` replaced. -/
def putElem (w bits e v : Nat) : Nat := bits - (elemAt w bits e) <<< (e * w) + (v % 2 ^ w) <<< (e * w)

/-- The string of a register. -/
def Hart.vstr (h : Hart) (v : Nat) : Nat := elemAt h.regBits h.vst.toNat v
/-- The poisoned bits of a register. -/
def Hart.vpoiStr (h : Hart) (v : Nat) : Nat := elemAt h.regBits h.vpoi.toNat v
/-- Whether a bit of vector storage lies in one of the listed fields of width `w` of the register that begins at `lo`. -/
def inFields (lo w : Nat) (es : List Nat) (b : Nat) : Bool := es.any (fun e => decide (lo + e * w ≤ b ∧ b < lo + e * w + w))
/-- Errors not yet found in words of vector storage that a write replaces whole are gone; `here` names the written bits. -/
def Hart.freshen (h : Hart) (here : Nat → Bool) : Hart :=
  if h.vcor.isEmpty then h
  else { h with vcor := h.vcor.filter (fun k => !(List.range 64).all (fun b => here (64 * k + b))) }
/-- Writes a register's string and poison, and sets its bit of `vdirty` (R164). -/
def Hart.putStr (h : Hart) (v bits poi : Nat) : Hart :=
  { h with
    vst := BitVec.ofNat 1048576 (putElem h.regBits h.vst.toNat v bits)
    vpoi := if h.vpoi = 0 ∧ poi = 0 then h.vpoi else BitVec.ofNat 1048576 (putElem h.regBits h.vpoi.toNat v poi)
    vdirty := setBit h.vdirty v }

/-- Replaces the low `n` bits of a register and of its poison. -/
def Hart.putLow (h : Hart) (v n bits poi : Nat) : Hart :=
  (h.putStr v (putElem n (h.vstr v) 0 bits) (putElem n (h.vpoiStr v) 0 poi)).freshen (inFields (v * h.regBits) n [0])
/-- Writes the held results of register-form collectives (R402). -/
def Hart.landRes (h : Hart) : Hart :=
  h.collRes.foldl (fun h r =>
    let h := h.putLow r.vd r.n r.bits r.poi
    match r.scale with
    | some (n, b, p) => h.putLow (r.vd + 1) n b p
    | none => h) { h with collRes := [] }

end Sys2Proof.Machine
end

