-- ==== Sys2Proof/Machine/Store.lean ====
section
/-! DEFINITION. The bytes of the package and their marks: reading and writing bytes at a physical address, indeterminate
ranges (R4), poison (R280). A physical address is die * 2^41 + die-local offset (R271). Scratchpads, accumulator stores,
tile status words and the weight store lie in the same address space (R242), so that one table holds all bytes. -/

namespace Sys2Proof.Machine
open Sys2Proof

/-! ## The canonical form of memory -/

/-- What a byte that nothing has written reads as: 0 (DESIGN CHOICE, log 4). -/
def Memory.unlisted (_ : Nat) : Byte := 0

/-- The canonical form: addresses strictly rise, and no entry equals what an unlisted address reads as. -/
def Memory.wf (m : List Host.Cell) : Bool := Tab.wf Memory.unlisted m

/-- The byte that memory holds at an address, whatever is indeterminate. -/
def State.rawByte (s : State) (a : Nat) : Byte := Tab.get Memory.unlisted s.mem a

/-! ## Indeterminate bytes (R4) -/

/-- The values that earlier writes gave a byte, the latest first. -/
def earlier (a : Nat) : List (Nat × Byte × Nat) → List Byte
  | [] => []
  | (b, v, _) :: t => if a = b then v :: earlier a t else earlier a t

/-- The number of the latest write to a byte; 0 when nothing has written it. -/
def lastWrite (a : Nat) : List (Nat × Byte × Nat) → Nat
  | [] => 0
  | (b, _, n) :: t => if a = b then n else lastWrite a t

/-- The mark that makes a byte indeterminate, unless a later write has given it a value. -/
def State.indetMark (s : State) (a : Nat) : Option Indet :=
  s.indet.find? (fun r => decide (r.lo ≤ a ∧ a < r.hi ∧ lastWrite a s.written ≤ r.at_))

/-- The values that a byte has been given, the latest first: those that writes gave it, and 0 where the device has zeroed it. -/
def State.given (s : State) (a : Nat) : List Byte :=
  earlier a s.written ++ (if s.zeroed.any (fun r => decide (r.1 ≤ a ∧ a < r.2)) then [0] else [])

/-- The byte at a physical address. An indeterminate byte shows one of the values that it has been given (R4), or one of the
latest few where its mark says so (R254); which one is free (log 4). A byte that has been given none reads as at power-on. -/
def State.byte (s : State) (a : Nat) : Byte :=
  match s.indetMark a with
  | none => s.rawByte a
  | some r =>
    let vs := if r.most = 0 then s.given a else (s.given a).take r.most
    if vs.isEmpty then s.rawByte a else vs.getD (Config.pick (r.at_ * 2 ^ 45 + a) vs.length % vs.length) (s.rawByte a)

/-- Reads `n` bytes as one little-endian value (R6). -/
def State.bytes (s : State) (a : Nat) : Nat → Nat
  | 0 => 0
  | n + 1 => (s.byte a).toNat + 256 * s.bytes (a + 1) n

/-- Writes one byte, and keeps the value in the history of the byte. -/
def State.putByte (s : State) (a : Nat) (v : Byte) : State :=
  { s with mem := Tab.set Memory.unlisted s.mem a v, written := (a, v, s.wno + 1) :: s.written, wno := s.wno + 1 }

/-- Writes the `n` low bytes of a value, least significant first (R6). -/
def State.putBytes (s : State) (a : Nat) : Nat → Nat → State
  | 0, _ => s
  | n + 1, v => (s.putByte a (BitVec.ofNat 8 v)).putBytes (a + 1) n (v / 256)

/-- Takes a range out of a list of indeterminate ranges. -/
def cutIndet (lo hi : Nat) : List Indet → List Indet
  | [] => []
  | r :: t =>
    let left := if r.lo < min r.hi lo then [{ r with hi := min r.hi lo }] else []
    let right := if max r.lo hi < r.hi then [{ r with lo := max r.lo hi }] else []
    left ++ right ++ cutIndet lo hi t

/-- Makes the bytes from `lo` below `hi` read as zero, with no poison and no earlier values. -/
def State.zeroRange (s : State) (lo hi : Nat) : State :=
  { s with mem := Tab.clearRange lo hi s.mem
           written := s.written.filter (fun w => !(decide (lo ≤ w.1) && decide (w.1 < hi)))
           zeroed := (lo, hi) :: s.zeroed.filter (fun r => !(decide (lo ≤ r.1) && decide (r.2 ≤ hi)))
           indet := cutIndet lo hi s.indet
           poison := Tab.clearRange (lo / 4) ((hi + 3) / 4) s.poison }

/-- Makes the bytes from `lo` below `hi` indeterminate from now on (R4): any value that a write gave them. -/
def State.markIndet (s : State) (lo hi : Nat) : State :=
  if lo < hi then { s with indet := ⟨lo, hi, s.wno, 0⟩ :: s.indet } else s
/-- Makes them indeterminate between the latest two values that they have been given. -/
def State.markNear (s : State) (lo hi : Nat) : State :=
  if lo < hi then { s with indet := ⟨lo, hi, s.wno, 2⟩ :: s.indet } else s

/-! ## Poison (R280) -/

/-- Whether a 4-byte unit is poisoned. -/
def State.unitBad (s : State) (u : Nat) : Bool := Tab.get (fun _ => false) s.poison u
/-- Marks or clears `n` units from `u` on. -/
def State.setUnits (s : State) (u : Nat) (b : Bool) : Nat → State
  | 0 => s
  | n + 1 => ({ s with poison := Tab.set (fun _ => false) s.poison u b }).setUnits (u + 1) b n
/-- Whether any of `n` units from `u` on is poisoned. -/
def State.anyUnit (s : State) (u : Nat) : Nat → Bool
  | 0 => false
  | n + 1 => s.unitBad u || s.anyUnit (u + 1) n

/-- The die of a physical address. -/
def paDie (a : Nat) : Nat := a / 2 ^ 41
/-- The die-local offset of a physical address. -/
def paOff (a : Nat) : Nat := a % 2 ^ 41

/-- The regions of a die (R242, R272). -/
inductive Region where
  | hbm | spm | acc | ws | sys | hole
deriving DecidableEq, Repr

/-- The region of a physical address (R242, R272). -/
def regionOf (a : Nat) : Region :=
  let o := paOff a
  if paDie a < 8 then
    if o < 0x2000000000 then .hbm
    else if o < 0x10000000000 then .hole
    else if o < 0x10010000000 then .spm
    else if o < 0x11000000000 then .hole
    else if o < 0x12000000000 then .acc
    else if o < 0x12020000000 then .ws
    else if o < 0x18000000000 then .hole
    else .sys
  else if paDie a < 10 then
    if 0x10000000000 ≤ o ∧ o < 0x10000800000 then .spm
    else if 0x18000000000 ≤ o then .sys
    else .hole
  else .hole

/-- The 4-byte units that one poison mark covers at an address: an element of the accumulator store, else a word. -/
def unitSpan (a n : Nat) : Nat × Nat :=
  if regionOf a = .acc then (a / 4, (a + n - 1) / 4 - a / 4 + 1)
  else (a / 8 * 2, 2 * ((a + n - 1) / 8 - a / 8 + 1))

/-- Whether a read of `n` bytes touches a poisoned word or element (R280). -/
def State.poisonedAt (s : State) (a n : Nat) : Bool :=
  if n = 0 then false else s.anyUnit (unitSpan a n).1 (unitSpan a n).2

/-- Clears the poison of every word (in the accumulator store, element) that an access writes whole (R280). -/
def State.clearWhole (s : State) (a n : Nat) : State :=
  if regionOf a = .acc then
    let lo := (a + 3) / 4
    s.setUnits lo false ((a + n) / 4 - lo)
  else
    let lo := (a + 7) / 8
    s.setUnits (2 * lo) false (2 * ((a + n) / 8 - lo))

/-- Poisons every word (or element) that `n` bytes at an address touch. -/
def State.poisonAt (s : State) (a n : Nat) : State :=
  if n = 0 then s else s.setUnits (unitSpan a n).1 true (unitSpan a n).2

/-- The bits of a tile status word that a byte of it holds (R218). -/
def statMask (a : Nat) : Nat := match a % 8 with | 0 => 0x37 | 1 => 1 | _ => 0
/-- A value cut to the bits that its bytes hold: all of them, but for the tile status words. -/
def cutStat (a : Nat) : Nat → Nat → Nat
  | 0, _ => 0
  | n + 1, v => ((v % 256) &&& statMask a) + 256 * cutStat (a + 1) n (v / 256)
/-- What a store of `n` bytes leaves of a value at an address. -/
def heldBits (a n v : Nat) : Nat :=
  if regionOf a = .acc ∧ 0x1C0000 ≤ paOff a % 2 ^ 21 then cutStat a n v else v

/-- Performs a store of `n` bytes at its home: the bytes, and the poison rule of R280. -/
def State.store (s : State) (a n v : Nat) : State := (s.putBytes a n (heldBits a n v)).clearWhole a n

/-- A string of bytes with the poison of its words as poisoned bits. -/
def State.stringAt (s : State) (pa n : Nat) : Nat × Nat :=
  (s.bytes pa n, packNat 8 ((List.range n).map (fun i => if s.poisonedAt (pa + i) 1 then 0xFF else 0)))

end Sys2Proof.Machine
end

