-- ==== Sys2Proof/Machine/Rally.lean ====
section
/-! DEFINITION. Collective groups, and the ending of instances (R390, R391, R401, R402, R411); the notifications of launch queues
(R417). -/

namespace Sys2Proof.Machine
open Sys2Proof

/-! ## Group descriptors (R390) -/

/-- A group descriptor. -/
def State.group (s : State) (g : Nat) : Group := if h : g < 64 then s.groups[g] else {}
/-- Changes a group descriptor. -/
def State.updGroup (s : State) (g : Nat) (f : Group → Group) : State :=
  if h : g < 64 then { s with groups := s.groups.set g (f s.groups[g]) } else s
/-- The fields of GCTL. -/
def Group.en (g : Group) : Bool := g.gctl.getLsbD 0
def Group.tmo (g : Group) : Nat := (g.gctl.extractLsb' 16 16).toNat
def Group.win (g : Group) : Nat := (g.gctl.extractLsb' 32 8).toNat
def Group.rpp (g : Group) : Nat := (g.gctl.extractLsb' 40 12).toNat + 1
def Group.queue (g : Group) : BitVec 6 := g.gctl.extractLsb' 52 6
def Group.tenant (g : Group) : BitVec 6 := g.gctl.extractLsb' 58 6
/-- The member packages, ascending. -/
def Group.members (g : Group) : List Nat :=
  (List.range 128).filter (fun p => if p < 64 then g.gmask0.getLsbD p else g.gmask1.getLsbD (p - 64))
/-- The number of ranks G (R391). -/
def Group.ranks (g : Group) : Nat := g.members.length * g.rpp
/-- The index of a package among the members. -/
def Group.posOf (g : Group) (p : Nat) : Nat := (g.members.filter (fun m => decide (m < p))).length
/-- The writable bits of GCTL other than EN, and of GSTAGE. -/
def gctlMask : Word := 0xFFFFFFFFFFFF0000
def gstageMask : Word := 0x000FFFFFFFFF0000

/-! ## Instances -/

/-- Whether an instance has a given name. -/
def CollInst.named (x : CollInst) (l : LaunchId) (grp k : Nat) : Bool := x.lid == l && x.grp == grp && x.k == k
/-- The instance with a given name. -/
def State.inst (s : State) (l : LaunchId) (grp k : Nat) : Option CollInst := s.insts.find? (fun x => x.named l grp k)
/-- Replaces an instance. -/
def State.putInst (s : State) (x : CollInst) : State :=
  { s with insts := s.insts.map (fun y => if y.named x.lid x.grp x.k then x else y) }
/-- Takes an instance away. -/
def State.dropInst (s : State) (x : CollInst) : State :=
  { s with insts := s.insts.filter (fun y => !y.named x.lid x.grp x.k) }

/-- The memory as a reader sees it: while an instance runs, the bytes of its destinations are indeterminate (R403). -/
def State.seen (s : State) : State :=
  if s.insts.isEmpty then s
  else { s with indet := s.insts.flatMap (fun x => x.calls.flatMap (fun c => c.spans.map (fun r => (⟨r.1, r.2, s.wno, 0⟩ : Indet)))) ++ s.indet }
/-- The state in which an instance itself reads and writes: to it, its own destinations are what they are. -/
def State.ownView (s : State) (x : CollInst) : State :=
  { s with insts := s.insts.filter (fun y => !y.named x.lid x.grp x.k) }

/-! ## Order between the collectives of a hart (R296) -/

/-- Whether two lists of byte ranges share a byte. -/
def rangesShare (a b : List (Nat × Nat)) : Bool := a.any (fun r => b.any (fun q => decide (max r.1 q.1 < min r.2 q.2)))
/-- Whether two calls access a common byte, which one of them writes. -/
def CollCall.clash (c d : CollCall) : Bool :=
  rangesShare c.spans d.spans || rangesShare c.spans d.reads || rangesShare c.reads d.spans
/-- Whether an instance must wait: an earlier collective of one of its harts, in progress still, accesses a byte of its own. -/
def State.collHeld (s : State) (x : CollInst) : Bool :=
  s.insts.any (fun y => y.lid == x.lid && y.calls.any (fun d => x.calls.any (fun c =>
    c.hid == d.hid && decide (d.ord < c.ord) && c.clash d)))

/-! ## Status items (R411) -/

/-- The status of a rank, from 0 on. -/
def State.stat (s : State) (l : LaunchId) (grp rank : Nat) : CollStat :=
  (s.stats.find? (fun c => c.lid == l && c.grp == grp && c.rank == rank)).getD { lid := l, grp := grp, rank := rank }
/-- Changes the status of a rank. -/
def State.updStat (s : State) (l : LaunchId) (grp rank : Nat) (f : CollStat → CollStat) : State :=
  let c := f (s.stat l grp rank)
  { s with stats := c :: s.stats.filter (fun c => !(c.lid == l && c.grp == grp && c.rank == rank)) }
/-- Changes the status of every rank of the package that has called an instance. -/
def State.updStats (s : State) (x : CollInst) (f : CollCall → CollStat → CollStat) : State :=
  x.calls.foldl (fun s c => s.updStat x.lid x.grp c.rank (f c)) s

/-! ## The harts of an instance -/

/-- Changes a hart of a launch wherever its context is: resident, or kept with a parked gang (R402). -/
def State.updRank (s : State) (l : LaunchId) (hid : Nat) (f : Hart → Hart) : State :=
  let h := s.getHart (BitVec.ofNat 20 hid)
  if h.launch = some l then s.setHart (f h)
  else s.updGangs (fun g => g.lid == l && g.saved.any (fun x => x.hid.toNat == hid))
    (fun g => { g with saved := g.saved.map (fun x => if x.hid.toNat = hid then f x else x) })

/-- A call that has ended leaves the collective queue, and its token clears (R396, R401). -/
def Hart.collDone (h : Hart) (grp k : Nat) : Hart :=
  match h.colls.find? (fun c => c.grp == grp && c.k == k) with
  | none => h
  | some c => { h with
      colls := h.colls.filter (fun d => !(d.grp == grp && d.k == k))
      tok := match c.tk with
        | some t => clearBit h.tok t.toNat
        | none => h.tok }

/-- `tval` of COLL_FAULT (R401). -/
def collTval (reason grp k : Nat) : Word :=
  BitVec.ofNat 8 reason ++ BitVec.ofNat 6 grp ++ 0#18 ++ BitVec.ofNat 32 k

/-- A call that ends in COLL_FAULT: its hart takes the fault at its next boundary (R401). -/
def Hart.collFault (h : Hart) (grp k reason : Nat) : Hart :=
  let h := h.collDone grp k
  { h with pend := { h.pend with coll := h.pend.coll ++ [(grp, k, collTval reason grp k)] } }

/-- The destination bytes of an instance that ends in COLL_FAULT stay indeterminate where no chunk has written them (R4, R401). -/
def State.blurDst (s : State) (x : CollInst) : State :=
  { s with indet := x.calls.flatMap (fun c => c.spans.map (fun r => (⟨r.1, r.2, c.at_, 0⟩ : Indet))) ++ s.indet }

/-- Ends an instance with COLL_FAULT at every rank that has called it (R401); its ending is kept for late calls. -/
def State.endInst (s : State) (x : CollInst) (reason : Nat) : State :=
  let g := s.group x.grp
  let missing := (List.range g.rpp).filter (fun r => !x.calls.any (fun c => c.lrank == r))
  let s := (s.dropInst x).blurDst x
  let s := s.updStats x (fun _ c => { c with reason := reason })
  let s := x.calls.foldl (fun s c => s.updRank x.lid c.hid (fun h => h.collFault x.grp x.k reason)) s
  if missing.isEmpty then s
  else { s with ends := ⟨x.grp, x.k, x.lid, reason, missing⟩ :: s.ends }

/-- Ends every instance that meets a condition. -/
def State.endInsts (s : State) (f : CollInst → Bool) (reason : Nat) : State :=
  (s.insts.filter f).foldl (fun s x => s.endInst x reason) s

/-! ## What launches and machine faults do to collectives -/

/-- Whether a launch still has a collective in progress (R108). -/
def State.launchColl (s : State) (l : LaunchId) : Bool := s.insts.any (fun x => x.lid == l)
/-- Ends the collectives of a launch that is aborted (R310, R401). -/
def State.abortColl (s : State) (l : LaunchId) : State := s.endInsts (fun x => x.lid == l) 6
/-- What is forgotten when a launch has ended: kept endings and status items (R401, R411). -/
def State.dropColl (s : State) (l : LaunchId) : State :=
  { s with ends := s.ends.filter (fun e => e.lid != l), stats := s.stats.filter (fun c => c.lid != l) }
/-- What a machine fault discards in links and collectives: collectives, reply caches, pushes on their way (R330, R364). -/
def State.dropLinks (s : State) : State :=
  { s with insts := [], ends := [], stats := [], outbox := [], replies := []
           lost := (s.replies.map (fun r => (r.home, r.src))).eraseDups ++ s.lost }

/-! ## Notifications (R414, R417) -/

/-- A host function. -/
def State.func (s : State) (f : Nat) : Func := if h : f < 64 then s.funcs[f] else {}
/-- Changes a host function. -/
def State.updFunc (s : State) (f : Nat) (g : Func → Func) : State :=
  if h : f < 64 then { s with funcs := s.funcs.set f (g s.funcs[f]) } else s
/-- Sends an MSI-X vector of a function. -/
def State.msi (s : State) (fn vec : Nat) : State := { s with sent := .msi fn vec :: s.sent }
/-- Sends vector 0 of a function whose awaited count QCNT has reached, and disarms it (R417). -/
def State.noteFunc (s : State) (f : Nat) : State :=
  let u := s.func f
  if u.v && u.noteEn && decide (((s.queue u.queue.toNat).qcnt % 2 ^ 24 + 2 ^ 24 - u.noteAt.toNat) % 2 ^ 24 < 2 ^ 23) then
    (s.updFunc f (fun u => { u with noteEn := false })).msi f 0
  else s
/-- The notifications that the QCNT of a queue has reached. -/
def State.notifyQueue (s : State) (q : Nat) : State :=
  ((List.range 64).filter (fun f => (s.func f).queue.toNat == q)).foldl (fun s f => s.noteFunc f) s
/-- Sends vector 1 of every function that is present and meets a condition. -/
def State.msiAll (s : State) (c : Func → Bool) : State :=
  ((List.range 64).filter (fun f => (s.func f).v && c (s.func f))).foldl (fun s f => s.msi f 1) s

end Sys2Proof.Machine
end

