-- ==== Sys2Proof/Machine/Sched.lean ====
section
/-! DEFINITION. The scheduler: launch packets, queues, placement, retirement, the end of a hart (file 04), and the passing
of matrix rows (R214, R215). -/

namespace Sys2Proof.Machine
open Sys2Proof

/-! ## Launch packets (R97) -/

/-- Double word `i` of a packet. -/
def pkWord (pk : BitVec 512) (i : Nat) : Word := pk.extractLsb' (64 * i) 64
/-- Bits [hi:lo] of double word `i`, as a number. -/
def pkBits (pk : BitVec 512) (i lo n : Nat) : Nat := (pk.extractLsb' (64 * i + lo) n).toNat
/-- The field ENTRY. -/
def pkEntry (pk : BitVec 512) : Word := (pk.extractLsb' 0 57).setWidth 64
def pkDq (pk : BitVec 512) : Nat := pkBits pk 0 57 6
def pkCount (pk : BitVec 512) : Nat := pkBits pk 1 0 40
def pkQueue (pk : BitVec 512) : Nat := pkBits pk 1 40 6
def pkRegs (pk : BitVec 512) : BitVec 2 := pk.extractLsb' (64 + 46) 2
def pkGsz (pk : BitVec 512) : Nat := pkBits pk 1 48 4
def pkClass (pk : BitVec 512) : BitVec 2 := pk.extractLsb' (64 + 52) 2
def pkPrio (pk : BitVec 512) : Nat := pkBits pk 1 54 3
def pkCor (pk : BitVec 512) : Bool := pk.getLsbD (64 + 57)
def pkSerial (pk : BitVec 512) : Bool := pk.getLsbD (64 + 58)
def pkLdr (pk : BitVec 512) : Bool := pk.getLsbD (64 + 59)
def pkDepv (pk : BitVec 512) : Bool := pk.getLsbD (64 + 60)
def pkDcnt (pk : BitVec 512) : Nat := pkBits pk 2 40 24
def pkGangs (pk : BitVec 512) : Nat := pkBits pk 2 28 12
def pkAcc (pk : BitVec 512) : Nat := pkBits pk 2 14 14
def pkSpm (pk : BitVec 512) : Nat := pkBits pk 2 0 14

/-- The class of a code (R97); the reserved code is refused before. -/
def clsOf (c : BitVec 2) : Cls := match c.toNat with | 0 => .f | 1 => .d | _ => .n
/-- The code of a class (R97). -/
def Cls.code : Cls → BitVec 2 | .f => 0 | .d => 1 | .n => 2
/-- Scratchpad bytes of a core in a class (R23, R243). -/
def spmCap : Cls → Nat | .n => 0x120000 | _ => 0x100000
/-- Accumulator bytes of a core in a class (R23, R219). -/
def accCap : Cls → Nat | .n => 0x1B0000 | _ => 0x180000

/-- The effective priority of a launch (R98). -/
def State.prio (s : State) (l : Launch) : Nat := min (pkPrio l.pk) (s.queue l.lid.q).pceil.toNat
/-- The effective priority of a gang's launch; 0 when the launch is gone. -/
def State.gangPrio (s : State) (g : Gang) : Nat := ((s.launchOf g.lid).map s.prio).getD 0

/-! ## Free resources of a cluster (R109) -/

/-- The lowest offset at which `len` bytes are free below `cap`, given the ranges in use. -/
def lowestFree (cap len : Nat) (used : List (Nat × Nat)) : Option Nat :=
  let fits (o : Nat) : Bool := decide (o + len ≤ cap) && used.all (fun r => decide (o + len ≤ r.1 ∨ r.2 ≤ o ∨ len = 0))
  ((0 :: used.map (·.2)).filter fits).foldl (fun acc o => match acc with
    | none => some o
    | some b => some (min o b)) none

/-- What a cluster offers to a gang: harts in use, and ranges in use per core. -/
structure Usage where
  harts : List Nat                 -- index 4 * core + hart of the harts not free
  spm   : List (Nat × Nat × Nat)   -- core, from, to
  acc   : List (Nat × Nat × Nat)
  cls   : Nat → Cls                -- class mode of each core
  held  : Nat → Bool               -- whether a gang holds an allotment in the core
  bars  : List Nat                 -- barrier registers in use

/-- The gang-local harts of a gang as indexes 4 * core + hart. -/
def Gang.js (g : Gang) : List Nat := g.harts.map (fun h => h % 16)
/-- The cores of a gang. -/
def Gang.cores (g : Gang) : List Nat := (List.range 4).filter (fun k => g.js.any (fun j => j / 4 == k))

/-- The resources of a cluster that the given gangs use. A core in which a gang of them is resident has that gang's class. -/
def usageOf (s : State) (cl : Nat) (gs : List Gang) : Usage :=
  let own := gs.filter (fun g => g.cl == cl)
  { harts := own.flatMap Gang.js
    spm := own.flatMap (fun g => if g.spmLen = 0 then [] else g.cores.map (fun k => (k, g.spmOff, g.spmOff + g.spmLen)))
    acc := own.flatMap (fun g => if g.accLen = 0 then [] else
      (g.js.zip g.accOff).map (fun (j, o) => (j / 4, o, o + g.accLen)))
    cls := fun k => match own.find? (fun g => g.st != Resid.parked && g.cores.contains k) with
      | some g => g.cls
      | none => (s.core (4 * cl + k)).cls
    held := fun k => own.any (fun g => g.cores.contains k)
    bars := own.filterMap (fun g => if g.st == Resid.parked then none else some g.bar) }

/-- The shape of a gang (R97, R109). -/
structure Shape where
  g   : Nat
  spm : Nat      -- bytes
  acc : Nat      -- bytes per hart
  cls : Cls
deriving DecidableEq, Repr

/-- The shape that a packet asks for. -/
def shapeOf (pk : BitVec 512) : Shape := ⟨pkGsz pk + 1, pkSpm pk * 128, pkAcc pk * 128, clsOf (pkClass pk)⟩

/-- The sets of cores in the order of preference of R109: the fewest cores, then the lowest numbers. -/
def coreSets : List (List Nat) :=
  [[0], [1], [2], [3], [0, 1], [0, 2], [0, 3], [1, 2], [1, 3], [2, 3], [0, 1, 2], [0, 1, 3], [0, 2, 3], [1, 2, 3],
   [0, 1, 2, 3]]

/-- The harts and accumulator offsets that one core can give to `need` harts: the lowest free harts, as many as fit. -/
def takeCore (u : Usage) (sh : Shape) (k need : Nat) : List (Nat × Nat) :=
  let free := (List.range 4).filter (fun h => !u.harts.contains (4 * k + h))
  let used := (u.acc.filter (fun r => r.1 == k)).map (·.2)
  let tryN (n : Nat) : Option (List (Nat × Nat)) :=
    (lowestFree (accCap sh.cls) (n * sh.acc) used).map (fun o =>
      (free.take n).zipIdx.map (fun (h, i) => (4 * k + h, o + i * sh.acc)))
  match ((List.range (min need free.length)).reverse.map (· + 1)).findSome? tryN with
  | some l => l
  | none => []

/-- The harts of a gang on one set of cores. -/
def takeCores (u : Usage) (sh : Shape) : List Nat → Nat → Option (List (Nat × Nat))
  | [], need => if need = 0 then some [] else none
  | k :: ks, need =>
    match takeCore u sh k need with
    | [] => none
    | l => (takeCores u sh ks (need - l.length)).map (l ++ ·)

/-- Where a gang goes in a cluster: harts (4 * core + hart) with accumulator offsets, scratchpad offset, barrier. -/
structure Spot where
  harts : List (Nat × Nat)
  spm   : Nat
  bar   : Nat
  switch : Bool                    -- a core must change its class mode (R110)
deriving DecidableEq, Repr

/-- The place that R109 gives a gang in a cluster, if the cluster is feasible. -/
def findSpot (u : Usage) (sh : Shape) : Option Spot :=
  coreSets.findSome? (fun ks =>
    if ks.all (fun k => u.cls k == sh.cls || !u.held k) then
      match takeCores u sh ks sh.g,
            lowestFree (spmCap sh.cls) sh.spm ((u.spm.filter (fun r => ks.contains r.1)).map (·.2)),
            (List.range 16).find? (fun b => !u.bars.contains b) with
      | some hs, some o, some b => some ⟨hs, o, b, ks.any (fun k => u.cls k != sh.cls)⟩
      | _, _, _ => none
    else none)

/-- Whether a gang stands in the way of a gang of launch `l` at priority `p` (R114, R116). -/
def State.blocks (s : State) (l : LaunchId) (p : Nat) (g : Gang) : Bool :=
  match g.st with
  | .parked =>
    let promised := match g.forL with
      | some f => f != l
      | none => false
    promised || !(decide (s.gangPrio g < p) || (g.yielded && g.forL == some l && decide (s.gangPrio g ≤ p)))
  | _ => true

/-- The places of gangs that are gone and that are promised to another launch than `l` (R114). -/
def State.promisedAway (s : State) (l : LaunchId) : List Gang := s.promises.filter (fun g => g.forL != some l)
/-- The gangs whose places a gang of launch `l` may not use, some gangs taken away. -/
def State.rivals (s : State) (l : LaunchId) (p : Nat) (gone : Gang → Bool) : List Gang :=
  s.gangs.filter (fun g => !gone g && s.blocks l p g) ++ s.promisedAway l
/-- The usage of a cluster as a gang of launch `l` sees it. -/
def State.usageFor (s : State) (cl : Nat) (l : LaunchId) (p : Nat) : Usage :=
  usageOf s cl (s.rivals l p (fun _ => false))

/-! ## Matrix rows (R214, R215) -/

/-- The harts of a cluster. -/
def State.clusterHarts (s : State) (cl : Nat) : List Hart := (List.range 16).map (fun j => s.getHart (mkHid s.pkg cl j))
/-- The unreserved free rows of a cluster (R214). -/
def State.freeRows (s : State) (cl : Nat) : Nat :=
  64 - ((s.clusterHarts cl).map (·.mgrant)).sum - ((s.cluster cl).wait.map (·.resv)).sum
    - ((s.gangs.filter (fun g => g.cl == cl)).map (·.rowsResv)).sum

/-- Whether a parked gang keeps its place from another parked gang that would resume over it (R116): not from one of higher priority, nor
from the one for which it yielded, which has its priority and parked after it (R128). -/
def State.keepsFrom (s : State) (x g : Gang) : Bool :=
  !(decide (s.gangPrio x < s.gangPrio g) || (x.yielded && s.gangPrio x == s.gangPrio g && decide (x.parkNo < g.parkNo)))

/-- Whether the harts and ranges of a parked gang are free, of resident gangs and of parked ones that keep their place (R116), and promised
to no other launch (R114). -/
def State.placeFree (s : State) (g : Gang) : Bool :=
  let u := usageOf s g.cl (s.gangs.filter (fun x => !(x.lid == g.lid && x.num == g.num)
      && (x.st != Resid.parked || (x.forL.isSome && x.forL != some g.lid) || s.keepsFrom x g)) ++ s.promisedAway g.lid)
  g.js.all (fun j => !u.harts.contains j) &&
  g.cores.all (fun k =>
    (u.cls k == g.cls || !u.held k) &&
    (g.spmLen == 0 || (u.spm.filter (fun r => r.1 == k)).all (fun r => decide (g.spmOff + g.spmLen ≤ r.2.1 ∨ r.2.2 ≤ g.spmOff)))) &&
  (g.accLen == 0 || (g.js.zip g.accOff).all (fun (j, o) =>
    (u.acc.filter (fun r => r.1 == j / 4)).all (fun r => decide (o + g.accLen ≤ r.2.1 ∨ r.2.2 ≤ o))))

/-- Whether a gang's launch is co-resident. -/
def State.isCor (s : State) (g : Gang) : Bool := ((s.launchOf g.lid).map (fun l => pkCor l.pk)).getD false
/-- The gangs of a launch that resume with one: all of a co-resident launch. -/
def State.resumeSet (s : State) (g : Gang) : List Gang :=
  if s.isCor g then s.gangs.filter (fun x => x.lid == g.lid && x.st == Resid.parked) else [g]
/-- Whether the place of a parked gang is its own again: its harts, its ranges, and its barrier register (R116). -/
def State.placeBack (s : State) (g : Gang) : Bool :=
  g.st == Resid.parked && g.forL == none && s.placeFree g
    && !s.gangs.any (fun x => x.cl == g.cl && x.st != Resid.parked && x.bar == g.bar)
/-- Whether everything but rows allows a parked gang to resume (R116): a co-resident launch resumes as a whole, once all of it has parked. -/
def State.couldResume (s : State) (g : Gang) : Bool :=
  !s.gangs.any (fun x => s.isCor g && x.lid == g.lid && x.st == Resid.preempting) && (s.resumeSet g).all s.placeBack

/-- The order in which parked gangs are served: higher priority first, then the one parked most recently (R116). -/
def State.parkedBefore (s : State) (a b : Gang) : Bool :=
  decide (s.gangPrio b < s.gangPrio a) || (s.gangPrio a == s.gangPrio b && decide (b.parkNo ≤ a.parkNo))

/-- Sorts by insertion. -/
def sortBy {α : Type} (before : α → α → Bool) : List α → List α
  | [] => []
  | x :: xs => ins before x (sortBy before xs)
where
  ins (before : α → α → Bool) (x : α) : List α → List α
    | [] => [x]
    | y :: ys => if before x y then x :: y :: ys else y :: ins before x ys

/-- The parked gangs of a cluster that wait only for rows, in the order of service (R215). -/
def State.rowWaiters (s : State) (cl : Nat) : List Gang :=
  sortBy s.parkedBefore (s.gangs.filter (fun g => g.cl == cl && g.st == Resid.parked && s.couldResume g))

/-- Reserves released rows for the gangs that wait only for rows; answers the rows left (R215). -/
def passToGangs (s : State) : List Gang → Nat → State × Nat
  | [], free => (s, free)
  | g :: gs, free =>
    let give := min free (g.grants.sum - g.rowsResv)
    passToGangs (s.updGangs (fun x => x.lid == g.lid && x.num == g.num) (fun x => { x with rowsResv := x.rowsResv + give }))
      gs (free - give)

/-- Reserves released rows for the listed harts in list order (R214). -/
def passToHarts (s : State) (now : Nat) : List Waiter → Nat → List Waiter
  | [], _ => []
  | w :: ws, free =>
    let short := w.want - (s.getHart (BitVec.ofNat 20 w.hid)).mgrant - w.resv
    let give := min free short
    (if give = 0 then w else { w with resv := w.resv + give, last := now }) :: passToHarts s now ws (free - give)

/-- Passes on the rows of a cluster that a release has freed: those that `s` has free beyond `s0` (R214, R215). -/
def State.passRows (s0 : State) (cl : Nat) (s : State) : State :=
  let (s, free) := passToGangs s (s.rowWaiters cl) (s.freeRows cl - s0.freeRows cl)
  s.updCluster cl (fun c => { c with wait := passToHarts s (s.cycleOf (cl / 32)) c.wait free })

/-- Whether the package is undocking, or has been released: it places and resumes no gang (R428). -/
def State.undocking (s : State) : Bool :=
  match s.undock with
  | some u => u.st != .failed
  | none => false

/-! ## Barriers (R121) -/

/-- Completes a phase when every member has arrived (R121). -/
def Bar.settle (b : Bar) : Bar :=
  if b.arrived = b.members then { b with phase := b.phase + 1, arrived := 0 } else b
/-- A barrier register of a cluster. -/
def State.bar (s : State) (cl i : Nat) : Bar := if h : i < 16 then (s.cluster cl).bars[i] else {}
/-- Changes a barrier register. -/
def State.updBar (s : State) (cl i : Nat) (f : Bar → Bar) : State :=
  s.updCluster cl (fun c => if h : i < 16 then { c with bars := c.bars.set i (f c.bars[i]) } else c)

/-! ## Retirement (R105, R108) -/

/-- Empties the berths that a launch was filling (R257). -/
def emptyBerths (lid : LaunchId) (b : Berth) : Berth :=
  if b.st = 1 ∧ b.owner = some lid then { b with st := 0, count := 0, owner := none } else b
/-- What ends with a launch that retires, fails or is aborted: the berths that it was filling (R257). -/
def State.launchGone (s : State) (lid : LaunchId) : State :=
  (List.range 8).foldl (fun s d => s.updDie d (fun die => { die with berths := die.berths.map (emptyBerths lid) })) s

/-- Frees the copy channels that a hart owns. -/
def State.freeChans (s : State) (hid : BitVec 20) : State :=
  s.updCluster (clusterKey hid) (fun c => { c with chans := c.chans.map (fun o => if o = some (hartJ hid) then none else o) })

/-- Discards the engine work of a hart: streams and non-blocking work stop after what is done, tokens clear, and no counter
receives an addition (R310); pushes not accepted go too (R298, R340). The matrix queue runs on (R224). DESIGN CHOICE (log 84): the fault
records of the two queues go with their work, and a fault of theirs that has not been taken is dropped. -/
def State.discardWork (s : State) (hid : BitVec 20) : State :=
  ({ s.freeChans hid with outbox := s.outbox.filter (fun o => o.hid != hid.toNat) }).updHart hid (fun h => { h with
    copyQ := [], nbQ := [], copySt := {}, nbSt := {}, pushes := [], tok := 0, mq := h.mq.map (fun (o : MxOp) => { o with tk := none }) })

/-- Whether R107 allows another gang of a launch. -/
def moreGangs (l : Launch) : Bool :=
  if pkCount l.pk = 0 then decide (l.placed < max 1 (pkGangs l.pk))
  else decide (l.cursor < pkCount l.pk) && (pkGangs l.pk == 0 || decide (l.placed < pkGangs l.pk))

/-- The transitions of one launch that need no outside event (R108). -/
def State.launchSettle (s : State) (l : Launch) : Launch :=
  let l := if l.st = .placing ∧ !moreGangs l ∧ (l.started || pkCount l.pk != 0) then { l with st := .draining } else l
  let idle := !s.gangs.any (fun g => g.lid == l.lid) && !s.launchColl l.lid
  match l.st with
  | .draining => if idle then { l with st := .complete } else l
  | .aborting => if idle then { l with st := .complete } else l
  | _ => l

/-- Records an aborted or failed launch in QFAIL (R103, R108). -/
def State.recordFail (s : State) (l : LaunchId) (cause : BitVec 8) : State :=
  s.updQueue l.q (fun q => { q with qfail := BitVec.ofNat 56 l.seq ++ cause })

/-- The launches that enter COMPLETE, with their QFAIL records. -/
def State.completeAll (s : State) : List Launch → State
  | [] => s
  | l :: ls =>
    let l' := s.launchSettle l
    let s' := s.updLaunch l.lid (fun _ => l')
    let s' := if l.st = .aborting ∧ l'.st = .complete then s'.recordFail l.lid 0x13 else s'
    s'.completeAll ls

/-- Retires the oldest launch of a queue while it is complete (R105). -/
def State.retireQueue (q : Nat) : Nat → State → State
  | 0, s => s
  | fuel + 1, s =>
    match s.launchOf ⟨q, (s.queue q).qcnt⟩ with
    | some l =>
      if l.st = .complete then
        let s := { s with launches := s.launches.filter (fun x => x.lid != l.lid)
                          resvs := s.resvs.filter (fun r => r.lid != l.lid) }
        let s := ((s.updQueue q (fun u => { u with qcnt := u.qcnt + 1 })).launchGone l.lid).dropColl l.lid
        State.retireQueue q fuel (s.notifyQueue q)
      else s
    | none => s

/-- Whether a launch may still be given what was promised to it: it has a gang to place (R107, R114). -/
def State.mayPlace (s : State) (l : LaunchId) : Bool :=
  s.launches.any (fun x => x.lid == l && (x.st == .queued || x.st == .placing) && moreGangs x)
/-- Drops the promises to launches that place no further gang (R114, R439). -/
def State.dropPromises (s : State) : State :=
  let void (g : Gang) : Bool := match g.forL with
    | some l => !s.mayPlace l
    | none => false
  { s.updGangs void (fun g => { g with forL := none }) with promises := s.promises.filter (fun g => !void g) }
/-- Ends the promises to a launch: its gang has been placed. -/
def State.promiseKept (s : State) (l : LaunchId) : State :=
  { s.updGangs (fun g => g.forL == some l) (fun g => { g with forL := none }) with
    promises := s.promises.filter (fun g => g.forL != some l) }
/-- Keeps what was promised out of a gang that ends: its place stays for the launch that it made room for (R114). -/
def State.leavePlace (s : State) (g : Gang) : State :=
  match g.forL with
  | some l => if s.mayPlace l then { s with promises := s.promises ++ [{ g with st := .parked, live := [], saved := [] }] } else s
  | none => s

/-! ## Eligibility (R106) -/

/-- The predecessor of a launch has started, or has left QUEUED without starting, or there is none (R106). -/
def State.predOk (s : State) (l : Launch) : Bool :=
  l.lid.seq == 0 || match s.launchOf ⟨l.lid.q, l.lid.seq - 1⟩ with
    | none => true
    | some p => (p.started || p.left) && !pkSerial l.pk
/-- Whether a launch is eligible (R106). -/
def State.eligible (s : State) (l : Launch) : Bool :=
  (l.st == .queued || l.st == .placing) && s.predOk l
    && (!pkDepv l.pk || decide (((s.queue (pkDq l.pk)).qcnt % 2 ^ 24 + 2 ^ 24 - pkDcnt l.pk) % 2 ^ 24 < 2 ^ 23))
    && (!(s.queue l.lid.q).halted
        || s.launches.any (fun f => f.lid.q == l.lid.q && f.st == .failed && decide (l.lid.seq < f.lid.seq)))
/-- The queued launches that have become eligible are PLACING from then on (R108). -/
def State.startPlacing (s : State) : State :=
  { s with launches := s.launches.map (fun l => if l.st == .queued && s.eligible l then { l with st := .placing } else l) }

/-- Lets every launch move on, every queue retire, and the eligible launches leave QUEUED (R105, R106, R108). -/
def State.settle (s : State) : State :=
  let s := (s.completeAll s.launches).dropPromises
  let n := s.launches.length
  ((List.range 64).foldl (fun s q => State.retireQueue q n s) s).startPlacing

/-! ## Class modes (R34, R112) -/

/-- The address of a core's scratchpad slot and accumulator slot, without the package (R242). -/
def spmBase (core : Nat) : Nat := core / 128 * 2 ^ 41 + 0x10000000000 + core % 128 * 2 ^ 21
def accBase (core : Nat) : Nat := core / 128 * 2 ^ 41 + 0x11000000000 + core % 128 * 2 ^ 21

/-- Switches a core's class mode (R34): its stores become indeterminate, and no poison and no stored error survives. -/
def State.switchCls (s : State) (core : Nat) (k : Cls) : State :=
  if (s.core core).cls = k then s else
  let wipe (s : State) (a : Nat) : State :=
    { s.markIndet a (a + 2 ^ 21) with
      poison := Tab.clearRange (a / 4) ((a + 2 ^ 21) / 4) s.poison
      errs := s.errs.filter (fun e => match e.at_ with
        | .local_ w => !decide (a ≤ 8 * w ∧ 8 * w < a + 2 ^ 21)
        | _ => true) }
  (wipe (wipe s (spmBase core)) (accBase core)).updCore core (fun c => { c with cls := k })

/-- Switches the idle cores of a reserved cluster to the class of the reserving gang, as soon as they are idle (R112); of several
reservations the one of the highest priority counts. -/
def State.switchIdle (s : State) (cl : Nat) : State :=
  match (sortBy (fun a b => decide (b.prio ≤ a.prio)) (s.resvs.filter (fun r => r.cl == cl))).head?.bind (fun r => s.launchOf r.lid) with
  | none => s
  | some l => (List.range 4).foldl (fun s k =>
      if s.gangs.any (fun g => g.cl == cl && g.cores.contains k) then s else s.switchCls (4 * cl + k) (clsOf (pkClass l.pk))) s

/-! ## The end of a hart (R126) -/

/-- What becomes of a gang when none of its harts is left: it is reclaimed, or it is parked when some of its harts parked
(R115, R126). Its barrier register is freed, and saved with a parked gang (R116). -/
def State.gangEmpty (s : State) (g : Gang) : State :=
  let aborted := match s.launchOf g.lid with
    | some l => l.st == LState.aborting
    | none => true
  if g.saved.isEmpty || aborted then
    ((({ s with gangs := s.gangs.filter (fun x => !(x.lid == g.lid && x.num == g.num)) }).leavePlace g).updBar g.cl g.bar
      (fun _ => {})).switchIdle g.cl
  else
    let b := s.bar g.cl g.bar
    ({ s with parks := s.parks + 1 }.updGangs (fun x => x.lid == g.lid && x.num == g.num)
      (fun x => { x with st := .parked, parkNo := s.parks, barSaved := b })).updBar g.cl g.bar (fun _ => {})

/-- Takes a hart out of its gang, as ended, or as parked with its context. -/
def State.leaveGang (s : State) (hid : BitVec 20) (ctx : Option Hart) : State :=
  match s.gangOf hid with
  | none => s
  | some g =>
    let g' := { g with
      live := g.live.filter (· != hid.toNat)
      ended := if ctx.isNone then hid.toNat :: g.ended else g.ended
      saved := match ctx with
        | some h => g.saved ++ [h]
        | none => g.saved }
    let s := s.updGangs (fun x => x.lid == g.lid && x.num == g.num) (fun _ => g')
    if g'.live.isEmpty then s.gangEmpty g' else s

/-- Ends a hart: its matrix rows, its windows, its membership in the barrier, its place in the gang (R126). Nothing of its
work is left: the caller has drained or discarded it. -/
def State.endHart (s : State) (hid : BitVec 20) : State :=
  let h := s.getHart hid
  let cl := clusterKey hid
  let g := s.gangOf hid
  let s0 := s
  let s := s.updHart hid (fun h => { h with
    run := .idle, launch := none, mgrant := 0, win := Vector.replicate 4 none, tcmp := 0, pend := {}, report := none,
    posted := false, preempting := false, exiting := false, reissue := false, waitStart := none, inWait := false, tok := 0
    colls := [], collRes := [] })
  let s := match g with
    | some g =>
      let i := g.harts.idxOf hid.toNat
      s.updBar g.cl g.bar (fun b => { b with members := clearBit b.members i, arrived := clearBit b.arrived i }.settle)
    | none => s
  let s := s.updCluster cl (fun c => { c with wait := c.wait.filter (fun w => w.hid != hid.toNat) })
  let s := if h.isCompute then s0.passRows cl s else s
  (s.leaveGang hid none).settle

/-! ## Abort (R108, R310) -/

/-- Aborts a launch: LAUNCH_ABORT on its resident harts, its parked gangs discarded (R108); the berths that it was filling are
empty at once (R257). A launch aborted before its first gang counts for its successor as one that never started (R106; log 72). -/
def State.abortLaunch (s : State) (lid : LaunchId) : State :=
  match s.launchOf lid with
  | none => s
  | some l =>
    match l.st with
    | .queued =>
      ((s.updLaunch lid (fun x => { x with st := .complete, left := true, cause := 0x13 })).recordFail lid 0x13).settle
    | .placing | .draining =>
      let s := (s.updLaunch lid (fun x => { x with st := .aborting, cause := 0x13, left := x.left || !x.started })).launchGone lid
      let live := (s.gangs.filter (fun g => g.lid == lid && g.st != Resid.parked)).flatMap (·.live)
      let s := live.foldl (fun s h => (s.discardWork (BitVec.ofNat 20 h)).updHart (BitVec.ofNat 20 h)
        (fun x => { x with pend := { x.pend with abort := some lid.seq } })) s
      let gone := s.gangs.filter (fun g => g.lid == lid && g.st == Resid.parked)
      let s0 := s
      let s := { s with gangs := s.gangs.filter (fun g => !(g.lid == lid && g.st == Resid.parked)) }
      let s := gone.foldl (fun s g => (s0.passRows g.cl (s.leavePlace g)).switchIdle g.cl) s
      (s.abortColl lid).settle
    | _ => s

end Sys2Proof.Machine
end

