-- ==== Sys2Proof/Machine/Ops.lean ====
section
/-! DEFINITION. Taking a trap and returning from one (R356 to R360, R368), the machine fault (R364), and the issue of an
instruction: the checks that come before an entry's own (R39 to R42, R61), and the ways an instruction ends. -/

namespace Sys2Proof.Machine
open Sys2Proof

/-! ## tstat (R361) -/

/-- The code of a mode in `tstat.PM`. -/
def Mode.code : Mode → BitVec 2 | .u => 0 | .s => 1 | .p => 2
/-- The mode of a code; 11 is never held (R361). -/
def Mode.ofCode (c : BitVec 2) : Mode := match c.toNat with | 0 => .u | 1 => .s | _ => .p
/-- `tstat.IE`. -/
def Hart.ie (h : Hart) : Bool := h.tstat.getLsbD 3
/-- `tstat.VEC`. -/
def Hart.vec (h : Hart) : Bool := h.tstat.getLsbD 7

/-- The value that `tstat` receives when a trap is taken (R359). -/
def tstatOf (h : Hart) (t : Trap) : Word :=
  0#40 ++ BitVec.ofNat 4 t.npg ++ 0#10 ++ BitVec.ofBool t.eq ++ BitVec.ofBool t.eng
    ++ BitVec.ofBool (t.vec || h.reissue) ++ 0#2 ++ BitVec.ofBool h.ie ++ 0#2 ++ h.mode.code

/-- The page batch as the eight registers FB0 to FB7 show it (R353, R354). -/
def fbOf (t : Trap) : Vector Word 8 := Vector.ofFn (fun i : Fin 8 => t.fb.getD i.val 0)

/-- Taking a trap (R359): the saved registers, the status, the mode, and the handler's address. The batch registers change
with a PAGE_FAULT only (R353). -/
def Hart.enter (h : Hart) (t : Trap) : Hart :=
  { h with
    tcause := t.cause.code
    tepc := t.epc
    tval := t.val
    tstat := tstatOf h t
    fb := if t.cause = .pageFault then fbOf t else h.fb
    mode := if h.isMgmt then .p else .s
    pc := h.tvec
    run := .running
    preempting := h.preempting || t.cause == .preempt
    depth := h.depth + 1
    reissue := false
    waitStart := none
    inWait := false
    ahead := [] }

/-! ## Reports (R360) -/

/-- The entry that a report writes into the ring (R360). -/
def reportEntry (h : Hart) (t : Trap) : Vector Word 16 := Vector.ofFn (fun i : Fin 16 =>
  match i.val with
  | 0 => 0#18 ++ h.tenant ++ t.cause.code ++ 0#12 ++ h.hid
  | 1 => t.epc
  | 2 => t.val
  | 3 => tstatOf h t
  | 4 => h.fb[0] | 5 => h.fb[1] | 6 => h.fb[2] | 7 => h.fb[3]
  | 8 => h.fb[4] | 9 => h.fb[5] | 10 => h.fb[6] | 11 => h.fb[7]
  | _ => 0)

/-- Whether the ring has room (R360). -/
def State.ringRoom (s : State) : Bool := decide ((s.trqt - s.trqh).toNat < 64)

/-- Writes the report of a held hart into the ring, when there is room (R360). -/
def State.postReport (s : State) (hid : BitVec 20) : State :=
  let h := s.getHart hid
  match h.report with
  | none => s
  | some t =>
    if h.posted || !s.ringRoom then s else
    let s := s.updHart hid (fun h => { h with posted := true })
    { s with ring := s.ring.set (s.trqt.toNat % 64) (reportEntry h t) (Nat.mod_lt _ (by decide)), trqt := s.trqt + 1 }

/-- Holds a hart for a report (R360): its own trap CSRs keep their values. -/
def Hart.hold (h : Hart) (t : Trap) : Hart :=
  { h with run := .held, report := some t, posted := false, waitStart := none, inWait := false, ahead := []
           fb := if t.cause = .pageFault then fbOf t else h.fb }

/-! ## The machine fault (R364) -/

/-- A hart that a machine fault has stopped: its registers and its work are lost. A compute hart has no launch any more. -/
def Hart.stopped (h : Hart) : Hart :=
  { Hart.reset h.hid with tenant := h.tenant, run := if h.isCompute then .idle else .halted }

/-- What a machine fault makes of a launch (R108). -/
def failLaunch (l : Launch) : Launch :=
  match l.st with
  | .retired | .failed => l
  | _ => { l with st := .failed, cause := 0xFF, left := l.left || !l.started }

/-- Records the failed launches: the highest sequence number of each queue, which is halted (R103, R108). -/
def failQueue (ls : List Launch) (q : Nat) (u : Queue) : Queue :=
  match ((ls.filter (fun l => l.lid.q == q && l.st == .failed)).map (·.lid.seq)).max? with
  | none => u
  | some m => { u with halted := true, qfail := BitVec.ofNat 56 m ++ 0xFF#8 }

/-- A system hart, or the management hart, as a machine fault leaves it, whether or not it was ever listed. -/
def State.haltSystem (s : State) : State :=
  (List.range 16).foldl (fun s j => (s.updHart (mkHid s.pkg (32 * 8) j) Hart.stopped).updHart (mkHid s.pkg (32 * 9) j) Hart.stopped)
    (s.updHart (mkHid s.pkg (32 * s.mgmtDie + 31) 0) Hart.stopped)

/-- A machine fault (R364): the functions of every queue that it halts learn of it through vector 1 (R417). DESIGN CHOICE (log 81): the scalar
registers that it discards read 0. -/
def State.machineFault (s : State) : State :=
  let ls := s.launches.map failLaunch
  let newly (q : BitVec 6) : Bool := !(s.queue q.toNat).halted && ls.any (fun l => l.lid.q == q.toNat && l.st == .failed)
  let s := s.msiAll (fun f => newly f.queue)
  let s := { s with
    hart := s.hart.stopped
    rest := (s.rest.map (fun (e : Nat × Hart) => (e.1, e.2.stopped))).filter (fun e => decide (e.2 ≠ restHart e.1))
    launches := ls
    queues := Vector.ofFn (fun q : Fin 64 => failQueue ls q.val s.queues[q])
    gangs := []
    undock := s.undock.map (fun (u : Undock) => { u with launches := [], gangs := [] })
    resvs := []
    copies := []
    clusters := []
    promises := []
    dies := s.dies.map (fun (d : Die) => { d with berths := d.berths.map (fun (b : Berth) => { b with st := 0, count := 0, owner := none }) })
    fault := true }
  -- scratchpads and tiles lose their contents
  (List.range 10).foldl (fun s d => s.markIndet (d * 2 ^ 41 + 0x10000000000) (d * 2 ^ 41 + 0x12020000000)) s.haltSystem.dropLinks

/-! ## Pending traps (R357) -/

/-- The cause of a code, for the causes that engine work meets (R13). -/
def Cause.ofCode (c : BitVec 8) : Cause :=
  match c.toNat with
  | 0x02 => .illegalOperand | 0x04 => .misaligned | 0x05 => .pageFault | 0x06 => .accessFault | 0x07 => .poison
  | _ => .remoteFault

/-- The trap of a halted engine queue (R308): `nb` for the non-blocking queue. -/
def engTrap (h : Hart) (e : EngSt) (nb : Bool) : Trap :=
  { cause := Cause.ofCode e.cause, epc := h.pc, val := e.addr.setWidth 64, npg := e.fb.length, eng := true, eq := nb, fb := e.fb }

/-- The COLL_FAULT that comes first: the lowest group, and within it the lowest instance (R357). -/
def lowestColl : List (Nat × Nat × Word) → Option (Nat × Nat × Word)
  | [] => none
  | c :: cs =>
    match lowestColl cs with
    | none => some c
    | some b => if c.1 < b.1 ∨ (c.1 = b.1 ∧ c.2.1 ≤ b.2.1) then some c else some b

/-- The pending trap of orders 1 to 4 that comes first, with the hart after it has been taken from what is pending. -/
def Hart.firstPending (h : Hart) : Option (Trap × Hart) :=
  match h.pend.abort with
  | some n => some ({ cause := .launchAbort, epc := h.pc, val := BitVec.ofNat 64 n }, { h with pend := { h.pend with abort := none } })
  | none => match h.pend.budget with
  | some v => some ({ cause := .errorBudget, epc := h.pc, val := v }, { h with pend := { h.pend with budget := none } })
  | none =>
    if h.copySt.due then
      some (engTrap h h.copySt false, { h with copySt := { h.copySt with due := false } })
    else if h.nbSt.due then
      some (engTrap h h.nbSt true, { h with nbSt := { h.nbSt with due := false } })
    else match h.pend.push with
    | (c, v) :: t =>
      some ({ cause := c, epc := h.pc, val := v, eng := true }, { h with pend := { h.pend with push := t } })
    | [] => match lowestColl h.pend.coll with
      | some c => some ({ cause := .collFault, epc := h.pc, val := c.2.2 }, { h with pend := { h.pend with coll := h.pend.coll.erase c } })
      | none => none

/-! ## Traps (R357 to R360) -/

/-! ## Pilot's start (R422, R425) -/

/-- The image bank that is active, and the other one. -/
def Pilot.bank (p : Pilot) (other : Bool) : Tab Byte := if p.active != other then p.banks[1] else p.banks[0]
/-- A hart of the package's software started afresh by Pilot or the boot ROM, at a word (R37) and with the handler address of its
die (R361); what is pending for it stays pending (R424). -/
def Hart.boot (h : Hart) (pc tvec : Word) : Hart :=
  { Hart.reset h.hid with run := .running, pend := h.pend, pc := pc &&& ~~~7#64, tvec := tvec, tenant := h.tenant }
/-- The management hart. -/
def State.mgmtHart (s : State) : BitVec 20 := mkHid s.pkg (32 * s.mgmtDie + 31) 0
/-- Starts the management hart on the active Pilot image, when the boot ROM's check of it passes (R422): otherwise no Pilot runs. A
session of SPDM does not outlive it. TVDEF serves the system cluster (R360): Pilot's own `tvec` starts at 0. -/
def State.startPilot (s : State) : State :=
  let s := { s with pilot := { s.pilot with version := false, caps := false, algs := false, keyEx := false, session := false } }
  s.updHart s.mgmtHart (fun x => if Config.imageOk 0 (s.pilot.bank false) then x.boot (Config.entryOf (s.pilot.bank false) 496) 0
    else x.stopped)
/-- The boot ROM returns to the other bank when a new Pilot image fails before it reports ready (R425). -/
def State.otherBank (s : State) : State :=
  State.startPilot { s with pilot := { s.pilot with active := !s.pilot.active, trial := false } }

/-- A double trap (R359): a compute hart's launch is aborted and the hart ends; a system hart halts, which the die's error log
records (R425); on the management hart it is a machine fault, but under a new image that has not reported ready yet: the boot ROM
then returns to the other bank (R425). A compute hart executes nothing more, and ends once its matrix
queue has completed (R224). -/
def State.doubleTrap (s : State) (hid : BitVec 20) : State :=
  let h := s.getHart hid
  if h.isCompute then
    let s := match h.launch with
      | some l => s.abortLaunch l
      | none => s
    let s := s.discardWork hid
    if (s.getHart hid).mq.isEmpty then s.endHart hid
    else s.updHart hid (fun h => { h with run := .ending, report := none, posted := false, waitStart := none, inWait := false })
  else if h.isMgmt then (if s.pilot.trial then s.otherBank else s.machineFault)
  else (s.updHart hid (fun h => { h with run := .halted })).updDie (hidDie hid) (fun d => { d with
    log := d.log ++ [(⟨s.time, 0xFF, 0, 0, 1⟩ : LogRec)] })

/-- Whether the mode of a hart takes external traps (R358). -/
def Hart.takesExternal (h : Hart) : Bool := h.mode == .u || h.ie

/-- Takes an external trap on the hart in focus (R358). LAUNCH_ABORT discards the engine work that the hart has begun since the
abort, too (R310). -/
def State.takeExternal (s : State) (t : Trap) : State :=
  (if t.cause = .launchAbort then s.discardWork s.hart.hid else s).upd (fun h => h.enter t)

/-- Takes a synchronous trap on the hart in focus, as its mode says (R358). A trap of orders 1 to 4 that the instruction itself
has made pending (its own error exhausts the budget, R285) comes first, and the synchronous cause disappears (R357). -/
def State.takeSync (s : State) (t : Trap) : State :=
  let s := s.upd (fun h => { h with trapped := true })
  match if s.hart.takesExternal then s.hart.firstPending else none with
  | some (p, h) => State.takeExternal { s with hart := h } { p with vec := p.vec || t.vec }
  | none =>
    match s.hart.mode with
    | .u =>
      if (s.die (hidDie s.hart.hid)).tdeleg.getLsbD t.cause.code.toNat then
        (s.upd (fun h => h.hold t)).postReport s.hart.hid
      else s.upd (fun h => h.enter t)
    | _ => if s.hart.ie then s.upd (fun h => h.enter t) else s.doubleTrap s.hart.hid

/-- Takes a trap on the hart in focus: the one operation of every meaning that raises one. -/
def State.takeTrap (s : State) (t : Trap) : State := s.takeSync t

/-- TRET (R368): mode, status and pc; a reissue when VEC is set (R355). The sending of withdrawn pushes stands with the
pushes. The management hart has mode P only and a system hart mode S only (R28). -/
def Hart.ret (h : Hart) : Hart :=
  { h with
    mode := if h.isMgmt then .p else if h.isCompute then Mode.ofCode (h.tstat.extractLsb' 0 2) else .s
    tstat := putBit h.tstat 3 (h.tstat.getLsbD 4)
    pc := h.tepc
    reissue := h.vec
    preempting := false
    depth := h.depth - 1
    waitStart := none
    inWait := false }

/-! ## How an instruction ends -/

/-- What an instruction did: it completed; it completed and went elsewhere; it waits, and changes nothing but what the state
shows; it raised a trap; or the state it answers is the whole of its effect. -/
inductive Eff where
  | done (s : State)
  | goto (pc : Word) (s : State)
  | wait (s : State)
  | trap (t : Trap) (s : State)
  | whole (s : State)

/-- The instruction in focus has completed: `instret` counts it in U mode (R136), and the hart goes on at `pc`, one instruction nearer to what the
scalar unit did ahead. -/
def Hart.retire (h : Hart) (pc : Word) : Hart :=
  { h with
    pc := pc
    instret := if h.mode = .u then h.instret + 1 else h.instret
    waitStart := none
    inWait := false
    stopAt := none
    exiting := h.exiting && h.mode != .u
    reissue := false
    ahead := h.ahead.drop 1
    tstat := if h.reissue then clearBit h.tstat 7 else h.tstat }

/-- The state behind an instruction that has completed and goes on at `pc`. -/
def State.completedAt (s : State) (pc : Word) : State := s.upd (fun h => { h.retire pc with headSince := s.cycle })
/-- The state behind an instruction that has completed: the next word is 8 bytes on (R62). -/
def State.completed (s : State) : State := s.completedAt (s.hart.pc + 8)
/-- The state of an instruction that waits. -/
def State.waiting (s : State) : State := s.upd (fun h => { h with waitStart := some (h.waitStart.getD s.cycle) })

/-- The end of an instruction as a next state. -/
def finish (e : Eff) : Host.Outcome State Fault Refusal :=
  match e with
  | .done s => .next s.completed
  | .goto pc s => .next (s.completedAt pc)
  | .wait s => .next s.waiting
  | .trap t s => .next (s.takeTrap t)
  | .whole s => .next s

/-- A trap whose `tval` is the instruction word (R61). -/
def wordTrap (c : Cause) (i : Instr) (s : State) : Eff := .trap { cause := c, epc := s.hart.pc, val := encode i } s
/-- A trap with a given `tval`, at the instruction. -/
def trapAt (c : Cause) (v : Word) (s : State) : Eff := .trap { cause := c, epc := s.hart.pc, val := v } s

/-- The modes that may execute an instruction (R28). -/
inductive Priv where
  | all | sp | sOnly | pOnly
deriving DecidableEq, Repr

/-- Whether a mode may execute it. -/
def Priv.allows : Priv → Mode → Bool
  | .all, _ => true
  | .sp, m => m != .u
  | .sOnly, m => m == .s
  | .pOnly, m => m == .p

/-- Whether a wait mask names a set token (R41). -/
def Hart.waits (h : Hart) (wm : BitVec 8) : Bool := (h.tok &&& wm) != 0

/-! ## Latent errors in registers (R130, R278) -/

/-- Raises ERROR_BUDGET on every hart of a launch whose count has become exhausted (R285). -/
def State.checkBudget (s : State) (lid : LaunchId) : State :=
  match s.launchOf lid with
  | none => s
  | some x =>
    let above : Bool := decide ((x.eblim.extractLsb' 0 32).toNat < (x.ebcnt.extractLsb' 0 32).toNat
        ∧ x.eblim.extractLsb' 0 32 ≠ BitVec.allOnes 32)
      || decide ((x.eblim.extractLsb' 32 32).toNat < (x.ebcnt.extractLsb' 32 32).toNat
        ∧ x.eblim.extractLsb' 32 32 ≠ BitVec.allOnes 32)
    if above && !x.ebDone then
      let s := s.updLaunch lid (fun x => { x with ebDone := true })
      let s := s.updGangs (fun g => g.lid == lid)
        (fun g => { g with saved := g.saved.map (fun h => { h with pend := { h.pend with budget := some x.ebcnt } }) })
      -- the hart whose request met the error takes the trap before an instruction that could read the data: not inside one
      (((s.gangs.filter (fun g => g.lid == lid)).flatMap (·.live)).foldl (fun s h =>
        s.updHart (BitVec.ofNat 20 h) (fun h => { h with pend := { h.pend with budget := some x.ebcnt } })) s).upd
          (fun h => { h with stopAt := none })
    else s

/-- Charges an error to a launch's budget (R282, R284, R285): `det` for a detected one. -/
def State.charge (s : State) (l : Option LaunchId) (det : Bool) : State :=
  match l with
  | none => s
  | some lid => (s.updLaunch lid (fun x =>
      let c := x.ebcnt.extractLsb' 0 32
      let d := x.ebcnt.extractLsb' 32 32
      { x with ebcnt := if det then (if d = BitVec.allOnes 32 then d else d + 1) ++ c
                        else d ++ (if c = BitVec.allOnes 32 then c else c + 1) })).checkBudget lid

/-- Adds a record to a die's error log (R420). -/
def State.logErr (s : State) (d : Nat) (cause : BitVec 8) (cls : Cls) (addr : Nat) : State :=
  s.updDie d (fun x => { x with log := x.log ++ [⟨s.time, cause, cls.code.setWidth 8, addr, 1⟩] })
/-- An error in a register of the hart in focus is charged and recorded (R278, R420). -/
def State.registerErr (s : State) (det : Bool) : State :=
  (s.logErr (hidDie s.hart.hid) (if det then 7 else 0) .f 0).charge s.hart.launch det

/-- Meets the latent error of a register by its place in the error marks: a single-bit error is corrected and charged, a
double-bit error is charged once and makes the read raise POISON (R130, R278). A double-bit error stands as both marks until
it is detected, and as `xbad` alone afterwards. -/
def State.touchAt (s : State) (k : Nat) : State × Bool :=
  if s.hart.xcor.getLsbD k then
    let s' := s.upd (fun h => { h with xcor := clearBit h.xcor k })
    (s'.registerErr (s.hart.xbad.getLsbD k), s.hart.xbad.getLsbD k)
  else (s, s.hart.xbad.getLsbD k)
/-- Meets the latent error of a scalar register that an instruction reads. -/
def State.touchX (s : State) (i : XReg) : State × Bool :=
  if i = 0 then (s, false) else s.touchAt (s.hart.errIx i)

/-- The same for a predicate register (R33, R278). -/
def State.touchP (s : State) (i : PReg) : State × Bool :=
  let k := i.toNat
  if i = 0 then (s, false)
  else if s.hart.pcor.getLsbD k then
    let s' := s.upd (fun h => { h with pcor := clearBit h.pcor k })
    (s'.registerErr (s.hart.pbad.getLsbD k), s.hart.pbad.getLsbD k)
  else (s, s.hart.pbad.getLsbD k)

/-- Meets the latent errors of all registers that an instruction reads. -/
def State.touchXs (s : State) : List XReg → State × Bool
  | [] => (s, false)
  | i :: is =>
    let (s, b) := s.touchX i
    let (s, c) := s.touchXs is
    (s, b || c)
/-- The same for predicates. -/
def State.touchPs (s : State) : List PReg → State × Bool
  | [] => (s, false)
  | i :: is =>
    let (s, b) := s.touchP i
    let (s, c) := s.touchPs is
    (s, b || c)

/-! ## Issue -/

/-- Runs a body after the registers that the instruction reads have met their latent errors, or `bad` when one is poisoned. -/
def readingOr (bad : State → Eff) (xs : List XReg) (ps : List PReg) (body : State → Eff) (s : State) : Eff :=
  let (s, b) := s.touchXs xs
  let (s, c) := s.touchPs ps
  if b || c then bad s else body s
/-- Runs a body after the registers that the instruction reads; a poisoned one raises POISON with the instruction word (R130, R163,
R356). -/
def reading (i : Instr) (xs : List XReg) (ps : List PReg) (body : State → Eff) (s : State) : Eff :=
  readingOr (wordTrap .poison i) xs ps body s

/-- The checks before the token wait: whether the management hart executes the instruction (R19), and the mode (R28, R61). -/
def decodeChecks (i : Instr) (onMgmt : Bool) (priv : Priv) (rest : State → Eff) (s : State) : Eff :=
  if s.hart.isMgmt && !onMgmt then wordTrap .illegalInstr i s
  else if !priv.allows s.hart.mode then wordTrap .privilege i s
  else rest s

/-- The issue of an instruction whose guard is the whole instruction's (R39, R41, R61): decode checks, token wait, guard,
registers read, and then what the entry says. -/
def issue (i : Instr) (onMgmt : Bool) (priv : Priv) (g : Hdr) (xs : List XReg) (ps : List PReg) (body : State → Eff)
    (s : State) : Host.Outcome State Fault Refusal :=
  finish (decodeChecks i onMgmt priv (fun s =>
    if s.hart.waits g.wm then .whole s
    else reading i [] [g.pg] (fun s =>
      if s.hart.guard g.grd then reading i xs ps body s else .done s) s) s)

end Sys2Proof.Machine
end

