-- ==== Sys2Proof/Machine/Operands.lean ====
section
/-! DEFINITION. The operand forms of scalar instructions: immediates, memory operands, branch targets, the element count
that predicate instructions look at. -/

namespace Sys2Proof.Machine
open Sys2Proof

/-- Sext(IMM, 27) as a 64-bit pattern (R44). -/
def imm27 (i : BitVec 27) : Word := i.signExtend 64

/-- The registers that a memory operand reads (R45). -/
def memRegs : MemOp → List XReg
  | .direct xa _ => [xa]
  | .indexed xa xb _ => [xa, xb]

/-- The address of a memory operand (R45, R146): base plus immediate, or base plus scaled index, modulo 2^64. -/
def State.memAddr (s : State) : MemOp → Word
  | .direct xa imm => s.x xa + imm27 imm
  | .indexed xa xb k => s.x xa + s.x xb * (1#64 <<< k.toNat)

/-- The target of a branch: the branch's own address plus eight times the sign-extended offset (R48). -/
def State.target (s : State) (ofs : BitVec 27) : Word := s.hart.pc + imm27 ofs * 8

/-- `vl` × `vh`, which BRP, PFIRST and PCNT take as 1 on the management hart (R131). -/
def Hart.elems (h : Hart) : Nat := if h.isMgmt then 1 else h.vl * h.vh

end Sys2Proof.Machine
end

