-- ==== Sys2Proof/Machine/Flags.lean ====
section
/-! DEFINITION. The conditions of R57, and the flag rules of scalar floating point: the sticky flags of an instruction go to
`fcsr` (R92, R93), and the generator advances when a word was drawn (R88). -/

namespace Sys2Proof.Machine
open Sys2Proof

/-- A condition of CMP and BR on two registers (R57, R142). -/
def condHolds (c : Cond) (a b : Word) : Bool :=
  match c with
  | .eq => a == b
  | .ne => a != b
  | .lt => a.slt b
  | .ge => !a.slt b
  | .ltu => a.ult b
  | .geu => !a.ult b

/-- The number of set bits among the low `n` bits. -/
def countLow {w : Nat} (v : BitVec w) : Nat → Nat
  | 0 => 0
  | n + 1 => countLow v n + if v.getLsbD n then 1 else 0

/-- The lowest set bit among bits `i` to `i + n - 1`. -/
def firstFrom {w : Nat} (v : BitVec w) : Nat → Nat → Option Nat
  | _, 0 => none
  | i, n + 1 => if v.getLsbD i then some i else firstFrom v (i + 1) n

/-- A condition of BRP on a predicate, looking at `n` elements (R57). -/
def pcondHolds (c : PCond) (v : BitVec 32768) (n : Nat) : Bool :=
  match c with
  | .t => v.getLsbD 0
  | .f => !v.getLsbD 0
  | .any => v.extractLsb' 0 n != 0
  | .none => v.extractLsb' 0 n == 0

/-- A condition of FCMP on two values: a comparison with a NaN is unordered (R86). -/
def fcondHolds (c : FCond) (a b : Exact) : Bool :=
  match c, a.cmp? b with
  | .eq, some o => o == .eq
  | .ne, some o => o != .eq
  | .ne, Option.none => true
  | .lt, some o => o == .lt
  | .le, some o => o != .gt
  | .un, Option.none => true
  | _, _ => false

/-- A condition of VCMP on two values; `un` is false for integers (R86, R196). -/
def vcondHolds (c : VCond) (a b : Val) : Bool :=
  let o : Option Ordering := match a, b with
    | .int i, .int j => some (compare i j)
    | x, y => x.exact.cmp? y.exact
  match c, o with
  | .eq, some o => o == .eq
  | .ne, some o => o != .eq
  | .ne, Option.none => true
  | .lt, some o => o == .lt
  | .ge, some o => o != .lt
  | .le, some o => o != .gt
  | .gt, some o => o == .gt
  | .un, Option.none => true
  | _, _ => false

/-- All bits of a predicate equal to one result (R142). -/
def predAll (b : Bool) : BitVec 32768 := if b then BitVec.allOnes 32768 else 0

/-- A predicate with its low `n` bits set. -/
def lowOnes (n : Nat) : BitVec 32768 := BitVec.ofNat 32768 (2 ^ n - 1)

/-- The effect of a scalar floating-point result on `fcsr`: its flags, and one advance of the generator when the instruction
rounded in stochastic mode (R88, R92). -/
def State.fpEffect (s : State) (f : Flags) (m : RMode) (rounded : Bool) : State :=
  (s.raise f).advanceSeed (rounded && m == .sr)

end Sys2Proof.Machine
end

