-- ==== Sys2Proof/Machine/Alu.lean ====
section
/-! DEFINITION. The integer instructions: ALU (R137), multiply and divide (R138), bit operations (R139), immediates (R140),
address formation (R141, R145). -/

namespace Sys2Proof.Machine
open Sys2Proof

/-! ## Results -/

/-- The results of R137 that are no bit-vector operation by themselves. -/
def aluMin (a b : Word) : Word := if a.slt b then a else b
def aluMax (a b : Word) : Word := if a.slt b then b else a
def aluMinu (a b : Word) : Word := if a.ult b then a else b
def aluMaxu (a b : Word) : Word := if a.ult b then b else a
def aluSlt (a b : Word) : Word := if a.slt b then 1 else 0
def aluSltu (a b : Word) : Word := if a.ult b then 1 else 0
/-- Bits(B, 5, 0), the shift count of R137. -/
def shamt (b : Word) : Nat := (b.extractLsb' 0 6).toNat

/-- MULH and MULHU (R138). -/
def mulh (a b : Word) : Word := BitVec.ofInt 64 (a.toInt * b.toInt / (2 ^ 64 : Nat))
def mulhu (a b : Word) : Word := BitVec.ofNat 64 (a.toNat * b.toNat / 2 ^ 64)
/-- DIV, DIVU, REM, REMU with their corners (R138). -/
def divS (a b : Word) : Word := if b = 0 then -1 else BitVec.ofInt 64 (a.toInt.tdiv b.toInt)
def divU (a b : Word) : Word := if b = 0 then BitVec.allOnes 64 else BitVec.ofNat 64 (a.toNat / b.toNat)
def remS (a b : Word) : Word := if b = 0 then a else BitVec.ofInt 64 (a.toInt - b.toInt * a.toInt.tdiv b.toInt)
def remU (a b : Word) : Word := if b = 0 then a else BitVec.ofNat 64 (a.toNat % b.toNat)

/-- CLZ, CTZ, POPC of the low `w` bits of a number (R139, R193). -/
def clzN (w v : Nat) : Nat := if v % 2 ^ w = 0 then w else w - 1 - (v % 2 ^ w).log2
def clz (a : Word) : Word := BitVec.ofNat 64 (clzN 64 a.toNat)
def ctz (a : Word) : Word := BitVec.ofNat 64 ((firstFrom a 0 64).getD 64)
def popc (a : Word) : Word := BitVec.ofNat 64 (countLow a 64)

/-- BEXT over the positions from `i` on: `j` counts the set bits of B met so far (R139). -/
def bextGo (a b : Word) : Nat → Nat → Nat → Word
  | 0, _, _ => 0
  | n + 1, i, j =>
    if b.getLsbD i then (if a.getLsbD i then BitVec.twoPow 64 j else 0) ||| bextGo a b n (i + 1) (j + 1)
    else bextGo a b n (i + 1) j
def bext (a b : Word) : Word := bextGo a b 64 0 0
/-- BDEP over the positions from `i` on (R139). -/
def bdepGo (a b : Word) : Nat → Nat → Nat → Word
  | 0, _, _ => 0
  | n + 1, i, j =>
    if b.getLsbD i then (if a.getLsbD j then BitVec.twoPow 64 i else 0) ||| bdepGo a b n (i + 1) (j + 1)
    else bdepGo a b n (i + 1) j
def bdep (a b : Word) : Word := bdepGo a b 64 0 0

/-! ## The shape of the two-source instructions -/

/-- A result of two registers. -/
def regReg (i : Instr) (g : Hdr) (xd xa xb : XReg) (f : Word → Word → Word) (s : State) :
    Host.Outcome State Fault Refusal :=
  issue i true .all g [xa, xb] [] (fun s => .done (s.setX xd (f (s.x xa) (s.x xb)))) s
/-- A result of a register and the sign-extended immediate. -/
def regImm (i : Instr) (g : Hdr) (xd xa : XReg) (imm : BitVec 27) (f : Word → Word → Word) (s : State) :
    Host.Outcome State Fault Refusal :=
  issue i true .all g [xa] [] (fun s => .done (s.setX xd (f (s.x xa) (imm27 imm)))) s
/-- A result of one register. -/
def regOne (i : Instr) (g : Hdr) (xd xa : XReg) (f : Word → Word) (s : State) : Host.Outcome State Fault Refusal :=
  issue i true .all g [xa] [] (fun s => .done (s.setX xd (f (s.x xa)))) s

/-! ## ALU (R137) -/

/-- ADD (R137). -/
def execAdd (g : Hdr) (xd xa xb : XReg) (s : State) : Host.Outcome State Fault Refusal :=
  regReg (.add g xd xa xb) g xd xa xb (fun a b => a + b) s
/-- ADD with an immediate (R137). -/
def execAddImm (g : Hdr) (xd xa : XReg) (imm : BitVec 27) (s : State) : Host.Outcome State Fault Refusal :=
  regImm (.addImm g xd xa imm) g xd xa imm (fun a b => a + b) s
/-- SUB (R137). -/
def execSub (g : Hdr) (xd xa xb : XReg) (s : State) : Host.Outcome State Fault Refusal :=
  regReg (.sub g xd xa xb) g xd xa xb (fun a b => a - b) s
/-- SUB with an immediate (R137). -/
def execSubImm (g : Hdr) (xd xa : XReg) (imm : BitVec 27) (s : State) : Host.Outcome State Fault Refusal :=
  regImm (.subImm g xd xa imm) g xd xa imm (fun a b => a - b) s
/-- AND (R137). -/
def execAnd (g : Hdr) (xd xa xb : XReg) (s : State) : Host.Outcome State Fault Refusal :=
  regReg (.and g xd xa xb) g xd xa xb (fun a b => a &&& b) s
/-- AND with an immediate (R137). -/
def execAndImm (g : Hdr) (xd xa : XReg) (imm : BitVec 27) (s : State) : Host.Outcome State Fault Refusal :=
  regImm (.andImm g xd xa imm) g xd xa imm (fun a b => a &&& b) s
/-- OR (R137). -/
def execOr (g : Hdr) (xd xa xb : XReg) (s : State) : Host.Outcome State Fault Refusal :=
  regReg (.or g xd xa xb) g xd xa xb (fun a b => a ||| b) s
/-- OR with an immediate (R137). -/
def execOrImm (g : Hdr) (xd xa : XReg) (imm : BitVec 27) (s : State) : Host.Outcome State Fault Refusal :=
  regImm (.orImm g xd xa imm) g xd xa imm (fun a b => a ||| b) s
/-- XOR (R137). -/
def execXor (g : Hdr) (xd xa xb : XReg) (s : State) : Host.Outcome State Fault Refusal :=
  regReg (.xor g xd xa xb) g xd xa xb (fun a b => a ^^^ b) s
/-- XOR with an immediate (R137). -/
def execXorImm (g : Hdr) (xd xa : XReg) (imm : BitVec 27) (s : State) : Host.Outcome State Fault Refusal :=
  regImm (.xorImm g xd xa imm) g xd xa imm (fun a b => a ^^^ b) s
/-- ANDN (R137). -/
def execAndn (g : Hdr) (xd xa xb : XReg) (s : State) : Host.Outcome State Fault Refusal :=
  regReg (.andn g xd xa xb) g xd xa xb (fun a b => a &&& ~~~b) s
/-- ANDN with an immediate (R137). -/
def execAndnImm (g : Hdr) (xd xa : XReg) (imm : BitVec 27) (s : State) : Host.Outcome State Fault Refusal :=
  regImm (.andnImm g xd xa imm) g xd xa imm (fun a b => a &&& ~~~b) s
/-- SHL (R137). -/
def execShl (g : Hdr) (xd xa xb : XReg) (s : State) : Host.Outcome State Fault Refusal :=
  regReg (.shl g xd xa xb) g xd xa xb (fun a b => a <<< shamt b) s
/-- SHL with an immediate (R137). -/
def execShlImm (g : Hdr) (xd xa : XReg) (imm : BitVec 27) (s : State) : Host.Outcome State Fault Refusal :=
  regImm (.shlImm g xd xa imm) g xd xa imm (fun a b => a <<< shamt b) s
/-- SHR (R137). -/
def execShr (g : Hdr) (xd xa xb : XReg) (s : State) : Host.Outcome State Fault Refusal :=
  regReg (.shr g xd xa xb) g xd xa xb (fun a b => a >>> shamt b) s
/-- SHR with an immediate (R137). -/
def execShrImm (g : Hdr) (xd xa : XReg) (imm : BitVec 27) (s : State) : Host.Outcome State Fault Refusal :=
  regImm (.shrImm g xd xa imm) g xd xa imm (fun a b => a >>> shamt b) s
/-- SHA (R137). -/
def execSha (g : Hdr) (xd xa xb : XReg) (s : State) : Host.Outcome State Fault Refusal :=
  regReg (.sha g xd xa xb) g xd xa xb (fun a b => a.sshiftRight (shamt b)) s
/-- SHA with an immediate (R137). -/
def execShaImm (g : Hdr) (xd xa : XReg) (imm : BitVec 27) (s : State) : Host.Outcome State Fault Refusal :=
  regImm (.shaImm g xd xa imm) g xd xa imm (fun a b => a.sshiftRight (shamt b)) s
/-- ROTL (R137). -/
def execRotl (g : Hdr) (xd xa xb : XReg) (s : State) : Host.Outcome State Fault Refusal :=
  regReg (.rotl g xd xa xb) g xd xa xb (fun a b => a.rotateLeft (shamt b)) s
/-- ROTL with an immediate (R137). -/
def execRotlImm (g : Hdr) (xd xa : XReg) (imm : BitVec 27) (s : State) : Host.Outcome State Fault Refusal :=
  regImm (.rotlImm g xd xa imm) g xd xa imm (fun a b => a.rotateLeft (shamt b)) s
/-- MIN (R137). -/
def execMin (g : Hdr) (xd xa xb : XReg) (s : State) : Host.Outcome State Fault Refusal :=
  regReg (.min g xd xa xb) g xd xa xb aluMin s
/-- MIN with an immediate (R137). -/
def execMinImm (g : Hdr) (xd xa : XReg) (imm : BitVec 27) (s : State) : Host.Outcome State Fault Refusal :=
  regImm (.minImm g xd xa imm) g xd xa imm aluMin s
/-- MAX (R137). -/
def execMax (g : Hdr) (xd xa xb : XReg) (s : State) : Host.Outcome State Fault Refusal :=
  regReg (.max g xd xa xb) g xd xa xb aluMax s
/-- MAX with an immediate (R137). -/
def execMaxImm (g : Hdr) (xd xa : XReg) (imm : BitVec 27) (s : State) : Host.Outcome State Fault Refusal :=
  regImm (.maxImm g xd xa imm) g xd xa imm aluMax s
/-- MINU (R137). -/
def execMinu (g : Hdr) (xd xa xb : XReg) (s : State) : Host.Outcome State Fault Refusal :=
  regReg (.minu g xd xa xb) g xd xa xb aluMinu s
/-- MINU with an immediate (R137). -/
def execMinuImm (g : Hdr) (xd xa : XReg) (imm : BitVec 27) (s : State) : Host.Outcome State Fault Refusal :=
  regImm (.minuImm g xd xa imm) g xd xa imm aluMinu s
/-- MAXU (R137). -/
def execMaxu (g : Hdr) (xd xa xb : XReg) (s : State) : Host.Outcome State Fault Refusal :=
  regReg (.maxu g xd xa xb) g xd xa xb aluMaxu s
/-- MAXU with an immediate (R137). -/
def execMaxuImm (g : Hdr) (xd xa : XReg) (imm : BitVec 27) (s : State) : Host.Outcome State Fault Refusal :=
  regImm (.maxuImm g xd xa imm) g xd xa imm aluMaxu s
/-- SLT (R137). -/
def execSlt (g : Hdr) (xd xa xb : XReg) (s : State) : Host.Outcome State Fault Refusal :=
  regReg (.slt g xd xa xb) g xd xa xb aluSlt s
/-- SLT with an immediate (R137). -/
def execSltImm (g : Hdr) (xd xa : XReg) (imm : BitVec 27) (s : State) : Host.Outcome State Fault Refusal :=
  regImm (.sltImm g xd xa imm) g xd xa imm aluSlt s
/-- SLTU (R137). -/
def execSltu (g : Hdr) (xd xa xb : XReg) (s : State) : Host.Outcome State Fault Refusal :=
  regReg (.sltu g xd xa xb) g xd xa xb aluSltu s
/-- SLTU with an immediate (R137). -/
def execSltuImm (g : Hdr) (xd xa : XReg) (imm : BitVec 27) (s : State) : Host.Outcome State Fault Refusal :=
  regImm (.sltuImm g xd xa imm) g xd xa imm aluSltu s

/-! ## Multiply, divide, bits -/

/-- MUL (R138). -/
def execMul (g : Hdr) (xd xa xb : XReg) (s : State) : Host.Outcome State Fault Refusal :=
  regReg (.mul g xd xa xb) g xd xa xb (fun a b => a * b) s
/-- MULH (R138). -/
def execMulh (g : Hdr) (xd xa xb : XReg) (s : State) : Host.Outcome State Fault Refusal :=
  regReg (.mulh g xd xa xb) g xd xa xb mulh s
/-- MULHU (R138). -/
def execMulhu (g : Hdr) (xd xa xb : XReg) (s : State) : Host.Outcome State Fault Refusal :=
  regReg (.mulhu g xd xa xb) g xd xa xb mulhu s
/-- DIV (R138). -/
def execDiv (g : Hdr) (xd xa xb : XReg) (s : State) : Host.Outcome State Fault Refusal :=
  regReg (.div g xd xa xb) g xd xa xb divS s
/-- DIVU (R138). -/
def execDivu (g : Hdr) (xd xa xb : XReg) (s : State) : Host.Outcome State Fault Refusal :=
  regReg (.divu g xd xa xb) g xd xa xb divU s
/-- REM (R138). -/
def execRem (g : Hdr) (xd xa xb : XReg) (s : State) : Host.Outcome State Fault Refusal :=
  regReg (.rem g xd xa xb) g xd xa xb remS s
/-- REMU (R138). -/
def execRemu (g : Hdr) (xd xa xb : XReg) (s : State) : Host.Outcome State Fault Refusal :=
  regReg (.remu g xd xa xb) g xd xa xb remU s
/-- BEXT (R139). -/
def execBext (g : Hdr) (xd xa xb : XReg) (s : State) : Host.Outcome State Fault Refusal :=
  regReg (.bext g xd xa xb) g xd xa xb bext s
/-- BDEP (R139). -/
def execBdep (g : Hdr) (xd xa xb : XReg) (s : State) : Host.Outcome State Fault Refusal :=
  regReg (.bdep g xd xa xb) g xd xa xb bdep s
/-- CLZ (R139). -/
def execClz (g : Hdr) (xd xa : XReg) (s : State) : Host.Outcome State Fault Refusal :=
  regOne (.clz g xd xa) g xd xa clz s
/-- CTZ (R139). -/
def execCtz (g : Hdr) (xd xa : XReg) (s : State) : Host.Outcome State Fault Refusal :=
  regOne (.ctz g xd xa) g xd xa ctz s
/-- POPC (R139). -/
def execPopc (g : Hdr) (xd xa : XReg) (s : State) : Host.Outcome State Fault Refusal :=
  regOne (.popc g xd xa) g xd xa popc s
/-- BREV (R139). -/
def execBrev (g : Hdr) (xd xa : XReg) (s : State) : Host.Outcome State Fault Refusal :=
  regOne (.brev g xd xa) g xd xa BitVec.reverse s

/-! ## Immediates and addresses -/

/-- LI (R47, R140). -/
def execLi (g : Hdr) (xd : XReg) (imm : BitVec 37) (s : State) : Host.Outcome State Fault Refusal :=
  issue (.li g xd imm) true .all g [] [] (fun s => .done (s.setX xd (imm.signExtend 64))) s
/-- LIH keeps the low 37 bits of its destination (R140). -/
def execLih (g : Hdr) (xd : XReg) (imm : BitVec 27) (s : State) : Host.Outcome State Fault Refusal :=
  issue (.lih g xd imm) true .all g [xd] [] (fun s => .done (s.setX xd (imm ++ (s.x xd).extractLsb' 0 37))) s
/-- LEA (R145): the address, with no access. -/
def execLea (g : Hdr) (xd : XReg) (m : MemOp) (s : State) : Host.Outcome State Fault Refusal :=
  issue (.lea g xd m) true .all g (memRegs m) [] (fun s => .done (s.setX xd (s.memAddr m))) s
/-- PAMK (R141). -/
def execPamk (g : Hdr) (xd xa xb : XReg) (s : State) : Host.Outcome State Fault Refusal :=
  regReg (.pamk g xd xa xb) g xd xa xb (fun a b => 0#12 ++ a.extractLsb' 0 11 ++ b.extractLsb' 0 41) s
/-- PAX (R141). -/
def execPax (g : Hdr) (xd xa : XReg) (s : State) : Host.Outcome State Fault Refusal :=
  regOne (.pax g xd xa) g xd xa (fun a => (a.extractLsb' 41 11).setWidth 64) s

end Sys2Proof.Machine
end

