-- ==== Sys2Proof/Machine/Links.lean ====
section
/-! DEFINITION. Die strands and wavelengths (R373 to R377), the port groups (R380 to R383), the live link table (R387 to R389), and
the registers of links, groups, mailboxes and function entries in the system control space (R376, R387 to R390, R419, R421). -/

namespace Sys2Proof.Machine
open Sys2Proof

/-! ## Wavelengths (R376, R377) -/

/-- The value of an unlisted wavelength of a die: TRAINING before bring-up training, ACTIVE after it (R376, R426). -/
def Die.waveInit (d : Die) (_ : Nat) : Wave := if d.trained then { st := .active } else {}
/-- The key of a wavelength. -/
def waveKey (peer strand wl : Nat) : Nat := 128 * peer + 8 * strand + wl
/-- A wavelength of an incoming strand of a die. -/
def State.wave (s : State) (d k : Nat) : Wave := Tab.get (s.die d).waveInit (s.die d).waves k
/-- Writes a wavelength. -/
def State.setWave (s : State) (d k : Nat) (w : Wave) : State :=
  s.updDie d (fun x => { x with waves := Tab.set x.waveInit x.waves k w })
/-- The code of a wavelength's state (R376). -/
def WState.code : WState → BitVec 3
  | .active => 0 | .leaving => 1 | .training => 2 | .joining => 3 | .failed => 4 | .off => 5

/-- Entry to TRAINING: RETRAINS grows by 1, saturating (R376, R377). -/
def Wave.train (w : Wave) : Wave :=
  { w with st := .training, marked := false
           retrains := if w.retrains = BitVec.allOnes 16 then w.retrains else w.retrains + 1 }
/-- How many other wavelengths of the strand are LEAVING, TRAINING or JOINING (R377). -/
def State.othersOut (s : State) (d k : Nat) : Nat :=
  ((List.range 8).filter (fun j => k / 8 * 8 + j != k && match (s.wave d (k / 8 * 8 + j)).st with
    | .leaving | .training | .joining => true
    | _ => false)).length
/-- A retrain asked for by a low BERX, or by FORCE, on an ACTIVE wavelength (R377). -/
def State.retrain (s : State) (d k : Nat) : State :=
  let w := s.wave d k
  if w.st = .active ∧ s.othersOut d k ≤ 1 then s.setWave d k { w with st := .leaving, marked := false } else s
/-- FORCE written (R377): a retrain of an ACTIVE wavelength, and a new attempt of a FAILED one. -/
def State.forceWave (s : State) (d k : Nat) : State :=
  let w := s.wave d k
  if w.st = .failed then s.setWave d k { w.train with fails := 0 } else s.retrain d k
/-- OFF written 1 (R377). -/
def State.offWave (s : State) (d k : Nat) : State :=
  let w := { s.wave d k with off := true }
  s.setWave d k (if w.st = .active then { w with st := .leaving, marked := true } else w)
/-- OFF written 0 (R377). -/
def State.onWave (s : State) (d k : Nat) : State :=
  let w := { s.wave d k with off := false }
  s.setWave d k (if w.st = .off then { w.train with fails := 0 } else w)
/-- A write of WLCTL (R376). -/
def State.writeWlctl (s : State) (d k : Nat) (v : Word) : State :=
  let s := s.setWave d k { s.wave d k with thr := v.extractLsb' 0 8 }
  let s := if v.getLsbD 9 then s.offWave d k else s.onWave d k
  if v.getLsbD 8 then s.forceWave d k else s
/-- A register of a wavelength (R376). -/
def Wave.reg (w : Wave) (r : Nat) : Word :=
  match r with
  | 0 => w.berx ++ 0#16 ++ w.retrains ++ 0#21 ++ w.st.code
  | 1 => w.cor
  | 2 => w.unc
  | _ => 0#54 ++ BitVec.ofBool w.off ++ 0#1 ++ w.thr

/-! ## Strands and pairs (R373 to R375) -/

/-- The wavelengths of the strand from die `a` to die `b` that are in one of some states, ascending. -/
def State.wavesIn (s : State) (a b strand : Nat) (c : WState → Bool) : List Nat :=
  (List.range 8).filter (fun w => c (s.wave b (waveKey a strand w)).st)
/-- How many wavelengths of the strand from die `a` to die `b` are active. -/
def State.strandWaves (s : State) (a b strand : Nat) : Nat := (s.wavesIn a b strand (· == .active)).length
/-- The wavelengths that carry the flit in flight on a strand: the active ones, and those that leave at its end (R373, R377). -/
def State.carriers (s : State) (a b strand : Nat) : List Nat := s.wavesIn a b strand (fun w => w == .active || w == .leaving)
/-- The wavelength on which bit `i` of a flit travels (R373). -/
def bitCarrier (ws : List Nat) (i : Nat) : Nat := ws.getD (i % ws.length) 0
/-- The wavelengths that carried a bit of a mask of a 576-bit flit (R373, R376). -/
def bitCarriers (ws : List Nat) (mask : Nat) : List Nat :=
  ws.filter (fun w => (List.range 576).any (fun i => mask.testBit i && bitCarrier ws i == w))

/-- The default strand of a packet with first home line `l` (R374). -/
def defaultStrand (l : Nat) : Nat := (l % 16) ^^^ (l / 16 % 16) ^^^ (l / 256 % 16) ^^^ (l / 4096 % 16)
/-- The strand that a packet takes from die `a` to die `b`: the default one, or the next that is up (R374); a strand whose last
wavelength is leaving still completes its flit. -/
def State.strandFor (s : State) (a b l : Nat) : Option Nat :=
  ((List.range 16).map (fun i => (defaultStrand l + i) % 16)).find? (fun t => !(s.carriers a b t).isEmpty)
/-- Whether an ordered pair is up: one of its strands is (R375). -/
def State.pairUp (s : State) (a b : Nat) : Bool := (List.range 16).any (fun t => decide (0 < s.strandWaves a b t))
/-- The die that relays between the dies of a pair that is down: the lowest with both ways up (R375). -/
def State.relay (s : State) (a b : Nat) : Option Nat := (List.range 10).find? (fun c => s.pairUp a c && s.pairUp c b)
/-- The die from which a flit of die `a` reaches die `b`, and its strand: directly, or over the relay (R374, R375). -/
def State.lastHop (s : State) (a b l : Nat) : Option (Nat × Nat) :=
  match s.strandFor a b l with
  | some t => some (a, t)
  | none => (s.relay a b).bind (fun c => (s.strandFor c b l).map (fun t => (c, t)))
/-- Whether traffic goes from a die to another, directly or through a relay (R375). -/
def State.carries (s : State) (a b : Nat) : Bool := a == b || s.pairUp a b || (s.relay a b).isSome

/-! ## Flows (R375, R384) -/

/-- Moves the base of a flow over the numbers received from it on. -/
def Flow.advance (f : Flow) : Nat → Flow
  | 0 => f
  | fuel + 1 => if f.got.contains f.base then Flow.advance { f with base := f.base + 1, got := f.got.filter (· != f.base) } fuel else f
/-- Whether a number has been received already. -/
def Flow.has (f : Flow) (n : Nat) : Bool := decide (n < f.base) || f.got.contains n
/-- A flow with one more number received. -/
def Flow.accept (f : Flow) (n : Nat) : Flow :=
  if f.has n then f else Flow.advance { f with got := n :: f.got } (f.got.length + 1)

/-! ## Port groups (R380 to R383) -/

/-- A port group. -/
def State.pg (s : State) (g : Nat) : PortGroup := if h : g < 2 then s.pgs[g] else {}
/-- The erasures of a group: its dead lanes (R380). -/
def PortGroup.eras (g : PortGroup) : Nat := countLow g.dead 72
/-- The STATE of a group (R388). -/
def PortGroup.code (g : PortGroup) : BitVec 2 :=
  if g.resetting then 2 else if 8 < g.eras then 3 else if 0 < g.eras then 1 else 0
/-- Whether a group is out of service (R383). -/
def PortGroup.out (g : PortGroup) : Bool := g.resetting || decide (8 < g.eras)
/-- LTPG of a group (R388). -/
def PortGroup.word (g : PortGroup) : Word :=
  g.code ++ 0#18 ++ BitVec.ofNat 8 g.eras
    ++ BitVec.ofNat 36 (packNat 1 ((List.range 36).map (fun j => if g.dead.getLsbD (2 * j) || g.dead.getLsbD (2 * j + 1) then 0 else 1)))
/-- Changes a port group; the time it is out of service runs from now when it goes out, and ends when it returns. -/
def State.setPg (s : State) (g : Nat) (x : PortGroup) : State :=
  if h : g < 2 then
    let x := { x with outSince := if x.out then some ((s.pgs[g]).outSince.getD s.time) else none, lost := x.lost && x.out }
    { s with pgs := s.pgs.set g x }
  else s
/-- Whether a group can carry a packet to a package now (R383). -/
def State.groupOk (s : State) (g p : Nat) : Bool := (if g = 0 then s.reach[0] else s.reach[1]).getLsbD p && !(s.pg g).out
/-- The port group of a packet to a package with first line `l`: A for an even line, B for an odd one, or the other group (R383). -/
def State.groupFor (s : State) (p l : Nat) : Option Nat :=
  if s.groupOk (l % 2) p then some (l % 2) else if s.groupOk (1 - l % 2) p then some (1 - l % 2) else none
/-- Whether the decoder corrects a flit with `e` unknown symbol errors and `f` erasures (R380). -/
def decodes (e f : Nat) : Bool := decide (2 * e + f ≤ 8)
/-- Discards the packets in flight on a group: the transport sends them again (R382, R384). -/
def State.dropFlight (s : State) (g : Nat) : State :=
  { s with outbox := s.outbox.map (fun (o : OutPush) => if o.grp = some g then { o with grp := none } else o) }
/-- Whether another package has a route in the fabric (R271, R383, R388). A group that is RESETTING returns within 50 µs, and the
transport sends again until then. -/
def State.routed (s : State) (p : Nat) : Bool :=
  (s.reach[0].getLsbD p && decide ((s.pg 0).eras ≤ 8)) || (s.reach[1].getLsbD p && decide ((s.pg 1).eras ≤ 8))

/-! ## The live link table (R387, R388) -/

/-- An entry of the table. -/
def State.pairEntry (s : State) (a b : Nat) : Word := Tab.get (fun _ => 0) s.ltab (10 * a + b)
/-- The fields of an entry. -/
def entryState (e : Word) : BitVec 2 := e.extractLsb' 62 2
def entryStrands (e : Word) : BitVec 16 := e.extractLsb' 32 16
def entryWaves (e : Word) : Nat := (e.extractLsb' 0 8).toNat
/-- The entry that the wavelengths of a pair give (R387). -/
def State.pairWord (s : State) (a b : Nat) : Word :=
  let ws := (List.range 16).map (fun t => s.strandWaves a b t)
  let n := ws.sum
  (if n = 128 then 0#2 else if n = 0 then 2#2 else 1#2) ++ 0#14
    ++ BitVec.ofNat 16 (packNat 1 (ws.map (fun k => if k = 0 then 0 else 1))) ++ 0#24 ++ BitVec.ofNat 8 n

/-- The writable bits of LTEVT. -/
def ltevtMask : Word := 0x80000000000FFFFF

/-- A register of the live link table at an offset (R387, R388). -/
def State.linkReg (s : State) (o : Nat) : Option Word :=
  if o < 800 then some (if o / 80 = o / 8 % 10 then 0 else s.pairEntry (o / 80) (o / 8 % 10))
  else match o with
    | 0x400 => some s.ltpg[0]
    | 0x408 => some s.ltpg[1]
    | 0x800 => some (s.reach[0].extractLsb' 0 64)
    | 0x808 => some (s.reach[0].extractLsb' 64 64)
    | 0x810 => some (s.reach[1].extractLsb' 0 64)
    | 0x818 => some (s.reach[1].extractLsb' 64 64)
    | 0xC00 => some s.lttree
    | 0xC08 => some s.ltevt
    | _ => none

/-! ## Groups, mailboxes, function entries -/

/-- A register of a group descriptor (R390). -/
def Group.reg (g : Group) (r : Nat) : Option Word :=
  match r with
  | 0 => some g.gctl
  | 1 => some g.gstage
  | 2 => some g.gmask0
  | 3 => some g.gmask1
  | _ => none
/-- A write to GCTL (R390): while EN = 1 only EN changes, and a write of 0 to it ends every instance in progress. -/
def State.writeGctl (s : State) (g : Nat) (v : Word) : State :=
  let old := s.group g
  if old.en then
    if v.getLsbD 0 then s
    else ((s.endInsts (fun x => x.grp == g) 7).updGroup g (fun x => { x with gctl := x.gctl &&& ~~~1#64 })).settle
  else s.updGroup g (fun x => { x with gctl := v &&& (gctlMask ||| 1) })
/-- A write to a register of a group descriptor (R390). -/
def State.writeGroup (s : State) (g r : Nat) (v : Word) : State :=
  match r with
  | 0 => s.writeGctl g v
  | 1 => if (s.group g).en then s else s.updGroup g (fun x => { x with gstage := v &&& gstageMask })
  | 2 => if (s.group g).en then s else s.updGroup g (fun x => { x with gmask0 := v })
  | _ => if (s.group g).en then s else s.updGroup g (fun x => { x with gmask1 := v })

/-- A double word of a buffer. -/
def bufWord (t : Tab Byte) (o : Nat) : Word := BitVec.ofNat 64 (ofBytes (Tab.getRange (fun _ => 0) t o 8))
/-- A register of a mailbox at an offset (R418, R419). -/
def Mailbox.reg (m : Mailbox) (o : Nat) : Option Word :=
  if o = 0x100 then some (0#32 ++ m.len ++ 0#15 ++ BitVec.ofBool m.go)
  else if o = 0x108 then some (0#32 ++ m.rlen ++ 0#15 ++ BitVec.ofBool m.ready)
  else if 0x1000 ≤ o ∧ o < 0x2000 then some (bufWord m.req (o - 0x1000))
  else if 0x2000 ≤ o ∧ o < 0x3000 then some (bufWord m.resp (o - 0x2000))
  else none
/-- A write to a register of a mailbox (R418): a control write while GO reads 1 is ignored; READY clears by a 1. -/
def Mailbox.write (m : Mailbox) (o : Nat) (v : Word) : Mailbox :=
  if o = 0x100 then (if m.go then m else { m with len := v.extractLsb' 16 16, go := v.getLsbD 0 })
  else if o = 0x108 then (if v.getLsbD 0 then { m with ready := false } else m)
  else if 0x1000 ≤ o ∧ o < 0x2000 then { m with req := Tab.setRange (fun _ => 0) m.req (o - 0x1000) (bytesOf 8 v.toNat) }
  else m
/-- A function entry (R421). -/
def Func.entry (f : Func) : Word := f.tenant ++ f.queue ++ f.hw ++ 0#35 ++ BitVec.ofBool f.v

/-! ## The registers -/

/-- What wakes a WAIT of the management hart (R369): a request that reaches Pilot. -/
def State.wakeMgmt (s : State) : State :=
  s.updHart (mkHid s.pkg (32 * s.mgmtDie + 31) 0) (fun h => { h with woken := h.woken || h.inWait })

/-- The registers of links (9, 10), groups (11), mailbox and function entries (12). -/
def State.sysRead2 (s : State) (d blk o : Nat) : Option Word :=
  match blk with
  | 9 =>
    let peer := o / 0x4000
    let strand := o % 0x4000 / 0x200
    let wl := o % 0x200 / 0x20
    if peer < 10 ∧ peer ≠ d ∧ strand < 16 ∧ wl < 8 then some ((s.wave d (waveKey peer strand wl)).reg (o % 0x20 / 8)) else none
  | 10 => if d = s.mgmtDie then s.linkReg o else none
  | 11 => if d = s.mgmtDie ∧ o < 0x4000 then (s.group (o / 0x100)).reg (o % 0x100 / 8) else none
  | 12 =>
    if d ≠ s.mgmtDie then none
    else if 0x10000 ≤ o ∧ o < 0x10200 then some (s.func ((o - 0x10000) / 8)).entry
    else s.smb.reg o
  | _ => none

/-- Writes of the same registers. -/
def State.sysWrite2 (s : State) (d blk o : Nat) (v : Word) : State :=
  match blk with
  | 9 => if o % 0x20 / 8 = 3 then s.writeWlctl d (waveKey (o / 0x4000) (o % 0x4000 / 0x200) (o % 0x200 / 0x20)) v else s
  | 10 => if o = 0xC08 then { s with ltevt := v &&& ltevtMask } else s
  | 11 => s.writeGroup (o / 0x100) (o % 0x100 / 8) v
  | 12 =>
    if 0x10000 ≤ o then s
    else
      let s' := { s with smb := s.smb.write o v }
      if s'.smb.go && !s.smb.go then s'.wakeMgmt else s'
  | _ => s

end Sys2Proof.Machine
end

