-- ==== Sys2Proof/Machine/Quay.lean ====
section
/-! DEFINITION. The quay banks and the memory-side cache (R246 to R249, R292, R293), window copies (R251, R253), and what
write-back and last use do to poison (R248, R280). A line is named by its number: physical address / 128. Which lines are
present changes no value that a read returns (R247, R293), but a last-use drop does (R248). -/

namespace Sys2Proof.Machine
open Sys2Proof

/-- The bank and set of a line number within its die (R246). -/
def quaySet (line : Nat) : Nat × Nat :=
  let l := line % 2 ^ 34
  (l % 61, l / 61 % 2048)
/-- Whether two lines share a set of one die's quay. -/
def sameQuaySet (a b : Nat) : Bool := a / 2 ^ 34 == b / 2 ^ 34 && quaySet a == quaySet b

/-- The channel of a die-local offset (R275). -/
def channelOf (q : Nat) : Nat :=
  let u := q / 256 % 2 ^ 29
  (u % 64) ^^^ (u / 2 ^ 6 % 64) ^^^ (u / 2 ^ 12 % 64) ^^^ (u / 2 ^ 18 % 64) ^^^ (u / 2 ^ 24 % 32)
/-- The slice and set of a line in the memory-side cache (R292). -/
def mscSet (line : Nat) : Nat × Nat :=
  let q := line % 2 ^ 34 * 128
  (channelOf q, (q / 256 / 64 * 256 + q % 256) / 128 % 256)
/-- Whether two lines share a set of one die's memory-side cache. -/
def sameMscSet (a b : Nat) : Bool := a / 2 ^ 34 == b / 2 ^ 34 && mscSet a == mscSet b

/-- The rank of an eviction priority: the highest goes first (R247). -/
def evpRank (e : BitVec 2) : Nat := match e.toNat with | 3 => 3 | 2 => 2 | 0 => 1 | _ => 0
/-- Whether line `a` is a better victim than line `b` (R247). -/
def worseLine (a b : Line) : Bool :=
  decide (evpRank b.evp < evpRank a.evp) || (evpRank a.evp == evpRank b.evp && decide (a.age < b.age))
/-- The victim among the listed lines. -/
def victim : List (Nat × Line) → Option (Nat × Line)
  | [] => none
  | x :: xs => match victim xs with
    | none => some x
    | some y => if worseLine y.2 x.2 then some y else some x

/-- The default of a line table: no line. The tables list only lines that are present. -/
def hasLine (t : Tab Line) (l : Nat) : Bool := t.any (fun e => e.1 == l)
/-- Puts or replaces a line. -/
def putLine (t : Tab Line) (l : Nat) (v : Line) : Tab Line := Tab.insert l v (Tab.erase l t)

/-- The class of the frame that a line lies in. -/
def State.lineCls (s : State) (line : Nat) : Cls := (s.frame (line / 2 ^ 34) (line % 2 ^ 34 / 2 ^ 23)).cls

/-! ## Stored errors in HBM and in cached copies (R278) -/

/-- The address of a stored error, without the package. -/
def StoredErr.pa (e : StoredErr) : Nat := match e.at_ with
  | .hbm g => 64 * g
  | .quay w | .local_ w => 8 * w
/-- An error is corrected: charged and recorded (R278, R420). -/
def State.correctErr (s : State) (l : Option LaunchId) (c : Cls) (pa : Nat) : State :=
  (s.logErr (paDie pa) 0 c (s.pkg.toNat * 2 ^ 45 + pa)).charge l false
/-- An error is detected: `n` units from `pa` on are poisoned, and it is charged and recorded. -/
def State.detectErr (s : State) (l : Option LaunchId) (c : Cls) (pa n : Nat) : State :=
  ((s.setUnits (pa / 4) true n).logErr (paDie pa) 7 c (s.pkg.toNat * 2 ^ 45 + pa)).charge l true

/-- How many of `n` fields of width `w` of a mask are not zero. -/
def badFields (w mask n : Nat) : Nat := ((List.range n).filter (fun i => elemAt w mask i != 0)).length
/-- Whether a stored error is more than class F corrects: more than one bad symbol of a granule, or bit of a word (R278). -/
def StoredErr.bad (e : StoredErr) : Bool := match e.at_ with
  | .hbm _ => decide (1 < badFields 16 e.mask 32)
  | .quay _ | .local_ _ => decide (1 < badFields 1 e.mask 64)

/-- Whether a stored error lies in the HBM of a line, or in the cached copy of a line. -/
def StoredErr.inHbm (line : Nat) (e : StoredErr) : Bool := match e.at_ with
  | .hbm g => g / 2 == line
  | _ => false
def StoredErr.inCopy (line : Nat) (e : StoredErr) : Bool := match e.at_ with
  | .quay w => w / 16 == line
  | _ => false
/-- Takes errors away with what held them. -/
def State.dropErrs (s : State) (c : StoredErr → Bool) : State := { s with errs := s.errs.filter (fun e => !c e) }
/-- Changes `n` bytes without a write: an error that nothing reports. -/
def State.flipBytes (s : State) (pa mask : Nat) : Nat → State
  | 0 => s
  | n + 1 =>
    let s := if mask % 256 = 0 then s
      else { s with mem := Tab.set Memory.unlisted s.mem pa (s.rawByte pa ^^^ BitVec.ofNat 8 mask) }
    s.flipBytes (pa + 1) (mask / 256) n
/-- Drops the copies that held errors, without a write-back: the bytes show again what HBM holds. -/
def State.undoErrs (s : State) (c : StoredErr → Bool) : State :=
  ((s.errs.filter (fun e => c e && e.esc)).foldl (fun s e => match e.at_ with
    | .quay w => s.flipBytes (8 * w) e.mask 8
    | _ => s) s).dropErrs c
/-- What a write of `n` bytes leaves of an error that the bytes of a copy show. -/
def StoredErr.cut (pa n : Nat) (e : StoredErr) : StoredErr :=
  match e.esc, e.at_ with
  | true, .quay w => { e with mask := packNat 8 ((List.range 8).map (fun i =>
      if pa ≤ 8 * w + i ∧ 8 * w + i < pa + n then 0 else e.mask / 2 ^ (8 * i) % 256)) }
  | _, _ => e

/-- A granule read from HBM with a stored error (R278). -/
def State.meetGran (s : State) (l : Option LaunchId) (e : StoredErr) : State :=
  let gran (s : State) : State := { s with gran := Tab.set (fun _ => false) s.gran (e.pa / 64) true }
  if e.esc then s.flipBytes e.pa e.mask 64 else
  match s.lineCls (e.pa / 128) with
  | .n => s
  | .f => if e.bad then (gran s).detectErr l .f e.pa 16 else s.correctErr l .f e.pa
  | .d => (gran s).detectErr l .d e.pa 16
/-- The words of a line carry the poison of their granules in HBM (R280). -/
def State.loadGran (s : State) (line : Nat) : State :=
  if s.gran.isEmpty && s.poison.isEmpty then s else
  let g (i : Nat) : Bool := Tab.get (fun _ => false) s.gran (2 * line + i)
  (s.setUnits (32 * line) (g 0) 16).setUnits (32 * line + 16) (g 1) 16
/-- A line is read from HBM for a request of a launch: the errors of its granules are found, and its words carry their poison
(R278, R280, R284). -/
def State.fetchLine (s : State) (l : Option LaunchId) (line : Nat) : State :=
  ((s.errs.filter (StoredErr.inHbm line)).foldl (fun s e => s.meetGran l e) (s.dropErrs (StoredErr.inHbm line))).loadGran line

/-- Whether a cached copy of a line is dirty. -/
def State.lineDirty (s : State) (line : Nat) : Bool :=
  s.quay.any (fun x => x.1 == line && x.2.dirty) || s.msc.any (fun x => x.1 == line && x.2.dirty)
/-- Drops a clean copy and reads its line from HBM again (R278): the errors of the copy are gone with it. -/
def State.refetch (s : State) (l : Option LaunchId) (line : Nat) : State := (s.undoErrs (StoredErr.inCopy line)).fetchLine l line
/-- What finding a stored error makes of it, for a request of a launch (R278, R284): an uncorrectable one of a clean copy fetches the
line again. -/
def State.meetErr (s : State) (l : Option LaunchId) (e : StoredErr) : State :=
  let pa := e.pa
  let line := pa / 128
  match e.at_ with
  | .hbm _ => s.meetGran l e
  | .quay _ =>
    match s.lineCls line with
    | .n => if e.bad then s else s.logErr (paDie pa) 0 .n (s.pkg.toNat * 2 ^ 45 + pa)
    | .f => if !e.bad then s.correctErr l .f pa else if s.lineDirty line then s.detectErr l .f pa 2
        else (s.correctErr l .f pa).refetch l line
    | .d => if s.lineDirty line then s.detectErr l .d pa 2 else (s.correctErr l .d pa).refetch l line
  | .local_ _ =>
    match (if regionOf pa = .ws then Cls.f else (s.core (128 * paDie pa + paOff pa % 2 ^ 32 / 2 ^ 21)).cls) with
    | .n => s
    | .f => if e.bad then s.detectErr l .f pa 2 else s.correctErr l .f pa
    | .d => s.detectErr l .d pa 2
/-- A request finds the errors that meet a condition, one after another; one that its code misses stays unseen. -/
def State.findErrs (s : State) (l : Option LaunchId) (c : StoredErr → Bool) : State :=
  (List.range s.errs.length).foldl (fun s _ => match s.errs.find? (fun e => c e && !e.esc) with
    | some e => (s.dropErrs (· == e)).meetErr l e
    | none => s) s

/-- One granule of a line written back to HBM: in an F or D frame any poisoned word poisons the whole granule (R280). -/
def State.backGran (s : State) (g : Nat) : State :=
  let bad := s.anyUnit (16 * g) 16
  let s := { s with gran := Tab.set (fun _ => false) s.gran g bad }
  if bad then s.setUnits (16 * g) true 16 else s
/-- A dirty line written back to HBM: the errors of its copy are found and charged to no launch (R284), and it replaces what HBM
held, stored errors included. -/
def State.writeBack (s : State) (line : Nat) : State :=
  let s := (s.findErrs none (StoredErr.inCopy line)).dropErrs (fun e => e.inCopy line || e.inHbm line)
  if s.lineCls line = .n then s else (s.backGran (2 * line)).backGran (2 * line + 1)

/-! ## The memory-side cache (R292, R293) -/

/-- The lines of a slice's set of the memory-side cache, but for the line that names the set. -/
def State.mscOthers (s : State) (line : Nat) : List (Nat × Line) := s.msc.filter (fun e => sameMscSet e.1 line && e.1 != line)
/-- The sectors that a line needs: a line with a poisoned word is held uncompressed (R292); how far another can be compressed is
free (log 10). -/
def State.sectorsOf (s : State) (line : Nat) : Nat :=
  if s.anyUnit (32 * line) 32 then 4 else Config.sectors (s.bytes (128 * line) 128) % 4 + 1
/-- The physical line of its set, and the sectors, of a line that the memory-side cache holds. -/
def State.packOf (s : State) (line : Nat) : Nat × Nat := Tab.get (fun _ => (0, 0)) s.pack line
/-- The physical line that takes a line of `n` sectors: its own while there is room, else an empty one, else the first with room. -/
def State.wayFor (s : State) (line n : Nat) : Option Nat :=
  let in_ (k : Nat) : List (Nat × Line) := (s.mscOthers line).filter (fun e => (s.packOf e.1).1 == k)
  let room (k : Nat) : Bool := (in_ k).isEmpty || decide (((in_ k).map (fun e => (s.packOf e.1).2)).sum + n ≤ 4)
  let own := if hasLine s.msc line then [(s.packOf line).1] else []
  (own ++ (List.range 16).filter (fun k => (in_ k).isEmpty) ++ List.range 16).find? room
/-- Takes a line out of the memory-side cache; a copy that it alone held is gone, with the errors of that copy. -/
def State.dropMsc (s : State) (line : Nat) : State :=
  let s := { s with msc := Tab.erase line s.msc, pack := Tab.erase line s.pack }
  if hasLine s.quay line then s else s.undoErrs (StoredErr.inCopy line)
/-- Writes a line of the memory-side cache back to HBM while the quay holds a copy of its own: the words of that copy keep their
poison (R280). -/
def State.backOld (s : State) (line : Nat) (v : Line) : State :=
  let s := s.dropErrs (StoredErr.inHbm line)
  if s.lineCls line = .n then s else
  let bad := v.back.getD (s.anyUnit (32 * line) 16, s.anyUnit (32 * line + 16) 16)
  { s with gran := Tab.set (fun _ => false) (Tab.set (fun _ => false) s.gran (2 * line) bad.1) (2 * line + 1) bad.2 }
/-- Evicts a line of the memory-side cache, writing back a dirty one (R293). -/
def State.evictMsc (s : State) (e : Nat × Line) : State :=
  (if !e.2.dirty then s else if hasLine s.quay e.1 then s.backOld e.1 e.2 else s.writeBack e.1).dropMsc e.1

/-- Puts a line into the memory-side cache (R293): in its physical line while there is room, else in another one that has room, else
after up to `fuel` victims of its set; when these do not make room, a dirty line goes to HBM. -/
def State.packLine (line : Nat) (v : Line) : Nat → State → State
  | fuel, s =>
    let n := s.sectorsOf line
    match s.wayFor line n with
    | some k => { s with msc := putLine s.msc line v, pack := Tab.insert line (k, n) (Tab.erase line s.pack) }
    | none =>
      match fuel with
      | 0 => (if v.dirty then s.writeBack line else s).dropMsc line
      | fuel + 1 => match victim (s.mscOthers line) with
        | some e => State.packLine line v fuel (s.evictMsc e)
        | none => s
/-- Places a line in the memory-side cache: when all 32 tags of its set are in use, one victim gives up its tag (R293). -/
def State.toMsc (s : State) (line : Nat) (v : Line) : State :=
  if !hasLine s.msc line && decide (32 ≤ (s.mscOthers line).length) then
    match victim (s.mscOthers line) with
    | some e => State.packLine line v 2 (s.evictMsc e)
    | none => s
  else State.packLine line v 3 s
/-- A line of the memory-side cache that has come to need more sectors gets them (R292, R293), unless the quay holds a newer copy. -/
def State.fitLine (s : State) (line : Nat) : State :=
  match s.msc.find? (fun e => e.1 == line) with
  | some e => if e.2.back.isNone && decide ((s.packOf line).2 < s.sectorsOf line) then State.packLine line e.2 3 s else s
  | none => s

/-- Takes a home victim out of the quay (R247): a dirty one is written to the memory-side cache, and the errors of its copy are found
by that write-back (R284); those of a clean copy are gone with it. -/
def State.evictQuay (s : State) (e : Nat × Line) : State :=
  let s := if e.2.dirty then s.findErrs none (StoredErr.inCopy e.1) else s.undoErrs (StoredErr.inCopy e.1)
  let s := { s with quay := Tab.erase e.1 s.quay }
  if e.2.dirty then s.toMsc e.1 e.2 else s
/-- Drops home lines of a set until at most `n` are left. -/
def State.trimQuay (line n : Nat) : Nat → State → State
  | 0, s => s
  | fuel + 1, s =>
    let set := s.quay.filter (fun e => sameQuaySet e.1 line)
    if n < set.length then
      match victim set with
      | some e => State.trimQuay line n fuel (s.evictQuay e)
      | none => s
    else s

/-- Brings a line that the quay does not hold to its home: from the memory-side cache, or from HBM through it (R246, R292, R293). -/
def State.bringLine (s : State) (l : Option LaunchId) (line : Nat) (evp : BitVec 2) : State :=
  match s.msc.find? (fun e => e.1 == line) with
  | some e => { s with msc := putLine s.msc line { e.2 with evp := evp, age := s.tick } }
  | none => (s.fetchLine l line).toMsc line { dirty := false, evp := evp, age := s.tick }
/-- The quay's copy of a line becomes newer than the one in the memory-side cache: which granules of that are poisoned stands there. -/
def State.outdate (s : State) (line : Nat) : State :=
  { s with msc := s.msc.map (fun (e : Nat × Line) => if e.1 = line ∧ e.2.back = none then
      (e.1, { e.2 with back := some (s.anyUnit (32 * line) 16, s.anyUnit (32 * line + 16) 16) }) else e) }
/-- An access at its home quay, of a launch's request: the line is present afterwards, with the access's priority and age, and dirty
if it wrote (R246, R247). -/
def State.touchLine (s : State) (l : Option LaunchId) (line : Nat) (evp : BitVec 2) (wr : Bool) : State :=
  let old := (s.quay.find? (fun e => e.1 == line)).map (·.2)
  let d := match old with
    | some v => v.dirty || wr
    | none => wr
  -- a line that must be placed takes the place of a victim (R247)
  let s := if old.isSome then s else State.trimQuay line (15 - (s.die (line / 2 ^ 34)).wfrac) 17 (s.bringLine l line evp)
  let s := if wr && !(old.any (·.dirty)) then s.outdate line else s
  { s with quay := putLine s.quay line { dirty := d, evp := evp, age := s.tick }, tick := s.tick + 1 }

/-- The lines that `n` bytes at an address touch. -/
def linesOf (a n : Nat) : List Nat := if n = 0 then [] else (List.range ((a + n - 1) / 128 - a / 128 + 1)).map (· + a / 128)

/-- CCLEAN of a line: written back from both caches, valid and clean (R266). What the quay wrote goes through the memory-side cache,
where the line may need more sectors (R293). -/
def State.cleanLine (s : State) (line : Nat) : State :=
  let newer := s.quay.any (fun e => e.1 == line && e.2.dirty)
  let s := if s.lineDirty line then s.writeBack line else s
  let s := { s with quay := s.quay.map (fun (e : Nat × Line) => if e.1 = line then (e.1, { e.2 with dirty := false }) else e) }
  match s.msc.find? (fun e => e.1 == line) with
  | none => s
  | some e =>
    let v := { e.2 with dirty := false, back := none }
    if newer then State.packLine line v 3 s else { s with msc := putLine s.msc line v }
/-- Drops a line from both caches without write-back, with the errors of its copies. -/
def State.dropLine (s : State) (line : Nat) : State :=
  State.undoErrs { s with quay := Tab.erase line s.quay, msc := Tab.erase line s.msc, pack := Tab.erase line s.pack } (StoredErr.inCopy line)

/-- The last-use drop of a line (R248): its bytes become indeterminate, and its poison is that of the HBM granules (R280). -/
def State.lastUse (s : State) (line : Nat) : State :=
  ((s.dropLine line).markIndet (128 * line) (128 * line + 128)).loadGran line

/-! ## Window copies (R251, R253) -/

/-- Whether a copy is a better victim than another (R247). -/
def worseCopy (a b : Copy) : Bool :=
  decide (evpRank b.evp < evpRank a.evp) || (evpRank a.evp == evpRank b.evp && decide (a.age < b.age))
/-- Whether two pod lines share a set of window ways of a die. -/
def sameCopySet (a b : Copy) : Bool :=
  a.die == b.die && a.line % 61 == b.line % 61 && a.line / 61 % 2048 == b.line / 61 % 2048
/-- Places a copy, dropping victims beyond the window ways of the die (R247, R251). -/
def State.putCopy (s : State) (c : Copy) : State :=
  let w := (s.die c.die).wfrac
  let others := s.copies.filter (fun x => !(x.die == c.die && x.tenant == c.tenant && x.line == c.line))
  let set := sortBy (fun a b => !worseCopy a b) (others.filter (sameCopySet c))
  { s with copies := (others.filter (fun x => !sameCopySet c x)) ++ (c :: set.take (w - 1)).take w, tick := s.tick + 1 }
/-- Drops the copies that meet a condition. -/
def State.dropCopies (s : State) (f : Copy → Bool) : State := { s with copies := s.copies.filter (fun c => !f c) }

/-- Takes home lines, or copies, out of the ways that a new `wfrac` takes from them (R249). Which of them sit in those ways is the
model's choice: the victims in the order of R247 (DESIGN CHOICE, log 66). -/
def State.setWfrac (s : State) (d : Nat) (v : Word) : State :=
  let w := if 8 < v.toNat % 16 then 8 else v.toNat % 16
  let s := s.updDie d (fun x => { x with wfrac := w })
  let s := (s.quay.map (·.1)).foldl (fun s l => if l / 2 ^ 34 = d then State.trimQuay l (16 - w) 17 s else s) s
  let mine := s.copies.filter (fun c => c.die == d)
  let keep := mine.filter (fun c =>
    decide (((mine.filter (fun x => sameCopySet c x && worseCopy c x)).length) < w))
  { s with copies := s.copies.filter (fun c => c.die != d || keep.contains c) }

end Sys2Proof.Machine
end

