-- ==== Sys2Proof/Machine/SysSpace.lean ====
section
/-! DEFINITION. The registers of the system control space (R242): what a read returns, and what a write does. -/

namespace Sys2Proof.Machine
open Sys2Proof

/-! ## Engine control (R302, R309) -/

/-- CHST of a cluster (R302). -/
def chst (c : Cluster) : Word :=
  BitVec.ofNat 64 (packNat 8 (c.chans.toList.map (fun o => match o with
    | none => 0
    | some j => 0x80 + j)))
/-- EFS of an engine queue (R302). -/
def EngSt.efs (e : EngSt) : Word :=
  0#24 ++ e.cause ++ 0#27 ++ BitVec.ofBool e.cnt ++ e.sel ++ BitVec.ofBool e.halt

/-- Resumes the copy queue: every stopped stream continues from its write pointer (R309). -/
def Hart.copyResume (h : Hart) : Hart :=
  if h.copySt.halt then { h with copyQ := h.copyQ.map (fun x => { x with stop := none }), copySt := { h.copySt with halt := false } } else h
/-- Clears a token. -/
def Hart.clearTok (h : Hart) (k : BitVec 3) : Hart := { h with tok := clearBit h.tok k.toNat }
/-- Sets a token. -/
def Hart.setTok (h : Hart) (k : BitVec 3) : Hart := { h with tok := setBit h.tok k.toNat }
/-- Adds to a completion counter, modulo 2^64 (R299). -/
def Hart.addCc (h : Hart) (n : BitVec 3) (v : Nat) : Hart :=
  { h with cc := h.cc.set n.toNat (h.cc[n.toNat]'n.isLt + BitVec.ofNat 64 v) n.isLt }
/-- Bytes of a stream. -/
def Stream.len (x : Stream) : Nat := x.rb * x.rows
/-- Whether a stream has copied all its bytes, and only an addition to its counter is left. -/
def Stream.copied (x : Stream) : Bool := x.len != 0 && x.w == x.len && x.chan.isNone && x.stop.isNone
/-- The additions that the streams of a queue owe their counters, where no earlier stream that counts into the same counter is left
(R299): the queue, and the additions. A copied stream that owes nothing leaves the queue. -/
def payQueue : List Stream → List (BitVec 3) → List Stream × List (BitVec 3 × Nat)
  | [], _ => ([], [])
  | x :: t, held =>
    if x.cnt && !held.contains x.n then
      let (q, adds) := payQueue t (if x.copied then held else x.n :: held)
      (if x.copied then q else { x with owed := 0 } :: q, (x.n, x.owed) :: adds)
    else
      let (q, adds) := payQueue t held
      (x :: q, adds)
/-- Pays what the streams of the copy queue owe. -/
def Hart.payOwed (h : Hart) : Hart :=
  let (q, adds) := payQueue h.copyQ []
  adds.foldl (fun h a => h.addCc a.1 a.2) { h with copyQ := q }
/-- Abandons the stopped streams: they end where they stopped, and their tokens clear (R309). -/
def Hart.copyAbandon (h : Hart) : Hart :=
  if h.copySt.halt then
    let gone := h.copyQ.filter (fun x => x.stop.isSome)
    let h := gone.foldl (fun h x => if x.cnt then h else h.clearTok x.n) h
    { h with copyQ := h.copyQ.filter (fun x => x.stop.isNone), copySt := { h.copySt with halt := false } }.payOwed
  else h
/-- The number of the push that a non-blocking instruction stands for. -/
def NbOp.pushNo (o : NbOp) : Option Nat :=
  match o.kind with
  | .push no => some no
  | _ => none
/-- Resumes the non-blocking queue: the elements not done are performed again (R309). A rejected push is gone (R336). -/
def Hart.nbResume (h : Hart) : Hart :=
  if h.nbSt.halt then
    { h with nbQ := (h.nbQ.filter (fun x => !(x.halt && x.pushNo.isSome))).map (fun x => { x with bad := [], halt := false })
             nbSt := { h.nbSt with halt := false } }
  else h
/-- Abandons the stopped non-blocking instructions: each counts as retired (R307, R309). -/
def Hart.nbAbandon (h : Hart) : Hart :=
  if h.nbSt.halt then { h with nbQ := h.nbQ.filter (fun x => !x.halt), nbSt := { h.nbSt with halt := false } }
  else h

/-! ## Held harts (R360) -/

/-- A write of 01 to TRES: the hart goes on as TRET would let it. -/
def Hart.tresResume (h : Hart) : Hart :=
  match h.run, h.report with
  | .held, some t => { h with run := .running, report := none, posted := false, pc := t.epc, reissue := t.vec || h.reissue }.landRes
  | _, _ => h
/-- A write of 10 to TRES: the reported trap is taken on the hart. -/
def Hart.tresTake (h : Hart) : Hart :=
  match h.run, h.report with
  | .held, some t => { h with report := none, posted := false }.enter t
  | _, _ => h

/-! ## Registers -/

/-- `WSREF` (R255, R256). -/
def wsref (time : Nat) : Word :=
  let ph := time % 64000
  BitVec.ofNat 16 64000 ++ BitVec.ofNat 16 1600 ++ 0#10 ++ BitVec.ofBool (decide (ph % 2000 < 1600))
    ++ BitVec.ofNat 5 (ph / 2000) ++ BitVec.ofNat 16 ph
/-- `WSB` of a berth (R256). -/
def Berth.word (b : Berth) : Word := b.st ++ b.tenant ++ 0#8 ++ b.expert ++ BitVec.ofNat 16 b.count
/-- A frame table entry as it reads (R276). -/
def Frame.word (f : Frame) : Word :=
  f.tenant ++ f.cls.code ++ BitVec.ofBool f.change.isSome ++ 0#23 ++ f.gen
/-- `QCTL` as it reads (R104). -/
def Queue.qctl (q : Queue) : Word :=
  0#32 ++ q.tenant ++ 0#15 ++ q.pceil ++ 0#4 ++ BitVec.ofBool q.halted ++ BitVec.ofBool q.ldok ++ 0#1 ++ BitVec.ofBool q.en
/-- The registers of a transit slot (R349). -/
def Transit.word (t : Transit) (i : Nat) : Word :=
  match i with
  | 0 => 0#12 ++ t.old ++ 0#16
  | 1 => 0#12 ++ t.new ++ 0#16
  | 2 => t.st ++ BitVec.ofBool t.err ++ 0#44 ++ BitVec.ofNat 17 t.ptr
  | _ => 0
/-- `WSCTL` as a write stores it (R256): AGE is held between 10 and 40. -/
def wsctlStore (v : Word) : Word :=
  let a := (v.extractLsb' 32 6).toNat
  v.extractLsb' 48 16 ++ 0#10 ++ BitVec.ofNat 6 (if a < 10 then 10 else if 40 < a then 40 else a) ++ v.extractLsb' 0 32

/-- The hart whose trap block has index `i` on a die, if there is one (R354). -/
def State.blockHart (s : State) (d i : Nat) : Option (BitVec 20) :=
  let h : BitVec 20 := s.pkg ++ BitVec.ofNat 4 d ++ BitVec.ofNat 9 i
  if i < 512 ∧ namesHart s.pkg s.mgmtDie h then some h else none

/-- A register of a trap block (R354). -/
def Hart.blockReg (h : Hart) (r : Nat) : Option Word :=
  if hr : r < 8 then some (h.fb[r])
  else match r with
    | 8 => some h.tcmp
    | 9 => some 0
    | 10 => some (if h.run = .held then 1 else 0)
    | _ => none

/-- A register of an engine control block: `j` the hart, `r` the register (R302). -/
def Hart.engReg (h : Hart) (r : Nat) : Option Word :=
  match r with
  | 0 => some h.copySt.efs
  | 1 => some (h.copySt.addr.setWidth 64)
  | 2 => some h.copySt.done
  | 3 => some 0
  | 4 => some h.nbSt.efs
  | 5 => some (h.nbSt.addr.setWidth 64)
  | 6 => some h.nbSt.done
  | 7 => some 0
  | _ => none

/-- The double word register at an offset of the system control space of a die; none where no register stands (R242). The
offset is a multiple of 8, counted from `0x180_0000_0000`. The registers of I/O die 8 are served by the management die: by die 9
under the takeover only (R103, R427, log 64). -/
def State.sysRead (s : State) (d off : Nat) : Option Word :=
  let io : Bool := decide (8 ≤ d)
  let mgmt : Bool := d == s.mgmtDie
  let blk := off / 2 ^ 24
  let o := off % 2 ^ 24
  match blk with
  | 1 =>
    if !mgmt then none
    else if o < 64 * 64 then
      let q := s.queue (o / 64)
      match o % 64 / 8 with
      | 0 => some q.qctl
      | 1 => some (BitVec.ofNat 64 q.qseq)
      | 2 => some (BitVec.ofNat 64 q.qcnt)
      | 3 => some q.qfail
      | 4 => some 0
      | _ => none
    else if o = 0x1000 then some s.schcfg
    else if o = 0x1008 then some s.ebdef
    else none
  | 2 =>
    if io then none
    else if o = 0 then some (s.die d).wsctl
    else if o = 8 then some (wsref s.time)
    else if o = 16 then some (BitVec.ofNat 64 (s.die d).wfrac)
    else if h : 0x100 ≤ o ∧ o < 0x200 then some ((s.die d).berths[(o - 0x100) / 8]'(by omega)).word
    else none
  | 3 => if !io && decide (o < 1024) then some (s.frame d (o / 8)).word else none
  | 4 =>
    let c := o / 0x1000
    let r := o % 0x1000
    if (if io then c = 0 else c < 32) then
      if r = 0 then some (chst (s.cluster (32 * d + c)))
      else if 0x100 ≤ r ∧ r < 0x500 then (s.getHart (mkHid s.pkg (32 * d + c) ((r - 0x100) / 0x40))).engReg ((r - 0x100) % 0x40 / 8)
      else none
    else none
  | 5 => if h : mgmt ∧ o < 512 then some (s.asroot[o / 8]'(by omega)) else none
  | 6 =>
    if o < 0x20000 then
      match s.blockHart d (o / 0x100) with
      | some h => (s.getHart h).blockReg (o % 0x100 / 8)
      | none => none
    else match o - 0x20000 with
      | 0 => some (s.die d).tdeleg
      | 8 => some (s.die d).tvdef
      | 16 => some (s.die d).sxdef
      | _ => none
  | 7 => if h : !io ∧ o < 512 ∧ o % 32 < 24 then some (((s.die d).slots[o / 32]'(by omega)).word (o % 32 / 8)) else none
  | 8 =>
    if !mgmt then none
    else if o = 0 then some s.trqh
    else if o = 8 then some s.trqt
    else if h : 0x1000 ≤ o ∧ o < 0x3000 then
      some ((s.ring[(o - 0x1000) / 128]'(by omega))[(o - 0x1000) % 128 / 8]'(by omega))
    else none
  | _ => s.sysRead2 d blk o

/-! ## Writes -/

/-- A FAILED launch of a queue becomes COMPLETE (R108). -/
def unfail (q : Nat) (l : Launch) : Launch := if l.lid.q = q ∧ l.st = .failed then { l with st := .complete } else l
/-- Clearing `QCTL.HALTED` moves every FAILED launch of the queue to COMPLETE, and lets the queue continue (R104, R108). -/
def State.clearHalted (s : State) (q : Nat) : State :=
  let s := s.updQueue q (fun u => { u with halted := false })
  State.settle { s with launches := s.launches.map (unfail q) }

/-- A write to QCTL (R104): HALTED clears by a 1; PCEIL, LDOK and EN are stored; the rest is read-only. -/
def State.writeQctl (s : State) (q : Nat) (v : Word) : State :=
  let s := s.updQueue q (fun u => { u with pceil := v.extractLsb' 8 3, ldok := v.getLsbD 2, en := v.getLsbD 0 })
  if v.getLsbD 3 && (s.queue q).halted then s.clearHalted q else s

/-- A write to MIGCTL.STATE (R349): 01 starts an idle slot or sets ERR, 00 frees a done one, any other is ignored. -/
def State.writeMigctl (s : State) (d i : Nat) (v : Word) : State :=
  if hi : i < 16 then
    let t := (s.die d).slots[i]
    let st := v.extractLsb' 62 2
    let put (t : Transit) : State := s.updDie d (fun x => { x with slots := x.slots.set i t })
    if st = 1 ∧ t.st = 0 then
      let oldA := t.old.toNat * 2 ^ 16
      let newA := t.new.toNat * 2 ^ 16
      let pkgOk (a : Nat) : Bool := a / 2 ^ 45 == s.pkg.toNat
      let dOld := a2die oldA
      let dNew := a2die newA
      let fOld := s.frame dOld (oldA % 2 ^ 41 / 2 ^ 30)
      let fNew := s.frame dNew (newA % 2 ^ 41 / 2 ^ 30)
      if pkgOk oldA && pkgOk newA && dNew == d && decide (dOld < 8) && regionOf (oldA % 2 ^ 45) == .hbm
          && regionOf (newA % 2 ^ 45) == .hbm && fOld.tenant == fNew.tenant && fOld.cls == fNew.cls && t.old != t.new then
        put { t with st := 1, err := false, ptr := 0 }
      else put { t with err := true }
    else if st = 0 ∧ t.st = 2 then put { t with st := 0 }
    else s
  else s
where
  /-- The die field of a pod address (R271). -/
  a2die (a : Nat) : Nat := a / 2 ^ 41 % 16

/-- A write to EFACT (R309). -/
def State.writeEfact (s : State) (hid : BitVec 20) (nb : Bool) (v : Word) : State :=
  match v.toNat, nb with
  | 1, false => s.updHart hid Hart.copyResume
  | 1, true => s.updHart hid Hart.nbResume
  | 2, false => s.updHart hid Hart.copyAbandon
  | 2, true => s.updHart hid Hart.nbAbandon
  | _, _ => s

/-- A write to TRES (R360): an action on a held hart; anything else is ignored. -/
def State.writeTres (s : State) (hid : BitVec 20) (v : Word) : State :=
  if (s.getHart hid).run = .held then
    match v.extractLsb' 0 2 with
    | 1 => s.updHart hid Hart.tresResume
    | 2 => s.updHart hid Hart.tresTake
    | 3 => s.doubleTrap hid
    | _ => s
  else s

/-- Stores a double word in a register of the system control space, with its effects; none where no register stands (R242).
A write to a read-only register is ignored (R9). DESIGN CHOICE (log 87): MIGNEW, like MIGOLD, is writable only while STATE = 00. -/
def State.sysWrite (s : State) (d off : Nat) (v : Word) : Option State :=
  let blk := off / 2 ^ 24
  let o := off % 2 ^ 24
  match s.sysRead d off with
  | none => none
  | some _ =>
    match blk with
    | 1 =>
      if o < 64 * 64 then
        match o % 64 / 8 with
        | 0 => some (s.writeQctl (o / 64) v)
        | 4 => some (s.abortLaunch ⟨o / 64, v.toNat⟩)
        | _ => some s
      else if o = 0x1000 then some { s with schcfg := 0#53 ++ v.extractLsb' 0 11 }
      else some { s with ebdef := v }
    | 2 =>
      if o = 0 then some (s.updDie d (fun x => { x with wsctl := wsctlStore v }))
      else if o = 16 then some (s.setWfrac d v)
      else some s
    | 4 =>
      let hid := mkHid s.pkg (32 * d + o / 0x1000) ((o % 0x1000 - 0x100) / 0x40)
      match (if o % 0x1000 = 0 then 0 else (o % 0x1000 - 0x100) % 0x40 / 8) with
      | 3 => some (s.writeEfact hid false v)
      | 7 => some (s.writeEfact hid true v)
      | _ => some s
    | 5 =>
      if h : o < 512 then
        some { s with asroot := s.asroot.set (o / 8) (v &&& 0x000FFFFFFFFFFF01#64) (by omega) }
      else some s
    | 6 =>
      if o < 0x20000 then
        match s.blockHart d (o / 0x100) with
        | none => none
        | some hid =>
          match o % 0x100 / 8 with
          | 8 => some (s.updHart hid (fun h => { h with tcmp := v }))
          | 9 => some (s.writeTres hid v)
          | _ => some s
      else match o - 0x20000 with
        | 0 => some (s.updDie d (fun x => { x with tdeleg := v &&& 0x1FFE }))
        | 8 => some (s.updDie d (fun x => { x with tvdef := v &&& ~~~7#64 }))
        | _ => some (s.updDie d (fun x => { x with sxdef := v &&& ~~~63#64 }))
    | 7 =>
      if h : o < 512 then
        let t := (s.die d).slots[o / 32]'(by omega)
        match o % 32 / 8 with
        | 0 => if t.st = 0 then some (s.updDie d (fun x => { x with
                slots := x.slots.set (o / 32) { t with old := v.extractLsb' 16 36 } (by omega) })) else some s
        | 1 => if t.st = 0 then some (s.updDie d (fun x => { x with
                slots := x.slots.set (o / 32) { t with new := v.extractLsb' 16 36 } (by omega) })) else some s
        | _ => some (s.writeMigctl d (o / 32) v)
      else some s
    | 8 => if o = 0 then some { s with trqh := v } else some s
    | 3 => some s
    | _ => some (s.sysWrite2 d blk o v)

end Sys2Proof.Machine
end

