-- ==== Sys2Proof/Machine/Mem.lean ====
section
/-! DEFINITION. Accesses: direct addresses and translation (R241, R342 to R350), the checks at the requester and at the home
(R271 to R274, R242, R243, R254, R219), stored errors (R278), and the load and store of R14. -/

namespace Sys2Proof.Machine
open Sys2Proof

/-- Who makes a request. -/
inductive Agent where
  | scalar | vector | stream | fetch | walk | host | coll | matrix
deriving DecidableEq, Repr

/-- What a request does; `clean` is CCLEAN or CFLUSH (R346). -/
inductive Kind where
  | read | write | atomic | fetch | clean
deriving DecidableEq, Repr

/-- The rights and the origin of a request (R31, R304). -/
structure Req where
  agent  : Agent
  mode   : Mode
  tenant : BitVec 6
  launch : Option LaunchId
  core   : Nat
  evp    : BitVec 2
deriving DecidableEq, Repr

/-- The die of the requester. -/
def Req.die (r : Req) : Nat := r.core / 128

/-- A fault of an access: the cause, `tval`, the page batch (R353), and whether it is ambiguous (R330, R385). -/
structure MemFault where
  cause : Cause
  addr  : Word
  fb    : List Word := []
  amb   : Bool := false
deriving DecidableEq, Repr

/-- A request of the hart in focus. -/
def State.req (s : State) (a : Agent) (evp : BitVec 2 := 0) : Req :=
  ⟨a, s.hart.mode, s.hart.tenant, s.hart.launch, coreKey s.hart.hid, evp⟩

/-! ## Page faults (R346, R353) -/

/-- The reasons of R354. -/
inductive Reason where
  | notValid | perm | walkErr
deriving DecidableEq, Repr

/-- The code of a reason. -/
def Reason.code : Reason → BitVec 2 | .notValid => 0 | .perm => 1 | .walkErr => 2
/-- The KIND of an FB entry (R354). -/
def Kind.code : Kind → BitVec 2 | .read => 0 | .write => 1 | .atomic => 2 | .fetch => 3 | .clean => 0
/-- An entry of the page batch (R354). -/
def fbEntry (k : Kind) (r : Reason) (va : Word) : Word := 1#1 ++ k.code ++ r.code ++ 0#2 ++ va.extractLsb' 16 41 ++ 0#16
/-- The page fault of an access. -/
def pageFault (k : Kind) (r : Reason) (va : Word) : MemFault := { cause := .pageFault, addr := va, fb := [fbEntry k r va] }

/-! ## Pages in transit (R350) -/

/-- Where an access to a page is performed: at the new page for the lines already moved, else at the old page. -/
def State.redirect (s : State) (pa : Nat) : Nat :=
  let page := pa / 2 ^ 16
  let o := pa % 2 ^ 16
  match ((List.range 8).flatMap (fun d => (s.die d).slots.toList)).find? (fun t =>
      t.st != 0 && (t.old.toNat % 2 ^ 29 == page || t.new.toNat % 2 ^ 29 == page)) with
  | some t => (if o < t.ptr then t.new.toNat else t.old.toNat) % 2 ^ 29 * 2 ^ 16 + o
  | none => pa

/-! ## Checks at the home (R273) -/

/-- Usable bytes of a frame (R33, R274). -/
def usable : Cls → Nat | .f => 896 * 2 ^ 20 | .d => 992 * 2 ^ 20 | .n => 1024 * 2 ^ 20

/-- The gangs that hold harts of a cluster now. -/
def State.holders (s : State) (cl : Nat) : List Gang := s.gangs.filter (fun g => g.cl == cl && g.st != Resid.parked)
/-- The gang whose scratchpad allotment holds a byte of a core (R243, R277). -/
def State.spmGang (s : State) (core o : Nat) : Option Gang :=
  (s.holders (core / 4)).find? (fun g => g.cores.contains (core % 4) && decide (g.spmOff ≤ o ∧ o < g.spmOff + g.spmLen))
/-- The gang whose accumulator allotment, or whose hart's status array, holds a byte of a core (R217, R218, R277). -/
def State.accGang (s : State) (core o : Nat) : Option Gang :=
  (s.holders (core / 4)).find? (fun g => (g.js.zip g.accOff).any (fun (j, a) =>
    j / 4 == core % 4 &&
    (if 0x1C0000 ≤ o then j % 4 == (o - 0x1C0000) / 0x200 else decide (a ≤ o ∧ o < a + g.accLen))))
/-- The owner of a byte that a gang may hold (R277). -/
def ownerOf (g : Option Gang) : BitVec 6 := (g.map (·.tenant)).getD 0

/-- The core key of a scratchpad or accumulator address. -/
def slotCore (pa : Nat) : Nat := 128 * paDie pa + paOff pa % 2 ^ 32 / 2 ^ 21

/-- The offsets, from `o` below `o + n`, at which the owner of a byte can change: one of each stretch of bytes of one owner. -/
def ownerPoints (o n : Nat) (edges : List Nat) : List Nat := o :: edges.filter (fun p => decide (o < p ∧ p < o + n))
/-- The ends of the scratchpad allotments of a core's cluster. -/
def State.spmEdges (s : State) (core : Nat) : List Nat := (s.holders (core / 4)).flatMap (fun g => [g.spmOff, g.spmOff + g.spmLen])
/-- The ends of its accumulator allotments and of its status arrays. -/
def State.accEdges (s : State) (core : Nat) : List Nat :=
  (s.holders (core / 4)).flatMap (fun g => g.accOff.flatMap (fun a => [a, a + g.accLen])) ++ (List.range 4).map (fun j => 0x1C0000 + 0x200 * j)

/-- Whether the place exists and is open to the request, as far as its address decides it (R219, R242, R254, R272): the first
check of R273. `own` says that it lies in the requester's package. -/
def Req.openAt (r : Req) (k : Kind) (own : Bool) (pa n : Nat) : Bool :=
  match regionOf pa with
  | .hole => false
  | .hbm => true
  | .spm => k != .fetch
  | .acc => r.mode != .u && k != .atomic && k != .fetch && (r.agent == .scalar || r.agent == .stream || r.agent == .matrix)
      && decide (paOff pa % 2 ^ 36 < 2 ^ 28)
  | .ws => k == .read && own && paDie pa == r.die
      && (r.agent == .scalar || r.agent == .vector || r.agent == .matrix || r.agent == .stream)
  | .sys => match k with
    | .read => (r.mode != .u || paOff pa / 8 == 0x18002000008 / 8) && (n == 1 || n == 2 || n == 4 || n == 8) && pa % n == 0
    | .write => r.mode != .u && n == 8 && pa % 8 == 0
    | _ => false

/-- The check of an access at its home (R273): the cause of the first check that fails. -/
def State.homeCheck (s : State) (r : Req) (k : Kind) (pa n : Nat) : Option Cause :=
  let d := paDie pa
  let off := paOff pa
  let o := off % 2 ^ 21
  let c := slotCore pa
  if !r.openAt k true pa n then some .accessFault
  else match regionOf pa with
  | .hole => some .accessFault
  | .hbm =>
    let f := s.frame d (off / 2 ^ 30)
    if f.change.isSome ∨ usable f.cls < off % 2 ^ 30 + n ∨ f.tenant ≠ r.tenant then some .accessFault else none
  | .spm =>
    if spmCap (s.core c).cls < o + n then some .accessFault
    else
      let gs := (ownerPoints o n (s.spmEdges c)).map (s.spmGang c)
      if gs.any (fun g => ownerOf g != r.tenant) then some .accessFault
      else if r.mode = .u ∧ gs.any (fun g => match g with
        | some g => r.launch != some g.lid
        | none => true) then some .accessFault
      else none
  | .acc =>
    let inData := o + n ≤ accCap (s.core c).cls
    let inStat := 0x1C0000 ≤ o ∧ o + n ≤ 0x1C0800
    if ¬inData ∧ ¬inStat then some .accessFault
    else if (ownerPoints o n (s.accEdges c)).any (fun p => ownerOf (s.accGang c p) != r.tenant) then some .accessFault
    else none
  | .ws =>
    let ok (b : Nat) : Bool := if h : b < 32 then
        let x := (s.die d).berths[b]
        (x.st == 1 || x.st == 2) && x.tenant == r.tenant
      else false
    if ok (off % 2 ^ 29 / 2 ^ 24) && ok ((off % 2 ^ 29 + n - 1) / 2 ^ 24) then none else some .accessFault
  | .sys => if (s.sysRead d ((off - 0x18000000000) / 8 * 8)).isNone then some .accessFault else none

/-! ## Stored errors (R278) -/

/-- Whether an error in a cached copy, or in a scratchpad, accumulator or weight-store word, lies in the bytes of an access; one in
HBM is found when its line is fetched. -/
def StoredErr.inBytes (pa n : Nat) (e : StoredErr) : Bool :=
  match e.at_ with
  | .hbm _ => false
  | .quay w | .local_ w => decide (pa / 8 ≤ w ∧ w ≤ (pa + n - 1) / 8)
/-- Whether it lies in a word that a write of `n` bytes replaces as a whole. -/
def StoredErr.inWhole (pa n : Nat) (e : StoredErr) : Bool :=
  match e.at_ with
  | .hbm _ => false
  | .quay w | .local_ w => decide (pa ≤ 8 * w ∧ 8 * w + 8 ≤ pa + n)

/-- An access of `n` bytes meets every stored error in the words that it reads or changes in part: each is charged once, to the
launch of the request (R284). A word that is written as a whole loses its error unseen (log 33). -/
def State.meetErrors (s : State) (l : Option LaunchId) (pa n : Nat) (wr : Bool := false) : State :=
  if s.errs.isEmpty then s else
  let s := if wr then { s with errs := ((s.errs.filter (fun e => !e.inWhole pa n)).map (StoredErr.cut pa n)).filter (fun e => e.mask != 0) } else s
  let t := s.findErrs l (StoredErr.inBytes pa n)
  -- a line of the memory-side cache in which a word is poisoned now is held uncompressed (R292)
  if t.poison = s.poison then t else (linesOf pa n).foldl State.fitLine t

/-- An access as its home performs it, before the bytes are read or written: the line's place in the quay, and errors. -/
def State.atHome (s : State) (r : Req) (pa n : Nat) (wr : Bool) : State :=
  (if regionOf pa = .hbm then (linesOf pa n).foldl (fun s l => s.touchLine r.launch l r.evp wr) s else s).meetErrors r.launch pa n wr

/-! ## Walks (R342 to R346) -/

/-- The bytes that another package returns: free (log 6). -/
def awayBytes (i pod : Nat) : Nat → Nat
  | 0 => 0
  | n + 1 => (Config.remoteByte pod i).toNat + 256 * awayBytes i (pod + 1) n

/-- The errors that a request meets in another package, charged to its launch (R284); how many it meets is free (log 6). -/
def State.awayErrors (s : State) (l : Option LaunchId) (pod i : Nat) : State :=
  if l.isNone then s else
  let n := Config.remoteErrors pod i
  (List.range n.2).foldl (fun s _ => s.charge l true) ((List.range n.1).foldl (fun s _ => s.charge l false) s)
/-- A request to another package enters the transport with the next sequence number of its flow (R384). -/
def State.nextSeq (s : State) (dst : Nat) : Nat × State :=
  let n := Tab.get (fun _ => 0) s.outNo dst
  (n, { s with outNo := Tab.set (fun _ => 0) s.outNo dst (n + 1) })

/-- A read of a walk, with the rights of tenant 0 (R346): none when it is refused or poisoned, or when no path carries it (R375). -/
def State.walkRead (s : State) (r : Req) (pod n : Nat) : Option Nat × State :=
  let w : Req := { r with agent := .walk, mode := .s, tenant := 0 }
  if pod / 2 ^ 45 ≠ s.pkg.toNat then
    if !s.routed (pod / 2 ^ 45) || regionOf (pod % 2 ^ 45) == .sys || !w.openAt .read false (pod % 2 ^ 45) n then (none, s)
    else
      let (i, s) := (s.nextSeq (pod / 2 ^ 45)).2.fresh
      let s := s.awayErrors r.launch pod i
      if Config.remoteFault pod i % 4 == 0 && !Config.remotePoison pod i then (some (awayBytes i pod n), s) else (none, s)
  else
    let pa := s.redirect (pod % 2 ^ 45)
    if !s.carries r.die (paDie pa) || !s.carries (paDie pa) r.die then (none, s)
    else match s.homeCheck w .read pa n with
    | some _ => (none, s)
    | none =>
      let s := s.atHome w pa n false
      if regionOf pa = .sys ∨ s.poisonedAt pa n then (none, s) else (some (s.seen.bytes pa n), s)

/-- A translation that a walk found: the page number in units of 64 KiB, the flags, the transit slot, the size of the page in the
same units, and the pages of all eight entries of a regular line (R345, R347). -/
structure Found where
  ppn   : BitVec 36
  flags : BitVec 4
  slot  : Option (BitVec 4)
  size  : Nat := 1
  line  : List (BitVec 36) := []
deriving DecidableEq, Repr

/-- The level-4 line: one indivisible read of 64 bytes (R344 to R346). -/
def State.walk4 (s : State) (r : Req) (table : Nat) (va : Word) : Except Reason Found × State :=
  match s.walkRead r (table + 64 * (va.extractLsb' 19 6).toNat) 64 with
  | (none, s) => (.error .walkErr, s)
  | (some v, s) =>
    let line := BitVec.ofNat 512 v
    let k := (va.extractLsb' 16 3).toNat
    let sum := line.extractLsb' 448 64
    let reg := sum.getLsbD 63
    let ent (i : Nat) : BitVec 56 := line.extractLsb' (56 * i) 56
    let e := if reg then ent 0 else ent k
    let p0 : Int := (e.extractLsb' 20 36).toNat
    let sp : Int := (sum.extractLsb' 0 36).toInt
    let out : Bool := reg && (List.range 8).any (fun i => decide (p0 + i * sp < 0 ∨ (2 ^ 36 : Int) ≤ p0 + i * sp))
    if sum.extractLsb' 36 27 ≠ 0 ∨ e.getLsbD 1 ∨ e.extractLsb' 7 9 ≠ 0 ∨ (e.getLsbD 6 = false ∧ e.extractLsb' 16 4 ≠ 0) ∨ out then
      (.error .walkErr, s)
    else if e.getLsbD 0 = false then (.error .notValid, s)
    else (.ok ⟨if reg then BitVec.ofInt 36 (p0 + k * sp) else e.extractLsb' 20 36, e.extractLsb' 2 4,
        if e.getLsbD 6 then some (e.extractLsb' 16 4) else none, 1,
        if reg then (List.range 8).map (fun (i : Nat) => BitVec.ofInt 36 (p0 + i * sp)) else []⟩, s)

/-- The walk from level `lv` on, at the table with pod address `a`; `fuel` is the number of levels 0 to 3 left (R346). -/
def State.walkFrom (r : Req) (va : Word) : Nat → Nat → Nat → State → Except Reason Found × State
  | 0, _, a, s => s.walk4 r a va
  | fuel + 1, lv, a, s =>
    let ix := match lv with
      | 0 => (va.extractLsb' 52 5).toNat
      | 1 => (va.extractLsb' 43 9).toNat
      | 2 => (va.extractLsb' 34 9).toNat
      | _ => (va.extractLsb' 25 9).toNat
    match s.walkRead r (a + 8 * ix) 8 with
    | (none, s) => (.error .walkErr, s)
    | (some v, s) =>
      let e := BitVec.ofNat 64 v
      if e.extractLsb' 52 12 ≠ 0 ∨ e.extractLsb' 6 6 ≠ 0 then (.error .walkErr, s)
      else if e.getLsbD 0 = false then (.error .notValid, s)
      else if e.getLsbD 1 then
        -- a leaf: 16 GiB at level 2, 32 MiB at level 3
        let low := if lv = 2 then 18 else 9
        let ppn := e.extractLsb' 16 36
        if lv < 2 ∨ ppn.toNat % 2 ^ low ≠ 0 ∨ e.extractLsb' 12 4 ≠ 0 then (.error .walkErr, s)
        else (.ok ⟨ppn ||| BitVec.ofNat 36 ((va.extractLsb' 16 41).toNat % 2 ^ low), e.extractLsb' 2 4, none, 2 ^ low, []⟩, s)
      else State.walkFrom r va fuel (lv + 1) ((e.extractLsb' 12 40).toNat * 2 ^ 12) s

/-- The walk of a tenant's tables (R343, R346). -/
def State.walk (s : State) (r : Req) (va : Word) : Except Reason Found × State :=
  let root := s.asroot[r.tenant.toNat]'r.tenant.isLt
  if root.getLsbD 0 = false then (.error .notValid, s)
  else State.walkFrom r va 4 0 ((root.extractLsb' 8 44).toNat * 256) s

/-! ## TLB slices (R347) -/

/-- The translation that the slice of an address holds. -/
def State.tlbFind (s : State) (r : Req) (va : Word) : Option TlbEntry :=
  let page := (va.extractLsb' 16 41).toNat
  s.tlb.find? (fun e => e.core == r.core && e.tenant == r.tenant && e.page == page)
/-- Enters a translation into the slice that owns it, in the place of an older one of the page; a full slice gives up one entry
(log 8). -/
def State.tlbPut (s : State) (e : TlbEntry) : State :=
  let s := { s with tlb := s.tlb.filter (fun x => !(x.core == e.core && x.tenant == e.tenant && x.page == e.page)) }
  let inSlice (x : TlbEntry) : Bool := x.core == e.core && x.page % 4 == e.page % 4
  let slice := s.tlb.filter inSlice
  if slice.length < Config.tlbEntries then { s with tlb := e :: s.tlb }
  else
    let (n, s) := s.fresh
    { s with tlb := e :: (s.tlb.filter (fun x => !inSlice x)) ++ slice.eraseIdx (Config.tlbVictim n % slice.length) }

/-- Enters what a walk found: the page of the access, and every page of a regular line (R347). -/
def State.tlbInstall (s : State) (e : TlbEntry) (line : List (BitVec 36)) : State :=
  (line.zipIdx.foldl (fun (s : State) (x : BitVec 36 × Nat) =>
    s.tlbPut { e with page := e.page / 8 * 8 + x.2, ppn := x.1 }) s).tlbPut e

/-- Whether a page permits an access (R346). -/
def permits (flags : BitVec 4) (m : Mode) (k : Kind) : Bool :=
  let rr := flags.getLsbD 0
  let w := flags.getLsbD 1
  let x := flags.getLsbD 2
  (m != .u || flags.getLsbD 3) &&
  match k with
  | .read => rr
  | .write => w
  | .atomic => rr && w
  | .fetch => x
  | .clean => rr || w

/-- Whether the transit slot of a T = 1 translation names the page (R350); of a slot of another package that is free (log 6). -/
def State.slotOk (s : State) (e : TlbEntry) : Bool × State :=
  match e.slot with
  | none => (true, s)
  | some i =>
    if e.ppn.toNat / 2 ^ 29 ≠ s.pkg.toNat then
      let (n, s) := s.fresh
      (Config.remoteSlot e.ppn.toNat n, s)
    else
      let t := (s.die (e.ppn.toNat / 2 ^ 25 % 16)).slots[i.toNat]'i.isLt
      (t.st != 0 && (t.new == e.ppn || t.old == e.ppn), s)

/-- Direct addresses (R241). -/
def isDirect (va : Word) : Bool := va.extractLsb' 52 5 == 0 && decide (0x10000000000 ≤ (va.extractLsb' 0 41).toNat)

/-- The pod address of a virtual address, with the permission checks (R241, R342, R346 to R350). -/
def State.translate (s : State) (r : Req) (k : Kind) (va : Word) : Except MemFault Nat × State :=
  if va.extractLsb' 57 7 ≠ 0 then (.error { cause := .accessFault, addr := va }, s)
  else if isDirect va then (.ok (va.extractLsb' 0 52).toNat, s)
  else
    let done (e : TlbEntry) (s : State) : Except MemFault Nat × State :=
      if !permits e.flags r.mode k then (.error (pageFault k .perm va), s)
      else
        let (ok, s) := s.slotOk e
        (if ok then .ok (e.ppn.toNat * 2 ^ 16 + va.toNat % 2 ^ 16) else .error (pageFault k .walkErr va), s)
    match s.tlbFind r va with
    | some e => done e s
    | none =>
      match s.walk r va with
      | (.error x, s) => (.error (pageFault k x va), s)
      | (.ok f, s) =>
        let e : TlbEntry := ⟨r.core, r.tenant, (va.extractLsb' 16 41).toNat, f.size, f.ppn, f.flags, f.slot⟩
        -- a walk that ends in a permission fault enters nothing (R346)
        if !permits e.flags r.mode k then (.error (pageFault k .perm va), s) else done e (s.tlbInstall e f.line)

/-- The pod address of a virtual address under the translations in force, without entering any: none when its page has no valid
translation. -/
def State.imagePod (s : State) (r : Req) (va : Word) : Option Nat :=
  if isDirect va then some (va.extractLsb' 0 52).toNat
  else
    let pod (ppn : BitVec 36) : Nat :=
      let a := ppn.toNat * 2 ^ 16 + va.toNat % 2 ^ 16
      if a / 2 ^ 45 = s.pkg.toNat then s.pkg.toNat * 2 ^ 45 + s.redirect (a % 2 ^ 45) else a
    match s.tlbFind r va with
    | some e => some (pod e.ppn)
    | none => match (s.walk r va).1 with
      | .ok f => some (pod f.ppn)
      | .error _ => none
/-- Whether the `k` bytes at a pod address lie among the bytes of one of some virtual ranges (start, length): two virtual addresses
of one byte count. -/
def State.aliased (s : State) (r : Req) (pod k : Nat) (ranges : List (Word × Nat)) : Bool :=
  ranges.any (fun (va, n) => (List.range ((va.toNat % 65536 + n + 65535) / 65536)).any (fun i =>
    -- the address in this page with the offset of the place
    let here := (va &&& ~~~0xFFFF#64) + BitVec.ofNat 64 (65536 * i + pod % 65536)
    let lo := (here - va).toInt
    s.imagePod r here == some pod && decide (-(k : Int) < lo ∧ lo < n)))

/-! ## Locating an access -/

/-- Where an access goes: a physical address of this package, or an address of another package that is reachable. -/
inductive Place where
  | here (pa : Nat)
  | away (pod : Nat)
deriving DecidableEq, Repr

/-- The class of the store that a place lies in. -/
def State.placeCls (s : State) : Place → Cls
  | .away pod => clsOf (BitVec.ofNat 2 (Config.remoteCls pod s.free))
  | .here pa => match regionOf pa with
    | .hbm => s.lineCls (pa / 128)
    | .spm | .acc => (s.core (slotCore pa)).cls
    | _ => .f

/-- A REMOTE_FAULT (R385): bit 0 of the address says whether it is ambiguous. -/
def remoteFault (amb : Bool) (va : Word) : MemFault :=
  { cause := .remoteFault, addr := va &&& ~~~1#64 ||| (if amb then 1 else 0), amb := amb }
/-- The fault of a request that was sent and has no answer (R385): ambiguous for a store or an atomic. -/
def lostAnswer (k : Kind) (va : Word) : MemFault := remoteFault (k == .atomic || k == .write) va

/-- Translation, and every check at the requester and at the home, of an access of `n` bytes (R271, R273). -/
def State.locate (s : State) (r : Req) (k : Kind) (va : Word) (n : Nat) : Except MemFault Place × State :=
  match s.translate r k va with
  | (.error f, s) => (.error f, s)
  | (.ok pod, s) =>
    if 10 ≤ pod / 2 ^ 41 % 16 then (.error { cause := .accessFault, addr := va }, s)
    else if pod / 2 ^ 45 ≠ s.pkg.toNat then
      if !s.routed (pod / 2 ^ 45) then (.error (remoteFault false va), s)
      else if !r.openAt k false (pod % 2 ^ 45) n || (k == .fetch && regionOf (pod % 2 ^ 45) != .hbm) then
        (.error { cause := .accessFault, addr := va }, s)
      else
        let (i, s) := (s.nextSeq (pod / 2 ^ 45)).2.fresh
        match Config.remoteFault pod i % 4 with
        | 1 => (.error { cause := .accessFault, addr := va }, s)
        | 2 => (.error (remoteFault false va), s)
        | 3 => (.error (lostAnswer k va), s)
        | _ => (.ok (.away pod), s)
    else
      let pa := s.redirect (pod % 2 ^ 45)
      if k = .fetch ∧ regionOf pa ≠ .hbm then (.error { cause := .accessFault, addr := va }, s)
      else if !s.carries r.die (paDie pa) then (.error (remoteFault false va), s)
      else if !s.carries (paDie pa) r.die then (.error (lostAnswer k va), s)
      else match s.homeCheck r k pa n with
        | some c => (.error { cause := c, addr := va }, s)
        | none => (.ok (.here pa), s)

/-! ## Load and store (R14) -/

/-- The read of `n` bytes at a place that has passed its checks: the value, and whether it is poisoned. -/
def State.readAt (s : State) (r : Req) (p : Place) (n : Nat) : (Nat × Bool) × State :=
  match p with
  | .away pod =>
    let (i, s) := s.fresh
    ((awayBytes i pod n, Config.remotePoison pod i), s.awayErrors r.launch pod i)
  | .here pa =>
    if regionOf pa = .sys then
      let q := paOff pa - 0x18000000000
      let w := ((s.sysRead (paDie pa) (q / 8 * 8)).getD 0).toNat
      ((w / 2 ^ (8 * (pa % 8)) % 2 ^ (8 * n), false), s)
    else
      let s := s.atHome r pa n false
      ((s.seen.bytes pa n, s.poisonedAt pa n), s)

/-- A byte that is written while no gang holds it counts as held by tenant 0 from then on (R111). -/
def State.noteHolder (s : State) (pa n : Nat) : State :=
  let o := paOff pa % 2 ^ 21
  let c := slotCore pa
  match regionOf pa with
  | .spm => if (s.spmGang c o).isNone then s.updCore c (fun x => { x with spm := (o, o + n, 0) :: x.spm }) else s
  | .acc => if (s.accGang c o).isNone then s.updCore c (fun x => { x with acc := (o, o + n, 0) :: x.acc }) else s
  | _ => s

/-- The write of `n` bytes at a place that has passed its checks. -/
def State.writeAt (s : State) (r : Req) (p : Place) (n v : Nat) : State :=
  match p with
  | .away pod =>
    let (i, s) := s.fresh
    s.awayErrors r.launch pod i
  | .here pa =>
    if regionOf pa = .sys then
      (s.sysWrite (paDie pa) (paOff pa - 0x18000000000) (BitVec.ofNat 64 v)).getD s
    else ((s.atHome r pa n true).store pa n v).noteHolder pa n

/-- `Load(a, n)` (R14): the value and its poison, or the fault. -/
def State.load (s : State) (r : Req) (va : Word) (n : Nat) : Except MemFault (Nat × Bool) × State :=
  match s.locate r .read va n with
  | (.error f, s) => (.error f, s)
  | (.ok p, s) =>
    let (v, s) := s.readAt r p n
    (.ok v, s)

/-- `Store(a, n, x)` (R14). -/
def State.storeTo (s : State) (r : Req) (va : Word) (n v : Nat) : Except MemFault Unit × State :=
  match s.locate r .write va n with
  | (.error f, s) => (.error f, s)
  | (.ok p, s) => (.ok (), s.writeAt r p n v)

/-- The trap of a fault of a scalar access: precise, with a batch of at most one page (R146, R353, R356). -/
def faultTrap (f : MemFault) (s : State) : Eff :=
  .trap { cause := f.cause, epc := s.hart.pc, val := f.addr, npg := f.fb.length, fb := f.fb } s

end Sys2Proof.Machine
end

