-- ==== Sys2Proof/Machine/Fetch.lean ====
section
/-! DEFINITION. Between instructions: fetching a word (R62, R346), the traps that are pending (R357), and the passing of
time (R136, R432). -/

namespace Sys2Proof.Machine
open Sys2Proof

/-! ## Fetch -/

/-- Fetches the instruction word at `pc` (R62, R346): the word, or the fault of the fetch. -/
def State.fetch (s : State) : Except MemFault Word × State :=
  match s.locate (s.req .fetch) .fetch s.hart.pc 8 with
  | (.error f, s) => (.error f, s)
  | (.ok p, s) =>
    let (v, s) := s.readAt (s.req .fetch) p 8
    if v.2 then (.error { cause := .poison, addr := s.hart.pc }, s) else (.ok (BitVec.ofNat 64 v.1), s)

/-! ## Pending traps (R357) -/

/-- The pending trap of orders 6 to 8 that comes first. A hart that has begun EXIT in U mode takes no PREEMPT (R126). -/
def Hart.lastPending (h : Hart) : Option (Trap × Hart) :=
  if h.pend.preempt && !h.exiting then
    some ({ cause := .preempt, epc := h.pc, val := 0 }, { h with pend := { h.pend with preempt := false } })
  else match h.pend.link with
  | some v => some ({ cause := .linkEvent, epc := h.pc, val := v }, { h with pend := { h.pend with link := none } })
  | none =>
    if h.pend.timer then some ({ cause := .timer, epc := h.pc, val := 0 }, { h with pend := { h.pend with timer := false } })
    else none

/-- Whether any trap is pending that the mode would take, were its `tstat.IE` set (R369). -/
def Hart.anyPending (h : Hart) : Bool := h.firstPending.isSome || h.lastPending.isSome

/-- Takes the first pending trap of orders 1 to 4, when the mode takes external traps and the hart is not inside WAIT, which
ends by itself when a trap is pending (R369). A trap that arrives inside the next instruction (`stopAt`) lets that one begin:
it is taken inside it (R352), or behind it. -/
def State.beforeFetch (s : State) : Option State :=
  if s.hart.takesExternal && !s.hart.inWait && s.hart.stopAt.isNone then
    s.hart.firstPending.map (fun (t, h) => State.takeExternal { s with hart := h } t)
  else none

/-- Takes the first pending trap of orders 6 to 8 after an instruction that raised no trap of its own. Whatever was to arrive
inside that instruction has arrived. -/
def State.afterExec (s : State) : State :=
  let s := s.upd (fun h => { h with stopAt := none })
  if s.hart.run = .running ∧ s.hart.takesExternal ∧ !s.hart.inWait ∧ !s.hart.trapped
      ∧ s.hart.firstPending.isNone then
    match s.hart.lastPending with
    | some (t, h) => State.takeExternal { s with hart := h } t
    | none => s
  else s

/-- The pending trap that comes first. -/
def Hart.nextPending (h : Hart) : Option (Trap × Hart) :=
  match h.firstPending with
  | some x => some x
  | none => h.lastPending

/-- Takes the pending trap that comes first at the present point. -/
def State.takePending (s : State) : State :=
  match s.hart.nextPending with
  | some (t, h) => State.takeExternal { s with hart := h } t
  | none => s

/-- A held hart takes LAUNCH_ABORT only, which ends the hold (R360); a reissue that the report carried stays pending (R355). -/
def State.heldAbort (s : State) : State :=
  match s.hart.pend.abort with
  | some n =>
    ({ s with hart := { s.hart with run := .running, report := none, posted := false, pend := { s.hart.pend with abort := none } } }).takeExternal
      { cause := .launchAbort, epc := s.hart.pc, val := BitVec.ofNat 64 n, vec := (s.hart.report.map (fun t : Trap => t.vec)).getD false }
  | none => s

/-! ## Placing a word where the next instruction is fetched -/

/-- Takes out of transit every page of a die-0 slot that names a physical page number. -/
def freeSlots (page : Nat) (d : Die) : Die :=
  { d with slots := d.slots.map (fun t =>
      if t.old.toNat % 2 ^ 29 = page ∨ t.new.toNat % 2 ^ 29 = page then ({} : Transit) else t) }

/-- The hart in focus made ready to fetch at a translated address: it runs, and no trap is pending. -/
def Hart.ready (h : Hart) : Hart :=
  { h with run := .running, report := none, posted := false, pend := {}, waitStart := none, inWait := false
           pc := if h.pc.extractLsb' 57 7 ≠ 0 ∨ isDirect h.pc ∨ h.pc.extractLsb' 0 3 ≠ 0 then 0 else h.pc
           copySt := { h.copySt with due := false }, nbSt := { h.nbSt with due := false } }

/-- Stores a word where the hart in focus fetches its next instruction: the page of its `pc` becomes executable and lies
at the start of frame 0 of die 0, which its tenant owns. -/
def State.placeWord (s : State) (w : Nat) : State :=
  let s := { s with agenda := [], hart := s.hart.ready, dies := s.dies.map (freeSlots 0), errs := [] }
  let s := s.updFrame 0 0 (fun f => { f with tenant := s.hart.tenant, change := none })
  let page := (s.hart.pc.extractLsb' 16 41).toNat
  let core := coreKey s.hart.hid
  let e : TlbEntry := ⟨core, s.hart.tenant, page, 1, BitVec.ofNat 36 (s.pkg.toNat * 2 ^ 29), 15, none⟩
  let s := { s with tlb := e :: s.tlb.filter (fun x => !(x.core == core && x.tenant == s.hart.tenant && x.page == page)) }
  let a := s.hart.pc.toNat % 2 ^ 16
  { s with mem := (Tab.setRange Memory.unlisted s.mem a (bytesOf 8 w))
           indet := cutIndet a (a + 8) s.indet
           poison := Tab.clearRange (a / 4) (a / 4 + 2) s.poison
           gran := Tab.clearRange (a / 64) (a / 64 + 1) s.gran }

/-! ## Time -/

/-- Lets `ns` nanoseconds pass: `time` counts them on the whole package (R136), and every die counts its cycles, 1.5 per ns
at full clock, less one sixteenth for every clock step (R432). -/
def State.elapse (s : State) (ns : Nat) : State :=
  { s with time := s.time + ns
           dies := s.dies.map (fun (d : Die) => { d with cyc := d.cyc + 3 * (16 - d.clk.toNat) * ns }) }

end Sys2Proof.Machine
end

