-- ==== Sys2Proof/Machine/ScalarMem.lean ====
section
/-! DEFINITION. Scalar loads and stores (R146), scalar atomics (R324, R325, R329, R330), and cache maintenance (R266). -/

namespace Sys2Proof.Machine
open Sys2Proof

/-! ## LD and ST (R146) -/

/-- Bytes of a size code. -/
def szBytes (sz : BitVec 2) : Nat := 2 ^ sz.toNat
/-- A value of `n` bytes extended to a register. -/
def extend (zx : Bool) (n v : Nat) : Word :=
  if zx then BitVec.ofNat 64 v else (BitVec.ofNat (8 * n) v).signExtend 64

/-- LD after its operands are known. -/
def loadEff (xd : XReg) (a : Word) (n : Nat) (zx : Bool) (s : State) : Eff :=
  if a.toNat % n ≠ 0 then trapAt .misaligned a s
  else match s.load (s.req .scalar) a n with
    | (.error f, s) => faultTrap f s
    | (.ok (v, bad), s) => if bad then trapAt .poison a s else .done (s.setX xd (extend zx n v))
/-- The trap of a fault of a scalar store or atomic; an ambiguous one names the next instruction (R330, R385). -/
def atomTrap (f : MemFault) (s : State) : Eff :=
  if f.amb then
    .trap { cause := f.cause, epc := s.hart.pc + 8, val := f.addr } s
  else faultTrap f s
/-- ST after its operands are known. -/
def storeEff (a : Word) (n : Nat) (v : Word) (s : State) : Eff :=
  if a.toNat % n ≠ 0 then trapAt .misaligned a s
  else match s.storeTo (s.req .scalar) a n (v.toNat % 2 ^ (8 * n)) with
    | (.error f, s) => atomTrap f s
    | (.ok _, s) => .done s

/-- The value that a load has read ahead of its turn, if it has (R318, R351). -/
def Hart.readAhead (h : Hart) : Option Word :=
  match h.ahead with
  | .load v :: _ => some v
  | _ => none

/-- LD (R146). What the scalar unit has read ahead of the vector queue is the value (R351). -/
def execLd (g : Hdr) (xd : XReg) (m : MemOp) (sz : BitVec 2) (zx : Bool) (s : State) :
    Host.Outcome State Fault Refusal :=
  issue (.ld g xd m sz zx) true .all g (memRegs m) [] (fun s =>
    match s.hart.readAhead with
    | some v => .done (s.setX xd v)
    | none => loadEff xd (s.memAddr m) (szBytes sz) zx s) s
/-- ST (R146). -/
def execSt (g : Hdr) (xs : XReg) (m : MemOp) (sz : BitVec 2) (s : State) : Host.Outcome State Fault Refusal :=
  issue (.st g xs m sz) true .all g (xs :: memRegs m) []
    (fun s => storeEff (s.memAddr m) (szBytes sz) (s.x xs) s) s

/-! ## Atomic accesses (R324, R329, R330) -/

/-- The sources of atomic accesses (R329): a hart's scalar agent is 0, the lane group ports of its core are 1 to 4, its
non-blocking queue is 5. -/
def atomSrc (hid : BitVec 20) (k : Nat) : Nat := 8 * hid.toNat + k

/-- The next sequence tag of a source toward a home, named by a key (R329): the tag, and the state behind it. -/
def State.nextTag (s : State) (key : Nat) : BitVec 16 × State :=
  let t := Tab.get (fun _ => 0) s.atags key
  (BitVec.ofNat 16 t, { s with atags := Tab.set (fun _ => 0) s.atags key ((t + 1) % 2 ^ 16) })
/-- The key of a home in another package. -/
def awayKey (src pkg die : Nat) : Nat := 16 * (src + 2 ^ 24 * (1 + pkg)) + die
/-- Sends a tag from a source to a home on another die, and keeps the answer there (R329): at most the 64 newest. -/
def State.keepReply (s : State) (src home : Nat) (cause : BitVec 8) (old : Word) : State :=
  let (t, s) := s.nextTag (16 * src + home)
  let r : Reply := ⟨home, src, t, cause, old⟩
  let same := s.replies.filter (fun x => x.home == home && x.src == src)
  let rest := s.replies.filter (fun x => !(x.home == home && x.src == src))
  { s with replies := (r :: same.take 63) ++ rest }

/-- The indivisible step of an atomic at its home (R324): reads `n` bytes, and writes what the operation gives. Poison stops
it, and nothing is written (R280). -/
def State.atomStep (s : State) (r : Req) (pa n : Nat) (f : Nat → Option Nat) : Option Nat × State :=
  let s := s.atHome r pa n false
  if s.poisonedAt pa n then (none, s)
  else
    let old := s.seen.bytes pa n
    match f old with
    | some v => (some old, ((s.atHome r pa n true).store pa n v).noteHolder pa n)
    | none => (some old, s)

/-- A refusal of an atomic by a home on another die stands in its reply cache (R273). -/
def State.refusedAtomic (s : State) (r : Req) (src : Nat) (va : Word) : State :=
  match s.translate r .atomic va with
  | (.ok pod, s') =>
    let d := pod / 2 ^ 41 % 16
    if pod / 2 ^ 45 = s.pkg.toNat ∧ d < 10 ∧ d ≠ r.die then s'.keepReply src d Cause.accessFault.code 0 else s
  | (.error _, _) => s

/-- An atomic access of `n` bytes (R324): the old value, or the fault. A request to another die leaves its answer in the
reply cache of the home. DESIGN CHOICE (log 85): the harts of a package that has been started afresh are fresh sources, which R330's loss of the
caches does not concern. -/
def State.atomic (s : State) (r : Req) (src : Nat) (va : Word) (n : Nat) (f : Nat → Option Nat) :
    Except MemFault Nat × State :=
  match s.locate r .atomic va n with
  | (.error e, s) => (.error e, if e.cause = .accessFault then s.refusedAtomic r src va else s)
  | (.ok (.away pod), s) =>
    let (i, s) := (s.nextTag (awayKey src (pod / 2 ^ 45) (pod / 2 ^ 41 % 16))).2.fresh
    (if Config.remotePoison pod i then .error { cause := .poison, addr := va } else .ok (awayBytes i pod n), s)
  | (.ok (.here pa), s) =>
    let keep (c : BitVec 8) (old : Nat) (s : State) : State :=
      if paDie pa = r.die then s else s.keepReply src (paDie pa) c (BitVec.ofNat 64 old)
    match s.atomStep r pa n f with
    | (some old, s) => (.ok old, keep 0 old s)
    | (none, s) => (.error { cause := .poison, addr := va }, keep Cause.poison.code 0 s)

/-- The new value of an AMO on `w` bits (R325). -/
def amoNew (op : AOp) (w old b : Nat) : Nat :=
  let sa := (BitVec.ofNat w old).toInt
  let sb := (BitVec.ofNat w b).toInt
  match op with
  | .add => (old + b) % 2 ^ w
  | .min => if sa < sb then old else b
  | .max => if sa < sb then b else old
  | .and => old &&& b
  | .or => old ||| b
  | .xor => old ^^^ b
  | .swap => b

/-- A scalar atomic after its operands are known; `zx` zero-extends the old value. -/
def atomEff (xd : XReg) (a : Word) (dbl zx : Bool) (f : Nat → Option Nat) (s : State) : Eff :=
  let n := if dbl then 8 else 4
  if a.toNat % n ≠ 0 then trapAt .misaligned a s
  else match s.atomic (s.req .scalar) (atomSrc s.hart.hid 0) a n f with
    | (.error e, s) => atomTrap e s
    | (.ok old, s) => .done (s.setX xd (extend zx n old))

/-- The low `w` bits of a register. -/
def lowBits (dbl : Bool) (v : Word) : Nat := if dbl then v.toNat else v.toNat % 2 ^ 32

/-- AMO (R325). -/
def execAmo (g : Hdr) (op : AOp) (xd xa xb : XReg) (o : Ord) (dbl : Bool) (s : State) :
    Host.Outcome State Fault Refusal :=
  issue (.amo g op xd xa xb o dbl) true .all g [xa, xb] []
    (fun s => atomEff xd (s.x xa) dbl false
      (fun old => some (amoNew op (if dbl then 64 else 32) old (lowBits dbl (s.x xb)))) s) s
/-- CAS (R325). -/
def execCas (g : Hdr) (xd xa xb : XReg) (o : Ord) (dbl : Bool) (s : State) : Host.Outcome State Fault Refusal :=
  issue (.cas g xd xa xb o dbl) true .all g [xd, xa, xb] []
    (fun s => atomEff xd (s.x xa) dbl false
      (fun old => if old = lowBits dbl (s.x xd) then some (lowBits dbl (s.x xb)) else none) s) s
/-- BINC (R325). -/
def execBinc (g : Hdr) (xd xa xb : XReg) (o : Ord) (dbl : Bool) (s : State) : Host.Outcome State Fault Refusal :=
  issue (.binc g xd xa xb o dbl) true .all g [xa, xb] []
    (fun s => atomEff xd (s.x xa) dbl true
      (fun old => if old < lowBits dbl (s.x xb) then some (old + 1) else none) s) s

/-! ## Cache maintenance (R266) -/

/-- CCLEAN or CFLUSH of `n` lines from virtual address `va` on. -/
def State.maintain (flush : Bool) : Nat → Word → State → Eff
  | 0, _, s => .done s
  | n + 1, va, s =>
    match s.translate (s.req .scalar) .clean va with
    | (.error f, s) => faultTrap f s
    | (.ok pod, s) =>
      let pa := if pod / 2 ^ 45 = s.pkg.toNat then s.redirect (pod % 2 ^ 45) else pod % 2 ^ 45
      let local_ : Bool := decide (regionOf pa = .spm ∨ regionOf pa = .acc ∨ regionOf pa = .ws)
      if local_ then State.maintain flush n (va + 128) s
      else match s.locate (s.req .scalar) .clean va 128 with
        | (.error f, s) => faultTrap f s
        | (.ok p, s) =>
          let s := match p with
            | .here pa => if flush then (s.cleanLine (pa / 128)).dropLine (pa / 128) else s.cleanLine (pa / 128)
            | .away _ => s
          let own (c : Copy) : Bool := c.die == hidDie s.hart.hid && c.tenant == s.hart.tenant
            && (c.line == pod / 128 || c.line == (s.pkg.toNat * 2 ^ 45 + pa) / 128)
          State.maintain flush n (va + 128) (if flush then s.dropCopies own else s)

/-- The lines that `len` bytes from an address touch (R266). -/
def lineCount (a : Word) (len : Nat) : Nat := if len = 0 then 0 else (a.toNat % 128 + len + 127) / 128

/-- CCLEAN and CFLUSH after their operands are known. -/
def maintainEff (i : Instr) (flush : Bool) (a len : Word) (s : State) : Eff :=
  if 2 ^ 32 < len.toNat then wordTrap .illegalOperand i s
  else State.maintain flush (lineCount a len.toNat) (a &&& ~~~127#64) s

/-- CCLEAN (R266). -/
def execCclean (g : Hdr) (xa xb : XReg) (s : State) : Host.Outcome State Fault Refusal :=
  issue (.cclean g xa xb) true .all g [xa, xb] [] (fun s => maintainEff (.cclean g xa xb) false (s.x xa) (s.x xb) s) s
/-- CFLUSH (R266). -/
def execCflush (g : Hdr) (xa xb : XReg) (s : State) : Host.Outcome State Fault Refusal :=
  issue (.cflush g xa xb) true .all g [xa, xb] [] (fun s => maintainEff (.cflush g xa xb) true (s.x xa) (s.x xb) s) s

end Sys2Proof.Machine
end

