-- ==== Sys2Proof/Machine/VReg.lean ====
section
/-! DEFINITION. Vector register storage (R153 to R164): the strings of the registers, lengths, replication, the issue of
vector instructions, and how an instruction that works element by element runs, stops and is reissued (R181, R183, R352,
R355). -/

namespace Sys2Proof

/-! ## Sources (R160) -/

/-- The index that a replicated source reads for element `e` (R160). -/
def Rep.index : Rep → Nat → Nat
  | .none, k => k
  | .e, _ => 0
  | .s4, k => k % 4
  | .s8, k => k % 8
  | .s16, k => k % 16
  | .s32, k => k % 32

/-- Whether an instruction's replicated source names its destination, so that it is taken whole (R183). -/
def VSrc.replicates (a : VSrc) (vd : VReg) : Bool := a.rep != .none && a.v == vd

end Sys2Proof

namespace Sys2Proof.Machine
open Sys2Proof

/-! ## Fields of a register -/

/-- Whether field `e` of width `w` is poisoned. -/
def badAt (w poi e : Nat) : Bool := poi != 0 && elemAt w poi e != 0

/-- A list of written fields of one register. -/
abbrev Writes := List (Nat × Nat)

/-- Applies writes of width `w` to a string. -/
def applyWrites (w bits : Nat) (ws : Writes) : Nat := ws.foldl (fun b x => putElem w b x.1 x.2) bits
/-- Clears the poison of written fields. -/
def clearWrites (w poi : Nat) (ws : Writes) : Nat := if poi = 0 then 0 else ws.foldl (fun b x => putElem w b x.1 0) poi
/-- Writes fields of a register: each keeps its place, and loses its poison (R158, R163). -/
def Hart.writeElems (h : Hart) (v w : Nat) (ws : Writes) : Hart :=
  if ws.isEmpty then h
  else (h.putStr v (applyWrites w (h.vstr v) ws) (clearWrites w (h.vpoiStr v) ws)).freshen (inFields (v * h.regBits) w (ws.map (·.1)))

/-! ## Errors in vector storage (R163, R278) -/

/-- Bad bits of which one 64-bit word holds more than one: they cannot be corrected. -/
def doubleBad (mask : Nat) (words : Nat) : Bool :=
  (List.range words).any (fun k => let m := elemAt 64 mask k; m != 0 && m &&& (m - 1) != 0)
/-- The place of a register of kind 3 (scalar) or 4 (predicate), or a word of kind 5 (vector storage), among the bad bits. -/
def struckAt (kind i : Nat) : Nat := kind * 2 ^ 20 + i
/-- The bad bits recorded for a register or word. -/
def Hart.struckBits (h : Hart) (kind i : Nat) : Nat := Tab.get (fun _ => 0) h.struck (struckAt kind i)

/-- Meets the errors of the 64-bit words that hold the listed bits of a register, each range a first bit and a length: a single-bit error is
corrected and charged, a double-bit error is charged once, its poison standing. -/
def State.touchBits (s : State) (v : Nat) (rs : List (Nat × Nat)) : State :=
  if s.hart.vcor.isEmpty then s else
  let lo := v * s.hart.regBits
  let hit (k : Nat) : Bool := rs.any (fun r => decide (64 * k < lo + r.1 + r.2 ∧ lo + r.1 < 64 * k + 64))
  let met := s.hart.vcor.filter hit
  let s := s.upd (fun h => { h with vcor := h.vcor.filter (fun k => !hit k) })
  met.foldl (fun s k => s.registerErr (doubleBad (s.hart.struckBits 5 k) 1)) s
/-- The same for the listed fields of width `w`. -/
def State.touchV (s : State) (v w : Nat) (es : List Nat) : State := s.touchBits v (es.map (fun e => (e * w, w)))
/-- Meets the errors of a whole register. -/
def State.touchReg (s : State) (v : Nat) : State := s.touchV v s.hart.regBits [0]

/-! ## Issue (R39, R41, R61, R155, R156) -/

/-- Whether an earlier instruction of the hart still writes a register (R156, R306, R402). -/
def Hart.regBusy (h : Hart) (v : Nat) : Bool :=
  h.nbQ.any (fun o => o.vd == v && !o.todo.isEmpty && match o.kind with
    | .load => true
    | .atomic _ noRet => !noRet
    | _ => false)
  || (h.mode == .u && (h.colls.any (fun c => c.regs.contains v) || h.collRes.any (fun c => c.vd == v || (c.scale.isSome && c.vd + 1 == v))))

/-- Whether work of the matrix queue still reads a register, so that a later write of it waits (R222). -/
def Hart.mxReads (h : Hart) (v : Nat) : Bool := h.mq.any (fun q => match q.work with
  | .mma o => o.regs.contains v
  | _ => false)

/-- Whether earlier matrix work of the hart still touches a tile (R222). -/
def Hart.tileBusy (h : Hart) (t : Nat) : Bool := h.mq.any (fun (o : MxOp) => match o.work with
  | .mma m => m.tile == t
  | .ld k .. => k == t
  | .zero k _ => k == t)

/-- Whether an instruction that names the registers `regs`, and writes `dst` among them, waits for an earlier one (R156, R222). -/
def Hart.interlocked (h : Hart) (regs dst : List Nat) : Bool := regs.any h.regBusy || dst.any h.mxReads

/-- The length check of R155, and the rule of R72 that a value has a tag. -/
def Hart.lenOk (h : Hart) (vs : List Nat) : Bool :=
  vs.all (fun v => h.tag v != .none && decide (h.n ≤ mvl (h.tag v) h.nregs))

/-- The token that a VM instruction sets (R52). -/
def vmToken (t : VmTail) : Option (BitVec 3) := if t.nb || t.tc == 0 then none else some t.tc

/-- What an instruction of the vector queue names: registers checked against N, those among them that it writes, scalar registers and predicates read, the
token it sets; what a poisoned operand does instead of raising POISON (R306); whether its guard decides the whole instruction; whether it leaves `vstart` alone (R169); whether it writes
whatever the guard (R198, R200), and whether it clears `vstart` when the whole instruction's guard is false (PREF). -/
structure Names where
  regs  : List Nat
  dst   : List Nat := regs.take 1
  xs    : List XReg := []
  ps    : List PReg := []
  tk    : Option (BitVec 3) := none
  bad   : Option (State → Eff) := none
  whole : Bool := false
  priv  : Priv := .all
  still : Bool := false
  always : Bool := false
  clears : Bool := false

/-- A vector instruction that has completed clears `vstart`, and its reissue clears `fm` (R167, R355). -/
def Hart.vdone (h : Hart) : Hart := { h with vstart := 0, fm := if h.reissue then 0 else h.fm }
/-- The end of a vector instruction. -/
def vdone (s : State) : Eff := .done (s.upd Hart.vdone)

/-- The issue of an instruction of the vector queue: decode checks, token wait, a guard that is false for the whole
instruction or always false (R39, R61), the checks of order 3, the interlock of R156, the scalar operands, and then what the entry says. -/
def vecIssue (i : Instr) (g : Hdr) (nm : Names) (ok : State → Bool) (body : State → Eff) (s : State) :
    Host.Outcome State Fault Refusal :=
  finish (decodeChecks i false nm.priv (fun s =>
    if s.hart.waits g.wm || (nm.tk.any (fun k => s.hart.tok.getLsbD k.toNat)) then .whole s
    else
      let rest (ps : List PReg) (s : State) : Eff :=
        if nm.regs.any (fun v => decide (s.hart.nregs ≤ v)) || !ok s then wordTrap .illegalOperand i s
        else if s.hart.interlocked nm.regs nm.dst then .wait s
        else readingOr (nm.bad.getD (wordTrap .poison i)) nm.xs (ps ++ nm.ps) body s
      if nm.whole then reading i [] [g.pg] (fun s => if s.hart.guard g.grd then rest [] s else if nm.clears then vdone s else .done s) s
      else if g.pg == 0 && g.pn then
        -- no element is active, and no trap of order 3 or 4 is raised (R61)
        if nm.always && !nm.regs.any (fun v => decide (s.hart.nregs ≤ v)) && ok s then
          (if s.hart.interlocked nm.regs nm.dst then .wait s else body s)
        else (if nm.still then .done s else vdone s)
      else rest (if s.hart.reissue then [] else [g.pg]) s) s)

/-! ## Element by element (R158, R181, R183, R352, R355) -/

/-- Whether element `e` takes part: under the guard, or, in a reissue, under `fm`. -/
def Hart.takes (h : Hart) (g : Hdr) (e : Nat) : Bool := if h.reissue then h.fm.getLsbD e else h.active g.grd e
/-- The elements below `n` that take part, in ascending order. -/
def Hart.actives (h : Hart) (g : Hdr) (n : Nat) : List Nat := (List.range n).filter (h.takes g)

/-- The mask of a list of elements. -/
def maskOf (es : List Nat) : BitVec 32768 := es.foldl (fun m e => m ||| BitVec.twoPow 32768 e) 0

/-- How many elements a vector instruction performs before a trap from outside stops it inside itself; none when no such
trap is there to be taken (R183, R352; the number comes with TRAP_ENTRY). -/
def Hart.stopsAfter (h : Hart) (len : Nat) : Option Nat :=
  match h.stopAt with
  | some k => if h.takesExternal && h.nextPending.isSome && decide (k < len) then some k else none
  | none => none

/-- The lowest of a list of elements. -/
def lowest (es : List Nat) : Nat := es.foldl min (es.headD 0)
/-- Marks the elements not done (R352). -/
def Hart.mark (h : Hart) (left : List Nat) : Hart :=
  { h with fm := maskOf left, vstart := BitVec.ofNat 15 (lowest left), reissue := true, stopAt := none }
/-- Stops a vector instruction inside itself, and takes the pending trap (R352). -/
def stopInside (left : List Nat) (s : State) : Eff := .whole (s.upd (fun h => h.mark left)).takePending

/-- An element operation: destination register and width, which elements read poison, the result of each element, whether the
instruction may stop inside itself, and whether its elements draw stochastic words. -/
structure ElemOp where
  vd    : Nat
  w     : Nat
  bad   : Nat → Bool
  f     : Nat → Nat × Flags
  stop  : Bool
  draws : Bool

/-- Performs elements: their results, their flags, and the draw of R88. -/
def ElemOp.perform (o : ElemOp) (es : List Nat) (s : State) : State :=
  let rs := es.map (fun e => (e, o.f e))
  (s.upd (fun h => h.writeElems o.vd o.w (rs.map (fun r => (r.1, r.2.1))))).raise (rs.foldl (fun a r => a ||| r.2.2) 0)

/-- Runs an element operation over the elements that take part (R181, R183): POISON first, then all of them, or those before
the stop. DESIGN CHOICE (log 21): R12 leaves the order of the elements open; those that a stop finds complete are the lowest-indexed ones. -/
def runElems (i : Instr) (g : Hdr) (o : ElemOp) (s : State) : Eff :=
  let es := s.hart.actives g s.hart.n
  if es.any o.bad then wordTrap .poison i s
  else match (if o.stop then s.hart.stopsAfter es.length else none) with
    | some k => stopInside (es.drop k) (o.perform (es.take k) s)
    | none => vdone ((o.perform es s).advanceSeed (o.draws && !es.isEmpty))

end Sys2Proof.Machine
end

