-- ==== Sys2Proof/Machine/VConfig.lean ====
section
/-! DEFINITION. Vector configuration, tags, and the moves between registers (R169 to R179). -/

namespace Sys2Proof.Machine
open Sys2Proof

/-! ## VCFG, SETVL, SETVH, VTAG (R170 to R173) -/

/-- `vcfg` as it reads (R166). -/
def Hart.vcfgWord (h : Hart) : Word := 0#52 ++ h.blk ++ 0#4 ++ h.nxt ++ 0#2 ++ h.regs

/-- Whether the hart's gang has more than one hart. -/
def State.shared (s : State) : Bool :=
  match s.gangOf s.hart.hid with
  | some g => decide (1 < g.harts.length)
  | none => false

/-- VCFG (R171). -/
def execVcfg (wm : BitVec 8) (xd : XReg) (regs blk : BitVec 2) (s : State) : Host.Outcome State Fault Refusal :=
  vecIssue (.vcfg wm xd regs blk) (.plain wm) { regs := [] } (fun s => !(s.shared && regs != s.hart.regs))
    (fun s => .done ((s.setX xd s.hart.vcfgWord).upd (fun h => { h with nxt := regs, blk := blk }))) s

/-- The step of a reconfiguration (R171); the time of the reservations of registers that it empties begins (R336). -/
def Hart.reconfigure (h : Hart) (now : Nat) : Hart :=
  { h with
    regs := h.nxt
    resv := h.resv.map (fun r => if h.full.getLsbD r.1 then (r.1, r.2.1, now + 2 ^ 15) else r)
    vtag := Vector.replicate 64 0
    vst := 0, vpoi := 0, vcor := [], vdirty := 0, fm := 0, vstart := 0, vqin := 0, vqout := 0, full := 0 }
/-- Whether earlier work of the hart still reads or writes vector registers (R156, R171). -/
def Hart.vecWork (h : Hart) : Bool :=
  h.nbQ.any (fun o => !o.todo.isEmpty) || !h.mq.isEmpty || h.colls.any (fun c => !c.regs.isEmpty)
    || (h.mode == .u && !h.collRes.isEmpty)

/-- The grant of a length: `req` elements with the other length `o`, under a maximum `m` (R172). -/
def grant (req m o : Nat) : Nat := max 1 (min req (m / o))

/-- SETVL and SETVH after a pending reconfiguration has been carried out. -/
def setLength (row : Bool) (xd : XReg) (req : Nat) (t : Tag) (s : State) : State :=
  let m := mvl t s.hart.nregs
  if row then
    let vh := min s.hart.vh m
    let vl := grant req m vh
    (s.upd (fun h => { h with vl := vl, vh := vh })).setX xd (BitVec.ofNat 64 vl)
  else
    let vl := min s.hart.vl m
    let vh := grant req m vl
    (s.upd (fun h => { h with vl := vl, vh := vh })).setX xd (BitVec.ofNat 64 vh)

/-- SETVL and SETVH (R172). -/
def setLenEff (row : Bool) (xd xa : XReg) (t : BitVec 5) (s : State) : Eff :=
  let req := (s.x xa).toNat
  let tag := (Tag.ofCode? t).getD .none
  if s.hart.nxt = s.hart.regs then .done (setLength row xd req tag s)
  else if s.hart.vecWork then .wait s
  else .done (setLength row xd req tag (s.upd (fun h => h.reconfigure s.cycle)))

/-- Whether a tag code is one that SETVL and SETVH accept (R172). -/
def lenTagOk (t : BitVec 5) : Bool :=
  match Tag.ofCode? t with
  | none => false
  | some t => t != .none

/-- SETVL (R172). -/
def execSetvl (wm : BitVec 8) (xd xa : XReg) (t : BitVec 5) (s : State) : Host.Outcome State Fault Refusal :=
  vecIssue (.setvl wm xd xa t) (.plain wm) { regs := [], xs := [xa] } (fun _ => lenTagOk t) (setLenEff true xd xa t) s
/-- SETVH (R172). -/
def execSetvh (wm : BitVec 8) (xd xa : XReg) (t : BitVec 5) (s : State) : Host.Outcome State Fault Refusal :=
  vecIssue (.setvh wm xd xa t) (.plain wm) { regs := [], xs := [xa] } (fun _ => lenTagOk t) (setLenEff false xd xa t) s

/-- Sets a register's tag (R173). -/
def Hart.retag (h : Hart) (v : VReg) (t : BitVec 5) : Hart :=
  { h with vtag := h.vtag.set v.toNat t v.isLt, vdirty := setBit h.vdirty v.toNat }
/-- VTAG (R173). -/
def execVtag (wm : BitVec 8) (vd : VReg) (t : BitVec 5) (s : State) : Host.Outcome State Fault Refusal :=
  vecIssue (.vtag wm vd t) (.plain wm) { regs := [vd.toNat] } (fun _ => (Tag.ofCode? t).isSome)
    (fun s => .done (s.upd (fun h => h.retag vd t))) s

/-! ## Moves (R174 to R179) -/

/-- A tag that a move of single elements accepts (R174). -/
def Hart.plainTag (h : Hart) (v : Nat) : Bool := h.tag v != .none && !(h.tag v).isBlock

/-- Moves fields of width `w` from one register to another: pairs of destination and source index, none for zero. A poisoned
field that is read raises POISON (R163). -/
def moveElems (i : Instr) (vd va w : Nat) (mv : List (Nat × Option Nat)) (s : State) : Eff :=
  let src := s.hart.vstr va
  let poi := s.hart.vpoiStr va
  let s := s.touchV va w (mv.filterMap (·.2))
  if mv.any (fun m => m.2.any (fun e => badAt w poi e)) then wordTrap .poison i s
  else .done (s.upd (fun h => h.writeElems vd w (mv.map (fun m => (m.1, (m.2.map (elemAt w src)).getD 0)))))

/-- VMOV (R175): elements, or whole blocks of an SX tag. -/
def execVmov (g : Hdr) (vd : VReg) (a : VSrc) (s : State) : Host.Outcome State Fault Refusal :=
  vecIssue (.vmov g vd a) g { still := true, regs := [vd.toNat, a.v.toNat] }
    (fun s => s.hart.lenOk [vd.toNat, a.v.toNat] && s.hart.tag vd.toNat == s.hart.tag a.v.toNat
      && (!(s.hart.tag vd.toNat).isBlock || (a.rep == .none && s.hart.n % 32 == 0)))
    (fun s =>
      let t := s.hart.tag vd.toNat
      if t.isBlock then
        moveElems (.vmov g vd a) vd.toNat a.v.toNat (tagBlockBits t)
          (((List.range (s.hart.n / 32)).filter (fun b => s.hart.active g.grd (32 * b))).map (fun b => (b, some b))) s
      else
        moveElems (.vmov g vd a) vd.toNat a.v.toNat (tagWidth t)
          (((List.range s.hart.n).filter (s.hart.active g.grd)).map (fun e => (e, some (a.rep.index e)))) s) s

/-- The position of slice element `j` (R176). -/
def slicePos (col : Bool) (vl i j : Nat) : Nat := if col then j * vl + i else i * vl + j
/-- The checks of VSLICE (R174). -/
def sliceOk (vd va : VReg) (s : State) : Bool :=
  s.hart.lenOk [vd.toNat, va.toNat] && s.hart.tag vd.toNat == s.hart.tag va.toNat && s.hart.plainTag vd.toNat

/-- VSLICE, extraction (R176). -/
def execVsliceExtract (g : Hdr) (col : Bool) (vd va : VReg) (xb : XReg) (s : State) : Host.Outcome State Fault Refusal :=
  vecIssue (.vsliceExtract g col vd va xb) g { still := true, regs := [vd.toNat, va.toNat], xs := [xb] } (sliceOk vd va)
    (fun s =>
      let k := (s.x xb).toNat
      let len := if col then s.hart.vh else s.hart.vl
      let inside : Bool := decide (k < if col then s.hart.vl else s.hart.vh)
      moveElems (.vsliceExtract g col vd va xb) vd.toNat va.toNat (tagWidth (s.hart.tag vd.toNat))
        (((List.range len).filter (s.hart.active g.grd)).map
          (fun j => (j, if inside then some (slicePos col s.hart.vl k j) else none))) s) s
/-- VSLICE, insertion (R176). -/
def execVsliceInsert (g : Hdr) (col : Bool) (vd va : VReg) (xb : XReg) (s : State) : Host.Outcome State Fault Refusal :=
  vecIssue (.vsliceInsert g col vd va xb) g { still := true, regs := [vd.toNat, va.toNat], xs := [xb] } (sliceOk vd va)
    (fun s =>
      let k := (s.x xb).toNat
      let len := if col then s.hart.vh else s.hart.vl
      let inside : Bool := decide (k < if col then s.hart.vl else s.hart.vh)
      moveElems (.vsliceInsert g col vd va xb) vd.toNat va.toNat (tagWidth (s.hart.tag vd.toNat))
        (if inside then ((List.range len).map (fun j => (slicePos col s.hart.vl k j, some j))).filter
          (fun m => s.hart.active g.grd m.1) else []) s) s

/-- VBCAST (R177). -/
def execVbcast (g : Hdr) (vd : VReg) (xa : XReg) (s : State) : Host.Outcome State Fault Refusal :=
  vecIssue (.vbcast g vd xa) g { still := true, regs := [vd.toNat], xs := [xa] }
    (fun s => s.hart.lenOk [vd.toNat] && s.hart.plainTag vd.toNat)
    (fun s =>
      let w := tagWidth (s.hart.tag vd.toNat)
      let v := (s.x xa).toNat % 2 ^ w
      .done (s.upd (fun h => h.writeElems vd.toNat w
        (((List.range h.n).filter (h.active g.grd)).map (fun e => (e, v)))))) s

/-- The word that a scalar register receives from an element (R178). -/
def elemWord (t : Tag) (b : Nat) : Word :=
  if t.isSigned then (BitVec.ofNat (tagWidth t) b).signExtend 64 else BitVec.ofNat 64 b
/-- VXT (R178). -/
def execVxt (g : Hdr) (xd : XReg) (va : VReg) (xb : XReg) (s : State) : Host.Outcome State Fault Refusal :=
  vecIssue (.vxt g xd va xb) g { still := true, regs := [va.toNat], dst := [], xs := [xb] }
    (fun s => s.hart.lenOk [va.toNat] && s.hart.plainTag va.toNat)
    (fun s =>
      let t := s.hart.tag va.toNat
      let w := tagWidth t
      let e := (s.x xb).toNat
      if !s.hart.active g.grd 0 then .done s
      else if s.hart.n ≤ e then .done (s.setX xd 0)
      else
        let b := elemAt w (s.hart.vstr va.toNat) e
        let bad := badAt w (s.hart.vpoiStr va.toNat) e
        let s := s.touchV va.toNat w [e]
        if bad then wordTrap .poison (.vxt g xd va xb) s else .done (s.setX xd (elemWord t b))) s

/-- VINS (R179). -/
def execVins (g : Hdr) (vd : VReg) (xa xb : XReg) (s : State) : Host.Outcome State Fault Refusal :=
  vecIssue (.vins g vd xa xb) g { still := true, regs := [vd.toNat], xs := [xa, xb] }
    (fun s => s.hart.lenOk [vd.toNat] && s.hart.plainTag vd.toNat)
    (fun s =>
      let w := tagWidth (s.hart.tag vd.toNat)
      let e := (s.x xb).toNat
      if decide (e < s.hart.n) && s.hart.active g.grd e then
        .done (s.upd (fun h => h.writeElems vd.toNat w [(e, (s.x xa).toNat % 2 ^ w)]))
      else .done s) s

end Sys2Proof.Machine
end

