-- ==== Sys2Proof/Machine/VArith.lean ====
section
/-! DEFINITION. The element-wise vector instructions: arithmetic (R185 to R189), fused multiply-add (R190), math (R191),
logic, shifts and bit operations (R192 to R195), compare and select (R196, R197). -/

namespace Sys2Proof.Machine
open Sys2Proof

/-! ## Running up to three sources (R160, R161, R181) -/

/-- An element-wise operation on the raw bits of its sources: destination, sources (`c` is never replicated), and the result
of element `e`; whether the elements draw stochastic words. -/
structure V3Op where
  vd    : VReg
  o     : VBin
  c     : Option VReg
  draws : Bool
  f     : Nat → Nat → Nat → Nat → Nat × Flags

/-- The registers that it names; a pass-queue operand names none. -/
def V3Op.regs (p : V3Op) : List Nat :=
  p.vd.toNat :: (if p.o.q then [] else [p.o.a.v.toNat]) ++ p.o.b.v.toNat :: (p.c.toList.map (·.toNat))

/-- The tag of its sources: that of operand B. -/
def V3Op.srcTag (p : V3Op) (h : Hart) : Tag := h.tag p.o.b.v.toNat
/-- The rule of R157: the sources carry one tag; a pass-queue source counts with the destination's. -/
def V3Op.tagsOk (p : V3Op) (h : Hart) : Bool :=
  (if p.o.q then h.tag p.vd.toNat else h.tag p.o.a.v.toNat) == p.srcTag h
    && p.c.all (fun v => h.tag v.toNat == p.srcTag h)

/-- The carry that a pass-queue instruction passes from element to element, with the results and the flags (R161). -/
def V3Op.carryRun (f : Nat → Nat → Nat × Flags) : List Nat → Nat → Writes × Flags × Nat
  | [], carry => ([], 0, carry)
  | e :: es, carry =>
    let r := f e carry
    let (ws, fl, last) := V3Op.carryRun f es r.1
    ((e, r.1) :: ws, r.2 ||| fl, last)

/-- Runs it (R161, R181). It may stop inside itself unless a replicated source is its destination (R183). DESIGN CHOICE (log 82): every source counts
as read at an active element, the one that VSEL does not select too. -/
def runV3 (i : Instr) (g : Hdr) (p : V3Op) (s : State) : Eff :=
  let h := s.hart
  let w := tagWidth (h.tag p.vd.toNat)
  let ws := tagWidth (p.srcTag h)
  let av := p.o.a.v.toNat
  let bv := p.o.b.v.toNat
  let cv := (p.c.map (·.toNat)).getD 0
  let as_ := h.vstr av
  let bs := h.vstr bv
  let cs := h.vstr cv
  let ap := h.vpoiStr av
  let bp := h.vpoiStr bv
  let cp := h.vpoiStr cv
  let es := h.actives g h.n
  let s := ((if p.o.q then s else s.touchV av ws (es.map p.o.a.rep.index)).touchV bv ws (es.map p.o.b.rep.index))
  let s := if p.c.isSome then s.touchV cv ws es else s
  let bad (e : Nat) : Bool :=
    (!p.o.q && badAt ws ap (p.o.a.rep.index e)) || badAt ws bp (p.o.b.rep.index e) || (p.c.isSome && badAt ws cp e)
  let stop : Bool := !(p.o.a.replicates p.vd && !p.o.q) && !p.o.b.replicates p.vd
  let eb (e : Nat) : Nat := elemAt ws bs (p.o.b.rep.index e)
  let ec (e : Nat) : Nat := elemAt ws cs e
  if p.o.q then
    let go (k : List Nat) (s : State) : State :=
      let (wr, fl, last) := V3Op.carryRun (fun e carry => p.f e carry (eb e) (ec e)) k (h.vqin.toNat % 2 ^ w)
      (s.upd (fun h => { h.writeElems p.vd.toNat w wr with vqin := BitVec.ofNat 64 last })).raise fl
    if es.any bad then wordTrap .poison i s
    else match (if stop then s.hart.stopsAfter es.length else none) with
      | some k => stopInside (es.drop k) (go (es.take k) s)
      | none => vdone (((go es s).upd (fun h => { h with vqout := h.vqin })).advanceSeed (p.draws && !es.isEmpty))
  else
    runElems i g ⟨p.vd.toNat, w, bad, fun e => p.f e (elemAt ws as_ (p.o.a.rep.index e)) (eb e) (ec e), stop, p.draws⟩ s

/-- The issue of an element-wise instruction: `ok` is the entry's tag rule, on the sources' tag and the destination's. -/
def issueV3 (i : Instr) (g : Hdr) (p : State → V3Op) (ok : Tag → Tag → Bool) (ps : List PReg) (s : State) :
    Host.Outcome State Fault Refusal :=
  vecIssue i g { regs := (p s).regs, ps := ps, always := (p s).o.q }
    (fun s => s.hart.lenOk (p s).regs && (p s).tagsOk s.hart && ok ((p s).srcTag s.hart) (s.hart.tag (p s).vd.toNat))
    (fun s => runV3 i g (p s) s) s

/-! ## Arithmetic (R180, R185 to R191) -/

/-- The integers or reals of an operation, with the flags of an exact result. -/
abbrev ArithFn := Tag → Bool → Val → Val → Val → Val × Flags

/-- Lifts an operation on reals. -/
def realOp (f : Exact → Exact → Exact × Flags) (a b : Val) : Val × Flags :=
  let (x, fl) := f a.exact b.exact
  (.real x, fl)

/-- a + b, a − b, a × b (R186). -/
def vAdd : ArithFn := fun _ rdn a b _ => match a, b with
  | .int i, .int j => (.int (i + j), 0)
  | a, b => realOp (Exact.add rdn) a b
def vSub : ArithFn := fun _ rdn a b _ => match a, b with
  | .int i, .int j => (.int (i - j), 0)
  | a, b => realOp (fun x y => x.add rdn y.neg) a b
def vMul : ArithFn := fun _ _ a b _ => match a, b with
  | .int i, .int j => (.int (i * j), 0)
  | a, b => realOp Exact.mul a b
/-- VMIN and VMAX (R86, R186). -/
def vMinMax (mx : Bool) : ArithFn := fun _ _ a b _ => match a, b with
  | .int i, .int j => (.int (if mx then max i j else min i j), 0)
  | a, b =>
    let x := a.exact
    let y := b.exact
    (.real (if x.isNan then y else if y.isNan then x else if x.firstWins mx y then x else y), 0)
/-- VABS and VNEG (R187). -/
def vAbs : ArithFn := fun _ _ a _ _ => match a with
  | .int i => (.int i.natAbs, 0)
  | .real x => (.real x.abs, 0)
def vNeg : ArithFn := fun _ _ a _ _ => match a with
  | .int i => (.int (-i), 0)
  | .real x => (.real x.neg, 0)
/-- VMULH (R188). -/
def vMulh : ArithFn := fun t _ a b _ => match a, b with
  | .int i, .int j => (.int (i * j / (2 ^ tagWidth t : Nat)), 0)
  | a, _ => (a, 0)
/-- VDIV and VREM (R189). -/
def vDiv : ArithFn := fun t _ a b _ => match a, b with
  | .int i, .int j =>
    (.int (if j = 0 then (if t.isSigned then -1 else (2 ^ tagWidth t : Nat) - 1) else i.tdiv j), 0)
  | a, b => realOp Exact.div a b
def vRem : ArithFn := fun _ _ a b _ => match a, b with
  | .int i, .int j => (.int (if j = 0 then i else i - j * i.tdiv j), 0)
  | a, _ => (a, 0)
/-- VFMA, VFMS, VFNMA (R190). -/
def vFma : ArithFn := fun _ rdn a b c => match a, b, c with
  | .int i, .int j, .int k => (.int (i * j + k), 0)
  | a, b, c => let (x, fl) := a.exact.fma rdn b.exact c.exact; (.real x, fl)
def vFms : ArithFn := fun _ rdn a b c => match a, b, c with
  | .int i, .int j, .int k => (.int (i * j - k), 0)
  | a, b, c => let (x, fl) := a.exact.fma rdn b.exact c.exact.neg; (.real x, fl)
def vFnma : ArithFn := fun _ rdn a b c => match a, b, c with
  | .int i, .int j, .int k => (.int (k - i * j), 0)
  | a, b, c => let (x, fl) := a.exact.neg.fma rdn b.exact c.exact; (.real x, fl)
/-- The math functions (R191). -/
def vMath (f : Exact → Exact × Flags) : ArithFn := fun _ _ a _ _ => let (x, fl) := f a.exact; (.real x, fl)

/-- An arithmetic instruction: the exact result, delivered once (R180). A word is drawn for each element that is rounded in
stochastic mode (R88). DESIGN CHOICE (log 82): VABS and VNEG between equal floating-point tags draw as the others do. -/
def arith (f : ArithFn) (vd : VReg) (o : VBin) (c : Option VReg) (sat : Bool) (rnd : BitVec 2) (s : State) : V3Op :=
  let m := s.hart.rmode rnd
  let st := s.hart.tag o.b.v.toNat
  let dt := s.hart.tag vd.toNat
  let seed := s.hart.seed
  { vd := vd, o := o, c := c
    draws := m == .sr && !(st.isInt && dt.isInt)
    f := fun e a b x =>
      let (v, fl) := f st (m == .rdn) (tagValue (if o.q then dt else st) a) (tagValue st b) (tagValue st x)
      let (r, fd) := deliver dt m sat (drawWord seed e) v
      (r, fl ||| fd) }

/-- A single source as both operands. -/
def oneSrc (a : VSrc) : VBin := ⟨false, a, a⟩

/-- The tag rules (R185, R191). -/
def arithTags (st dt : Tag) : Bool := st.isArith && dt.isArith
def intTags (st dt : Tag) : Bool := st.isArith && st.isInt && dt.isArith && dt.isInt
def sameIntTags (st dt : Tag) : Bool := st.isArith && st.isInt && dt == st
def floatTags (st dt : Tag) : Bool := st.isArith && st.isFloat && dt.isArith && dt.isFloat

/-- VADD (R186). -/
def execVadd (g : Hdr) (vd : VReg) (o : VBin) (sat : Bool) (rnd : BitVec 2) (s : State) : Host.Outcome State Fault Refusal :=
  issueV3 (.vadd g vd o sat rnd) g (arith vAdd vd o none sat rnd) arithTags [] s
/-- VSUB (R186). -/
def execVsub (g : Hdr) (vd : VReg) (o : VBin) (sat : Bool) (rnd : BitVec 2) (s : State) : Host.Outcome State Fault Refusal :=
  issueV3 (.vsub g vd o sat rnd) g (arith vSub vd o none sat rnd) arithTags [] s
/-- VMIN (R186). -/
def execVmin (g : Hdr) (vd : VReg) (o : VBin) (sat : Bool) (rnd : BitVec 2) (s : State) : Host.Outcome State Fault Refusal :=
  issueV3 (.vmin g vd o sat rnd) g (arith (vMinMax false) vd o none sat rnd) arithTags [] s
/-- VMAX (R186). -/
def execVmax (g : Hdr) (vd : VReg) (o : VBin) (sat : Bool) (rnd : BitVec 2) (s : State) : Host.Outcome State Fault Refusal :=
  issueV3 (.vmax g vd o sat rnd) g (arith (vMinMax true) vd o none sat rnd) arithTags [] s
/-- VABS (R187). -/
def execVabs (g : Hdr) (vd : VReg) (a : VSrc) (sat : Bool) (rnd : BitVec 2) (s : State) : Host.Outcome State Fault Refusal :=
  issueV3 (.vabs g vd a sat rnd) g (arith vAbs vd (oneSrc a) none sat rnd) arithTags [] s
/-- VNEG (R187). -/
def execVneg (g : Hdr) (vd : VReg) (a : VSrc) (sat : Bool) (rnd : BitVec 2) (s : State) : Host.Outcome State Fault Refusal :=
  issueV3 (.vneg g vd a sat rnd) g (arith vNeg vd (oneSrc a) none sat rnd) arithTags [] s
/-- VMUL (R186). -/
def execVmul (g : Hdr) (vd : VReg) (o : VBin) (sat : Bool) (rnd : BitVec 2) (s : State) : Host.Outcome State Fault Refusal :=
  issueV3 (.vmul g vd o sat rnd) g (arith vMul vd o none sat rnd) arithTags [] s
/-- VMULH (R188). -/
def execVmulh (g : Hdr) (vd : VReg) (o : VBin) (s : State) : Host.Outcome State Fault Refusal :=
  issueV3 (.vmulh g vd o) g (arith vMulh vd o none false 1) sameIntTags [] s
/-- VDIV (R189). -/
def execVdiv (g : Hdr) (vd : VReg) (o : VBin) (sat : Bool) (rnd : BitVec 2) (s : State) : Host.Outcome State Fault Refusal :=
  issueV3 (.vdiv g vd o sat rnd) g (arith vDiv vd o none sat rnd) arithTags [] s
/-- VREM (R189). -/
def execVrem (g : Hdr) (vd : VReg) (o : VBin) (sat : Bool) (s : State) : Host.Outcome State Fault Refusal :=
  issueV3 (.vrem g vd o sat) g (arith vRem vd o none sat 1) intTags [] s
/-- VSQRT (R191). -/
def execVsqrt (g : Hdr) (vd : VReg) (a : VSrc) (sat : Bool) (rnd : BitVec 2) (s : State) : Host.Outcome State Fault Refusal :=
  issueV3 (.vsqrt g vd a sat rnd) g (arith (vMath Exact.sqrt) vd (oneSrc a) none sat rnd) floatTags [] s
/-- VRCP (R191). -/
def execVrcp (g : Hdr) (vd : VReg) (a : VSrc) (sat : Bool) (rnd : BitVec 2) (s : State) : Host.Outcome State Fault Refusal :=
  issueV3 (.vrcp g vd a sat rnd) g (arith (vMath Exact.rcp) vd (oneSrc a) none sat rnd) floatTags [] s
/-- VRSQ (R191). -/
def execVrsq (g : Hdr) (vd : VReg) (a : VSrc) (sat : Bool) (rnd : BitVec 2) (s : State) : Host.Outcome State Fault Refusal :=
  issueV3 (.vrsq g vd a sat rnd) g (arith (vMath Exact.rsqrt) vd (oneSrc a) none sat rnd) floatTags [] s
/-- VEXP2 (R191). -/
def execVexp2 (g : Hdr) (vd : VReg) (a : VSrc) (sat : Bool) (rnd : BitVec 2) (s : State) : Host.Outcome State Fault Refusal :=
  issueV3 (.vexp2 g vd a sat rnd) g (arith (vMath (fun x => (x.exp2, 0))) vd (oneSrc a) none sat rnd) floatTags [] s
/-- VLOG2 (R191). -/
def execVlog2 (g : Hdr) (vd : VReg) (a : VSrc) (sat : Bool) (rnd : BitVec 2) (s : State) : Host.Outcome State Fault Refusal :=
  issueV3 (.vlog2 g vd a sat rnd) g (arith (vMath Exact.log2) vd (oneSrc a) none sat rnd) floatTags [] s
/-- VFMA (R190). -/
def execVfma (g : Hdr) (vd : VReg) (o : VBin) (vc : VReg) (sat : Bool) (rnd : BitVec 2) (s : State) :
    Host.Outcome State Fault Refusal :=
  issueV3 (.vfma g vd o vc sat rnd) g (arith vFma vd o (some vc) sat rnd) arithTags [] s
/-- VFMS (R190). -/
def execVfms (g : Hdr) (vd : VReg) (o : VBin) (vc : VReg) (sat : Bool) (rnd : BitVec 2) (s : State) :
    Host.Outcome State Fault Refusal :=
  issueV3 (.vfms g vd o vc sat rnd) g (arith vFms vd o (some vc) sat rnd) arithTags [] s
/-- VFNMA (R190). -/
def execVfnma (g : Hdr) (vd : VReg) (o : VBin) (vc : VReg) (sat : Bool) (rnd : BitVec 2) (s : State) :
    Host.Outcome State Fault Refusal :=
  issueV3 (.vfnma g vd o vc sat rnd) g (arith vFnma vd o (some vc) sat rnd) arithTags [] s

/-! ## Logic, shifts and bit operations (R192, R193) -/

/-- A bit pattern operation: width, and the patterns of the sources. -/
def bitOp (f : Nat → Nat → Nat → Nat) (vd : VReg) (o : VBin) (s : State) : V3Op :=
  let w := tagWidth (s.hart.tag vd.toNat)
  { vd := vd, o := o, c := none, draws := false, f := fun _ a b _ => (f w a b % 2 ^ w, 0) }

/-- A pattern read as a signed integer. -/
def signedBits (w a : Nat) : Int := if 2 ^ (w - 1) ≤ a then (a : Int) - (2 ^ w : Nat) else a
/-- The shifts of R192; the count is the low log2 w bits of `b`. -/
def bShl (w a b : Nat) : Nat := a * 2 ^ (b % w)
def bShr (w a b : Nat) : Nat := a / 2 ^ (b % w)
def bSha (w a b : Nat) : Nat := intBits w (signedBits w a / (2 ^ (b % w) : Nat))
def bRot (w a b : Nat) : Nat := a * 2 ^ (b % w) + a / 2 ^ (w - b % w)
/-- The reversed pattern (R193). -/
def revBits (w a : Nat) : Nat := (List.range w).foldl (fun r k => 2 * r + a / 2 ^ k % 2) 0
/-- The number of set bits (R193). -/
def popBits (w a : Nat) : Nat := (List.range w).foldl (fun r k => r + a / 2 ^ k % 2) 0
/-- The zero bits above the highest set bit (R193). -/
def leadZeros (w a : Nat) : Nat := if a = 0 then w else w - 1 - a.log2

/-- VAND (R192). -/
def execVand (g : Hdr) (vd : VReg) (o : VBin) (s : State) : Host.Outcome State Fault Refusal :=
  issueV3 (.vand g vd o) g (bitOp (fun _ a b => a &&& b) vd o) sameIntTags [] s
/-- VOR (R192). -/
def execVor (g : Hdr) (vd : VReg) (o : VBin) (s : State) : Host.Outcome State Fault Refusal :=
  issueV3 (.vor g vd o) g (bitOp (fun _ a b => a ||| b) vd o) sameIntTags [] s
/-- VXOR (R192). -/
def execVxor (g : Hdr) (vd : VReg) (o : VBin) (s : State) : Host.Outcome State Fault Refusal :=
  issueV3 (.vxor g vd o) g (bitOp (fun _ a b => a ^^^ b) vd o) sameIntTags [] s
/-- VNOT (R192). -/
def execVnot (g : Hdr) (vd : VReg) (a : VSrc) (s : State) : Host.Outcome State Fault Refusal :=
  issueV3 (.vnot g vd a) g (bitOp (fun w a _ => 2 ^ w - 1 - a) vd (oneSrc a)) sameIntTags [] s
/-- VSHL (R192). -/
def execVshl (g : Hdr) (vd : VReg) (o : VBin) (s : State) : Host.Outcome State Fault Refusal :=
  issueV3 (.vshl g vd o) g (bitOp bShl vd o) sameIntTags [] s
/-- VSHR (R192). -/
def execVshr (g : Hdr) (vd : VReg) (o : VBin) (s : State) : Host.Outcome State Fault Refusal :=
  issueV3 (.vshr g vd o) g (bitOp bShr vd o) sameIntTags [] s
/-- VSHA (R192). -/
def execVsha (g : Hdr) (vd : VReg) (o : VBin) (s : State) : Host.Outcome State Fault Refusal :=
  issueV3 (.vsha g vd o) g (bitOp bSha vd o) sameIntTags [] s
/-- VROT (R192). -/
def execVrot (g : Hdr) (vd : VReg) (o : VBin) (s : State) : Host.Outcome State Fault Refusal :=
  issueV3 (.vrot g vd o) g (bitOp bRot vd o) sameIntTags [] s
/-- VCLZ (R193). -/
def execVclz (g : Hdr) (vd : VReg) (a : VSrc) (s : State) : Host.Outcome State Fault Refusal :=
  issueV3 (.vclz g vd a) g (bitOp (fun w a _ => leadZeros w a) vd (oneSrc a)) sameIntTags [] s
/-- VPOPC (R193). -/
def execVpopc (g : Hdr) (vd : VReg) (a : VSrc) (s : State) : Host.Outcome State Fault Refusal :=
  issueV3 (.vpopc g vd a) g (bitOp (fun w a _ => popBits w a) vd (oneSrc a)) sameIntTags [] s
/-- VBREV (R193). -/
def execVbrev (g : Hdr) (vd : VReg) (a : VSrc) (s : State) : Host.Outcome State Fault Refusal :=
  issueV3 (.vbrev g vd a) g (bitOp (fun w a _ => revBits w a) vd (oneSrc a)) sameIntTags [] s

/-! ## Bit interleaving (R194, R195) -/

/-- VBITIL: K fields, from `i` on (R195). -/
def bitil (k f ws : Nat) (src : Nat → Nat) : Nat :=
  (List.range f).foldl (fun r i => r + (List.range k).foldl (fun q j =>
    q + (if i < ws then src j / 2 ^ i % 2 else 0) * 2 ^ (k * i + j)) 0) 0
/-- VBITIL (R195). -/
def execVbitil (g : Hdr) (k3 : Bool) (vd : VReg) (a b : VSrc) (vc : VReg) (s : State) :
    Host.Outcome State Fault Refusal :=
  issueV3 (.vbitil g k3 vd a b vc) g (fun s =>
    let k := if k3 then 3 else 2
    let ws := tagWidth (s.hart.tag b.v.toNat)
    { vd := vd, o := ⟨false, a, b⟩, c := if k3 then some vc else none, draws := false
      f := fun _ x y z => (bitil k (tagWidth (s.hart.tag vd.toNat) / k) ws
        (fun j => match j with | 0 => x | 1 => y | _ => z), 0) }) intTags [] s

/-- VBITDL: field `j` of K (R195). -/
def bitdl (k f j a : Nat) : Nat := (List.range f).foldl (fun r i => r + a / 2 ^ (k * i + j) % 2 * 2 ^ i) 0
/-- VBITDL (R195). -/
def execVbitdl (g : Hdr) (k3 : Bool) (vd : VReg) (a : VSrc) (jx : BitVec 2) (s : State) :
    Host.Outcome State Fault Refusal :=
  issueV3 (.vbitdl g k3 vd a jx) g (fun s =>
    let k := if k3 then 3 else 2
    { vd := vd, o := oneSrc a, c := none, draws := false
      f := fun _ x _ _ => (bitdl k (tagWidth (s.hart.tag a.v.toNat) / k) jx.toNat x
        % 2 ^ tagWidth (s.hart.tag vd.toNat), 0) }) intTags [] s

/-! ## Compare and select (R196, R197) -/

/-- Writes bits of a predicate. -/
def putBits (v : BitVec 32768) (bs : List (Nat × Bool)) : BitVec 32768 := bs.foldl (fun v b => putBit v b.1 b.2) v

/-- VCMP.cc (R196): taken whole. -/
def execVcmp (g : Hdr) (c : VCond) (pd : PReg) (a b : VSrc) (s : State) : Host.Outcome State Fault Refusal :=
  vecIssue (.vcmp g c pd a b) g { regs := [a.v.toNat, b.v.toNat], dst := [] }
    (fun s =>
      let t := s.hart.tag a.v.toNat
      s.hart.lenOk [a.v.toNat, b.v.toNat] && t == s.hart.tag b.v.toNat && t.isArith && !(c == .un && t.isInt))
    (fun s =>
      let h := s.hart
      let t := h.tag a.v.toNat
      let w := tagWidth t
      let as_ := h.vstr a.v.toNat
      let bs := h.vstr b.v.toNat
      let ap := h.vpoiStr a.v.toNat
      let bp := h.vpoiStr b.v.toNat
      let es := h.actives g h.n
      let s := (s.touchV a.v.toNat w (es.map a.rep.index)).touchV b.v.toNat w (es.map b.rep.index)
      if es.any (fun e => badAt w ap (a.rep.index e) || badAt w bp (b.rep.index e)) then
        wordTrap .poison (.vcmp g c pd a b) s
      else
        vdone (s.setP pd (putBits (h.getP pd) (es.map (fun e =>
          (e, vcondHolds c (tagValue t (elemAt w as_ (a.rep.index e))) (tagValue t (elemAt w bs (b.rep.index e)))))))))
    s

/-- VSEL (R197). -/
def execVsel (g : Hdr) (vd : VReg) (a b : VSrc) (pc : PReg) (s : State) : Host.Outcome State Fault Refusal :=
  issueV3 (.vsel g vd a b pc) g (fun s =>
    { vd := vd, o := ⟨false, a, b⟩, c := none, draws := false
      f := fun e x y _ => (if (s.hart.getP pc).getLsbD e then x else y, 0) })
    (fun st dt => st == dt && !st.isBlock) [pc] s

end Sys2Proof.Machine
end

