-- ==== Sys2Proof/Machine/VRow.lean ====
section
/-! DEFINITION. The vector instructions that work along rows: reductions and scans (R198, R199), top-k (R200), slides and
permutations (R201 to R206). Each is taken whole (R183). -/

namespace Sys2Proof.Machine
open Sys2Proof

/-! ## Reductions and scans (R96, R198, R199) -/

/-- The identity of an operation on elements of a tag (R96); bit patterns stand as unsigned integers. -/
def redIdent (op : ROp) (t : Tag) : Val :=
  match op with
  | .add => if t.isInt then .int 0 else .real (.zero true)
  | .min => if t.isInt then .int t.intMax else .real .nan
  | .max => if t.isInt then .int t.intMin else .real .nan
  | .and => .int ((2 ^ tagWidth t : Nat) - 1)
  | .or | .xor => .int 0

/-- Whether an operation works on bit patterns. -/
def bitwise : ROp → Bool
  | .and | .or | .xor => true
  | _ => false

/-- A bit pattern as a natural number. -/
def Val.nat : Val → Nat
  | .int i => i.toNat
  | .real _ => 0

/-- The exact result of an operation on two values (R96). -/
def redExact (op : ROp) (t : Tag) (rdn : Bool) (a b : Val) : Val × Flags :=
  match op with
  | .add => vAdd t rdn a b b
  | .min => vMinMax false t rdn a b b
  | .max => vMinMax true t rdn a b b
  | .and => (.int (a.nat &&& b.nat : Nat), 0)
  | .or => (.int (a.nat ||| b.nat : Nat), 0)
  | .xor => (.int (a.nat ^^^ b.nat : Nat), 0)

/-- What a reduction works with: operation, tags, mode, SAT, generator state. -/
structure RedCtx where
  op   : ROp
  st   : Tag
  dt   : Tag
  m    : RMode
  sat  : Bool
  seed : BitVec 32

/-- The value of an element of the source. -/
def RedCtx.leaf (c : RedCtx) (bits : Nat) : Val := if bitwise c.op then .int bits else tagValue c.st bits
/-- One operation: exact for integers and patterns, else rounded to the destination tag with draw index `d` (R96). -/
def RedCtx.node (c : RedCtx) (a b : Val × Flags) (d : Nat) : Val × Flags :=
  let (v, f) := redExact c.op c.st (c.m == .rdn) a.1 b.1
  if c.st.isInt then (v, a.2 ||| b.2 ||| f)
  else
    let (r, g) := deliver c.dt c.m c.sat (drawWord c.seed d) v
    (tagValue c.dt r, a.2 ||| b.2 ||| f ||| g)
/-- The delivery of a value to element `d` (R180, R198); a pattern is read under the signedness of the source tag. -/
def RedCtx.out (c : RedCtx) (v : Val) (d : Nat) : Nat × Flags :=
  let v := match bitwise c.op, v with
    | true, .int i => tagValue c.st i.toNat
    | _, v => v
  deliver c.dt c.m c.sat (drawWord c.seed d) v
/-- The tag rules of R198. -/
def RedCtx.ok (c : RedCtx) : Bool :=
  c.st.isArith && c.dt.isArith && (!bitwise c.op || c.st.isInt) && (c.st.isInt || c.dt.isFloat)

/-- The context of an instruction. -/
def redCtx (op : ROp) (vd va : VReg) (sat : Bool) (rnd : BitVec 2) (h : Hart) : RedCtx :=
  ⟨op, h.tag va.toNat, h.tag vd.toNat, h.rmode rnd, sat, h.seed⟩

/-- One row of VRED: the result and its flags. -/
def redRow (c : RedCtx) (src : Nat) (act : Nat → Bool) (vl row : Nat) : Nat × Flags :=
  let leaf (k : Nat) : Val × Flags :=
    (if act (row * vl + k) then c.leaf (elemAt (tagWidth c.st) src (row * vl + k)) else redIdent c.op c.st, 0)
  let (v, f) := reduceAll (fun a b k => c.node a b (row * vl + k)) leaf vl
  let (r, g) := c.out v row
  (r, f ||| g)

/-- VRED.op (R198). -/
def execVred (g : Hdr) (op : ROp) (vd va : VReg) (sat : Bool) (rnd : BitVec 2) (s : State) :
    Host.Outcome State Fault Refusal :=
  vecIssue (.vred g op vd va sat rnd) g { regs := [vd.toNat, va.toNat], always := true }
    (fun s => s.hart.lenOk [vd.toNat, va.toNat] && (redCtx op vd va sat rnd s.hart).ok)
    (fun s =>
      let h := s.hart
      let c := redCtx op vd va sat rnd h
      let w := tagWidth c.st
      let es := h.actives g h.n
      let s := s.touchV va.toNat w es
      if es.any (badAt w (h.vpoiStr va.toNat)) then wordTrap .poison (.vred g op vd va sat rnd) s
      else
        let rs := (List.range h.vh).map (fun r => (r, redRow c (h.vstr va.toNat) (h.takes g) h.vl r))
        vdone (((s.upd (fun h => h.writeElems vd.toNat (tagWidth c.dt) (rs.map (fun r => (r.1, r.2.1))))).raise
          (rs.foldl (fun a r => a ||| r.2.2) 0)).advanceSeed (c.m == .sr && !(c.st.isInt && c.dt.isInt) && !es.isEmpty))) s

/-- One row of VSCAN from column `k` on: results, and flags. -/
def scanRow (c : RedCtx) (src : Nat) (act : Nat → Bool) : List Nat → Val → Writes × Flags
  | [], _ => ([], 0)
  | e :: es, a =>
    if act e then
      let (v, f) := c.node (a, 0) (c.leaf (elemAt (tagWidth c.st) src e), 0) e
      let (r, g) := c.out v e
      let (ws, fl) := scanRow c src act es v
      ((e, r) :: ws, f ||| g ||| fl)
    else scanRow c src act es a

/-- VSCAN.op (R199). -/
def execVscan (g : Hdr) (op : ROp) (vd va : VReg) (sat : Bool) (rnd : BitVec 2) (s : State) :
    Host.Outcome State Fault Refusal :=
  vecIssue (.vscan g op vd va sat rnd) g { regs := [vd.toNat, va.toNat] }
    (fun s => s.hart.lenOk [vd.toNat, va.toNat] && (redCtx op vd va sat rnd s.hart).ok)
    (fun s =>
      let h := s.hart
      let c := redCtx op vd va sat rnd h
      let w := tagWidth c.st
      let es := h.actives g h.n
      let s := s.touchV va.toNat w es
      if es.any (badAt w (h.vpoiStr va.toNat)) then wordTrap .poison (.vscan g op vd va sat rnd) s
      else
        let rs := (List.range h.vh).map (fun r => scanRow c (h.vstr va.toNat) (h.takes g)
          ((List.range h.vl).map (r * h.vl + ·)) (redIdent c.op c.st))
        vdone (((s.upd (fun h => h.writeElems vd.toNat (tagWidth c.dt) (rs.flatMap (·.1)))).raise
          (rs.foldl (fun a r => a ||| r.2) 0)).advanceSeed (c.m == .sr && !(c.st.isInt && c.dt.isInt) && !es.isEmpty))) s

/-! ## Top-k (R200) -/

/-- Whether a value comes before another in the order of VMAXI (`mx`) or VMINI: by value, −0 below +0. -/
def ranksBefore (mx : Bool) (a b : Exact) : Bool :=
  match a.cmp? b with
  | some .lt => !mx
  | some .gt => mx
  | _ => if mx then !a.isNeg && b.isNeg && b.isZero else a.isNeg && a.isZero && !b.isNeg

/-- The columns of a row that are candidates, in order; ties stay with the lower column. -/
def topCols (mx : Bool) (cols : List (Nat × Exact)) : List Nat :=
  (sortBy (fun a b => !ranksBefore mx b.2 a.2) cols).map (·.1)

/-- An integer tag of 8 to 64 bits. -/
def Tag.isIndex (t : Tag) : Bool := t.isInt && decide (8 ≤ tagWidth t)

/-- VMAXI and VMINI. -/
def topkIssue (i : Instr) (mx : Bool) (g : Hdr) (vd va : VReg) (xb : XReg) (pm : PReg) (s : State) :
    Host.Outcome State Fault Refusal :=
  vecIssue i g { regs := [vd.toNat, va.toNat], xs := [xb], always := true }
    (fun s => s.hart.lenOk [vd.toNat, va.toNat] && (s.hart.tag va.toNat).isArith && Tag.isIndex (s.hart.tag vd.toNat)
      && decide ((s.hart.vl : Int) - 1 ≤ (s.hart.tag vd.toNat).intMax))
    (fun s =>
      let h := s.hart
      let t := h.tag va.toNat
      let w := tagWidth t
      let wd := tagWidth (h.tag vd.toNat)
      let src := h.vstr va.toNat
      let es := h.actives g h.n
      let k := min (s.x xb).toNat h.vl
      let s := s.touchV va.toNat w es
      if es.any (badAt w (h.vpoiStr va.toNat)) then wordTrap .poison i s
      else
        let tops := (List.range h.vh).map (fun r =>
          (topCols mx (((List.range h.vl).filter (fun c => h.takes g (r * h.vl + c))).filterMap (fun c =>
            let x := (tagValue t (elemAt w src (r * h.vl + c))).exact
            if x.isNan then none else some (c, x)))).take k)
        let ws : Writes := tops.zipIdx.flatMap (fun (cs, r) =>
          (List.range k).map (fun j => (r * h.vl + j, cs.getD j (2 ^ wd - 1))))
        let bits : List (Nat × Bool) := tops.zipIdx.flatMap (fun (cs, r) =>
          (List.range h.vl).map (fun c => (r * h.vl + c, cs.contains c)))
        vdone ((s.upd (fun h => h.writeElems vd.toNat wd ws)).setP pm (putBits (h.getP pm) bits))) s

/-- VMAXI (R200). -/
def execVmaxi (g : Hdr) (vd va : VReg) (xb : XReg) (pm : PReg) (s : State) : Host.Outcome State Fault Refusal :=
  topkIssue (.vmaxi g vd va xb pm) true g vd va xb pm s
/-- VMINI (R200). -/
def execVmini (g : Hdr) (vd va : VReg) (xb : XReg) (pm : PReg) (s : State) : Host.Outcome State Fault Refusal :=
  topkIssue (.vmini g vd va xb pm) false g vd va xb pm s

/-! ## Slides and permutations (R201 to R206) -/

/-- A move of elements between registers that clears `vstart` when it completes. -/
def moveDone (i : Instr) (vd va w : Nat) (mv : List (Nat × Option Nat)) (s : State) : Eff :=
  match moveElems i vd va w mv s with
  | .done s => vdone s
  | e => e

/-- The element of column `c` of a row, if the column lies inside the row (R201). -/
def inRow (vl row : Nat) (c : Int) : Option Nat :=
  if 0 ≤ c ∧ c < vl then some (row * vl + c.toNat) else none

/-- VSLIDE.up (R202). -/
def execVslideUp (g : Hdr) (vd va : VReg) (xb : XReg) (s : State) : Host.Outcome State Fault Refusal :=
  vecIssue (.vslideUp g vd va xb) g { regs := [vd.toNat, va.toNat], xs := [xb] } (sliceOk vd va)
    (fun s => moveDone (.vslideUp g vd va xb) vd.toNat va.toNat (tagWidth (s.hart.tag vd.toNat))
      ((s.hart.actives g s.hart.n).map (fun e =>
        (e, inRow s.hart.vl (e / s.hart.vl) ((e % s.hart.vl : Nat) - (s.x xb).toNat)))) s) s
/-- VSLIDE.dn (R202). -/
def execVslideDn (g : Hdr) (vd va : VReg) (xb : XReg) (s : State) : Host.Outcome State Fault Refusal :=
  vecIssue (.vslideDn g vd va xb) g { regs := [vd.toNat, va.toNat], xs := [xb] } (sliceOk vd va)
    (fun s => moveDone (.vslideDn g vd va xb) vd.toNat va.toNat (tagWidth (s.hart.tag vd.toNat))
      ((s.hart.actives g s.hart.n).map (fun e =>
        (e, inRow s.hart.vl (e / s.hart.vl) ((e % s.hart.vl : Nat) + (s.x xb).toNat)))) s) s

/-- The integer value of an index element. -/
def indexVal (t : Tag) (bits : Nat) : Int :=
  match tagValue t bits with
  | .int i => i
  | .real _ => -1

/-- VPERM (R203). -/
def execVperm (g : Hdr) (vd va vb : VReg) (s : State) : Host.Outcome State Fault Refusal :=
  vecIssue (.vperm g vd va vb) g { regs := [vd.toNat, va.toNat, vb.toNat] }
    (fun s => sliceOk vd va s && s.hart.lenOk [vb.toNat] && Tag.isIndex (s.hart.tag vb.toNat))
    (fun s =>
      let h := s.hart
      let tb := h.tag vb.toNat
      let es := h.actives g h.n
      let s := s.touchV vb.toNat (tagWidth tb) es
      if es.any (badAt (tagWidth tb) (h.vpoiStr vb.toNat)) then wordTrap .poison (.vperm g vd va vb) s
      else moveDone (.vperm g vd va vb) vd.toNat va.toNat (tagWidth (h.tag vd.toNat))
        (es.map (fun e => (e, inRow h.vl (e / h.vl) (indexVal tb (elemAt (tagWidth tb) (h.vstr vb.toNat) e))))) s) s

/-- The active columns of each row, in order. -/
def Hart.rowActives (h : Hart) (g : Hdr) : List (Nat × List Nat) :=
  (List.range h.vh).map (fun r => (r, ((List.range h.vl).map (r * h.vl + ·)).filter (h.takes g)))

/-- VCOMPR (R204). -/
def execVcompr (g : Hdr) (vd va : VReg) (s : State) : Host.Outcome State Fault Refusal :=
  vecIssue (.vcompr g vd va) g { regs := [vd.toNat, va.toNat] } (sliceOk vd va)
    (fun s => moveDone (.vcompr g vd va) vd.toNat va.toNat (tagWidth (s.hart.tag vd.toNat))
      ((s.hart.rowActives g).flatMap (fun (r, es) => es.zipIdx.map (fun (e, j) => (r * s.hart.vl + j, some e)))) s) s
/-- VEXPD (R204). -/
def execVexpd (g : Hdr) (vd va : VReg) (s : State) : Host.Outcome State Fault Refusal :=
  vecIssue (.vexpd g vd va) g { regs := [vd.toNat, va.toNat] } (sliceOk vd va)
    (fun s => moveDone (.vexpd g vd va) vd.toNat va.toNat (tagWidth (s.hart.tag vd.toNat))
      ((s.hart.rowActives g).flatMap (fun (r, es) => es.zipIdx.map (fun (e, j) => (e, some (r * s.hart.vl + j))))) s) s

/-- The set bits of a predicate at columns before each column of a row. -/
def countBefore (p : BitVec 32768) : List Nat → Nat → List (Nat × Nat)
  | [], _ => []
  | e :: es, k => (e, k) :: countBefore p es (if p.getLsbD e then k + 1 else k)
/-- VIOTA (R205). -/
def execViota (g : Hdr) (vd : VReg) (pa : PReg) (s : State) : Host.Outcome State Fault Refusal :=
  vecIssue (.viota g vd pa) g { regs := [vd.toNat], ps := [pa] }
    (fun s => s.hart.lenOk [vd.toNat] && Tag.isIndex (s.hart.tag vd.toNat))
    (fun s =>
      let h := s.hart
      let counts := (List.range h.vh).flatMap (fun r =>
        countBefore (h.getP pa) ((List.range h.vl).map (r * h.vl + ·)) 0)
      vdone (s.upd (fun h => h.writeElems vd.toNat (tagWidth (h.tag vd.toNat))
        (counts.filter (fun c => h.takes g c.1))))) s
/-- VTRANS (R206). -/
def execVtrans (g : Hdr) (vd va : VReg) (s : State) : Host.Outcome State Fault Refusal :=
  vecIssue (.vtrans g vd va) g { regs := [vd.toNat, va.toNat] } (sliceOk vd va)
    (fun s => moveDone (.vtrans g vd va) vd.toNat va.toNat (tagWidth (s.hart.tag vd.toNat))
      ((s.hart.actives g s.hart.n).map (fun d => (d, some (d % s.hart.vh * s.hart.vl + d / s.hart.vh)))) s) s

end Sys2Proof.Machine
end

