-- ==== Sys2Proof/Machine/VConv.lean ====
section
/-! DEFINITION. Conversions and quantisation (R207 to R210). -/

namespace Sys2Proof.Machine
open Sys2Proof

/-! ## VCVT (R208) -/

/-- The place of element `e` in a register's string: field width and field index; for a block tag the whole block. -/
def fieldOf (t : Tag) (e : Nat) : Nat × Nat := if t.isBlock then (tagBlockBits t, e / 32) else (tagWidth t, e)
/-- The value of element `e` of a string under any tag (R74, R75, R78, R81). -/
def srcValue (t : Tag) (bits e : Nat) : Val :=
  if t.isBlock then .real (sxElem t (elemAt (tagBlockBits t) bits (e / 32)) (e % 32))
  else tagValue t (elemAt (tagWidth t) bits e)
/-- The bits of a register's string that make up element `e`: first bit and length; in a block the shared exponent, the shift of its
sub-block, and its own q (R80). -/
def elemRanges (t : Tag) (e : Nat) : List (Nat × Nat) :=
  if t.isBlock then
    let b := tagBlockBits t * (e / 32)
    [(b, 8), (b + 8 + 2 * (e % 32 / 4), 2), (b + 32 + sxWidth t * (e % 32), sxWidth t)]
  else [(tagWidth t * e, tagWidth t)]
/-- Whether element `e` of a register is poisoned: a bit of it lies in a failing word (R163). -/
def srcBad (t : Tag) (poi e : Nat) : Bool := poi != 0 && (elemRanges t e).any (fun r => poi / 2 ^ r.1 % 2 ^ r.2 != 0)

/-- An element converted between two tags that are not both the same block tag: with equal tags it is unchanged, but for a
NaN, which becomes the canonical NaN (R208). -/
def cvtElem (st dt : Tag) (m : RMode) (sat : Bool) (draw : BitVec 32) (bits e : Nat) : Nat × Flags :=
  if st = dt then
    match Fp.ofTag dt, srcValue st bits e with
    | some f, .real .nan => (f.nanBits, 0)
    | _, _ => (elemAt (tagWidth st) bits e, 0)
  else deliver dt m sat draw (srcValue st bits e)

/-- A block converted into an SX tag (R82, R208); with equal tags its bytes stay, but for the reserved byte 3, which every
conversion writes as 0 (R80), and a NaN block becomes the canonical one. -/
def cvtBlock (st dt : Tag) (m : RMode) (seed : BitVec 32) (bits b : Nat) : Nat × Flags :=
  if st = dt then
    let x := elemAt (tagBlockBits st) bits b
    (if x % 256 = 0xFF then 0xFF else x % 2 ^ 24 + x / 2 ^ 32 * 2 ^ 32, 0)
  else toSX dt m (fun i => drawWord seed (32 * b + i)) ((List.range 32).map (fun i => (srcValue st bits (32 * b + i)).exact))

/-- Whether a conversion draws stochastic words: not between integers, and not between equal tags (log 17). -/
def cvtDraws (st dt : Tag) (m : RMode) : Bool := m == .sr && !(st.isInt && dt.isInt) && st != dt

/-- VCVT (R208). -/
def execVcvt (g : Hdr) (vd : VReg) (a : VSrc) (sat : Bool) (rnd : BitVec 2) (s : State) :
    Host.Outcome State Fault Refusal :=
  vecIssue (.vcvt g vd a sat rnd) g { regs := [vd.toNat, a.v.toNat] }
    (fun s =>
      let st := s.hart.tag a.v.toNat
      let dt := s.hart.tag vd.toNat
      s.hart.lenOk [vd.toNat, a.v.toNat] && (!(st.isBlock || dt.isBlock) || a.rep == .none)
        && (!dt.isBlock || s.hart.n % 32 == 0))
    (fun s =>
      let h := s.hart
      let st := h.tag a.v.toNat
      let dt := h.tag vd.toNat
      let m := h.rmode rnd
      let src := h.vstr a.v.toNat
      let poi := h.vpoiStr a.v.toNat
      let bad (e : Nat) : Bool := srcBad st poi (a.rep.index e)
      if dt.isBlock then
        let bs := (List.range (h.n / 32)).filter (fun b => h.takes g (32 * b))
        let es := bs.flatMap (fun b => (List.range 32).map (32 * b + ·))
        let s := s.touchBits a.v.toNat (es.flatMap (elemRanges st))
        if es.any bad then wordTrap .poison (.vcvt g vd a sat rnd) s
        else
          let rs := bs.map (fun b => (b, cvtBlock st dt m h.seed src b))
          vdone (((s.upd (fun h => h.writeElems vd.toNat (tagBlockBits dt) (rs.map (fun r => (r.1, r.2.1))))).raise
            (rs.foldl (fun f r => f ||| r.2.2) 0)).advanceSeed (cvtDraws st dt m && !bs.isEmpty))
      else
        let s := s.touchBits a.v.toNat ((h.actives g h.n).flatMap (fun e => elemRanges st (a.rep.index e)))
        runElems (.vcvt g vd a sat rnd) g
          { vd := vd.toNat, w := tagWidth dt, bad := bad
            f := fun e => cvtElem st dt m sat (drawWord h.seed e) src (a.rep.index e)
            stop := !st.isBlock && !a.replicates vd, draws := cvtDraws st dt m } s) s

/-! ## Quantisation (R209, R210) -/

/-- emax of a quantised tag (R209); none for the tags that VQNT does not write. -/
def emaxOf : Tag → Option Int
  | .e2m1 => some 2 | .e3m2 => some 4 | .e2m3 => some 2 | .e4m3 => some 8 | .e5m2 => some 15
  | .si8 => some 6 | .si4 => some 2
  | _ => none
/-- The tags that VQNT reads (R209). -/
def isWide : Tag → Bool
  | .fp64 | .fp32 | .bf16 | .fp16 => true
  | _ => false
/-- The conditions of R162 on a scale register. -/
def Hart.scaleOk (h : Hart) (v : Nat) : Bool :=
  h.tag v == .e8m0 && h.vl % h.blkSize == 0 && decide (h.n / h.blkSize ≤ mvl .e8m0 h.nregs)

/-- One block of VQNT: its scale, the results of its active elements, its flags, and whether it rounded (R209). The elements of a block
that holds a NaN or an infinity draw no stochastic word (DESIGN CHOICE, log 68: R88 counts the elements that pass through the quantisation,
and the spec does not say whether these do). -/
def quantBlock (dt : Tag) (emax : Int) (m : RMode) (seed : BitVec 32) (es : List (Nat × Exact)) :
    Nat × Writes × Flags × Bool :=
  if es.any (fun e => e.2.isNan || e.2.isInf) then (0xFF, es.map (fun e => (e.1, 0)), fNV, false)
  else
    let sc : Int := match maxIlog (es.map (·.2)) with
      | none => 127
      | some l => min 254 (max 0 (l - emax + 127))
    let rs := es.map (fun e => (e.1, deliver dt m true (drawWord seed e.1) (.real (e.2.scale (127 - sc)))))
    (sc.toNat, rs.map (fun r => (r.1, r.2.1)), rs.foldl (fun f r => f ||| r.2.2) 0, true)

/-- VQNT (R209). -/
def execVqnt (g : Hdr) (vd va vs : VReg) (rnd : BitVec 2) (s : State) : Host.Outcome State Fault Refusal :=
  vecIssue (.vqnt g vd va vs rnd) g { regs := [vd.toNat, va.toNat, vs.toNat], dst := [vd.toNat, vs.toNat] }
    (fun s => s.hart.lenOk [vd.toNat, va.toNat] && isWide (s.hart.tag va.toNat)
      && (emaxOf (s.hart.tag vd.toNat)).isSome && s.hart.scaleOk vs.toNat)
    (fun s =>
      let h := s.hart
      let st := h.tag va.toNat
      let dt := h.tag vd.toNat
      let m := h.rmode rnd
      let src := h.vstr va.toNat
      let es := h.actives g h.n
      let s := s.touchV va.toNat (tagWidth st) es
      if es.any (badAt (tagWidth st) (h.vpoiStr va.toNat)) then wordTrap .poison (.vqnt g vd va vs rnd) s
      else
        let bs := (List.range (h.n / h.blkSize)).filterMap (fun b =>
          let mine := ((List.range h.blkSize).map (b * h.blkSize + ·)).filter (h.takes g)
          if mine.isEmpty then none
          else some (b, quantBlock dt ((emaxOf dt).getD 0) m h.seed
            (mine.map (fun e => (e, (tagValue st (elemAt (tagWidth st) src e)).exact)))))
        vdone (((s.upd (fun h =>
            (h.writeElems vd.toNat (tagWidth dt) (bs.flatMap (fun b => b.2.2.1))).writeElems vs.toNat 8
              (bs.map (fun b => (b.1, b.2.1))))).raise (bs.foldl (fun f b => f ||| b.2.2.2.1) 0)).advanceSeed
          (m == .sr && bs.any (fun b => b.2.2.2.2)))) s

/-- An element times the factor of a scale (R79, R210). -/
def scaled (x : Exact) (code : Nat) : Exact := if code = 0xFF then .nan else x.scale ((code : Int) - 127)

/-- VDQNT (R210). -/
def execVdqnt (g : Hdr) (vd va vs : VReg) (sat : Bool) (rnd : BitVec 2) (s : State) : Host.Outcome State Fault Refusal :=
  vecIssue (.vdqnt g vd va vs sat rnd) g { regs := [vd.toNat, va.toNat, vs.toNat] }
    (fun s => s.hart.lenOk [vd.toNat, va.toNat] && (s.hart.tag vd.toNat).isArith
      && (emaxOf (s.hart.tag va.toNat)).isSome && s.hart.scaleOk vs.toNat)
    (fun s =>
      let h := s.hart
      let st := h.tag va.toNat
      let dt := h.tag vd.toNat
      let m := h.rmode rnd
      let src := h.vstr va.toNat
      let sc := h.vstr vs.toNat
      let es := h.actives g h.n
      let s := (s.touchV va.toNat (tagWidth st) es).touchV vs.toNat 8 (es.map (· / h.blkSize))
      runElems (.vdqnt g vd va vs sat rnd) g
        { vd := vd.toNat, w := tagWidth dt
          bad := fun e => badAt (tagWidth st) (h.vpoiStr va.toNat) e || badAt 8 (h.vpoiStr vs.toNat) (e / h.blkSize)
          f := fun e => deliver dt m sat (drawWord h.seed e)
            (.real (scaled (tagValue st (elemAt (tagWidth st) src e)).exact (elemAt 8 sc (e / h.blkSize))))
          stop := true, draws := m == .sr } s) s

end Sys2Proof.Machine
end

