-- ==== Sys2Proof/Machine/VMem.lean ====
section
/-! DEFINITION. Vector loads and stores (R258 to R265), and their non-blocking forms (R306). -/

namespace Sys2Proof.Machine
open Sys2Proof

/-! ## Elements in memory -/

/-- The field of a register that element `e` of width `w` lies in: a block of an SX tag is wider than 64 bits. -/
def fieldIx (w e : Nat) : Nat := if 64 < w then e / 32 else e
/-- The alignment of an element (R258): none for blocks and for elements below a byte. -/
def alignOf (w : Nat) : Nat := if 64 < w ∨ w % 8 ≠ 0 then 1 else w / 8
/-- The bytes that an element touches. -/
def NbElem.len (w : Nat) (x : NbElem) : Nat := (x.bit + w + 7) / 8

/-- A span cut at the lines of 128 bytes, into at most `fuel` + 1 pieces: a page in transit changes its place at a line (R350). -/
def lineSpans : Nat → Word → Nat → List (Word × Nat)
  | 0, va, n => [(va, n)]
  | fuel + 1, va, n =>
    let k := 128 - va.toNat % 128
    if n ≤ k then [(va, n)] else (va, k) :: lineSpans fuel (va + BitVec.ofNat 64 k) (n - k)
/-- The spans of `n` bytes, each within one line, and so within one page. -/
def pageSpans (va : Word) (n : Nat) : List (Word × Nat) := lineSpans (n / 128 + 1) va n

/-- Locates every span of an element. -/
def State.locateAll (s : State) (r : Req) (k : Kind) : List (Word × Nat) → Except MemFault (List (Place × Nat)) × State
  | [] => (.ok [], s)
  | (va, n) :: t =>
    match s.locate r k va n with
    | (.error f, s) => (.error f, s)
    | (.ok p, s) =>
      match s.locateAll r k t with
      | (.error f, s) => (.error f, s)
      | (.ok ps, s) => (.ok ((p, n) :: ps), s)

/-- Reads the located spans of an element as one value, with its poison. -/
def State.readAll (s : State) (r : Req) : List (Place × Nat) → (Nat × Bool) × State
  | [] => ((0, false), s)
  | (p, n) :: t =>
    let (v, s) := s.readAt r p n
    let (u, s) := s.readAll r t
    ((v.1 + 2 ^ (8 * n) * u.1, v.2 || u.2), s)

/-- Writes a value over the located spans of an element. -/
def State.writeAll (s : State) (r : Req) (v : Nat) : List (Place × Nat) → State
  | [] => s
  | (p, n) :: t => (s.writeAt r p n (v % 2 ^ (8 * n))).writeAll r (v / 2 ^ (8 * n)) t

/-! ## Window reads (R251) -/

/-- Whether a window covers an address. -/
def Win.covers (w : Win) (va : Word) : Bool := decide (w.base.toNat ≤ va.toNat ∧ va.toNat < w.base.toNat + w.len.toNat)
/-- The moment `t0` of an address that lies in an open window of the hart (R252). -/
def Hart.windowSince (h : Hart) (va : Word) : Option Nat :=
  ((h.win.toList.filterMap id).filter (fun w => w.covers va)).map (·.since) |>.max?
/-- The pod line of a place in the HBM of a die other than `die`. -/
def State.remoteLine (s : State) (die : Nat) : Place → Option Nat
  | .here pa => if regionOf pa = .hbm ∧ paDie pa ≠ die then some ((s.pkg.toNat * 2 ^ 45 + pa) / 128) else none
  | .away pod => if pod / 2 ^ 41 % 16 < 8 ∧ pod % 2 ^ 41 < 0x2000000000 then some (pod / 128) else none
/-- The copy of a pod line that serves a window read whose `t0` is given: the copy that the window ways hold when it is of `t0`
or later, else the line as its home holds it now, placed as a copy (R251, R252). -/
def State.copyOf (s : State) (r : Req) (t0 line : Nat) (home : Place) : Copy × State :=
  match s.copies.find? (fun c => c.die == r.die && c.tenant == r.tenant && c.line == line && decide (t0 ≤ c.at_)) with
  | some c =>
    let c := { c with evp := r.evp, age := s.tick }
    (c, s.putCopy c)
  | none =>
    let (v, s) := s.readAt r home 128
    let poi : BitVec 16 := match home with
      | .here pa => (List.range 16).foldl (fun p i => if s.poisonedAt (pa + 8 * i) 8 then setBit p i else p) 0
      | .away _ => if v.2 then BitVec.allOnes 16 else 0
    let c : Copy := ⟨r.die, r.tenant, line, r.evp, s.tick, s.tick, v.1, poi⟩
    (c, s.putCopy c)
/-- A place moved on by `n` bytes, or back to the start of its line. -/
def Place.add (p : Place) (n : Nat) : Place := match p with | .here a => .here (a + n) | .away a => .away (a + n)
def Place.lineStart (p : Place) : Place := match p with | .here a => .here (a / 128 * 128) | .away a => .away (a / 128 * 128)
def Place.inLine (p : Place) : Nat := match p with | .here a => a % 128 | .away a => a % 128
/-- Bytes of a copy, with their poison. -/
def Copy.read (c : Copy) (off n : Nat) : Nat × Bool :=
  (c.data / 2 ^ (8 * off) % 2 ^ (8 * n), (List.range 16).any (fun i => c.poi.getLsbD i && decide (8 * i < off + n ∧ off < 8 * i + 8)))
/-- A window read of `n` bytes at a place, line by line (at most `fuel` lines). -/
def State.readCopy (r : Req) (t0 : Nat) : Nat → Place → Nat → State → (Nat × Bool) × State
  | 0, _, _, s => ((0, false), s)
  | fuel + 1, p, n, s =>
    let k := min n (128 - p.inLine)
    match s.remoteLine r.die p with
    | none => s.readAt r p n
    | some l =>
      let (c, s) := s.copyOf r t0 l p.lineStart
      let v := c.read p.inLine k
      if n ≤ k then (v, s)
      else
        let (w, s) := State.readCopy r t0 fuel (p.add k) (n - k) s
        ((v.1 + 2 ^ (8 * k) * w.1, v.2 || w.2), s)
/-- Where a piece of an element is read: at its home, or from a copy of its line that the window ways hold, at an offset. -/
inductive Src where
  | home (p : Place)
  | copy (c : Copy) (off : Nat)
deriving DecidableEq, Repr

/-- The copy that serves a window read of an address, and the offset in it (R251): its page is translated, and its home has no part in
the read. -/
def State.windowHit (s : State) (r : Req) (t0 : Nat) (va : Word) : Option (Copy × Nat) × State :=
  match s.translate r .read va with
  | (.error _, _) => (none, s)
  | (.ok pod, s) =>
    let p : Place := if pod / 2 ^ 45 = s.pkg.toNat then .here (s.redirect (pod % 2 ^ 45)) else .away pod
    match s.remoteLine r.die p with
    | none => (none, s)
    | some l => ((s.copies.find? (fun c => c.die == r.die && c.tenant == r.tenant && c.line == l && decide (t0 ≤ c.at_))).map (fun c =>
        (c, p.inLine)), s)

/-- Locates every span of an element; `t0` says that it may be a window read (R251): a hit is served where it is, and the usual
checks are those of a miss. -/
def State.locateSrcs (s : State) (r : Req) (t0 : Option Nat) : List (Word × Nat) → Except MemFault (List (Src × Nat)) × State
  | [] => (.ok [], s)
  | (va, n) :: t =>
    let (hit, s) := match t0 with
      | some t0 => s.windowHit r t0 va
      | none => (none, s)
    let (q, s) : Except MemFault Src × State := match hit with
      | some (c, off) => (.ok (.copy c off), s)
      | none => match s.locate r .read va n with
        | (.error f, s) => (.error f, s)
        | (.ok p, s) => (.ok (.home p), s)
    match q with
    | .error f => (.error f, s)
    | .ok q =>
      match s.locateSrcs r t0 t with
      | (.error f, s) => (.error f, s)
      | (.ok qs, s) => (.ok ((q, n) :: qs), s)

/-- Reads located pieces; a miss of a window read places a copy when the window ways have a place for it. -/
def State.readSrcs (s : State) (r : Req) (t0 : Option Nat) : List (Src × Nat) → (Nat × Bool) × State
  | [] => ((0, false), s)
  | (q, n) :: t =>
    let (v, s) := match q, t0 with
      | .copy c off, _ => (c.read off n, s.putCopy { c with evp := r.evp, age := s.tick })
      | .home p, some t => if (s.die r.die).wfrac = 0 then s.readAt r p n else State.readCopy r t (n / 128 + 2) p n s
      | .home p, none => s.readAt r p n
    let (w, s) := s.readSrcs r t0 t
    ((v.1 + 2 ^ (8 * n) * w.1, v.2 || w.2), s)
/-- The HBM line that a read touched, when it may be marked for last use (R248). -/
def lineOf (p : Place) : Option Nat :=
  match p with
  | .here pa => if regionOf pa = .hbm then some (pa / 128) else none
  | .away _ => none

/-! ## Single elements -/

/-- What a loaded element brought: its value, its poison, and the lines that it touched at their homes, each under its virtual line
number. -/
structure Loaded where
  v     : Nat
  bad   : Bool
  lines : List (Nat × Nat)
deriving DecidableEq, Repr

/-- Loads one element of `w` bits (R258, R263); `win` lets it be a window read. -/
def State.loadElem (s : State) (r : Req) (win : Bool) (w : Nat) (x : NbElem) : Except MemFault Loaded × State :=
  if x.va.toNat % alignOf w ≠ 0 then (.error { cause := .misaligned, addr := x.va }, s)
  else
    let t0 := if win then s.hart.windowSince x.va else none
    match s.locateSrcs r t0 (pageSpans x.va (x.len w)) with
    | (.error f, s) => (.error f, s)
    | (.ok qs, s) =>
      let (v, s) := s.readSrcs r t0 qs
      let lines := (qs.zip (pageSpans x.va (x.len w))).filterMap (fun q => match q.1.1 with
        | .copy _ _ => none
        | .home p => if t0.isSome && (s.remoteLine r.die p).isSome then none else (lineOf p).map (fun l => (q.2.1.toNat / 128, l)))
      (.ok ⟨v.1 / 2 ^ x.bit % 2 ^ w, v.2, lines⟩, s)

/-- Stores one element of `w` bits (R258, R263): only its own bits change. -/
def State.storeElem (s : State) (r : Req) (w : Nat) (x : NbElem) : Except MemFault Unit × State :=
  if x.va.toNat % alignOf w ≠ 0 then (.error { cause := .misaligned, addr := x.va }, s)
  else match s.locateAll r .write (pageSpans x.va (x.len w)) with
    | (.error f, s) => (.error f, s)
    | (.ok ps, s) =>
      if w % 8 = 0 then (.ok (), s.writeAll r x.data ps)
      else
        let (v, s) := s.readAll r ps
        let low := v.1 % 2 ^ x.bit
        let high := v.1 / 2 ^ (x.bit + w) * 2 ^ (x.bit + w)
        (.ok (), s.writeAll r (low + x.data * 2 ^ x.bit + high) ps)

/-! ## Running the elements of a blocking instruction (R259, R352, R353) -/

/-- What a blocking instruction did with its elements. -/
structure VRun where
  done : List (NbElem × Loaded)
  left : List (NbElem × Option MemFault)    -- not done: faulted, or held by an earlier one

/-- The virtual bytes that an element touches. -/
def NbElem.span (w : Nat) (x : NbElem) : List (Word × Nat) := [(x.va, x.len w)]
/-- Whether two sets of virtual bytes share a byte: by their virtual addresses, or by two virtual addresses of one byte (R296). -/
def State.sharesByte (s : State) (r : Req) (xs : List (Word × Nat)) (q : Req) (ys : List (Word × Nat)) : Bool :=
  xs.any (fun x => ys.any (fun y => decide (y.1.toNat < x.1.toNat + x.2 ∧ x.1.toNat < y.1.toNat + y.2))
    || (pageSpans x.1 x.2).any (fun (va, n) => match s.imagePod r va with
      | some pod => s.aliased q pod n ys
      | none => false))

/-- Performs the elements in ascending order; one that shares a byte with an earlier element not done is held (R258, R328, R352). `bytes`
gives the virtual bytes of an element. -/
def runSpans (acc : NbElem → State → Except MemFault Loaded × State) (bytes : NbElem → List (Word × Nat)) :
    List NbElem → VRun → State → VRun × State
  | [], v, s => (⟨v.done.reverse, v.left.reverse⟩, s)
  | x :: xs, v, s =>
    if v.left.any (fun y => s.sharesByte (s.req .vector) (bytes x) (s.req .vector) (bytes y.1)) then
      runSpans acc bytes xs { v with left := (x, none) :: v.left } s
    else match acc x s with
      | (.ok l, s) => runSpans acc bytes xs { v with done := (x, l) :: v.done } s
      | (.error f, s) => runSpans acc bytes xs { v with left := (x, some f) :: v.left } s
/-- The same for elements that lie at their own addresses. -/
def runEach (acc : NbElem → State → Except MemFault Loaded × State) (w : Nat) (es : List NbElem) (v : VRun) (s : State) : VRun × State :=
  runSpans acc (NbElem.span w) es v s

/-- The distinct entries of a page batch, at most eight (R353). -/
def batchOf : List Word → List Word → List Word
  | [], acc => (acc.reverse).take 8
  | b :: bs, acc => if acc.any (fun a => a.extractLsb' 16 41 == b.extractLsb' 16 41) then batchOf bs acc else batchOf bs (b :: acc)

/-- The trap of a vector instruction that stopped on faults: the lowest-indexed one is reported, with the pages of all
elements that faulted in translation (R259, R352, R353). -/
def vecFault (left : List (NbElem × Option MemFault)) (marks : List Nat) (s : State) : Eff :=
  match left.filterMap (·.2) with
  | [] => vdone s
  | f :: fs =>
    let fb := if f.cause = .pageFault then batchOf ((f :: fs).flatMap (fun x => if x.cause = .pageFault then x.fb else [])) [] else []
    .trap { cause := f.cause, epc := s.hart.pc, val := f.addr, npg := fb.length, vec := true, fb := fb }
      (s.upd (fun h => { h with fm := maskOf marks, vstart := BitVec.ofNat 15 (lowest marks) }))

/-- The elements that stand for a list of accesses: all active elements of a block of an SX tag, else the element. -/
def Hart.expand (h : Hart) (g : Hdr) (w : Nat) (es : List Nat) : List Nat :=
  if 64 < w then (es.flatMap (fun e => (List.range 32).map (e + ·))).filter (h.takes g) else es

/-- Whether an element's fault is ambiguous: it counts as complete (R330). -/
def settled (x : NbElem × Option MemFault) : Bool :=
  match x.2 with
  | some f => f.amb
  | none => false

/-- The end of a blocking vector access: complete, stopped on a fault, or stopped from outside with `rest` not begun. DESIGN CHOICE (log 85): an
element that ended ambiguous is complete, and is not reported, when a lower one has another fault. -/
def vmEnd (g : Hdr) (w : Nat) (left : List (NbElem × Option MemFault)) (rest : List NbElem) (stopped : Bool) (s : State) : Eff :=
  let marks := s.hart.expand g w ((left.filter (fun x => !settled x)).map (·.1.e) ++ rest.map (·.e))
  if !left.isEmpty then vecFault left marks s
  else if stopped then stopInside marks s
  else vdone s

/-- Writes loaded elements: values with their poison (R259). -/
def Hart.loadWrites (h : Hart) (v w : Nat) (ws : List (Nat × Nat × Bool)) : Hart :=
  if ws.isEmpty then h
  else (h.putStr v (applyWrites w (h.vstr v) (ws.map (fun x => (x.1, x.2.1))))
    (if h.vpoi = 0 ∧ ws.all (fun x => !x.2.2) then 0
     else applyWrites w (h.vpoiStr v) (ws.map (fun x => (x.1, if x.2.2 then 2 ^ w - 1 else 0))))).freshen
       (inFields (v * h.regBits) w (ws.map (·.1)))

/-- Drops lines for last use, but for those in which elements are not done yet (R248). -/
def State.lastUses (s : State) (w : Nat) (done : List (NbElem × Loaded)) (left : List NbElem) : State :=
  let keep (l : Nat × Nat) : Bool := left.any (fun y => decide (y.va.toNat / 128 ≤ l.1 ∧ l.1 ≤ (y.va.toNat + y.len w - 1) / 128))
  (((done.flatMap (·.2.lines)).filter (fun l => !keep l)).map (·.2)).eraseDups.foldl (fun s l => s.lastUse l) s

/-- How many elements run before a trap from outside stops the instruction, and whether it does. -/
def cutAt (h : Hart) (es : List NbElem) : List NbElem × List NbElem × Bool :=
  match h.stopsAfter es.length with
  | some k => (es.take k, es.drop k, true)
  | none => (es, [], false)

/-- Runs a blocking load of the listed elements into a register. -/
def runLoads (g : Hdr) (vd w : Nat) (evp : BitVec 2) (lu : Bool) (es : List NbElem) (s : State) : Eff :=
  let (now, rest, stopped) := cutAt s.hart es
  let (v, s) := runEach (fun x s => s.loadElem (s.req .vector evp) true w x) w now ⟨[], []⟩ s
  let s := s.upd (fun h => h.loadWrites vd w (v.done.map (fun d => (fieldIx w d.1.e, d.2.v, d.2.bad))))
  let s := if lu then s.lastUses w v.done (v.left.map (·.1) ++ rest) else s
  vmEnd g w v.left rest stopped s

/-- Runs a blocking store of the listed elements. -/
def runStores (g : Hdr) (w : Nat) (evp : BitVec 2) (es : List NbElem) (s : State) : Eff :=
  let (now, rest, stopped) := cutAt s.hart es
  let (v, s) := runEach (fun x s =>
      match s.storeElem (s.req .vector evp) w x with
      | (.ok _, s) => (.ok ⟨0, false, []⟩, s)
      | (.error f, s) => (.error f, s)) w now ⟨[], []⟩ s
  vmEnd g w v.left rest stopped s

/-! ## Non-blocking instructions (R306) -/

/-- Whether the non-blocking queue is full (R295). -/
def Hart.nbFull (h : Hart) : Bool := decide (Config.nbDepth ≤ h.nbQ.length)
/-- Puts an instruction into the non-blocking queue; a full one makes it wait. -/
def enqueueNb (o : NbOp) (s : State) : Eff :=
  if s.hart.nbFull then .wait s else vdone (s.upd (fun h => { h with nbQ := h.nbQ ++ [o] }))
/-- A non-blocking instruction of the hart in focus. -/
def nbOf (i : Instr) (kind : NbKind) (vd w : Nat) (t : VmTail) (es : List NbElem) (s : State) : NbOp :=
  { word := encode i, kind := kind, vd := vd, size := w, signed := false, ord := 0, tc := t.tc, evp := t.evp, lu := t.lu
    mode := s.hart.mode, tenant := s.hart.tenant, launch := s.hart.launch, todo := es, bad := [], halt := false }

/-- Bits of an element, or of a block. -/
def memBits (t : Tag) : Nat := if t.isBlock then tagBlockBits t else tagWidth t
/-- What a poisoned operand of a VM instruction does: a non-blocking one enters the queue, which it will halt (R306); any other
raises POISON. -/
def vmBad (i : Instr) (g : Hdr) (kind : NbKind) (vd : VReg) (t : VmTail) (s : State) : Eff :=
  if t.nb then enqueueNb { nbOf i kind vd.toNat (memBits (s.hart.tag vd.toNat)) t
    ((s.hart.actives g s.hart.n).map (fun e => ({ e := e, va := 0 } : NbElem))) s with poison := true } s
  else wordTrap .poison i s

/-! ## Addresses (R263) -/

/-- The elements of a tile that a load or store moves: each active element, or, under an SX tag, each block whose first
element is active (R258). -/
def Hart.moved (h : Hart) (g : Hdr) (t : Tag) : List Nat :=
  if t.isBlock then ((List.range (h.n / 32)).map (32 * ·)).filter (h.takes g) else h.actives g h.n

/-- The place of element `e`: `start` is the address of its row (or of the tile), `k` its index from there. -/
def placed (t : Tag) (start : Word) (e k : Nat) : NbElem :=
  let bit := if t.isBlock then k / 32 * tagBlockBits t else k * tagWidth t
  { e := e, va := start + BitVec.ofNat 64 (bit / 8), bit := bit % 8 }

/-- Unit-stride addresses: the whole tile, or rows with a pitch (R263). -/
def Hart.unitElems (h : Hart) (g : Hdr) (t : Tag) (b : Word) (pitch : Option Word) : List NbElem :=
  (h.moved g t).map (fun e => match pitch with
    | none => placed t b e e
    | some p => placed t (b + BitVec.ofNat 64 (e / h.vl) * p) e (e % h.vl))
/-- Strided addresses. -/
def Hart.strideElems (h : Hart) (g : Hdr) (b stride : Word) : List NbElem :=
  (h.actives g h.n).map (fun e => { e := e, va := b + BitVec.ofNat 64 e * stride })
/-- The direct address of the first scratchpad slot of the hart's cluster (R245). -/
def State.clusterBase (s : State) : Nat :=
  s.pkg.toNat * 2 ^ 45 + hidDie s.hart.hid * 2 ^ 41 + 0x10000000000
    + 2 ^ 23 * (if s.hart.isCompute then hidCluster s.hart.hid else 0)
/-- Indexed addresses; `base` is the address that the scaled index is added to. -/
def Hart.indexElems (h : Hart) (g : Hdr) (base : Word) (vb : VReg) (sc : BitVec 2) : List NbElem :=
  let t := h.tag vb.toNat
  let bits := h.vstr vb.toNat
  (h.actives g h.n).map (fun e =>
    { e := e, va := base + BitVec.ofInt 64 (indexVal t (elemAt (tagWidth t) bits e)) * BitVec.ofNat 64 (2 ^ sc.toNat) })

/-- The tags that strided and indexed accesses take (R258). -/
def Tag.isByte (t : Tag) : Bool := t != .none && !t.isBlock && tagWidth t % 8 == 0
/-- The conditions of VLD and VST on the tag (R258). -/
def Hart.unitOk (h : Hart) (v : Nat) (p : Bool) : Bool :=
  let t := h.tag v
  h.lenOk [v] && (!t.isBlock || (if p then h.vl else h.n) % 32 == 0) && (!p || t.isBlock || h.vl * tagWidth t % 8 == 0)

/-- Gives elements the bits of their source register, with their poison. -/
def Hart.withData (h : Hart) (v w : Nat) (es : List NbElem) : List NbElem :=
  let bits := h.vstr v
  let poi := h.vpoiStr v
  es.map (fun x => { x with data := elemAt w bits (fieldIx w x.e), poi := badAt w poi (fieldIx w x.e) })

/-! ## The instructions -/

/-- A load of located elements, blocking or not. -/
def loadVm (i : Instr) (g : Hdr) (vd : VReg) (t : VmTail) (es : List NbElem) (s : State) : Eff :=
  let w := memBits (s.hart.tag vd.toNat)
  if t.nb then enqueueNb (nbOf i .load vd.toNat w t es s) s else runLoads g vd.toNat w t.evp t.lu es s
/-- A store of located elements, blocking or not; a poisoned source stops a blocking one before any element (R259). -/
def storeVm (i : Instr) (g : Hdr) (vs : VReg) (t : VmTail) (es : List NbElem) (s : State) : Eff :=
  let w := memBits (s.hart.tag vs.toNat)
  let s := s.touchV vs.toNat w (es.map (fun x => fieldIx w x.e))
  let es := s.hart.withData vs.toNat w es
  if t.nb then enqueueNb (nbOf i .store vs.toNat w t es s) s
  else if es.any (·.poi) then wordTrap .poison i s
  else runStores g w t.evp es s

/-- VLD (R263). -/
def execVld (g : Hdr) (vd : VReg) (xa : XReg) (t : VmTail) (s : State) : Host.Outcome State Fault Refusal :=
  vecIssue (.vld g vd xa t) g
    { regs := [vd.toNat], xs := [xa], tk := vmToken t, always := t.nb,
      bad := some (vmBad (.vld g vd xa t) g .load vd t) } (fun s => s.hart.unitOk vd.toNat false)
    (fun s => loadVm (.vld g vd xa t) g vd t (s.hart.unitElems g (s.hart.tag vd.toNat) (s.x xa) none) s) s
/-- VLD.p (R263). -/
def execVldP (g : Hdr) (vd : VReg) (xa xb : XReg) (t : VmTail) (s : State) : Host.Outcome State Fault Refusal :=
  vecIssue (.vldP g vd xa xb t) g
    { regs := [vd.toNat], xs := [xa, xb], tk := vmToken t, always := t.nb,
      bad := some (vmBad (.vldP g vd xa xb t) g .load vd t) }
    (fun s => s.hart.unitOk vd.toNat true)
    (fun s => loadVm (.vldP g vd xa xb t) g vd t
      (s.hart.unitElems g (s.hart.tag vd.toNat) (s.x xa) (some (s.x xb))) s) s
/-- VLDS (R263). -/
def execVlds (g : Hdr) (vd : VReg) (xa xb : XReg) (t : VmTail) (s : State) : Host.Outcome State Fault Refusal :=
  vecIssue (.vlds g vd xa xb t) g
    { regs := [vd.toNat], xs := [xa, xb], tk := vmToken t, always := t.nb,
      bad := some (vmBad (.vlds g vd xa xb t) g .load vd t) }
    (fun s => s.hart.lenOk [vd.toNat] && Tag.isByte (s.hart.tag vd.toNat))
    (fun s => loadVm (.vlds g vd xa xb t) g vd t (s.hart.strideElems g (s.x xa) (s.x xb)) s) s
/-- VST (R263). -/
def execVst (g : Hdr) (vs : VReg) (xa : XReg) (t : VmTail) (s : State) : Host.Outcome State Fault Refusal :=
  vecIssue (.vst g vs xa t) g
    { regs := [vs.toNat], dst := [], xs := [xa], tk := vmToken t, always := t.nb,
      bad := some (vmBad (.vst g vs xa t) g .store vs t) } (fun s => s.hart.unitOk vs.toNat false)
    (fun s => storeVm (.vst g vs xa t) g vs t (s.hart.unitElems g (s.hart.tag vs.toNat) (s.x xa) none) s) s
/-- VST.p (R263). -/
def execVstP (g : Hdr) (vs : VReg) (xa xb : XReg) (t : VmTail) (s : State) : Host.Outcome State Fault Refusal :=
  vecIssue (.vstP g vs xa xb t) g
    { regs := [vs.toNat], dst := [], xs := [xa, xb], tk := vmToken t, always := t.nb,
      bad := some (vmBad (.vstP g vs xa xb t) g .store vs t) }
    (fun s => s.hart.unitOk vs.toNat true)
    (fun s => storeVm (.vstP g vs xa xb t) g vs t
      (s.hart.unitElems g (s.hart.tag vs.toNat) (s.x xa) (some (s.x xb))) s) s
/-- VSTS (R263). -/
def execVsts (g : Hdr) (vs : VReg) (xa xb : XReg) (t : VmTail) (s : State) : Host.Outcome State Fault Refusal :=
  vecIssue (.vsts g vs xa xb t) g
    { regs := [vs.toNat], dst := [], xs := [xa, xb], tk := vmToken t, always := t.nb,
      bad := some (vmBad (.vsts g vs xa xb t) g .store vs t) }
    (fun s => s.hart.lenOk [vs.toNat] && Tag.isByte (s.hart.tag vs.toNat))
    (fun s => storeVm (.vsts g vs xa xb t) g vs t (s.hart.strideElems g (s.x xa) (s.x xb)) s) s

/-- The checks of an indexed access (R258, R263). -/
def indexOk (v vb : VReg) (s : State) : Bool :=
  s.hart.lenOk [v.toNat, vb.toNat] && Tag.isByte (s.hart.tag v.toNat) && Tag.isIndex (s.hart.tag vb.toNat)

/-- Runs a body after the index elements were read; a poisoned one does what a poisoned operand does (R163, R306). -/
def readingIndex (bad : State → Eff) (g : Hdr) (vb : VReg) (body : State → Eff) (s : State) : Eff :=
  let w := tagWidth (s.hart.tag vb.toNat)
  let es := s.hart.actives g s.hart.n
  let s := s.touchV vb.toNat w es
  if es.any (badAt w (s.hart.vpoiStr vb.toNat)) then bad s else body s
/-- VGTH (R263). -/
def execVgth (g : Hdr) (vd : VReg) (xa : XReg) (vb : VReg) (sc : BitVec 2) (t : VmTail) (s : State) :
    Host.Outcome State Fault Refusal :=
  vecIssue (.vgth g vd xa vb sc t) g
    { regs := [vd.toNat, vb.toNat], xs := [xa], tk := vmToken t, always := t.nb,
      bad := some (vmBad (.vgth g vd xa vb sc t) g .load vd t) } (indexOk vd vb)
    (readingIndex (vmBad (.vgth g vd xa vb sc t) g .load vd t) g vb (fun s =>
      loadVm (.vgth g vd xa vb sc t) g vd t (s.hart.indexElems g (s.x xa) vb sc) s)) s
/-- VSCT (R263). -/
def execVsct (g : Hdr) (vs : VReg) (xa : XReg) (vb : VReg) (sc : BitVec 2) (t : VmTail) (s : State) :
    Host.Outcome State Fault Refusal :=
  vecIssue (.vsct g vs xa vb sc t) g
    { regs := [vs.toNat, vb.toNat], dst := [], xs := [xa], tk := vmToken t, always := t.nb,
      bad := some (vmBad (.vsct g vs xa vb sc t) g .store vs t) } (indexOk vs vb)
    (readingIndex (vmBad (.vsct g vs xa vb sc t) g .store vs t) g vb (fun s =>
      storeVm (.vsct g vs xa vb sc t) g vs t (s.hart.indexElems g (s.x xa) vb sc) s)) s

/-- The base of a cluster-spanning access: CB + B (R245). -/
def State.clBase (s : State) (xa : XReg) : Word := BitVec.ofNat 64 s.clusterBase + s.x xa
/-- Marks the elements outside the 8 MiB of the cluster with an address that faults (R245): bit 56 lies beyond every
direct address, and the fault names the element's own address. -/
def State.inCluster (s : State) (va : Word) : Bool :=
  decide (s.clusterBase ≤ va.toNat ∧ va.toNat < s.clusterBase + 2 ^ 23)

/-- An access of a cluster-spanning form: outside the cluster it raises ACCESS_FAULT (R245). -/
def clGuard {α : Type} (w : Nat) (x : NbElem) (f : State → Except MemFault α × State) (s : State) : Except MemFault α × State :=
  if x.va.toNat % alignOf w = 0 ∧ !s.inCluster x.va then (.error { cause := .accessFault, addr := x.va }, s) else f s

/-- The owning core of an element of a cluster-spanning form, by its address (R245). -/
def State.packetOf (s : State) (va : Word) : Nat := (va.toNat - s.clusterBase) / 2 ^ 21
/-- Where a trap from outside cuts a cluster-spanning form: the packets of which an element lies among the first ones are performed
whole, the others not at all (R245). -/
def State.cutPackets (s : State) (es : List NbElem) : List NbElem × List NbElem × Bool :=
  match s.hart.stopsAfter es.length with
  | none => (es, [], false)
  | some k =>
    let now := (es.take k).map (fun x => s.packetOf x.va)
    (es.filter (fun x => now.contains (s.packetOf x.va)), es.filter (fun x => !now.contains (s.packetOf x.va)), true)

/-- VGTH.cl (R245, R263). -/
def execVgthCl (g : Hdr) (vd : VReg) (xa : XReg) (vb : VReg) (sc : BitVec 2) (t : VmTail) (s : State) :
    Host.Outcome State Fault Refusal :=
  vecIssue (.vgthCl g vd xa vb sc t) g
    { regs := [vd.toNat, vb.toNat], xs := [xa], tk := vmToken t, always := t.nb,
      bad := some (vmBad (.vgthCl g vd xa vb sc t) g .load vd t) } (indexOk vd vb)
    (readingIndex (vmBad (.vgthCl g vd xa vb sc t) g .load vd t) g vb (fun s =>
      let w := tagWidth (s.hart.tag vd.toNat)
      let es := s.hart.indexElems g (s.clBase xa) vb sc
      if t.nb then enqueueNb { nbOf (.vgthCl g vd xa vb sc t) .load vd.toNat w t es s with cl := true } s
      else
        let (now, rest, stopped) := s.cutPackets es
        let (v, s) := runEach (fun x => clGuard w x (fun s => s.loadElem (s.req .vector t.evp) true w x)) w now ⟨[], []⟩ s
        let s := s.upd (fun h => h.loadWrites vd.toNat w (v.done.map (fun d => (d.1.e, d.2.v, d.2.bad))))
        vmEnd g w v.left rest stopped s)) s
/-- VSCT.cl (R245, R263). -/
def execVsctCl (g : Hdr) (vs : VReg) (xa : XReg) (vb : VReg) (sc : BitVec 2) (t : VmTail) (s : State) :
    Host.Outcome State Fault Refusal :=
  vecIssue (.vsctCl g vs xa vb sc t) g
    { regs := [vs.toNat, vb.toNat], dst := [], xs := [xa], tk := vmToken t, always := t.nb,
      bad := some (vmBad (.vsctCl g vs xa vb sc t) g .store vs t) } (indexOk vs vb)
    (readingIndex (vmBad (.vsctCl g vs xa vb sc t) g .store vs t) g vb (fun s =>
      let w := tagWidth (s.hart.tag vs.toNat)
      let es := s.hart.indexElems g (s.clBase xa) vb sc
      let s := s.touchV vs.toNat w (es.map (·.e))
      let es := s.hart.withData vs.toNat w es
      if t.nb then enqueueNb { nbOf (.vsctCl g vs xa vb sc t) .store vs.toNat w t es s with cl := true } s
      else if es.any (·.poi) then wordTrap .poison (.vsctCl g vs xa vb sc t) s
      else
        let (now, rest, stopped) := s.cutPackets es
        let (v, s) := runEach (fun x => clGuard w x (fun s =>
          match s.storeElem (s.req .vector t.evp) w x with
          | (.ok _, s) => (.ok ⟨0, false, []⟩, s)
          | (.error f, s) => (.error f, s))) w now ⟨[], []⟩ s
        vmEnd g w v.left rest stopped s)) s

/-- The refill elements of VLDW (R264). -/
def Hart.refill (h : Hart) (g : Hdr) (b : Word) (w k : Nat) : List NbElem :=
  ((h.actives g h.n).filter (fun e => decide (h.n - k ≤ e))).map (fun e =>
    { e := e, va := b + BitVec.ofNat 64 ((e - (h.n - k)) * (w / 8)) })
/-- VLDW (R264): the slide, as one step, and then the refill; a reissue has only the refill left. -/
def execVldw (g : Hdr) (vd : VReg) (xa xb : XReg) (t : VmTail) (s : State) : Host.Outcome State Fault Refusal :=
  vecIssue (.vldw g vd xa xb t) g { regs := [vd.toNat], xs := [xa, xb], tk := vmToken t }
    (fun s => s.hart.lenOk [vd.toNat] && Tag.isByte (s.hart.tag vd.toNat))
    (fun s =>
      let h := s.hart
      let w := tagWidth (h.tag vd.toNat)
      let k := min (s.x xb).toNat h.n
      let slide := if h.reissue then [] else (h.actives g h.n).filter (fun e => decide (e < h.n - k))
      let src := h.vstr vd.toNat
      let s := s.touchV vd.toNat w (slide.map (· + k))
      if slide.any (fun e => badAt w (h.vpoiStr vd.toNat) (e + k)) then wordTrap .poison (.vldw g vd xa xb t) s
      else
        let s := s.upd (fun h => h.writeElems vd.toNat w (slide.map (fun e => (e, elemAt w src (e + k)))))
        runLoads g vd.toNat w t.evp t.lu (s.hart.refill g (s.x xa) w k) s) s

/-! ## PREF (R265) -/

/-- PREF of one line: a line that cannot be reached is skipped. A line of another die that is no window read is ignored with LU = 1
too, by the sentence of R265 that names such lines (DEDUCED, log 67). -/
def State.prefLine (s : State) (evp : BitVec 2) (lu : Bool) (va : Word) : State :=
  let r := s.req .vector evp
  let t0 := s.hart.windowSince va
  match s.locateSrcs r t0 [(va, 128)] with
  | (.error _, s') => { s with tlb := s'.tlb, free := s'.free }
  | (.ok qs, s) =>
    match qs with
    | [(.home p, _)] =>
      if (s.remoteLine r.die p).isSome then (if t0.isSome then (s.readSrcs r t0 qs).2 else s)
      else match lineOf p with
        | some l =>
          let s := s.touchLine r.launch l evp false
          if lu then s.lastUse l else s
        | none => s
    | _ => (s.readSrcs r t0 qs).2

/-- PREF (R265). -/
def execPref (g : Hdr) (xa xb : XReg) (t : VmTail) (s : State) : Host.Outcome State Fault Refusal :=
  vecIssue (.pref g xa xb t) g { regs := [], xs := [xa, xb], whole := true, clears := true } (fun _ => true)
    (fun s =>
      let len := min (s.x xb).toNat (2 ^ 20)
      let a := s.x xa
      vdone ((List.range (lineCountV a len)).foldl (fun s i =>
        s.prefLine t.evp t.lu ((a &&& ~~~127#64) + BitVec.ofNat 64 (128 * i))) s)) s
where
  /-- The lines that `len` bytes from an address touch. -/
  lineCountV (a : Word) (len : Nat) : Nat := if len = 0 then 0 else (a.toNat % 128 + len + 127) / 128

end Sys2Proof.Machine
end

