-- ==== Sys2Proof/Machine/VAtomic.lean ====
section
/-! DEFINITION. Vector atomics (R326 to R328) and multicast stores (R331, R332). -/

namespace Sys2Proof.Machine
open Sys2Proof

/-! ## Vector atomics -/

/-- The new value and the flags of a vector atomic on an element of tag `t` (R327): operation code `op` (0 to 6 of R57, 8 for
VCAS, 9 for VBINC), the operand, and the new value of VCAS. -/
def vatomNew (t : Tag) (op v v2 old : Nat) : Option Nat × Flags :=
  let w := tagWidth t
  let a := tagValue t old
  let b := tagValue t v
  match op with
  | 0 => match t.isInt with
    | true => (some ((old + v) % 2 ^ w), 0)
    | false =>
      let (x, f) := Exact.add false a.exact b.exact
      let (r, g) := deliver t .rne false 0 (.real x)
      (some r, f ||| g)
  | 1 => (some (deliver t .rne false 0 (vMinMax false t false a b b).1).1, 0)
  | 2 => (some (deliver t .rne false 0 (vMinMax true t false a b b).1).1, 0)
  | 3 => (some (old &&& v), 0)
  | 4 => (some (old ||| v), 0)
  | 5 => (some (old ^^^ v), 0)
  | 6 => (some v, 0)
  | 8 => (if old = v then some v2 else none, 0)
  | _ => match a, b with
    | .int i, .int j => (if i < j then some ((old + 1) % 2 ^ w) else none, 0)
    | _, _ => (none, 0)

/-- The tags that an operation accepts (R327). -/
def vatomTag (op : Nat) (t : Tag) : Bool :=
  match t with
  | .si32 | .si64 | .ui32 | .ui64 => true
  | .fp32 | .fp64 => op == 0 || op == 1 || op == 2 || op == 6 || op == 8
  | _ => false

/-- The code of an operation (R57). -/
def aopCode : AOp → Nat
  | .add => 0 | .min => 1 | .max => 2 | .and => 3 | .or => 4 | .xor => 5 | .swap => 6

/-- The atomic access of one element: the old value. -/
def State.atomElem (s : State) (r : Req) (src : Nat) (t : Tag) (op v2 : Nat) (x : NbElem) : Except MemFault Nat × State :=
  let z := tagWidth t / 8
  if x.va.toNat % z ≠ 0 then (.error { cause := .misaligned, addr := x.va }, s)
  else
    match s.atomic r src x.va z (fun old => (vatomNew t op x.data v2 old).1) with
    | (.error f, s) => (.error f, s)
    | (.ok old, s) => (.ok old, s.raise (vatomNew t op x.data v2 old).2)

/-- The source of an element's request (R329): the port of the lane group that owns its address (R347). -/
def elemSrc (hid : BitVec 20) (va : Word) : Nat := atomSrc (hid &&& ~~~3#20) (1 + (va.extractLsb' 16 2).toNat)

/-! ## Multicast elements (R332) -/

/-- Stores an element at every replica base. A fault that leaves a replica undone stands for the element, before one after which it
counts as complete. -/
def State.storeReplicas (s : State) (r : Req) (w : Nat) (x : NbElem) : List Word → Except MemFault Unit × State
  | [] => (.ok (), s)
  | b :: bs =>
    let (q, s) := s.storeElem r w { x with va := b + x.va }
    let (q2, s) := s.storeReplicas r w x bs
    match q, q2 with
    | .ok _, _ => (q2, s)
    | .error f, .error f2 => (.error (if f.amb && !f2.amb then f2 else f), s)
    | .error f, .ok _ => (.error f, s)

/-! ## The non-blocking queue (R245, R296, R306 to R308) -/

/-- The rights of a non-blocking instruction's accesses. -/
def NbOp.req (o : NbOp) (hid : BitVec 20) : Req := ⟨.vector, o.mode, o.tenant, o.launch, coreKey hid, o.evp⟩

/-- The access of one element of a non-blocking instruction of the hart in focus; a load's result, with its poison. -/
def State.nbAccess (s : State) (o : NbOp) (x : NbElem) : Except MemFault (Option (Nat × Bool)) × State :=
  let r := o.req s.hart.hid
  let guarded {α : Type} (f : State → Except MemFault α × State) (s : State) : Except MemFault α × State :=
    if o.cl then clGuard o.size x f s else f s
  match o.kind with
  | .load =>
    match guarded (fun s => s.loadElem r false o.size x) s with
    | (.error f, s) => (.error f, s)
    | (.ok l, s) =>
      (.ok (some (l.v, l.bad)), if o.lu then s.lastUses o.size [(x, l)] (o.todo.filter (fun y => y.e != x.e)) else s)
  | .store =>
    match guarded (fun s => s.storeElem r o.size x) s with
    | (.error f, s) => (.error f, s)
    | (.ok _, s) => (.ok none, s)
  | .atomic op noRet =>
    let t := (Tag.ofCode? (BitVec.ofNat 5 o.ord)).getD .si64
    match s.atomElem r (atomSrc s.hart.hid 5) t op (x.data / 2 ^ o.size) { x with data := x.data % 2 ^ o.size } with
    | (.error f, s) => (.error f, s)
    | (.ok old, s) => (.ok (if noRet then none else some (old, false)), s)
  | .multi bases =>
    match s.storeReplicas r o.size x bases with
    | (.error f, s) => (.error f, s)
    | (.ok _, s) => (.ok none, s)
  | .push _ => (.ok none, s)

/-- The record of a halted non-blocking queue: the oldest stopped instruction (R302, R308). -/
def Hart.nbRecord (h : Hart) : Hart :=
  match h.nbQ.find? (·.halt) with
  | none => h
  | some o =>
    let f := (o.bad.map (·.2)).headD { cause := .accessFault, addr := 0 }
    { h with nbSt := { cause := f.cause.code, cnt := true, sel := o.tc, halt := true, addr := f.addr.setWidth 57
                       done := BitVec.ofNat 64 ((o.todo.map (·.e)).headD 0), fb := f.fb
                       due := h.nbSt.due || !h.nbSt.halt } }
/-- Stops instruction `i` at element `e`, and with it the queue. -/
def Hart.nbStop (h : Hart) (i e : Nat) (f : EngFault) : Hart :=
  { h with nbQ := h.nbQ.modify i (fun o => { o with halt := true, begun := true, bad := o.bad ++ [(e, f)] }) }.nbRecord

/-- The virtual bytes of an element of a non-blocking instruction: the elements of a multicast store lie at every base. -/
def NbOp.span (o : NbOp) (x : NbElem) : List (Word × Nat) :=
  match o.kind with
  | .multi bases => bases.map (fun b => (b + x.va, x.len o.size))
  | _ => x.span o.size
/-- Whether an element must wait for an earlier instruction of the queue that still touches one of its bytes (R296), or that
acquires, or whose accesses it releases (R318, R328). -/
def State.nbHeld (s : State) (i : Nat) (o : NbOp) (x : NbElem) : Bool :=
  (s.hart.nbQ.take i).any (fun p => !p.todo.isEmpty && (match p.kind, o.kind with
    | .push _, _ => false
    | _, _ => p.aq || o.rl || p.todo.any (fun y => s.sharesByte (o.req s.hart.hid) (o.span x) (p.req s.hart.hid) (p.span y))))
/-- Whether an element must wait for an earlier one of its instruction (R258, R328). -/
def State.nbBehind (s : State) (o : NbOp) (x : NbElem) : Bool :=
  (o.todo.takeWhile (fun y => y.e != x.e)).any (fun y => s.sharesByte (o.req s.hart.hid) (o.span x) (o.req s.hart.hid) (o.span y))

/-- Performs the element with index `e` of instruction `i` of the hart in focus, if it is not done and no earlier one of the instruction
holds it. An ambiguous fault counts the element as complete (R330). -/
def State.nbOne (s : State) (i e : Nat) : State :=
  match s.hart.nbQ[i]? with
  | none => s
  | some o =>
    match o.todo.find? (fun x => x.e == e) with
    | none => s
    | some x =>
      if s.nbBehind o x then s
      else
        let drop (h : Hart) : Hart := { h with nbQ := h.nbQ.modify i (fun o => { o with begun := true, todo := o.todo.filter (fun y => y.e != e) }) }
        match s.nbAccess o x with
        | (.ok v, s) =>
          s.upd (fun h => match v with
            | some (b, bad) => (drop h).loadWrites o.vd o.size [(fieldIx o.size x.e, b, bad)]
            | none => drop h)
        | (.error f, s) =>
          s.upd (fun h => (if settled (x, some f) then drop h else h).nbStop i x.e (EngFault.mk f.cause f.addr f.fb))

/-- The turn of element `j` of the elements not done of instruction `i` of the hart in focus. A poisoned operand or source stops the
instruction before its first element (R259, R306); its address is that of the element written (R302; DEDUCED, log 77). In a halted queue
only instructions that have begun go on (R308). The elements of a cluster-spanning form that one core owns are one packet: they wait
together, and are performed together, a fault of one among them or not (R245). -/
def State.nbElem (s : State) (i j : Nat) : State :=
  match s.hart.nbQ[i]? with
  | none => s
  | some o =>
    let isPush : Bool := match o.kind with
      | .push _ => true
      | _ => false
    if isPush || o.halt || (s.hart.nbSt.halt && !o.begun) then s
    else if o.poison then s.upd (fun h => h.nbStop i ((o.todo.map (·.e)).headD 0) { cause := .poison, addr := 0 })
    else match o.todo.find? (·.poi) with
      | some x => s.upd (fun h => h.nbStop i x.e { cause := .poison, addr := ((o.span x).map (·.1)).headD x.va })
      | none =>
        match o.todo[j]? with
        | none => s
        | some x =>
          let turn := if o.cl then o.todo.filter (fun y => s.packetOf y.va == s.packetOf x.va) else [x]
          if turn.any (s.nbHeld i o) then s else turn.foldl (fun s y => s.nbOne i y.e) s

/-- Performs up to `n` elements of instruction `i`, always the first one not done. -/
def State.nbElems (i : Nat) : Nat → State → State
  | 0, s => s
  | n + 1, s => State.nbElems i n (s.nbElem i 0)
/-- Performs the elements of every instruction in the queue, in order. -/
def State.nbDrain (s : State) : State :=
  (List.range s.hart.nbQ.length).foldl (fun s i =>
    State.nbElems i (((s.hart.nbQ[i]?).map (·.todo.length + 1)).getD 0) s) s

/-- Whether a non-blocking atomic with AQ is left in a queue that runs: after a fault and EFACT (R309) it still comes before the later
accesses of the hart (R318, R324, R328). -/
def Hart.acquires (h : Hart) : Bool := !h.nbSt.halt && h.nbQ.any (fun o => o.aq && !o.todo.isEmpty)
/-- Retires instruction `i` when it has completed and every earlier one that counts into the same counter has retired
(R307). -/
def Hart.nbRetire (h : Hart) (i : Nat) : Hart :=
  match h.nbQ[i]? with
  | none => h
  | some o =>
    if o.todo.isEmpty && !o.halt && !o.poison && (h.nbQ.take i).all (fun p => p.tc != o.tc) then
      { h with nbQ := h.nbQ.eraseIdx i }.addCc o.tc 1
    else h

/-! ## The instructions -/

/-- A vector atomic. A non-blocking one with AQ comes before the later accesses of the hart (R324, R328): the model performs its elements,
and those of the queue before it, at once (log 69). -/
def vatomIssue (i : Instr) (g : Hdr) (op : Nat) (nr : Bool) (vd : VReg) (xa : XReg) (vb : VReg) (sc : BitVec 2)
    (d : Ord) (t : VmTail) (s : State) : Host.Outcome State Fault Refusal :=
  let two : Bool := op == 8
  let v2 := vd.toNat + 1
  vecIssue i g
    { regs := [vd.toNat, vb.toNat] ++ (if two then [v2] else []), dst := if nr then [] else [vd.toNat], xs := [xa], tk := vmToken t, always := t.nb,
      bad := some (vmBad i g (.atomic op nr) vd t) }
    (fun s => s.hart.lenOk [vd.toNat, vb.toNat] && Tag.isIndex (s.hart.tag vb.toNat) && vatomTag op (s.hart.tag vd.toNat)
      && (!two || s.hart.tag v2 == s.hart.tag vd.toNat))
    (readingIndex (vmBad i g (.atomic op nr) vd t) g vb (fun s =>
      let h := s.hart
      let tag := h.tag vd.toNat
      let w := tagWidth tag
      let es := h.indexElems g (s.x xa) vb sc
      let s := s.touchV vd.toNat w (es.map (·.e))
      let s := if two then s.touchV v2 w (es.map (·.e)) else s
      let es := h.withData vd.toNat w es
      let news := h.vstr v2
      let bad : Bool := es.any (·.poi) || (two && es.any (fun x => badAt w (h.vpoiStr v2) x.e))
      if t.nb then
        -- the new value of VCAS travels above the compare value
        let o : NbOp := { nbOf i (.atomic op nr) vd.toNat w t
            (es.map (fun x => { x with
              data := x.data + (if two then elemAt w news x.e * 2 ^ w else 0)
              poi := x.poi || (two && badAt w (h.vpoiStr v2) x.e) })) s with
          signed := tag.isSigned, ord := tag.code.toNat, aq := d.aq, rl := d.rl }
        match enqueueNb o s with
        | .done s => .done (if d.aq then s.nbDrain else s)
        | e => e
      else if bad then wordTrap .poison i s
      else
        let (now, rest, stopped) := cutAt s.hart es
        let (v, s) := runEach (fun x s =>
            match s.atomElem (s.req .vector t.evp) (elemSrc s.hart.hid x.va) tag op (elemAt w news x.e) x with
            | (.ok old, s) => (.ok ⟨old, false, []⟩, s)
            | (.error f, s) => (.error f, s)) w now ⟨[], []⟩ s
        let s := if nr then s else s.upd (fun h => h.loadWrites vd.toNat w (v.done.map (fun d => (d.1.e, d.2.v, false))))
        vmEnd g w v.left rest stopped s)) s

/-- VAMO.op (R326, R327). -/
def execVamo (g : Hdr) (op : AOp) (nr : Bool) (vd : VReg) (xa : XReg) (vb : VReg) (sc : BitVec 2) (o : Ord) (t : VmTail)
    (s : State) : Host.Outcome State Fault Refusal :=
  vatomIssue (.vamo g op nr vd xa vb sc o t) g (aopCode op) nr vd xa vb sc o t s
/-- VCAS (R326, R327). -/
def execVcas (g : Hdr) (vd : VReg) (xa : XReg) (vb : VReg) (sc : BitVec 2) (o : Ord) (t : VmTail) (s : State) :
    Host.Outcome State Fault Refusal :=
  vatomIssue (.vcas g vd xa vb sc o t) g 8 false vd xa vb sc o t s
/-- VBINC (R326, R327). -/
def execVbinc (g : Hdr) (vd : VReg) (xa : XReg) (vb : VReg) (sc : BitVec 2) (o : Ord) (t : VmTail) (s : State) :
    Host.Outcome State Fault Refusal :=
  vatomIssue (.vbinc g vd xa vb sc o t) g 9 false vd xa vb sc o t s

/-! ## Multicast stores (R331, R332) -/

/-- The replica bases (R331): `r + 1` consecutive scalar registers. -/
def State.replicaBases (s : State) (xa : XReg) (r : BitVec 2) : List Word :=
  (List.range (r.toNat + 1)).map (fun j => s.x (xa + BitVec.ofNat 6 j))
/-- The registers that hold them. -/
def replicaRegs (xa : XReg) (r : BitVec 2) : List XReg := (List.range (r.toNat + 1)).map (fun j => xa + BitVec.ofNat 6 j)

/-- VSTM (R331, R332). The elements hold offsets from the replica bases. -/
def execVstm (g : Hdr) (vs : VReg) (xa : XReg) (r : BitVec 2) (t : VmTail) (s : State) :
    Host.Outcome State Fault Refusal :=
  vecIssue (.vstm g vs xa r t) g
    { regs := [vs.toNat], dst := [], xs := replicaRegs xa r, tk := vmToken t, always := t.nb,
      bad := some (vmBad (.vstm g vs xa r t) g (.multi []) vs t) }
    (fun s => s.hart.lenOk [vs.toNat] && Tag.isByte (s.hart.tag vs.toNat))
    (fun s =>
      let w := tagWidth (s.hart.tag vs.toNat)
      let bases := s.replicaBases xa r
      let es := s.hart.strideElems g 0 (BitVec.ofNat 64 (w / 8))
      let s := s.touchV vs.toNat w (es.map (·.e))
      let es := s.hart.withData vs.toNat w es
      if t.nb then enqueueNb (nbOf (.vstm g vs xa r t) (.multi bases) vs.toNat w t es s) s
      else if es.any (·.poi) then wordTrap .poison (.vstm g vs xa r t) s
      else
        let (now, rest, stopped) := cutAt s.hart es
        let (v, s) := runSpans (fun x s =>
            match s.storeReplicas (s.req .vector t.evp) w x bases with
            | (.ok _, s) => (.ok ⟨0, false, []⟩, s)
            | (.error f, s) => (.error f, s)) (fun x => bases.map (fun b => (b + x.va, x.len w))) now ⟨[], []⟩ s
        vmEnd g w v.left rest stopped s) s

end Sys2Proof.Machine
end

