-- ==== Sys2Proof/Machine/Engine.lean ====
section
/-! DEFINITION. Engine queues (R295 to R313): streams and copy channels, the work of the non-blocking queue, tokens and
completion counters, and the instructions that wait for them. -/

namespace Sys2Proof.Machine
open Sys2Proof

/-- Carries out the work of another hart: the hart comes into focus for it, and the focus returns. -/
def State.onHart (s : State) (hid : BitVec 20) (f : State → State) : State :=
  let k := s.hart.hid
  (f (s.focus hid)).focus k

/-! ## Streams: issue (R303, R304) -/

/-- The span of one side: lowest byte, and the byte after the highest (R300). -/
def streamSpan (a : Word) (rb rows : Nat) (p : Int) : Int × Int :=
  let k := ((rows : Int) - 1) * p
  ((a.toNat : Int) + min 0 k, (a.toNat : Int) + max 0 k + rb)
/-- Whether two spans share a byte. -/
def spansMeet (a b : Int × Int) : Bool := decide (a.1 < b.2 ∧ b.1 < a.2)
/-- The source span. -/
def Stream.srcSpan (x : Stream) : Int × Int := streamSpan x.src x.rb x.rows x.sp
/-- The destination span. -/
def Stream.dstSpan (x : Stream) : Int × Int := streamSpan x.dst x.rb x.rows x.dp

/-- The checks of R304 in their order, and the entry of the copy queue. With both addresses misaligned `tval` holds the source
(DESIGN CHOICE, log 70). -/
def strmEff (i : Instr) (x : Stream) (s : State) : Eff :=
  let L := x.len
  if x.rb % 8 ≠ 0 ∨ 2 ^ 32 < L then wordTrap .illegalOperand i s
  else if x.src.toNat % 8 ≠ 0 then trapAt .misaligned x.src s
  else if x.dst.toNat % 8 ≠ 0 then trapAt .misaligned x.dst s
  else if decide (0 < L) && spansMeet x.srcSpan x.dstSpan then wordTrap .illegalOperand i s
  else if Config.copyDepth ≤ s.hart.copyQ.length then .wait s
  else .done (s.upd (fun h => { (if x.cnt then h else h.setTok x.n) with copyQ := h.copyQ ++ [x] }))

/-- A stream of the hart in focus, before its shape is known. -/
def State.newStream (s : State) (xd xa : XReg) (lu : Bool) (evp : BitVec 2) (cnt : Bool) (n : BitVec 3) : Stream :=
  { src := s.x xa, dst := s.x xd, rb := 0, rows := 1, sp := 0, dp := 0, evp := evp, lu := lu, cnt := cnt, n := n
    mode := s.hart.mode, tenant := s.hart.tenant, launch := s.hart.launch, chan := none, w := 0, stop := none
    since := s.cycle }
/-- The token that a stream sets (R297). -/
def strmToken (cnt : Bool) (n : BitVec 3) : Option (BitVec 3) := if cnt then none else some n

/-- STRM (R303, R304). -/
def execStrm (g : Hdr) (xd xa xb : XReg) (lu : Bool) (evp : BitVec 2) (cnt : Bool) (n : BitVec 3) (s : State) :
    Host.Outcome State Fault Refusal :=
  vecIssue (.strm g xd xa xb lu evp cnt n) g { regs := [], xs := [xd, xa, xb], tk := strmToken cnt n, whole := true }
    (fun _ => true)
    (fun s => strmEff (.strm g xd xa xb lu evp cnt n)
      { s.newStream xd xa lu evp cnt n with rb := (s.x xb).toNat } s) s
/-- STRM.2d (R303, R304). -/
def execStrm2d (g : Hdr) (xd xa xb : XReg) (lu : Bool) (evp : BitVec 2) (cnt : Bool) (n : BitVec 3) (s : State) :
    Host.Outcome State Fault Refusal :=
  vecIssue (.strm2d g xd xa xb lu evp cnt n) g
    { regs := [], xs := [xb, xb + 1, xb + 2, xb + 3], tk := strmToken cnt n, whole := true } (fun _ => true)
    (fun s =>
      let rb := (s.x xb).toNat
      let rows := (s.x (xb + 1)).toNat
      let sp := (s.x (xb + 2)).toInt
      let dp := (s.x (xb + 3)).toInt
      let bad : Bool := decide (2 ^ 24 < rb ∨ 2 ^ 16 < rows ∨ sp % 8 ≠ 0 ∨ dp % 8 ≠ 0 ∨ (1 < rows ∧ dp.natAbs < rb))
      -- the shape is checked before the addresses are read
      if bad then wordTrap .illegalOperand (.strm2d g xd xa xb lu evp cnt n) s
      else reading (.strm2d g xd xa xb lu evp cnt n) [xd, xa] [] (fun s => strmEff (.strm2d g xd xa xb lu evp cnt n)
        { s.newStream xd xa lu evp cnt n with rb := rb, rows := rows, sp := sp, dp := dp } s) s) s

/-! ## Dispatch (R300, R301) -/

/-- The queue index of the stream that a hart has ready for dispatch (R300). -/
def Hart.readyStream (h : Hart) : Option Nat :=
  if h.copySt.halt ∨ 4 ≤ (h.copyQ.filter (fun x => x.chan.isSome)).length then none
  else
    let i := h.copyQ.findIdx (fun x => x.chan.isNone && !x.copied)
    match h.copyQ[i]? with
    | none => none
    | some x =>
      let free := (h.copyQ.take i).all (fun y => y.copied ||
        !(spansMeet y.dstSpan x.srcSpan || spansMeet y.dstSpan x.dstSpan || spansMeet y.srcSpan x.dstSpan))
      if free || x.len == 0 then some i else none

/-- The end of a stream: its token clears, its channel is free, and it leaves the queue (R304). -/
def State.streamDone (s : State) (hid : BitVec 20) (i : Nat) : State :=
  match (s.getHart hid).copyQ[i]? with
  | none => s
  | some x =>
    let s := s.updHart hid (fun h => { (if x.cnt then h else h.clearTok x.n) with copyQ := h.copyQ.eraseIdx i }.payOwed)
    match x.chan with
    | some c => s.updCluster (clusterKey hid) (fun u => if hc : c < 8 then { u with chans := u.chans.set c none } else u)
    | none => s

/-- The hart of a cluster whose ready stream entered its queue first; ties go to the lowest 4 × core + hart (R301). -/
def State.nextDispatch (s : State) (cl : Nat) : Option (BitVec 20 × Nat) :=
  ((List.range 16).filterMap (fun j =>
    let hid := mkHid s.pkg cl j
    (s.getHart hid).readyStream.map (fun i => (hid, i, (((s.getHart hid).copyQ[i]?).map (·.since)).getD 0)))).foldl
      (fun best c => match best with
        | none => some (c.1, c.2.1, c.2.2)
        | some b => if c.2.2 < b.2.2 then some (c.1, c.2.1, c.2.2) else some b) none
    |>.map (fun b => (b.1, b.2.1))

/-- Dispatches the next ready stream of a cluster on the lowest-numbered free channel (DESIGN CHOICE, log 70); a stream of length 0 completes at once (R301, R304). -/
def State.dispatch (s : State) (cl : Nat) : State :=
  match s.nextDispatch cl, (s.cluster cl).chans.toList.findIdx? (fun c => c.isNone) with
  | some (hid, i), some c =>
    if (((s.getHart hid).copyQ[i]?).map Stream.len).getD 0 = 0 then s.streamDone hid i
    else
      let s := s.updCluster cl (fun u => if hc : c < 8 then { u with chans := u.chans.set c (some (hartJ hid)) } else u)
      s.updHart hid (fun h => { h with copyQ := h.copyQ.modify i (fun x => { x with chan := some c }) })
  | _, _ => s

/-- STREAM_DISPATCH (R300, R301): the input names the cluster. -/
def execStreamDispatch (s : State) : Host.Outcome State Fault Refusal :=
  match s.input with
  | .unit cl => .next (s.dispatch cl)
  | _ => .next s

/-! ## Granules (R304, R305) -/

/-- The source and destination address of a stream offset. -/
def Stream.srcAt (x : Stream) (o : Nat) : Word := x.src + BitVec.ofInt 64 (((o / x.rb : Nat) : Int) * x.sp) + BitVec.ofNat 64 (o % x.rb)
def Stream.dstAt (x : Stream) (o : Nat) : Word := x.dst + BitVec.ofInt 64 (((o / x.rb : Nat) : Int) * x.dp) + BitVec.ofNat 64 (o % x.rb)
/-- The rights of a stream's accesses (R304). -/
def Stream.req (x : Stream) (hid : BitVec 20) : Req := ⟨.stream, x.mode, x.tenant, x.launch, coreKey hid, x.evp⟩

/-- Whether a stream still reads a source line (by its virtual number) at an offset from `o` on. -/
def Stream.readsLater (x : Stream) (line o : Nat) : Bool :=
  (List.range (x.rows - o / x.rb)).any (fun k =>
    let r := o / x.rb + k
    let a := (x.src + BitVec.ofInt 64 ((r : Int) * x.sp)).toNat
    let lo := a + (if k = 0 then o % x.rb else 0)
    decide (lo < 128 * line + 128 ∧ 128 * line < a + x.rb))

/-- The rows of a stream, from its write pointer on: the bytes read (`d` false) or written. -/
def Stream.rowsLeft (x : Stream) (d : Bool) : List (Word × Nat) :=
  if x.rb = 0 then [] else
  (List.range (x.rows - x.w / x.rb)).map (fun k =>
    let o := if k = 0 then x.w else (x.w / x.rb + k) * x.rb
    (if d then x.dstAt o else x.srcAt o, x.rb - o % x.rb))

/-- The whole source span of a stream, from its lowest byte on (R300). -/
def Stream.srcBytes (x : Stream) : List (Word × Nat) := [(BitVec.ofInt 64 x.srcSpan.1, (x.srcSpan.2 - x.srcSpan.1).toNat)]

/-- Copies the word at stream offset `o`: the state, or the fault that stops the stream before it (R304, R305). -/
def State.streamWord (s : State) (hid : BitVec 20) (x : Stream) (o : Nat) : Except EngFault Unit × State :=
  let r := x.req hid
  let a := x.srcAt o
  let b := x.dstAt o
  match s.locate r .read a 8 with
  | (.error f, s) => (.error ⟨f.cause, f.addr, f.fb⟩, s)
  | (.ok p, s) =>
    let (v, s) := s.readAt r p 8
    match s.locate r .write b 8 with
    | (.error f, s) => (.error ⟨f.cause, f.addr, f.fb⟩, s)
    | (.ok q, s) =>
      if v.2 && s.placeCls q == .n then (.error { cause := .poison, addr := a }, s)
      else
        let s := s.writeAt r q 8 v.1
        let s := match q with
          | .here pa =>
            let s := if v.2 then s.poisonAt pa 8 else s
            -- a byte that the source span reaches through another virtual address is indeterminate
            if s.aliased r (s.pkg.toNat * 2 ^ 45 + pa) 8 x.srcBytes then s.markIndet pa (pa + 8) else s
          | .away _ => s
        match lineOf p with
        | some l => (.ok (), if x.lu && !x.readsLater (a.toNat / 128) (o + 8) then s.lastUse l else s)
        | none => (.ok (), s)

/-- Copies up to `n` words from the write pointer on; answers the bytes copied and the fault that stopped it. -/
def State.streamWords (hid : BitVec 20) (x : Stream) : Nat → Nat → State → Nat × Option EngFault × State
  | 0, o, s => (o, none, s)
  | n + 1, o, s =>
    match s.streamWord hid x o with
    | (.error f, s) => (o, some f, s)
    | (.ok _, s) => State.streamWords hid x n (o + 8) s

/-- The record of a halted copy queue: the oldest stopped stream (R302, R308). -/
def Hart.copyRecord (h : Hart) : Hart :=
  match h.copyQ.find? (fun x => x.stop.isSome) with
  | none => h
  | some x =>
    let f := x.stop.getD { cause := .accessFault, addr := 0 }
    { h with copySt := { cause := f.cause.code, cnt := x.cnt, sel := x.n, halt := true, addr := f.addr.setWidth 57
                         done := BitVec.ofNat 64 x.w, fb := f.fb, due := h.copySt.due || !h.copySt.halt } }

/-- Whether an earlier stream of the queue counts into the same counter: its additions come first (R299). -/
def Hart.countsBefore (h : Hart) (i : Nat) (x : Stream) : Bool :=
  x.cnt && (h.copyQ.take i).any (fun y => y.cnt && y.n == x.n)
/-- Whether the granule of stream `i` must wait for an earlier stream of the queue that has not copied a byte of it yet, reached through
another virtual address (R296); overlaps of virtual addresses are kept by dispatch (R300). -/
def State.granuleHeld (s : State) (hid : BitVec 20) (i : Nat) (x : Stream) (stop : Nat) : Bool :=
  let r := x.req hid
  ((s.getHart hid).copyQ.take i).any (fun y => !y.copied && (List.range ((stop - x.w) / 8)).any (fun k =>
    let o := x.w + 8 * k
    let hits (va : Word) (d : Bool) : Bool := match s.imagePod r va with
      | some pod => s.aliased (y.req hid) pod 8 (y.rowsLeft d)
      | none => false
    hits (x.srcAt o) true || hits (x.dstAt o) true || hits (x.dstAt o) false))

/-- Performs the granule at the write pointer of a running stream (R304): its words, the counter, and the end of the
stream. A fault stops it, halts the queue and frees the channel (R301, R308); the words before the faulting one count (DEDUCED, log
70). -/
def State.granule (s : State) (hid : BitVec 20) (i : Nat) : State :=
  let h := s.getHart hid
  match h.copyQ[i]? with
  | none => s
  | some x =>
    let stop := min x.len (128 * (x.w / 128 + 1))
    if x.chan.isNone || x.stop.isSome || (i != 0 && s.granuleHeld hid i x stop) then s else
    let later := h.countsBefore i x
    let (w, f, s) := State.streamWords hid x ((stop - x.w) / 8) x.w s
    let free (s : State) : State := match x.chan with
      | some c => s.updCluster (clusterKey hid) (fun u => if hc : c < 8 then { u with chans := u.chans.set c none } else u)
      | none => s
    let s := s.updHart hid (fun h =>
      { (if x.cnt && !later then h.addCc x.n (w - x.w) else h) with
        copyQ := h.copyQ.modify i (fun y => { y with
          w := w, stop := f, chan := if f.isSome || (later && w == x.len) then none else y.chan
          owed := if later then y.owed + (w - x.w) else y.owed }) })
    match f with
    | some _ => (free s).updHart hid Hart.copyRecord
    | none => if w = x.len then (if later then free s else s.streamDone hid i) else s

/-- STREAM_GRANULE (R304): the input names the hart and the place of the stream in its queue. -/
def execStreamGranule (s : State) : Host.Outcome State Fault Refusal :=
  match s.input with
  | .work hid i _ => .next (s.granule (BitVec.ofNat 20 hid) i)
  | _ => .next s

/-! ## Events of the non-blocking queue (R306 to R308) -/

/-- LOAD_ELEMENT_ARRIVAL (R260): the reply of one element of a non-blocking instruction arrives; the input names the hart, the
place of the instruction in its queue, and the place of the element among those not done. -/
def execLoadElementArrival (s : State) : Host.Outcome State Fault Refusal :=
  match s.input with
  | .work hid i j => .next (s.onHart (BitVec.ofNat 20 hid) (fun s => s.nbElem i j))
  | _ => .next s

/-- NB_RETIRE (R307): the elements not done are performed, and the instruction retires when it may. -/
def execNbRetire (s : State) : Host.Outcome State Fault Refusal :=
  match s.input with
  | .work hid i _ => .next (s.onHart (BitVec.ofNat 20 hid) (fun s =>
      (State.nbElems i (((s.hart.nbQ[i]?).map (·.todo.length + 1)).getD 0) s).upd (fun h => h.nbRetire i)))
  | _ => .next s

/-- EFACT_RESUME (R309): the input names the hart, and 0 for its copy queue or 1 for its non-blocking queue. -/
def execEfactResume (s : State) : Host.Outcome State Fault Refusal :=
  match s.input with
  | .work hid q _ => .next (s.writeEfact (BitVec.ofNat 20 hid) (q == 1) 1)
  | _ => .next s
/-- EFACT_ABANDON (R309). -/
def execEfactAbandon (s : State) : Host.Outcome State Fault Refusal :=
  match s.input with
  | .work hid q _ => .next (s.writeEfact (BitVec.ofNat 20 hid) (q == 1) 2)
  | _ => .next s

/-! ## Waiting and reading (R311, R312) -/

/-- Whether a time limit of `t` cycles has passed since the instruction began to wait; 0 passes at once. -/
def State.timedOut (s : State) (t : Word) : Bool := decide (s.hart.waitStart.getD s.cycle + t.toNat ≤ s.cycle)

/-- WAIT.K (R311, R312). -/
def execWaitK (gd : Grd) (t : Bool) (mask : BitVec 8) (xd xa : XReg) (s : State) : Host.Outcome State Fault Refusal :=
  issue (.waitK gd t mask xd xa) false .all gd.hdr (if t then [xa] else []) [] (fun s =>
    let left := s.hart.tok &&& mask
    if left = 0 then .done (s.setX xd 0)
    else if t && s.timedOut (s.x xa) then .done (s.setX xd (left.setWidth 64))
    else .wait s) s
/-- CCWAIT (R311, R312). -/
def execCcwait (gd : Grd) (t : Bool) (n : BitVec 3) (xd xa xb : XReg) (s : State) : Host.Outcome State Fault Refusal :=
  issue (.ccwait gd t n xd xa xb) false .all gd.hdr (if t then [xa, xb] else [xa]) [] (fun s =>
    let c := s.hart.cc[n.toNat]'n.isLt
    if (c - s.x xa).toNat < 2 ^ 63 || (t && s.timedOut (s.x xb)) then .done (s.setX xd c) else .wait s) s
/-- CCRD (R311, R312). -/
def execCcrd (gd : Grd) (n : BitVec 3) (xd : XReg) (s : State) : Host.Outcome State Fault Refusal :=
  issue (.ccrd gd n xd) false .all gd.hdr [] [] (fun s => .done (s.setX xd (s.hart.cc[n.toNat]'n.isLt))) s
/-- CCRD.clr (R311, R312). -/
def execCcrdClr (gd : Grd) (n : BitVec 3) (xd : XReg) (s : State) : Host.Outcome State Fault Refusal :=
  issue (.ccrdClr gd n xd) false .all gd.hdr [] [] (fun s =>
    .done ((s.upd (fun h => { h with cc := h.cc.set n.toNat 0 n.isLt })).setX xd (s.hart.cc[n.toNat]'n.isLt))) s

/-! ## Joining queues (R313) -/

/-- Whether the queues that a mask names are empty. -/
def Hart.queuesEmpty (h : Hart) (qs : BitVec 4) : Bool :=
  (!qs.getLsbD 0 || h.copyQ.isEmpty) && (!qs.getLsbD 1 || h.mq.isEmpty) && (!qs.getLsbD 2 || h.nbQ.isEmpty)
    && (!qs.getLsbD 3 || h.colls.isEmpty)

/-- QFENCE (R313). -/
def execQfence (wm : BitVec 8) (sc : Scope) (qs : BitVec 4) (s : State) : Host.Outcome State Fault Refusal :=
  issue (.qfence wm sc qs) false .all (.plain wm) [] []
    (fun s => if s.hart.queuesEmpty qs then .done s else .wait s) s

/-! ## Fences (R322, R323) -/

/-- Whether an MMA of the hart has not been performed, and so may still read memory (R223). -/
def Hart.mmaPending (h : Hart) : Bool := h.mq.any (fun q => match q.work with
  | .mma _ => true
  | _ => false)
/-- A fence: the scalar and vector accesses of a hart are performed in program order (log 5), so that it has nothing to wait for
but, where vector accesses are its earlier column, the reads of queued MMAs (R223, R323). -/
def fenceIssue (i : Instr) (wm : BitVec 8) (afterVector : Bool) (s : State) : Host.Outcome State Fault Refusal :=
  issue i true .all (.plain wm) [] [] (fun s => if afterVector && s.hart.mmaPending then .wait s else .done s) s
/-- FENCE.SV (R322). -/
def execFenceSv (wm : BitVec 8) (sc : Scope) (s : State) : Host.Outcome State Fault Refusal := fenceIssue (.fenceSv wm sc) wm false s
/-- FENCE.VS (R322). -/
def execFenceVs (wm : BitVec 8) (sc : Scope) (s : State) : Host.Outcome State Fault Refusal := fenceIssue (.fenceVs wm sc) wm true s
/-- FENCE.VV (R322). -/
def execFenceVv (wm : BitVec 8) (sc : Scope) (s : State) : Host.Outcome State Fault Refusal := fenceIssue (.fenceVv wm sc) wm true s
/-- FENCE.A (R322). -/
def execFenceA (wm : BitVec 8) (sc : Scope) (s : State) : Host.Outcome State Fault Refusal := fenceIssue (.fenceA wm sc) wm true s

end Sys2Proof.Machine
end

