-- ==== Sys2Proof/Machine/Push.lean ====
section
/-! DEFINITION. Register push (R333 to R340): VPUSH, VTAKE, VFES, and what becomes of a push on its way. -/

namespace Sys2Proof.Machine
open Sys2Proof

/-! ## Descriptors and sizes (R335) -/

/-- The target hart and the target register of a descriptor. -/
def pushHid (d : Word) : BitVec 20 := d.extractLsb' 0 20
def pushReg (d : Word) : Nat := (d.extractLsb' 20 6).toNat
/-- Bits of `n` elements of a tag. -/
def elemsBits (t : Tag) (n : Nat) : Nat := if t.isBlock then (n + 31) / 32 * tagBlockBits t else n * tagWidth t

/-- The length rule of R155 for a register whose tag may be NONE; a reserved tag code is refused (R72). -/
def Hart.lenFits (h : Hart) (v : Nat) : Bool :=
  (if hv : v < 64 then h.vtag[v] == 0 else false) || (h.tag v != .none && decide (h.n ≤ mvl (h.tag v) h.nregs))

/-! ## VPUSH (R335) -/

/-- The push that the hart in focus captures. -/
def State.newPush (s : State) (sc : Scope) (vs : VReg) (d : Word) (tc : BitVec 3) (nb : Bool) : Push :=
  let h := s.hart
  let bits := elemsBits (h.tag vs.toNat) h.n
  { no := h.pushNo, desc := d, tag := h.tag vs.toNat, sc := scopeCode sc, nb := nb, tc := tc, n := h.n
    data := h.vstr vs.toNat % 2 ^ bits, poi := h.vpoiStr vs.toNat % 2 ^ bits, tenant := h.tenant, nacks := 0, next := 0, gone := false }
where
  /-- The code of a scope (R56). -/
  scopeCode : Scope → BitVec 3
    | .hart => 0 | .gang => 1 | .die => 2 | .pkg => 3 | .pod => 4

/-- The source of a push (R329, R386): lane group 0 of the sender's core, or its non-blocking queue. -/
def pushSrc (hid : BitVec 20) (nb : Bool) : Nat := if nb then atomSrc hid 5 else atomSrc (hid &&& ~~~3#20) 1
/-- Whether a push may be sent: it is not withdrawn, no earlier push of the hart to the same register is without an answer (R337), its
back-off has passed (R336), and its queue is not halted, unless it was sent before the halt (R308). -/
def State.maySend (s : State) (h : Hart) (p : Push) : Bool :=
  !p.gone && decide (p.next ≤ s.cycleOf (hidDie h.hid))
    && !h.pushes.any (fun q => decide (q.no < p.no) && q.desc == p.desc) && !(p.nb && h.nbSt.halt && p.nacks == 0 && !p.sent)
/-- A push to another package enters the transport, with the next sequence number of its flow and the next tag of its source (R384,
R386). It names no line: its group is that of line 0 (R383; log 74). -/
def State.sendOut (s : State) (hid : BitVec 20) (p : Push) : State :=
  let t := pushHid p.desc
  let dst := (hidPkg t).toNat
  let src := pushSrc hid p.nb
  let (n, s) := s.nextSeq dst
  let (tag, s) := s.nextTag (awayKey src dst (hidDie t))
  let s := s.updHart hid (fun h => { h with pushes := h.pushes.map (fun q => if q.no = p.no then { q with sent := true } else q) })
  { s with outbox := s.outbox ++ [⟨hid.toNat, p.no, dst, n, src, tag, s.time, s.time, 1, s.groupFor dst 0⟩] }
/-- Sends every push of a hart to another package that may go now. -/
def State.sendPushes (s : State) (hid : BitVec 20) : State :=
  (s.getHart hid).pushes.foldl (fun s p =>
    if !p.sent && hidPkg (pushHid p.desc) != s.pkg && s.maySend (s.getHart hid) p then s.sendOut hid p else s) s
/-- Whether a push to another package is on its way: on a port group, or towards a package that no group reaches (R382, R385). -/
def State.inFlight (s : State) (hid : BitVec 20) (no : Nat) : Bool :=
  s.outbox.any (fun o => o.hid == hid.toNat && o.no == no && (o.grp.isSome || !s.routed o.dst))
/-- Takes a push out of the transport. -/
def State.unsend (s : State) (hid : BitVec 20) (no : Nat) : State :=
  { s with outbox := s.outbox.filter (fun o => !(o.hid == hid.toNat && o.no == no)) }

/-- The entry of a push in the non-blocking queue (R306, R335). -/
def pushOp (i : Instr) (vs : VReg) (tc : BitVec 3) (no : Nat) (d : Word) (s : State) : NbOp :=
  { nbOf i (.push no) vs.toNat 0 ⟨0, false, tc, true⟩ [{ e := 0, va := d }] s with size := 8 }

/-- VPUSH (R335): captured at issue, sent afterwards. -/
def execVpush (wm : BitVec 8) (sc : Scope) (vs : VReg) (xa : XReg) (tc : BitVec 3) (nb : Bool) (s : State) :
    Host.Outcome State Fault Refusal :=
  vecIssue (.vpush wm sc vs xa tc nb) (.plain wm)
    { regs := [vs.toNat], dst := [], xs := [xa], tk := if nb || tc == 0 then none else some tc }
    (fun s => s.hart.lenOk [vs.toNat])
    (fun s =>
      let d := s.x xa
      if d.extractLsb' 26 38 ≠ 0 then wordTrap .illegalOperand (.vpush wm sc vs xa tc nb) s
      else if nb && s.hart.nbFull then .wait s
      else
        let s := s.touchV vs.toNat (elemsBits (s.hart.tag vs.toNat) s.hart.n) [0]
        let p := s.newPush sc vs d tc nb
        let op := pushOp (.vpush wm sc vs xa tc nb) vs tc p.no d s
        vdone ((s.upd (fun h =>
          let h := if nb then { h with nbQ := h.nbQ ++ [op] } else if tc = 0 then h else h.setTok tc
          { h with pushes := h.pushes ++ [p], pushNo := h.pushNo + 1 })).sendPushes s.hart.hid)) s

/-! ## VTAKE and VFES (R338, R339) -/

/-- Sets or clears a full bit. When a register becomes empty, the time of its reservation begins; when it becomes full, an old
reservation has ended (R333, R336). -/
def Hart.setFull (h : Hart) (v : Nat) (b : Bool) (now : Nat) : Hart :=
  let old := h.full.getLsbD v
  { h with
    full := putBit h.full v b
    resv := if old && !b then h.resv.map (fun r => if r.1 = v then (r.1, r.2.1, now + 2 ^ 15) else r)
            else if !old && b then h.resv.filter (fun r => r.1 != v)
            else h.resv }

/-- VTAKE (R338). The length rule is checked when it issues, and not again while it waits (R155). -/
def execVtake (wm : BitVec 8) (sc : Scope) (vd vm : VReg) (s : State) : Host.Outcome State Fault Refusal :=
  vecIssue (.vtake wm sc vd vm) (.plain wm) { regs := [vd.toNat, vm.toNat] }
    (fun s => vd != vm && (s.hart.waitStart.isSome || (s.hart.lenFits vd.toNat && s.hart.lenFits vm.toNat)))
    (fun s =>
      if !s.hart.full.getLsbD vm.toNat then .wait s
      else
        let s := s.touchReg vm.toNat
        let now := s.cycle
        vdone (s.upd (fun h =>
          let h := h.putLow vd.toNat h.regBits (h.vstr vm.toNat) (h.vpoiStr vm.toNat)
          (h.retag vd (h.vtag[vm.toNat]'vm.isLt)).setFull vm.toNat false now))) s

/-- The issue of VFES: the old full bit goes to `xD`, then the bit is kept, cleared or set (R339). -/
def vfesIssue (i : Instr) (wm : BitVec 8) (xd : XReg) (vm : VReg) (new : Option Bool) (s : State) :
    Host.Outcome State Fault Refusal :=
  vecIssue i (.plain wm) { regs := [] } (fun s => decide (vm.toNat < s.hart.nregs))
    (fun s =>
      let old := s.hart.full.getLsbD vm.toNat
      let now := s.cycle
      vdone ((s.upd (fun h => match new with
        | some b => h.setFull vm.toNat b now
        | none => h)).setX xd (if old then 1 else 0))) s
/-- VFES.rd (R339). -/
def execVfesRd (wm : BitVec 8) (xd : XReg) (vm : VReg) (s : State) : Host.Outcome State Fault Refusal :=
  vfesIssue (.vfesRd wm xd vm) wm xd vm none s
/-- VFES.clr (R339). -/
def execVfesClr (wm : BitVec 8) (xd : XReg) (vm : VReg) (s : State) : Host.Outcome State Fault Refusal :=
  vfesIssue (.vfesClr wm xd vm) wm xd vm (some false) s
/-- VFES.set (R339). -/
def execVfesSet (wm : BitVec 8) (xd : XReg) (vm : VReg) (s : State) : Host.Outcome State Fault Refusal :=
  vfesIssue (.vfesSet wm xd vm) wm xd vm (some true) s

/-! ## The way of a push (R336, R337) -/

/-- What a target answers. -/
inductive PushAns where
  | accept | nack | reject (c : Cause)
deriving DecidableEq, Repr

/-- The package of a `hid`. -/
def State.ownHid (s : State) (h : BitVec 20) : Bool := hidPkg h == s.pkg

/-- The contexts of the parked harts: those of the gangs here, and, until step 4 of an undock is done, those that it has moved (R340, R429). -/
def State.parkedHarts (s : State) : List Hart :=
  s.gangs.flatMap (·.saved) ++ match s.undock with
    | some u => if u.step < 5 then u.gangs.flatMap (·.saved) else []
    | none => []
/-- Whether a hart is parked: it runs no launch, and a parked gang counts it among its harts. -/
def State.isParked (s : State) (h : BitVec 20) : Bool :=
  (s.getHart h).launch.isNone && s.parkedHarts.any (fun x => x.hid == h)

/-- The answer of a target of this package, in the order of R336. A `hid` of a gang that has moved names no hart with a launch any more, and
is rejected (R340). -/
def State.pushAnswer (s : State) (from_ : Hart) (p : Push) : PushAns :=
  let t := pushHid p.desc
  let v := pushReg p.desc
  let h := s.getHart t
  let parked := s.isParked t
  let th := if parked then
      (s.parkedHarts.find? (fun x => x.hid == t)).getD h
    else h
  if !namesHart s.pkg s.mgmtDie t || (th.launch.isNone && !parked) then .reject .remoteFault
  else if th.tenant ≠ p.tenant then .reject .accessFault
  else if th.nregs ≤ v || decide (th.regBits < elemsBits p.tag p.n) then .reject .remoteFault
  else if parked || th.full.getLsbD v then .nack
  else if th.resv.any (fun r => r.1 == v && r.2.1 != from_.hid.toNat && decide (s.cycleOf (hidDie t) < r.2.2)) then .nack
  else .accept

/-- An accepted push lands in its register in one step (R335). -/
def Hart.land (h : Hart) (p : Push) : Hart :=
  let v := pushReg p.desc
  let bits := elemsBits p.tag p.n
  let h := h.putLow v bits p.data p.poi
  { h with
    vtag := if hv : v < 64 then h.vtag.set v p.tag.code else h.vtag
    full := setBit h.full v
    resv := h.resv.filter (fun r => r.1 != v)
    woken := h.woken || h.inWait }

/-- The first sender that is turned away from a register since it last became full holds a reservation for it (R336): its time begins
when the register becomes empty. -/
def Hart.reserve (h : Hart) (v : Nat) (sender now : Nat) : Hart :=
  if h.resv.any (fun r => r.1 == v) then h
  else { h with resv := h.resv ++ [(v, sender, if h.full.getLsbD v then 0 else now + 2 ^ 15)] }
/-- Changes the reservations of a target, which may be parked. -/
def State.updTarget (s : State) (t : BitVec 20) (f : Hart → Hart) : State :=
  if s.isParked t then s.updGangs (fun _ => true) (fun g => { g with saved := g.saved.map (fun h => if h.hid = t then f h else h) })
  else s.updHart t f
/-- A push of a sender is turned away, by a full register or a parked hart, and may get a reservation. -/
def State.turnAway (s : State) (t : BitVec 20) (v sender : Nat) : State :=
  let now := s.cycleOf (hidDie t)
  s.updTarget t (fun h => h.reserve v sender now)
/-- A rejected push ends the reservation of its sender (R336). -/
def State.unreserve (s : State) (t : BitVec 20) (v sender : Nat) : State :=
  s.updTarget t (fun h => { h with resv := h.resv.filter (fun r => !(r.1 == v && r.2.1 == sender)) })

/-- Ends a push at its sender: completed, or rejected with a cause, and in both cases gone (R335, R336). -/
def Hart.pushEnd (h : Hart) (p : Push) (c : Option Cause) : Hart :=
  let h := { h with pushes := h.pushes.filter (fun q => q.no != p.no) }
  let tok (h : Hart) : Hart := if p.tc = 0 then h else h.clearTok p.tc
  match p.nb, c with
  | false, none => tok h
  | false, some c => { tok h with pend := { h.pend with push := h.pend.push ++ [(c, p.desc)] } }
  | true, none => { h with nbQ := h.nbQ.map (fun (o : NbOp) => if o.pushNo = some p.no then { o with todo := [] } else o) }
  | true, some c =>
    Hart.nbRecord { h with nbQ := h.nbQ.map (fun (o : NbOp) =>
        if o.pushNo = some p.no then { o with halt := true, bad := [(0, EngFault.mk c p.desc [])] } else o) }

/-- The answer to a push on another die of the package stands in the reply cache there; a NACK does not, and its tag is used (R386). -/
def State.pushReply (s : State) (hid : BitVec 20) (p : Push) (c : Option (BitVec 8)) : State :=
  let home := hidDie (pushHid p.desc)
  let src := pushSrc hid p.nb
  if home = hidDie hid then s
  else match c with
    | some c => s.keepReply src home c 0
    | none => (s.nextTag (16 * src + home)).2

/-- A push that was sent and has no answer ends with REMOTE_FAULT: bit 0 of `tval` is set when it was never refused, because it may have been
accepted (R385). -/
def State.losePush (s : State) (hid : BitVec 20) (p : Push) : State :=
  (s.updHart hid (fun h => h.pushEnd { p with desc := if p.nacks = 0 then p.desc ||| 1 else p.desc &&& ~~~1#64 } (some .remoteFault))).sendPushes hid
/-- A push that cannot be sent ends with REMOTE_FAULT, bit 0 of `tval` clear (R330, R375, R385). -/
def State.dropPush (s : State) (hid : BitVec 20) (p : Push) : State :=
  (s.updHart hid (fun h => h.pushEnd { p with desc := p.desc &&& ~~~1#64 } (some .remoteFault))).sendPushes hid
/-- What an answer does at the sender of a push (R335, R336). -/
def State.takeAnswer (s : State) (hid : BitVec 20) (p : Push) (ans : PushAns) : State :=
  match ans with
  | .accept => (s.updHart hid (fun x => x.pushEnd p none)).sendPushes hid
  | .nack =>
    let now := s.cycleOf (hidDie hid)
    s.updHart hid (fun x => { x with pushes := x.pushes.map (fun q =>
      if q.no = p.no then { q with nacks := q.nacks + 1, next := now + 64 * 2 ^ min (q.nacks + 1) 8, sent := false } else q) })
  | .reject c => (s.updHart hid (fun x => x.pushEnd p (some c))).sendPushes hid
/-- What an answer does at the target, which is a hart of this package: the push lands, or its sender may get a reservation, or loses it (R335,
R336); the answer stands in the reply cache (R386). -/
def State.offerPush (s : State) (hid : BitVec 20) (p : Push) (ans : PushAns) : State :=
  let t := pushHid p.desc
  let v := pushReg p.desc
  match ans with
  | .accept => (s.updHart t (fun x => x.land p)).pushReply hid p (some 0)
  | .nack => (s.turnAway t v hid.toNat).pushReply hid p none
  | .reject c => (s.unreserve t v hid.toNat).pushReply hid p (some c.code)

/-- A push arrives at its target (R336). The answer of another package is free (log 6), and it may lie outside the window of its flow (R385); a
push that no path takes there has bit 0 of `tval` clear (R330, R375, R385). -/
def State.pushArrive (s : State) (hid : BitVec 20) (no : Nat) : State :=
  let h := s.getHart hid
  match h.pushes.find? (fun p => p.no == no) with
  | none => s
  | some p =>
    let t := pushHid p.desc
    let own := s.ownHid t
    if !s.maySend h p || (!own && !s.inFlight hid no) then s else
    let s := s.unsend hid no
    if own then
      if !s.carries (hidDie hid) (hidDie t) then s.dropPush hid p
      else
        let ans := s.pushAnswer h p
        let s := s.offerPush hid p ans
        if s.carries (hidDie t) (hidDie hid) then s.takeAnswer hid p ans else s.losePush hid p
    else if !s.routed (hidPkg t).toNat then s.dropPush hid p
    else
      let (i, s) := s.fresh
      match Config.remoteFault t.toNat i % 5 with
      | 0 => s.takeAnswer hid p .accept
      | 1 => s.takeAnswer hid p .nack
      | 2 => s.takeAnswer hid p (.reject .accessFault)
      | 3 => s.takeAnswer hid p (.reject .remoteFault)
      | _ => s.losePush hid p

/-- PUSH_ARRIVAL (R336): the input names the sender and the number of the push. -/
def execPushArrival (s : State) : Host.Outcome State Fault Refusal :=
  match s.input with
  | .work hid no _ => .next (s.pushArrive (BitVec.ofNat 20 hid) no)
  | _ => .next s
/-- PUSH_RETRY (R336): the push is sent again, when its back-off has passed, with a new tag (R386). -/
def execPushRetry (s : State) : Host.Outcome State Fault Refusal :=
  match s.input with
  | .work hid no _ =>
    let h := s.getHart (BitVec.ofNat 20 hid)
    .next (if h.pushes.any (fun p => p.no == no && p.nacks != 0) then
      (s.sendPushes (BitVec.ofNat 20 hid)).pushArrive (BitVec.ofNat 20 hid) no else s)
  | _ => .next s

/-- PUSH_RESERVATION_EXPIRE (R336): reservations of empty registers whose time has passed lapse; the input names the hart. -/
def execPushReservationExpire (s : State) : Host.Outcome State Fault Refusal :=
  match s.input with
  | .hart hid =>
    let now := s.cycleOf (hidDie (BitVec.ofNat 20 hid))
    .next (s.updHart (BitVec.ofNat 20 hid) (fun h => { h with
      resv := h.resv.filter (fun r => h.full.getLsbD r.1 || decide (now < r.2.2)) }))
  | _ => .next s

/-! ## Withdrawal (R340) -/

/-- Withdraws the pushes not accepted: they keep their tokens and counters, and their entries leave the queue. -/
def Hart.withdraw (h : Hart) : Hart :=
  { h with pushes := h.pushes.map (fun p => { p with gone := true, sent := false }), nbQ := h.nbQ.filter (fun o => o.pushNo.isNone) }
/-- Withdraws the pushes of the hart in focus, from the transport too. -/
def State.withdraw (s : State) : State :=
  { s.upd Hart.withdraw with outbox := s.outbox.filter (fun o => o.hid != s.hart.hid.toNat) }

/-- Sends withdrawn pushes again, in program order (R340, R368): a non-blocking one enters its queue again. -/
def Hart.resend (h : Hart) : Hart :=
  let back := h.pushes.filter (fun p => p.gone && p.nb)
  { h with
    pushes := h.pushes.map (fun p => { p with gone := false })
    nbQ := back.map (fun p => { word := 0, kind := .push p.no, vd := 0, size := 8, signed := false, ord := 0, tc := p.tc
                                evp := 0, lu := false, mode := .u, tenant := h.tenant, launch := h.launch
                                todo := [{ e := 0, va := p.desc }], bad := [], halt := false }) ++ h.nbQ }

end Sys2Proof.Machine
end

