-- ==== Sys2Proof/Machine/Home.lean ====
section
/-! DEFINITION. Accesses of outside agents at their homes (R273, R330, R386), the fabric's transport (R384, R385), stored errors (R278,
R279), pages in transit (R349), and writes of registers of the system control space (R242). -/

namespace Sys2Proof.Machine
open Sys2Proof

/-! ## Accesses of agents outside the package (R273) -/

/-- Answers a request: cause and data; for a REMOTE_FAULT the data is 1 when it is ambiguous (R330). -/
def State.answer (s : State) (r : OutReq) (cause : BitVec 8) (data : Nat) : State :=
  { s with sent := .answer r.src r.tag cause data :: s.sent }
/-- The rights of an outside request. -/
def OutReq.req (r : OutReq) : Req := ⟨.scalar, r.mode, r.tenant, none, 2048, 0⟩
/-- The place of an outside request, checked at its home: none when a check fails. -/
def State.outPlace (s : State) (r : OutReq) (k : Kind) (agent : Agent) : Option Nat :=
  let pa := s.redirect (r.pod % 2 ^ 45)
  if r.pod / 2 ^ 45 = s.pkg.toNat ∧ r.n ≠ 0 ∧ s.homeCheck { r.req with agent := agent } k pa r.n = none then some pa else none

/-- A push of another package as its target sees it (R335, R336): accepted, not accepted yet, or rejected. DESIGN CHOICE (log 86): its source names the
sending core, whose hart 0 stands for the sender in a reservation. -/
def State.outPush (s : State) (r : OutReq) (desc : Word) (tag : Tag) (elems : Nat) : PushAns × State :=
  let p : Push := { no := 0, desc := desc, tag := tag, sc := 0, nb := false, tc := 0, n := elems, data := r.data, poi := r.data2
                    tenant := r.tenant, nacks := 0, next := 0, gone := false }
  let sender := Hart.reset (BitVec.ofNat 20 (r.src / 8))
  let t := pushHid desc
  match s.pushAnswer sender p with
  | .accept => (.accept, s.updHart t (fun h => h.land p))
  | .nack => (.nack, s.turnAway t (pushReg desc) sender.hid.toNat)
  | .reject c => (.reject c, s.unreserve t (pushReg desc) sender.hid.toNat)

/-- Whether a sequence tag is newer than another, modulo 2^16 (R329). -/
def tagNewer (a b : BitVec 16) : Bool := decide (0 < (a - b).toNat ∧ (a - b).toNat < 2 ^ 15)
/-- Keeps the answer to an atomic or a push in the reply cache of its home: the 64 highest tags of the source, the newest first (R329). -/
def State.cacheReply (s : State) (home : Nat) (r : OutReq) (cause : BitVec 8) (old : Nat) : State :=
  let mine (x : Reply) : Bool := x.home == home && x.src == r.src
  let same := s.replies.filter mine
  let all := (same.filter (fun x => tagNewer x.tag r.tag)).take 63 ++ (⟨home, r.src, r.tag, cause, BitVec.ofNat 64 old⟩ : Reply) ::
    same.filter (fun x => !tagNewer x.tag r.tag)
  { s with replies := all.take 64 ++ s.replies.filter (fun x => !mine x) }

/-- Performs an atomic or a push that its home has not performed yet, caches the answer, and sends it (R330, R386). -/
def State.performOnce (s : State) (home : Nat) (r : OutReq) : State :=
  match r.kind with
  | .atomic op t =>
    match s.outPlace r .atomic .scalar with
    | none => (s.cacheReply home r Cause.accessFault.code 0).answer r Cause.accessFault.code 0
    | some pa =>
      match s.atomStep r.req pa r.n (fun old => (vatomNew t op r.data r.data2 old).1) with
      | (some old, s) => (s.cacheReply home r 0 old).answer r 0 old
      | (none, s) => (s.cacheReply home r Cause.poison.code 0).answer r Cause.poison.code 0
  | .push d t n =>
    match s.outPush r d t n with
    | (.accept, s) => (s.cacheReply home r 0 0).answer r 0 0
    | (.reject c, s) => (s.cacheReply home r c.code 0).answer r c.code 0
    | (.nack, s) => s.answer r 0xFF 0
  | _ => s

/-- The home die of a request: of its address, or of the hart that a push names. -/
def OutReq.home (r : OutReq) : Nat := match r.kind with
  | .push d _ _ => hidDie (pushHid d)
  | _ => r.pod / 2 ^ 41 % 16

/-- An atomic access or a push arrives at its home (R330, R386): answered from the reply cache, performed, or answered as
ambiguous. A packet that arrives a second time is not performed (R384): of a push that its target turned away, it is turned away
again. -/
def State.arrive (s : State) (r : OutReq) (again : Bool := false) : State :=
  let home := r.home
  let mine := s.replies.filter (fun x => x.home == home && x.src == r.src)
  match mine.find? (fun x => x.tag == r.tag) with
  | some x => s.answer r x.cause x.old.toNat
  | none =>
    -- a tag that is older than every cached one, or whose source has lost its cache, executes nothing
    let late : Bool := if mine.isEmpty then s.lost.contains (home, r.src) else mine.all (fun x => !tagNewer r.tag x.tag)
    if late then s.answer r Cause.remoteFault.code 1
    else if again then s.answer r 0xFF 0
    else s.performOnce home r

/-- A store of an outside agent performed at its home (R273): the cause of its acknowledgement, 0 when it has been performed. -/
def State.outWrite (s : State) (r : OutReq) : BitVec 8 × State :=
  match s.outPlace r .write .scalar with
  | none => (Cause.accessFault.code, s)
  | some pa =>
    -- a stream's word that is poisoned poisons its destination, or is turned away by class N (R287)
    if r.data2 ≠ 0 ∧ s.placeCls (.here pa) = .n then (Cause.poison.code, s)
    else
      let s := s.writeAt r.req (.here pa) r.n (r.data % 2 ^ (8 * r.n))
      (0, if r.data2 ≠ 0 then s.poisonAt pa r.n else s)

/-- A request of an outside agent performed at its home (R273). -/
def State.outAccess (s : State) (r : OutReq) : State :=
  match r.kind with
  | .read =>
    match s.outPlace r .read .scalar with
    | none => s.answer r Cause.accessFault.code 0
    | some pa =>
      let (v, s) := s.readAt r.req (.here pa) r.n
      s.answer r (if v.2 then Cause.poison.code else 0) v.1
  | .write => (s.outWrite r).2.answer r (s.outWrite r).1 0
  | _ => s.arrive r

/-- HOME_ACCESS (R273). -/
def execHomeAccess (s : State) : Host.Outcome State Fault Refusal :=
  match s.input with
  | .request r => .next (s.outAccess r)
  | _ => .next s
/-- REMOTE_ATOMIC_ARRIVAL (R330). -/
def execRemoteAtomicArrival (s : State) : Host.Outcome State Fault Refusal :=
  match s.input with
  | .request r => .next (match r.kind with
    | .atomic _ _ => s.arrive r
    | .push _ _ _ => s.arrive r
    | _ => s)
  | _ => .next s

/-! ## Transport (R384, R385) -/

/-- The receiving end of a flow. -/
def State.flow (s : State) (src : Nat) : Flow := Tab.get (fun _ => {}) s.flows src
/-- Writes the receiving end of a flow. -/
def State.setFlow (s : State) (src : Nat) (f : Flow) : State := { s with flows := Tab.set (fun _ => {}) s.flows src f }
/-- A new packet of a flow is recorded in it and performed at its home; a store that is refused leaves its answer in the flow (R384). -/
def State.performPacket (s : State) (src seq : Nat) (r : OutReq) : State :=
  let f := (s.flow src).accept seq
  let refused : List (Nat × BitVec 8) := match r.kind with
    | .write => if (s.outWrite r).1 = 0 then [] else [(seq, (s.outWrite r).1)]
    | _ => []
  { s.outAccess r with flows := (s.setFlow src { f with refused := refused ++ f.refused }).flows }
/-- A packet that the decoder could correct arrives (R384): a new one is recorded, performed and acknowledged; a duplicate is treated
by kind, and of a store the first answer is repeated; one outside the window of 4096 is answered with REMOTE_FAULT (R385). A packet stands for its whole request. -/
def State.takePacket (s : State) (src seq : Nat) (r : OutReq) : State :=
  let f := s.flow src
  let ack (s : State) : State := { s with sent := .ack src (s.flow src).base :: s.sent }
  if f.has seq then
    match r.kind with
    | .read => ack (s.outAccess r)
    | .write => ack (s.answer r (((f.refused.find? (fun x => x.1 == seq)).map (·.2)).getD 0) 0)
    | _ => ack (s.arrive r true)
  else if seq < f.base + 4096 then
    ack (s.performPacket src seq r)
  else s.answer r Cause.remoteFault.code (match r.kind with
    | .read => 0
    | _ => 1)
/-- A packet arrives on the group that R383 gives it, with some unknown symbol errors: one whose flits cannot be corrected, or whose
groups are all out of service, is discarded (R380, R382). -/
def State.receivePacket (s : State) (src seq errs : Nat) (r : OutReq) : State :=
  match s.groupFor src (r.pod / 128) with
  | some g => if decodes errs (s.pg g).eras then s.takePacket src seq r else s
  | none => s
/-- FABRIC_PACKET_RECEIVE (R380, R384). -/
def execFabricPacketReceive (s : State) : Host.Outcome State Fault Refusal :=
  match s.input with
  | .packet src seq errs r => .next (s.receivePacket src seq errs r)
  | _ => .next s

/-- TRANSPORT_RESEND (R384): the input names the sender and the number of a push that was sent 20 µs ago or earlier; it goes out on
the group that R383 gives it now. -/
def execTransportResend (s : State) : Host.Outcome State Fault Refusal :=
  match s.input with
  | .work hid no _ => .next { s with outbox := s.outbox.map (fun (o : OutPush) =>
      if o.hid = hid ∧ o.no = no ∧ o.last + 20000 ≤ s.time then { o with last := s.time, tries := o.tries + 1, grp := s.groupFor o.dst 0 } else o) }
  | _ => .next s

/-- A push that has no answer 2 ms after it was first sent ends with REMOTE_FAULT, ambiguous when it was never refused (R385). -/
def State.timeoutPush (s : State) (hid : BitVec 20) (no : Nat) : State :=
  match s.outbox.find? (fun o => o.hid == hid.toNat && o.no == no && decide (o.first + 2000000 ≤ s.time)),
        (s.getHart hid).pushes.find? (fun p => p.no == no) with
  | some _, some p => (s.unsend hid no).losePush hid p
  | some _, none => s.unsend hid no
  | none, _ => s
/-- REQUEST_TIMEOUT (R385): the input names the sender and the number of the push. -/
def execRequestTimeout (s : State) : Host.Outcome State Fault Refusal :=
  match s.input with
  | .work hid no _ => .next (s.timeoutPush (BitVec.ofNat 20 hid) no)
  | _ => .next s

/-! ## Stored errors (R278, R279) -/

/-- Whether a mask of a granule is confined to 16 consecutive bits, or has at most three bits (R278). -/
def crcSees (mask : Nat) : Bool :=
  decide (badFields 1 mask 512 ≤ 3) || (List.range 497).any (fun i => mask / 2 ^ i * 2 ^ i == mask && decide (mask / 2 ^ i < 2 ^ 16))
/-- The bad bits that already lie at a place. -/
def State.errMask (s : State) (e : ErrAt) : Nat := ((s.errs.find? (fun x => x.at_ == e)).map (·.mask)).getD 0
/-- Sets the bad bits of a place, and whether the code misses them; without any there is no error. -/
def State.putErr (s : State) (e : ErrAt) (mask : Nat) (esc : Bool := false) : State :=
  let rest := s.errs.filter (fun x => x.at_ != e)
  { s with errs := if mask = 0 then rest else { at_ := e, mask := mask, esc := esc } :: rest }

/-- An error strikes a granule of HBM (R278): `mask` gives the bits that it turns, `escapes` whether the code misses an error that it
may miss. Errors of one granule add up; a copy of the line that a cache holds stays good. -/
def State.strikeHbm (s : State) (g mask : Nat) (escapes : Bool) : State :=
  if mask = 0 ∨ regionOf (64 * g) ≠ .hbm then s else
  let all := s.errMask (.hbm g) ^^^ mask % 2 ^ 512
  s.putErr (.hbm g) all (match s.lineCls (g / 2) with
    | .n => true
    | .f => decide (3 ≤ badFields 16 all 32) && escapes
    | .d => escapes && !crcSees all)
/-- An error strikes a word of a quay or memory-side cache copy (R278): the bytes of the copy show one that the code misses. -/
def State.strikeCopy (s : State) (w mask : Nat) (escapes : Bool) : State :=
  if mask = 0 ∨ !(hasLine s.quay (w / 16) || hasLine s.msc (w / 16)) then s else
  let all := s.errMask (.quay w) ^^^ mask % 2 ^ 64
  let missed : Bool := match s.lineCls (w / 16) with
    | .n => decide (1 < badFields 1 all 64)
    | _ => escapes && decide (3 ≤ badFields 1 all 64)
  let s : State := (s.undoErrs (fun e => e.at_ == ErrAt.quay w)).putErr (.quay w) all missed
  match missed with
  | true => s.flipBytes (8 * w) all 8
  | false => s
/-- An error strikes a word of a scratchpad, an accumulator store or the weight store (R254, R278). -/
def State.strikeLocal (s : State) (w mask : Nat) (escapes : Bool) : State :=
  let pa := 8 * w
  let reg := regionOf pa
  if mask = 0 ∨ !(reg == .spm || reg == .acc || reg == .ws) then s else
  let all := s.errMask (.local_ w) ^^^ mask % 2 ^ 64
  let flip (s : State) : State := (s.putErr (.local_ w) 0).flipBytes pa all 8
  match (if reg = .ws then Cls.f else (s.core (slotCore pa)).cls) with
  | .n => flip s
  | _ => if escapes && decide (3 ≤ badFields 1 all 64) then flip s else s.putErr (.local_ w) all
/-- An error strikes a register of a hart (R130, R163, R278): `kind` 3 a scalar register (64 to 67: the S bank), 4 a predicate, 5 a
word of vector storage. Bad bits of one register add up until the error is found or the register is written, and two in one
word cannot be corrected. A double-bit error that was found already stays as it is. -/
def Hart.strike (h : Hart) (kind i mask : Nat) : Hart :=
  let latent : Bool := match kind with
    | 3 => h.xcor.getLsbD i
    | 4 => h.pcor.getLsbD i
    | _ => h.vcor.contains i
  let found : Bool := !latent && (match kind with
    | 3 => h.xbad.getLsbD i
    | 4 => h.pbad.getLsbD i
    | _ => false)
  if found then h else
  let words := if kind = 4 then 512 else 1
  let all := (if latent then h.struckBits kind i else 0) ||| mask % 2 ^ (64 * words)
  let dbl := doubleBad all words
  let h := { h with struck := Tab.set (fun _ => 0) h.struck (struckAt kind i) all }
  match kind with
  | 3 => { h with xcor := setBit h.xcor i, xbad := if dbl then setBit h.xbad i else h.xbad }
  | 4 => { h with pcor := setBit h.pcor i, pbad := if dbl then setBit h.pbad i else h.pbad }
  | _ => { h with vcor := if latent then h.vcor else i :: h.vcor
                  vpoi := if dbl then h.vpoi ||| (BitVec.allOnes 64).setWidth 1048576 <<< (64 * i) else h.vpoi }

/-- An error strikes device state of a die (R279): one that can be corrected is corrected and recorded with cause 0x00 (R420), another
is recorded with 0xFF and is a machine fault. It is charged to no launch. -/
def State.strikeState (s : State) (d mask : Nat) : State :=
  if doubleBad mask 1 then (s.logErr d 0xFF .f 0).machineFault else s.logErr d 0 .f 0
/-- STORED_DATA_ERROR (R278): the kind of store (0 HBM, 1 a cached copy, 2 a local store, 3 a scalar register, 4 a predicate, 5 vector
storage, 6 device state of a die), the hart for registers, the granule, word or register, the bad bits, and whether the code misses the error. -/
def execStoredDataError (s : State) : Host.Outcome State Fault Refusal :=
  match s.input with
  | .nums [kind, hid, i, mask, esc] =>
    .next (match kind with
    | 0 => s.strikeHbm i mask (esc != 0)
    | 1 => s.strikeCopy i mask (esc != 0)
    | 2 => s.strikeLocal i mask (esc != 0)
    | 6 => if mask = 0 then s else s.strikeState i mask
    | _ => if mask = 0 then s
        else s.updHart (BitVec.ofNat 20 hid) (fun h => h.strike kind i mask))
  | _ => .next s

/-- SCRUB_ERROR (R279): scrubbing finds an uncorrectable error in a granule of a frame; it is poisoned, charged to no launch, and
recorded. -/
def execScrubError (s : State) : Host.Outcome State Fault Refusal :=
  match s.input with
  | .unit g =>
    .next (if regionOf (64 * g) ≠ .hbm ∨ s.lineCls (g / 2) = .n then s
      else
        let s := { s with gran := Tab.set (fun _ => false) s.gran g true, errs := s.errs.filter (fun e => e.at_ != ErrAt.hbm g) }
        if hasLine s.quay (g / 2) || hasLine s.msc (g / 2) then s.logErr (paDie (64 * g)) 7 (s.lineCls (g / 2)) (s.pkg.toNat * 2 ^ 45 + 64 * g)
        else s.detectErr none (s.lineCls (g / 2)) (64 * g) 16)
  | _ => .next s

/-! ## Pages in transit (R349) -/

/-- MIGRATION_START (R349): the input names the die and the slot. -/
def execMigrationStart (s : State) : Host.Outcome State Fault Refusal :=
  match s.input with
  | .work d i _ => .next (s.writeMigctl d i (1#2 ++ 0#62))
  | _ => .next s
/-- MIGRATION_FREE (R349). -/
def execMigrationFree (s : State) : Host.Outcome State Fault Refusal :=
  match s.input with
  | .work d i _ => .next (s.writeMigctl d i 0)
  | _ => .next s

/-- Copies the poison of `n` units. -/
def State.copyUnits (s : State) (from_ to_ : Nat) : Nat → State
  | 0 => s
  | n + 1 => (s.setUnits to_ (s.unitBad from_) 1).copyUnits (from_ + 1) (to_ + 1) n
/-- Moves the next line of a slot that is copying (R349): value and poison, and PTR advances; errors are charged to no launch. -/
def State.moveLine (s : State) (d i : Nat) : State :=
  if hi : i < 16 then
    let t := (s.die d).slots[i]
    if t.st = 1 then
      let a := t.old.toNat % 2 ^ 29 * 2 ^ 16 + t.ptr
      let b := t.new.toNat % 2 ^ 29 * 2 ^ 16 + t.ptr
      let s := s.touchLine none (a / 128) 0 false
      let s := s.meetErrors none a 128
      let v := s.bytes a 128
      let s := (s.touchLine none (b / 128) 0 true).meetErrors none b 128 true
      let s := (s.store b 128 v).copyUnits (a / 4) (b / 4) 32
      s.updDie d (fun x => { x with slots := x.slots.set i { t with
        ptr := t.ptr + 128, st := if 65536 ≤ t.ptr + 128 then 2 else 1 } })
    else s
  else s
/-- MIGRATION_LINE_MOVE (R349): the input names the die and the slot. -/
def execMigrationLineMove (s : State) : Host.Outcome State Fault Refusal :=
  match s.input with
  | .work d i _ => .next (s.moveLine d i)
  | _ => .next s

end Sys2Proof.Machine
end

