-- ==== Sys2Proof/Machine/Launch.lean ====
section
/-! DEFINITION. Submitting a launch (R99, R101, R123) and the instructions of OP 0x3C (R122 to R129). -/

namespace Sys2Proof.Machine
open Sys2Proof

/-! ## Refusal and acceptance (R99, R105) -/

/-- An idle cluster as a gang sees it. -/
def idleUsage : Usage := ⟨[], [], [], fun _ => .f, fun _ => false, []⟩
/-- A usage with one more gang of a shape placed at a spot. -/
def Usage.add (u : Usage) (sh : Shape) (p : Spot) : Usage :=
  let cores := (List.range 4).filter (fun k => p.harts.any (fun h => h.1 / 4 == k))
  { harts := u.harts ++ p.harts.map (·.1)
    spm := u.spm ++ (if sh.spm = 0 then [] else cores.map (fun k => (k, p.spm, p.spm + sh.spm)))
    acc := u.acc ++ (if sh.acc = 0 then [] else p.harts.map (fun h => (h.1 / 4, h.2, h.2 + sh.acc)))
    cls := fun k => if cores.contains k then sh.cls else u.cls k
    held := fun k => cores.contains k || u.held k
    bars := p.bar :: u.bars }
/-- How many gangs of a shape an idle cluster holds, at most `fuel`. -/
def clusterHolds (sh : Shape) : Nat → Usage → Nat
  | 0, _ => 0
  | fuel + 1, u =>
    match findSpot u sh with
    | some p => 1 + clusterHolds sh fuel (u.add sh p)
    | none => 0

/-- A malformed packet (R99). -/
def State.malformed (s : State) (pk : BitVec 512) (q : Nat) (inS : Bool) : Bool :=
  pk.getLsbD 63 || (pk.extractLsb' (64 + 61) 3 != 0) || pkClass pk == 3 || (pk.extractLsb' 0 3 != 0)
    || decide (spmCap (clsOf (pkClass pk)) < pkSpm pk * 128)
    || (pkCor pk && pkGangs pk == 0)
    || (pkLdr pk && !(s.queue q).ldok && !inS)
    || (pkDepv pk && pkDq pk == q
        && decide (1 ≤ (pkDcnt pk + 2 ^ 24 - (s.queue q).qseq % 2 ^ 24) % 2 ^ 24
          ∧ (pkDcnt pk + 2 ^ 24 - (s.queue q).qseq % 2 ^ 24) % 2 ^ 24 ≤ 2 ^ 23 - 1))
/-- A packet that cannot fit (R99). -/
def cannotFit (pk : BitVec 512) : Bool :=
  let sh := shapeOf pk
  decide (accCap sh.cls < sh.acc * ((sh.g + 3) / 4))
    || (pkCor pk && decide (256 * clusterHolds sh 16 idleUsage < pkGangs pk))

/-- The refusal code of a packet for queue `q` (R99); none when it is accepted. -/
def State.refusal (s : State) (pk : BitVec 512) (q : Nat) (inS : Bool) : Option Int :=
  if !(s.queue q).en then some (-2)
  else if s.malformed pk q inS then some (-3)
  else if cannotFit pk then some (-4)
  else if 256 ≤ (s.queue q).qseq - (s.queue q).qcnt then some (-1)
  else none

/-- Enqueues an accepted packet (R105); it may be eligible at once (R106). -/
def State.accept (s : State) (pk : BitVec 512) (q : Nat) : State :=
  let n := (s.queue q).qseq
  let l : Launch := { lid := ⟨q, n⟩, pk := pk, tenant := (s.queue q).tenant, st := .queued, cursor := 0, placed := 0
                      started := false, left := false, ebcnt := 0, eblim := s.ebdef, ebDone := false, cause := 0, waits := none }
  State.startPlacing { s.updQueue q (fun u => { u with qseq := n + 1 }) with launches := s.launches ++ [l] }

/-! ## LNCH (R123) -/

/-- LNCH after its operands are known. -/
def lnchEff (xd : XReg) (a : Word) (s : State) : Eff :=
  if a.toNat % 64 ≠ 0 then trapAt .misaligned a s
  else match s.load (s.req .scalar) a 64 with
    | (.error f, s) => faultTrap f s
    | (.ok (v, bad), s) =>
      if bad then trapAt .poison a s
      else
        let pk := BitVec.ofNat 512 v
        let q := pkQueue pk
        if (s.queue q).tenant ≠ s.hart.tenant then trapAt .accessFault a s
        else match s.refusal pk q (s.hart.mode == .s) with
          | some c => .done (s.setX xd (BitVec.ofInt 64 c))
          | none => .done ((s.accept pk q).setX xd (BitVec.ofNat 64 (s.queue q).qseq))
/-- LNCH (R123). -/
def execLnch (g : Hdr) (xd xa : XReg) (s : State) : Host.Outcome State Fault Refusal :=
  issue (.lnch g xd xa) false .all g [xa] [] (fun s => lnchEff xd (s.x xa) s) s

/-! ## CLAIM (R124) -/

/-- What CLAIM grants of `rem` elements to lengths `l` and `h`: the count, and the new lengths. -/
def claimGrant (rem l h : Nat) : Nat × Nat × Nat :=
  if l * h ≤ rem then (l * h, l, h)
  else if l ≤ rem then (rem / l * l, l, rem / l)
  else if 0 < rem then (rem, rem, 1)
  else (0, l, h)
/-- CLAIM (R124). -/
def execClaim (g : Hdr) (xd xa : XReg) (s : State) : Host.Outcome State Fault Refusal :=
  issue (.claim g xd xa) true .all g [] [] (fun s =>
    match s.hart.launch.bind s.launchOf with
    | none => .done ((s.setX xa 0).setX xd 0)
    | some l =>
      let r := claimGrant (pkCount l.pk - l.cursor) s.hart.vl s.hart.vh
      let s := (s.updLaunch l.lid (fun x => { x with cursor := x.cursor + r.1 })).settle
      .done (((s.upd (fun h => { h with vl := r.2.1, vh := r.2.2 })).setX xa (BitVec.ofNat 64 r.1)).setX xd
        (BitVec.ofNat 64 l.cursor))) s

/-! ## The gang barrier (R121, R125) -/

/-- GBAR.ARR (R125). On a hart that belongs to no gang the phase is free (log 19). -/
def execGbarArr (g : Hdr) (sc : Scope) (xd : XReg) (s : State) : Host.Outcome State Fault Refusal :=
  issue (.gbarArr g sc xd) true .all g [] [] (fun s =>
    match s.gangOf s.hart.hid with
    | none =>
      let (n, s) := s.fresh
      .done (s.setX xd ((Config.noGangPhase n).setWidth 64))
    | some gg =>
      let b := s.bar gg.cl gg.bar
      let i := gg.harts.idxOf s.hart.hid.toNat
      let s := if b.arrived.getLsbD i then s
        else s.updBar gg.cl gg.bar (fun b => Bar.settle { b with arrived := setBit b.arrived i })
      .done (s.setX xd (b.phase.setWidth 64))) s
/-- GBAR.WAIT (R125). On a hart that belongs to no gang there is nothing to wait for (log 19). -/
def execGbarWait (g : Hdr) (sc : Scope) (xa : XReg) (s : State) : Host.Outcome State Fault Refusal :=
  issue (.gbarWait g sc xa) true .all g [xa] [] (fun s =>
    match s.gangOf s.hart.hid with
    | none => .done s
    | some gg => if (s.bar gg.cl gg.bar).phase = (s.x xa).extractLsb' 0 32 then .wait s else .done s) s

/-! ## EXIT (R126, R127) -/

/-- The tokens of memory-form collectives and of COLL.BAR, which EXIT does not wait for. -/
def Hart.memTokens (h : Hart) : BitVec 8 :=
  h.colls.foldl (fun t c => match c.tk with
    | some k => if c.regs.isEmpty then setBit t k.toNat else t
    | none => t) 0
/-- Whether the work that EXIT waits for has drained (R126). -/
def Hart.drained (h : Hart) : Bool :=
  h.copyQ.isEmpty && h.nbQ.isEmpty && h.mq.isEmpty && h.colls.all (fun c => c.regs.isEmpty)
    && (h.tok &&& ~~~h.memTokens) == 0

/-- Whether the queues that VSAVE and VREST wait for are empty (R370); withdrawn pushes do not count. -/
def Hart.saveReady (h : Hart) : Bool := h.copyQ.isEmpty && h.mq.isEmpty && h.nbQ.all (fun o => o.pushNo.isSome)

/-- Parks the hart in focus (R115, R116, R127, R215): its context and its grant are recorded, its rows released, its windows
closed (R250), its timer stopped. The page batch stays in its trap block (R354). -/
def State.parkHart (s : State) : State :=
  let h := s.hart
  let ctx := { h with run := .parked, pc := h.pc + 8, preempting := false, exiting := false, tcmp := 0, waitStart := none
                      inWait := false, mgrant := 0, win := Vector.replicate 4 none, pend := { h.pend with preempt := false, timer := false } }
  let cl := clusterKey h.hid
  let s0 := s
  let s := s.updGangs (fun g => g.st != Resid.parked && g.live.contains h.hid.toNat)
    (fun g => { g with grants := g.grants.set (g.harts.idxOf h.hid.toNat) h.mgrant })
  let s := s.upd (fun h => { Hart.reset h.hid with instret := 0, fb := h.fb })
  let s := s.updCluster cl (fun c => { c with wait := c.wait.filter (fun w => w.hid != h.hid.toNat) })
  (s0.passRows cl (s.leaveGang h.hid (some ctx))).settle

/-- EXIT (R126, R127). A PREEMPT that is pending when EXIT begins in U mode comes first. -/
def execExit (g : Hdr) (s : State) : Host.Outcome State Fault Refusal :=
  issue (.exit g) false .all g [] [] (fun s =>
    let h := s.hart
    if h.mode = .s ∧ h.preempting ∧ h.isCompute then (if h.saveReady then .whole s.parkHart else .wait s)
    else if h.mode = .u ∧ h.pend.preempt ∧ !h.exiting then .whole s.takePending
    else
      let s := if h.mode = .u then s.upd (fun h => { h with exiting := true }) else s
      if h.drained then .whole (s.endHart h.hid) else .wait s) s

/-! ## WAITM (R129) -/

/-- WAITM (R129): every turn of the wait performs the load again. -/
def execWaitm (g : Hdr) (sc : Scope) (xd xa xb : XReg) (imm : BitVec 16) (s : State) : Host.Outcome State Fault Refusal :=
  issue (.waitm g sc xd xa xb imm) true .all g [xa, xb] [] (fun s =>
    let a := s.x xa
    if a.toNat % 8 ≠ 0 then trapAt .misaligned a s
    else match s.load (s.req .scalar) a 8 with
      | (.error f, s) => faultTrap f s
      | (.ok (v, bad), s) =>
        if bad then trapAt .poison a s
        else if BitVec.ofNat 64 v ≠ s.x xb ∨ (imm ≠ 0 ∧ s.timedOut (BitVec.ofNat 64 (256 * imm.toNat))) then
          .done (s.setX xd (BitVec.ofNat 64 v))
        else .wait s) s

/-! ## Pre-emption (R107, R114, R115, R128) -/

/-- Whether an eligible launch has a gang to place now: a parked gang of its own comes first (R107, R116). -/
def State.wantsGang (s : State) (l : Launch) : Bool :=
  s.eligible l && moreGangs l && !s.gangs.any (fun g => g.lid == l.lid && g.st != Resid.resident)

/-- Whether a gang of a launch fits a cluster, with some resident gangs taken away (R109, R114). -/
def State.fitsWithout (s : State) (cl : Nat) (l : LaunchId) (p : Nat) (sh : Shape) (gone : Gang → Bool) : Option Spot :=
  findSpot (usageOf s cl (s.rivals l p gone)) sh
/-- Whether a gang of a launch fits some cluster. -/
def State.fitsSome (s : State) (l : Launch) : Bool :=
  (List.range 256).any (fun cl => (s.fitsWithout cl l.lid (s.prio l) (shapeOf l.pk) (fun _ => false)).isSome)

/-- Raises PREEMPT on every hart of the gangs that meet a condition, for a launch (R115). -/
def State.preemptGangs (s : State) (c : Gang → Bool) (forL : LaunchId) (yielded : Bool) : State :=
  let v := s.gangs.filter (fun g => c g && g.st == Resid.resident)
  let s := s.updGangs (fun g => c g && g.st == Resid.resident)
    (fun g => { g with st := .preempting, forL := some forL, yielded := yielded })
  (v.flatMap (·.live)).foldl (fun s h =>
    s.updHart (BitVec.ofNat 20 h) (fun h => { h with pend := { h.pend with preempt := true } })) s

/-- The launch for which YIELD gives up a gang, if there is one (R128). DESIGN CHOICE (log 80): of several, which R128 leaves open, the one
accepted first. -/
def State.yieldFor (s : State) (g : Gang) (l : Launch) : Option Launch :=
  if pkCor l.pk then none
  else s.launches.find? (fun o => o.lid != l.lid && decide (s.prio l ≤ s.prio o) && s.wantsGang o && !s.fitsSome o
    && (s.fitsWithout g.cl o.lid (s.prio o) (shapeOf o.pk) (fun x => x.lid == g.lid && x.num == g.num)).isSome)
/-- YIELD (R128). -/
def execYield (g : Hdr) (xd : XReg) (s : State) : Host.Outcome State Fault Refusal :=
  issue (.yield g xd) true .all g [] [] (fun s =>
    match s.gangOf s.hart.hid, s.hart.launch.bind s.launchOf with
    | some gg, some l =>
      if gg.st = .preempting then .done (s.setX xd 1)
      else match s.yieldFor gg l with
        | some o => .done ((s.preemptGangs (fun x => x.lid == gg.lid && x.num == gg.num) o.lid true).setX xd 1)
        | none => .done (s.setX xd 0)
    | _, _ => .done (s.setX xd 0)) s

end Sys2Proof.Machine
end

