-- ==== Sys2Proof/Machine/HostPort.lean ====
section
/-! DEFINITION. The host's endpoint (R101, R413 to R419): the launch port, the function registers, the host window, the mailboxes, the
change of port; and writes of registers of the system control space (R242). -/

namespace Sys2Proof.Machine
open Sys2Proof

/-- Whether a function is present and the package has power: what the host needs for any access (R413, R432). -/
def State.present (s : State) (fn : Nat) : Bool := (s.func fn).v && s.pilot.power

/-! ## The launch port (R101, R417) -/

/-- Records a refused packet in LPSTAT (R417). -/
def Func.refuse (f : Func) (c : BitVec 8) : Func :=
  { f with ref := true, code := c, nref := if f.nref = BitVec.allOnes 16 then f.nref else f.nref + 1 }
/-- A posted write to BAR 0 (R101): LNCH for the tenant of the function, into the queue of the function. A queue of another tenant
refuses the packet, and CODE keeps its value. -/
def State.launchPort (s : State) (fn off len : Nat) (pk : BitVec 512) : State :=
  let u := s.func fn
  let q := u.queue.toNat
  if len ≠ 64 ∨ off % 64 ≠ 0 ∨ 65536 ≤ off then s.updFunc fn (fun u => { u with badwr := true })
  else if (s.queue q).tenant ≠ u.tenant then s.updFunc fn (fun u => u.refuse u.code)
  else match s.refusal pk q false with
    | some c => s.updFunc fn (fun u => u.refuse (BitVec.ofInt 8 c))
    | none => (s.accept pk q).updFunc fn (fun u => { u with lastSeq := BitVec.ofNat 24 (s.queue q).qseq })
/-- LAUNCH_PORT_WRITE (R101): function, offset, length, data. -/
def execLaunchPortWrite (s : State) : Host.Outcome State Fault Refusal :=
  match s.input with
  | .nums [fn, off, len, pk] => .next (if s.present fn then s.launchPort fn off len (BitVec.ofNat 512 pk) else s)
  | _ => .next s

/-! ## The function registers (R415, R417, R418) -/

/-- LPSTAT. -/
def Func.lpstat (f : Func) : Word :=
  f.lastSeq ++ 0#8 ++ f.nref ++ 0#6 ++ BitVec.ofBool f.badwr ++ BitVec.ofBool f.ref ++ f.code
/-- The double word at an aligned offset of BAR 2; 0 where nothing is listed. -/
def State.bar2Reg (s : State) (fn o : Nat) : Word :=
  let u := s.func fn
  let q := s.queue u.queue.toNat
  match o with
  | 0x00 => u.lpstat
  | 0x08 => BitVec.ofNat 64 q.qseq
  | 0x10 => BitVec.ofNat 64 q.qcnt
  | 0x18 => q.qfail
  | 0x20 => 0#63 ++ BitVec.ofBool q.halted
  | 0x28 => BitVec.ofBool u.noteEn ++ 0#39 ++ u.noteAt
  | _ => if fn = 0 then (s.hmb.reg o).getD 0 else 0
/-- `n` bytes of BAR 2 from an offset. -/
def State.bar2Read (s : State) (fn off n : Nat) : Nat :=
  packNat 8 ((List.range n).map (fun i => (s.bar2Reg fn ((off + i) / 8 * 8)).toNat / 2 ^ (8 * ((off + i) % 8))))

/-- A write to NOTE (R417): a count that QCNT has already reached notifies at once. -/
def State.writeNote (s : State) (fn : Nat) (v : Word) : State :=
  (s.updFunc fn (fun u => { u with noteEn := v.getLsbD 63, noteAt := v.extractLsb' 0 24 })).noteFunc fn
/-- A write to a register of the management mailbox: GO wakes Pilot (R369, R418). -/
def State.writeHmb (s : State) (o : Nat) (v : Word) : State :=
  let s' := { s with hmb := s.hmb.write o v }
  if s'.hmb.go && !s.hmb.go then s'.wakeMgmt else s'
/-- One aligned 8-byte write to BAR 2 (R415, R417, R418). -/
def State.bar2Write (s : State) (fn o : Nat) (v : Word) : State :=
  match o with
  | 0x00 => s.updFunc fn (fun u => { u with badwr := u.badwr && !v.getLsbD 9, ref := u.ref && !v.getLsbD 8 })
  | 0x20 =>
    let q := (s.func fn).queue.toNat
    if v.getLsbD 0 && (s.queue q).halted then s.clearHalted q else s
  | 0x28 => s.writeNote fn v
  | _ => if fn = 0 then s.writeHmb o v else s

/-- NOTE_WRITE (R417): function, value. -/
def execNoteWrite (s : State) : Host.Outcome State Fault Refusal :=
  match s.input with
  | .nums [fn, v] => .next (if s.present fn then s.writeNote fn (BitVec.ofNat 64 v) else s)
  | _ => .next s

/-- REGISTER_WRITE (R9, R242, R415): die, offset in its system control space, value; or 64 + function, offset in BAR 2, value. -/
def execRegisterWrite (s : State) : Host.Outcome State Fault Refusal :=
  match s.input with
  | .nums [d, off, v] =>
    .next (if off % 8 ≠ 0 then s
      else if d < 10 then (s.sysWrite d off (BitVec.ofNat 64 v)).getD s
      else if 64 ≤ d ∧ s.present (d - 64) then s.bar2Write (d - 64) off (BitVec.ofNat 64 v)
      else s)
  | _ => .next s

/-! ## The host window (R416) -/

/-- The request that an access through the window is: the tenant of the function, and an S-mode access at a scratchpad. -/
def State.windowReq (s : State) (fn off n data : Nat) : OutReq :=
  let u := s.func fn
  { src := 0, tag := 0, kind := .read, mode := .s, tenant := u.tenant, pod := u.hw.toNat * 2 ^ 36 + off, n := n, data := data
    data2 := 0 }
/-- Where an access through the window goes, if nothing refuses it (R273, R416). -/
def State.windowPlace (s : State) (r : OutReq) (k : Kind) : Option Place × State :=
  let pa := s.redirect (r.pod % 2 ^ 45)
  let away := r.pod % 2 ^ 45
  if r.pod / 2 ^ 45 ≠ s.pkg.toNat then
    if !(regionOf away == .spm || regionOf away == .hbm) then (none, s)
    else if s.routed (r.pod / 2 ^ 45) then
      let (i, s) := s.fresh
      (if Config.remoteFault r.pod i % 4 = 0 then some (.away r.pod) else none, s)
    else (none, s)
  else if !(regionOf pa == .spm || (regionOf pa == .hbm && decide (paDie pa < 8))) then (none, s)
  else ((s.outPlace r k .host).map .here, s)
/-- An access through the window (R416): a refused write is dropped; a refused or poisoned read ends with Completer Abort. -/
def State.windowAccess (s : State) (fn : Nat) (wr : Bool) (off n data : Nat) : State :=
  let r := s.windowReq fn off n data
  let done (s : State) (abort : Bool) (v : Nat) : State := { s with sent := .completion fn abort v :: s.sent }
  if 2 ^ 36 < off + n ∨ n = 0 then (if wr then s else done s true 0)
  else if wr then
    match s.windowPlace r .write with
    | (some p, s) => s.writeAt { r.req with agent := .host } p n (data % 2 ^ (8 * n))
    | (none, s) => s
  else
    match s.windowPlace r .read with
    | (some p, s) =>
      let (v, s) := s.readAt { r.req with agent := .host } p n
      done s v.2 (if v.2 then 0 else v.1)
    | (none, s) => done s true 0

/-- An access of the host to a BAR (R415, R416). -/
def State.hostAccess (s : State) (fn bar : Nat) (wr : Bool) (off n data : Nat) : State :=
  match bar with
  | 4 => s.windowAccess fn wr off n data
  | 2 =>
    if wr then (if n = 8 ∧ off % 8 = 0 then s.bar2Write fn off (BitVec.ofNat 64 data) else s)
    else { s with sent := .completion fn false (s.bar2Read fn off n) :: s.sent }
  | 0 => if wr then s.launchPort fn off n (BitVec.ofNat 512 data) else { s with sent := .completion fn false 0 :: s.sent }
  | _ => s
/-- HOST_WINDOW_ACCESS (R416): function, BAR, 1 for a write, offset, bytes, data. -/
def execHostWindowAccess (s : State) : Host.Outcome State Fault Refusal :=
  match s.input with
  | .nums [fn, bar, wr, off, n, data] => .next (if s.present fn then s.hostAccess fn bar (wr != 0) off n data else s)
  | _ => .next s

/-! ## The mailboxes (R418, R419) -/

/-- MAILBOX_GO (R418): path 0 or 2, and the length of the request. -/
def execMailboxGo (s : State) : Host.Outcome State Fault Refusal :=
  match s.input with
  | .nums [path, len] =>
    let v : Word := 0#32 ++ BitVec.ofNat 16 len ++ 1#16
    .next (match path with
      | 0 => s.writeHmb 0x100 v
      | 2 => s.sysWrite2 8 12 0x100 v
      | _ => s)
  | _ => .next s
/-- MAILBOX_READY_CLEAR (R418): path 0 or 2. -/
def execMailboxReadyClear (s : State) : Host.Outcome State Fault Refusal :=
  match s.input with
  | .unit path => .next (match path with
      | 0 => s.writeHmb 0x108 1
      | 2 => s.sysWrite2 8 12 0x108 1
      | _ => s)
  | _ => .next s

/-! ## The other port (R414) -/

/-- PCIE_PORT_FAILOVER (R414): the other port becomes active. Once die 8 is lost there is no other one (R427). -/
def execPciePortFailover (s : State) : Host.Outcome State Fault Refusal :=
  .next (if s.mgmtDie = 9 ∨ !s.pilot.power then s else State.msiAll { s with port1 := !s.port1 } (fun _ => true))

end Sys2Proof.Machine
end

