-- ==== Sys2Proof/Machine/Link.lean ====
section
/-! DEFINITION. The events of die strands and wavelengths (R374, R376, R377), of the live link table (R387 to R389), and of the port
groups (R380 to R383); the machine fault as an event (R364). -/

namespace Sys2Proof.Machine
open Sys2Proof

/-! ## Flits (R374, R376) -/

/-- The wavelengths of the strand with key base `k` that meet a condition. -/
def State.updStrandWaves (s : State) (d k : Nat) (c : Nat → Wave → Bool) (f : Wave → Wave) : State :=
  (List.range 8).foldl (fun s w => if c w (s.wave d (k + w)) then s.setWave d (k + w) (f (s.wave d (k + w))) else s) s
/-- The receiving end of a strand. -/
def State.strand (s : State) (d k : Nat) : Strand := Tab.get (fun _ => {}) (s.die d).strands k
/-- Writes the receiving end of a strand. -/
def State.setStrand (s : State) (d k : Nat) (x : Strand) : State :=
  s.updDie d (fun die => { die with strands := Tab.set (fun _ => {}) die.strands k x })

/-- The flits of die `a` that die `d` has accepted. -/
def State.flits (s : State) (d a : Nat) : Flow := Tab.get (fun _ => {}) (s.die d).flits a
/-- Die `a` keeps a flit for a replay, with its flow number (R374, R375). -/
def State.holdFlit (s : State) (a d n : Nat) : State :=
  s.updDie a (fun x => { x with held := (d, n) :: x.held.filter (· != (d, n)) })
/-- Die `d` accepts a flit of die `a`, unless it has accepted that number before (R375); the sender keeps it no longer. -/
def State.acceptFlit (s : State) (a d n : Nat) : State :=
  (s.updDie d (fun x => { x with flits := Tab.set (fun _ => {}) x.flits a ((s.flits d a).accept n) })).updDie a
    (fun x => { x with held := x.held.filter (· != (d, n)) })

/-- Flit `n` of die `a` arrives at die `d`, for a packet with first line `l` (R373 to R376): on the strand of R374, or over the relay
of R375. `fixed` gives the bits of the flit that the decoder corrected; `lost` says that it could not correct the flit: it is
kept for a replay, which is asked for. A flit that is not the next one of its strand is discarded. -/
def State.receiveFlit (s : State) (d a l n seq fixed : Nat) (lost : Bool) : State :=
  match s.lastHop a d l with
  | none => s
  | some (peer, strand) =>
    let k := waveKey peer strand 0
    let ws := s.carriers peer d strand
    let x := s.strand d (16 * peer + strand)
    if lost then
      ((s.updStrandWaves d k (fun i _ => ws.contains i) (fun w => { w with unc := w.unc + 1 })).setStrand d (16 * peer + strand)
        { x with replay := true }).holdFlit a d n
    else
      let hit := bitCarriers ws fixed
      let s := s.updStrandWaves d k (fun i _ => hit.contains i) (fun w => { w with cor := w.cor + 1 })
      if seq = x.next then (s.setStrand d (16 * peer + strand) ⟨x.next + 1, false⟩).acceptFlit a d n else s

/-- DIE_FLIT_RECEIVE (R374): receiving die, sending die, first line of the packet, flow number, link sequence number, corrected bits,
whether it is lost. -/
def execDieFlitReceive (s : State) : Host.Outcome State Fault Refusal :=
  match s.input with
  | .nums [d, a, l, n, seq, fixed, lost] => .next (s.receiveFlit d a l n seq fixed (lost != 0))
  | _ => .next s

/-! ## Wavelengths (R377) -/

/-- WAVELENGTH_RETRAIN_TRIGGER (R377): die, wavelength, and the new estimate BERX. -/
def execWavelengthRetrainTrigger (s : State) : Host.Outcome State Fault Refusal :=
  match s.input with
  | .nums [d, k, berx] =>
    let w := { s.wave d k with berx := BitVec.ofNat 8 berx }
    let s := s.setWave d k w
    .next (if w.berx < w.thr then s.retrain d k else s)
  | _ => .next s
/-- WLCTL_FORCE (R377): a write of 1 to FORCE of a wavelength of a die. -/
def execWlctlForce (s : State) : Host.Outcome State Fault Refusal :=
  match s.input with
  | .nums [d, k] => .next (s.forceWave d k)
  | _ => .next s
/-- WLCTL_OFF_SET (R377). -/
def execWlctlOffSet (s : State) : Host.Outcome State Fault Refusal :=
  match s.input with
  | .nums [d, k] => .next (s.offWave d k)
  | _ => .next s
/-- WLCTL_OFF_CLEAR (R377). -/
def execWlctlOffClear (s : State) : Host.Outcome State Fault Refusal :=
  match s.input with
  | .nums [d, k] => .next (s.onWave d k)
  | _ => .next s

/-- A wavelength at the next flit boundary of its strand (R377). -/
def Wave.boundary (w : Wave) : Wave :=
  match w.st with
  | .leaving => if w.marked then { w with st := .off, marked := false } else w.train
  | .joining => { w with st := .active }
  | _ => w
/-- WAVELENGTH_FLIT_BOUNDARY (R377): a flit boundary of a strand of a die: die, sending die, strand. -/
def execWavelengthFlitBoundary (s : State) : Host.Outcome State Fault Refusal :=
  match s.input with
  | .nums [d, peer, strand] => .next (s.updStrandWaves d (waveKey peer strand 0) (fun _ _ => true) Wave.boundary)
  | _ => .next s

/-- The end of a training attempt (R377). -/
def Wave.attempt (w : Wave) (ok : Bool) : Wave :=
  if w.st = .training then
    if ok then { w with st := .joining, fails := 0 }
    else if w.fails + 1 < 4 then { w.train with fails := w.fails + 1 }
    else { w with st := .failed, fails := 0 }
  else w
/-- WAVELENGTH_TRAINING_DONE (R377): die, wavelength, and whether the attempt succeeded. -/
def execWavelengthTrainingDone (s : State) : Host.Outcome State Fault Refusal :=
  match s.input with
  | .nums [d, k, ok] => .next (s.setWave d k ((s.wave d k).attempt (ok != 0)))
  | _ => .next s

/-! ## The live link table (R387 to R389, R392 to R394) -/

/-- The ordered pairs of dies. -/
def diePairs : List (Nat × Nat) :=
  (List.range 10).flatMap (fun a => (List.range 10).filterMap (fun b => if a = b then none else some (a, b)))
/-- The dies of a die path, in order (R392). -/
def pathDies (t : Nat) : List Nat := [0, 1, 9, 2, 8, 3, 7, 4, 6, 5].map (fun o => (t + o) % 10)
/-- The pairs of neighbours of a path, in both directions. -/
def pathPairs (t : Nat) : List (Nat × Nat) :=
  ((pathDies t).zip (pathDies t).tail).flatMap (fun p => [p, (p.2, p.1)])
/-- Whether the table shows a pair up. -/
def State.tableUp (s : State) (a b : Nat) : Bool := entryState (s.pairEntry a b) != 2
/-- Whether a die path is usable (R394). -/
def State.pathUsable (s : State) (t : Nat) : Bool := (pathPairs t).all (fun p => s.tableUp p.1 p.2)

/-- LTTREE as the table's other entries give it (R388, R394); a package tree is in use when its group is UP or DEGRADED and
routes a package (DEDUCED). -/
def State.treeWord (s : State) : Word :=
  let paths := (List.range 5).map (fun t => if s.pathUsable t then 1 else 0)
  let inter := (List.range 2).map (fun g => if (s.pg g).out || (if g = 0 then s.reach[0] else s.reach[1]) == 0 then 0 else 1)
  0#54 ++ BitVec.ofNat 2 (packNat 1 inter) ++ 0#2 ++ BitVec.ofBool (paths.all (· == 0)) ++ BitVec.ofNat 5 (packNat 1 paths)

/-- The lowest table offset whose STATE, STRANDS or REACH differs between two states of the table (R389). -/
def firstChange (old new : State) : Option Nat :=
  let pair := diePairs.find? (fun p =>
    (old.pairEntry p.1 p.2).extractLsb' 32 32 != (new.pairEntry p.1 p.2).extractLsb' 32 32)
  match pair with
  | some p => some (8 * (10 * p.1 + p.2))
  | none => [0x400, 0x408].find? (fun o => (old.linkReg o).map entryState != (new.linkReg o).map entryState)
    |>.orElse (fun _ => [0x800, 0x808, 0x810, 0x818].find? (fun o => old.linkReg o != new.linkReg o))

/-- Makes LINK_EVENT pending on the hart that LTEVT names, when it is a system hart; a pending one keeps the first change
(R389). -/
def State.raiseLink (s : State) (off : Nat) : State :=
  let h : BitVec 20 := s.ltevt.extractLsb' 0 20
  if s.ltevt.getLsbD 63 && namesHart s.pkg s.mgmtDie h && (s.getHart h).isSys then
    s.updHart h (fun x => { x with pend := { x.pend with link := some (x.pend.link.getD (BitVec.ofNat 64 off)) } })
  else s

/-- The table brought up to date (R387, R388); `reach` is what the fabric routes through each group. -/
def State.updateTable (s : State) (reach : Vector (BitVec 128) 2) : State :=
  let s' := { s with
    ltab := diePairs.foldl (fun (t : Tab Word) (p : Nat × Nat) => Tab.set (fun _ => 0) t (10 * p.1 + p.2) (s.pairWord p.1 p.2)) s.ltab
    ltpg := Vector.ofFn (fun g : Fin 2 => s.pgs[g].word)
    reach := reach }
  let s' := { s' with lttree := s'.treeWord }
  match firstChange s s' with
  | some o => s'.raiseLink o
  | none => s'

/-- LINK_TABLE_UPDATE (R387): the input gives the packages routed through groups A and B when they change. -/
def execLinkTableUpdate (s : State) : Host.Outcome State Fault Refusal :=
  .next (s.updateTable (match s.input with
    | .nums [a, b] => #v[BitVec.ofNat 128 a, BitVec.ofNat 128 b]
    | _ => s.reach))

/-! ## Port groups (R380, R382, R383) -/

/-- FABRIC_LANE_FAILURE (R380): the group, and the lanes of it that are dead from now on. With more than 8 erasures no flit of
the group can be corrected, and what is in flight is lost. -/
def execFabricLaneFailure (s : State) : Host.Outcome State Fault Refusal :=
  match s.input with
  | .nums [g, dead] =>
    let x := { s.pg g with dead := BitVec.ofNat 72 dead }
    .next ((if 8 < x.eras then s.dropFlight g else s).setPg g x)
  | _ => .next s
/-- GRANT_CRC_CHECK (R382): the group, and whether the slices diverge; a divergence discards what is in flight and resets the
group. -/
def execGrantCrcCheck (s : State) : Host.Outcome State Fault Refusal :=
  match s.input with
  | .nums [g, diverge] => .next (if diverge = 0 then s else (s.dropFlight g).setPg g { s.pg g with resetting := true })
  | _ => .next s
/-- PORT_GROUP_RESET_DONE (R382): the input names the group. -/
def execPortGroupResetDone (s : State) : Host.Outcome State Fault Refusal :=
  match s.input with
  | .unit g => .next (s.setPg g { s.pg g with resetting := false })
  | _ => .next s
/-- Marks a group lost that has been out of service for 1 ms; the loss of both is a machine fault (R364, R383). -/
def State.loseGroup (s : State) (g : Nat) : State :=
  match (s.pg g).outSince with
  | some t =>
    if s.time < t + 1000000 then s
    else
      let s := s.setPg g { s.pg g with lost := true }
      if (s.pg 0).lost && (s.pg 1).lost then s.machineFault else s
  | none => s
/-- PORT_GROUP_LOST (R383): the input names the group. -/
def execPortGroupLost (s : State) : Host.Outcome State Fault Refusal :=
  match s.input with
  | .unit g => .next (s.loseGroup g)
  | _ => .next s

/-! ## The machine fault (R364) -/

/-- MACHINE_FAULT (R364, R425): the loss of a die, or an uncorrectable error in device state; the latter is recorded in the die's
error log. The input names the die, and whether device state failed. -/
def execMachineFault (s : State) : Host.Outcome State Fault Refusal :=
  match s.input with
  | .nums [d, 1] =>
    .next (State.machineFault (s.updDie d (fun x => { x with log := x.log ++ [⟨s.time, 0xFF, 0, 0, 1⟩] })))
  | _ => .next s.machineFault

end Sys2Proof.Machine
end

