-- ==== Sys2Proof/Machine/Csr.lean ====
section
/-! DEFINITION. The CSR space (R134 to R136) and the CSR instructions (R151). -/

namespace Sys2Proof.Machine
open Sys2Proof

/-- What a mode may do with a CSR (R134). -/
inductive Acc where
  | no | ro | rw
deriving DecidableEq, Repr

/-- The access that a CSR number allows in a mode; none for a number that is not listed (R134). -/
def csrAcc (n : Nat) (m : Mode) : Option Acc :=
  match n with
  | 0x001 | 0x00B | 0x00C | 0x00D | 0x00E => some .rw
  | 0x008 | 0x009 | 0x00A | 0x010 | 0x018 | 0x020 | 0x021 | 0x030 | 0x031 | 0x032 => some .ro
  | 0x019 | 0x01A => some (if m = .u then .ro else .rw)
  | 0x100 | 0x101 | 0x102 | 0x103 | 0x104 | 0x110 => some (if m = .u then .no else .rw)
  | _ => none

/-- `tstat` as a hart reads it: on the management hart PM always reads 10 (R361). -/
def Hart.tstatWord (h : Hart) : Word := if h.isMgmt then h.tstat &&& ~~~3#64 ||| 2#64 else h.tstat

/-- The field of `ebcnt` or `eblim` of a launch; a hart without a launch reads 0. -/
def State.launchWord (s : State) (f : Launch → Word) : Word := ((s.hart.launch.bind s.launchOf).map f).getD 0

/-- The value of a CSR of the hart in focus. -/
def State.csr (s : State) (n : Nat) : Word :=
  let h := s.hart
  match n with
  | 0x001 => h.fcsr
  | 0x008 => BitVec.ofNat 64 h.vl
  | 0x009 => BitVec.ofNat 64 h.vh
  | 0x00A => 0#52 ++ h.blk ++ 0#4 ++ h.nxt ++ 0#2 ++ h.regs
  | 0x00B => h.vstart.setWidth 64
  | 0x00C => h.vdirty
  | 0x00D => h.vqin
  | 0x00E => h.vqout
  | 0x010 => BitVec.ofNat 64 h.mgrant
  | 0x018 => h.kclass.setWidth 64
  | 0x019 => s.launchWord (·.ebcnt)
  | 0x01A => s.launchWord (·.eblim)
  | 0x020 => h.hid.setWidth 64
  | 0x021 => h.gid
  | 0x030 => BitVec.ofNat 64 s.cycle
  | 0x031 => h.instret
  | 0x032 => BitVec.ofNat 64 s.time
  | 0x100 => h.tcause.setWidth 64
  | 0x101 => h.tepc
  | 0x102 => h.tval
  | 0x103 => h.tvec
  | 0x104 => h.tstatWord
  | 0x110 => if h.isCompute then BitVec.ofNat 64 (s.die (hidDie h.hid)).wfrac else 0
  | _ => 0

/-- `fcsr` after a write (R93): a reserved RM keeps RM, and a seed of 0 is replaced. -/
def fcsrStore (old v : Word) : Word :=
  let rm := if 6 ≤ (v.extractLsb' 8 3).toNat then old.extractLsb' 8 3 else v.extractLsb' 8 3
  seedStore (v.extractLsb' 32 32) ++ 0#21 ++ rm ++ 0#2 ++ v.extractLsb' 0 6

/-- `tstat` after a write (R361): which codes of PM each kind of hart accepts. -/
def Hart.tstatStore (h : Hart) (v : Word) : Word :=
  let p := (v.extractLsb' 0 2).toNat
  let keep : Bool := decide (p = 3) || (!h.isMgmt && decide (p = 2)) || (h.isSys && decide (p = 0))
  let pm : BitVec 2 := if h.isMgmt then 2 else if keep then h.tstat.extractLsb' 0 2 else v.extractLsb' 0 2
  v &&& 0xF00398#64 ||| pm.setWidth 64

/-- Writes a launch's counts or limits: ERROR_BUDGET is armed again, and raised at once when a count is exhausted (R285). -/
def State.writeBudget (s : State) (f : Launch → Launch) : State :=
  match s.hart.launch with
  | none => s
  | some l => (s.updLaunch l (fun x => { f x with ebDone := false })).checkBudget l

/-- Writes a CSR of the hart in focus; fields that are RO keep their value. -/
def State.setCsr (s : State) (n : Nat) (v : Word) : State :=
  match n with
  | 0x001 => s.upd (fun h => { h with fcsr := fcsrStore h.fcsr v })
  | 0x00B => s.upd (fun h => { h with vstart := v.extractLsb' 0 15 })
  | 0x00C => s.upd (fun h => { h with vdirty := v &&& BitVec.ofNat 64 (2 ^ (8 * 2 ^ h.regs.toNat) - 1) })
  | 0x00D => s.upd (fun h => { h with vqin := v })
  | 0x00E => s.upd (fun h => { h with vqout := v })
  | 0x019 => s.writeBudget (fun x => { x with ebcnt := v })
  | 0x01A => s.writeBudget (fun x => { x with eblim := v })
  | 0x100 => s.upd (fun h => { h with tcause := v.extractLsb' 0 8 })
  | 0x101 => s.upd (fun h => { h with tepc := v &&& ~~~7#64 })
  | 0x102 => s.upd (fun h => { h with tval := v })
  | 0x103 => s.upd (fun h => { h with tvec := v &&& ~~~7#64 })
  | 0x104 => s.upd (fun h => { h with tstat := h.tstatStore v })
  | 0x110 => if s.hart.isCompute then s.setWfrac (hidDie s.hart.hid) v else s
  | _ => s

/-- Whether the management hart lacks a CSR (R134). -/
def Hart.lacksCsr (h : Hart) (n : Nat) : Bool := h.isMgmt && decide (0x008 ≤ n ∧ n ≤ 0x010)

/-- The issue of a CSR instruction (R134, R135, R151): the number and the mode are checked before the token wait. `wr` tells
whether it writes, and `new` gives the value written from the old one. -/
def csrIssue (i : Instr) (g : Hdr) (xd : XReg) (n : BitVec 12) (xs : List XReg) (wr rw : Bool)
    (new : State → Word → Word) (s : State) : Host.Outcome State Fault Refusal :=
  let go (rw : Bool) (s : State) : Host.Outcome State Fault Refusal := issue i true .all g xs [] (fun s =>
    let old := s.csr n.toNat
    let v := new s old
    .done ((if rw then s.setCsr n.toNat v else s).setX xd old)) s
  if s.hart.lacksCsr n.toNat then finish (wordTrap .illegalInstr i s)
  else match csrAcc n.toNat s.hart.mode with
    | none => finish (wordTrap .illegalInstr i s)
    | some .no => finish (wordTrap .privilege i s)
    | some .ro => if wr then finish (wordTrap .illegalInstr i s) else go false s
    | some .rw => go rw s

/-- CSRR (R151). -/
def execCsrr (g : Hdr) (xd : XReg) (n : BitVec 12) (s : State) : Host.Outcome State Fault Refusal :=
  csrIssue (.csrr g xd n) g xd n [] false false (fun _ old => old) s
/-- CSRW (R151). -/
def execCsrw (g : Hdr) (xd : XReg) (n : BitVec 12) (xa : XReg) (s : State) : Host.Outcome State Fault Refusal :=
  csrIssue (.csrw g xd n xa) g xd n [xa] true true (fun s _ => s.x xa) s
/-- CSRS (R151). -/
def execCsrs (g : Hdr) (xd : XReg) (n : BitVec 12) (xa : XReg) (s : State) : Host.Outcome State Fault Refusal :=
  csrIssue (.csrs g xd n xa) g xd n [xa] (xa != 0) true (fun s old => old ||| s.x xa) s
/-- CSRC (R151). -/
def execCsrc (g : Hdr) (xd : XReg) (n : BitVec 12) (xa : XReg) (s : State) : Host.Outcome State Fault Refusal :=
  csrIssue (.csrc g xd n xa) g xd n [xa] (xa != 0) true (fun s old => old &&& ~~~s.x xa) s

end Sys2Proof.Machine
end

