-- ==== Sys2Proof/Machine/Lane.lean ====
section
/-! DEFINITION. The head of a vector queue (R20, R41, R119): what an instruction of the vector queue names, whether its register
interlocks are met, and what the scalar unit goes past ahead of it (R351). -/

namespace Sys2Proof

/-- The sources of a V3 instruction. -/
def VBin.regs (o : VBin) : List VReg := if o.q then [o.b.v] else [o.a.v, o.b.v]

end Sys2Proof

namespace Sys2Proof.Machine
open Sys2Proof

/-! ## What an instruction of the vector queue names (R41, R156, R222) -/

/-- What the issue of an instruction of the vector queue waits for: the vector registers that it names, those among them that it
writes, the tile that it reads itself, the token that it sets; and whether the scalar unit stays behind it, because it writes a scalar register or a
predicate, or is an acquire (R318, R351). -/
structure LaneUse where
  regs  : List VReg := []
  dst   : List VReg := []
  tile  : Option AReg := none
  tk    : Option (BitVec 3) := none
  stops : Bool := false

/-- An instruction that writes `vd` and reads `vs`. -/
def writesV (vd : VReg) (vs : List VReg) : LaneUse := { regs := vd :: vs, dst := [vd] }
/-- A load of `vd`, with its index register if it has one. -/
def loadsV (vd : VReg) (vs : List VReg) (t : VmTail) : LaneUse := { regs := vd :: vs, dst := [vd], tk := vmToken t }
/-- A store of the registers. -/
def storesV (vs : List VReg) (t : VmTail) : LaneUse := { regs := vs, tk := vmToken t }
/-- A vector atomic. -/
def atomicV (vs : List VReg) (nr : Bool) (o : Ord) (t : VmTail) : LaneUse :=
  { regs := vs, dst := if nr then [] else vs.take 1, tk := vmToken t, stops := o.aq }
/-- A collective in register form; `blk` when it has scales, in the registers behind. -/
def collV (vd va : VReg) (tk : Option (BitVec 3)) (blk : Bool) : LaneUse :=
  { regs := [vd, va] ++ (if blk then [vd + 1, va + 1] else []), dst := vd :: (if blk then [vd + 1] else []), tk := tk }

/-- What an instruction of the vector queue names; none for one that does not go through it (R41, R58). -/
def laneUse : Instr → Option LaneUse
  | .vmov _ vd a => some (writesV vd [a.v])
  | .vsliceExtract _ _ vd va _ => some (writesV vd [va])
  | .vsliceInsert _ _ vd va _ => some (writesV vd [va])
  | .vbcast _ vd _ => some (writesV vd [])
  | .vxt _ _ va _ => some { regs := [va], stops := true }
  | .vins _ vd _ _ => some (writesV vd [])
  | .vadd _ vd o _ _ => some (writesV vd o.regs)
  | .vsub _ vd o _ _ => some (writesV vd o.regs)
  | .vmin _ vd o _ _ => some (writesV vd o.regs)
  | .vmax _ vd o _ _ => some (writesV vd o.regs)
  | .vabs _ vd a _ _ => some (writesV vd [a.v])
  | .vneg _ vd a _ _ => some (writesV vd [a.v])
  | .vmul _ vd o _ _ => some (writesV vd o.regs)
  | .vmulh _ vd o => some (writesV vd o.regs)
  | .vdiv _ vd o _ _ => some (writesV vd o.regs)
  | .vrem _ vd o _ => some (writesV vd o.regs)
  | .vsqrt _ vd a _ _ => some (writesV vd [a.v])
  | .vrcp _ vd a _ _ => some (writesV vd [a.v])
  | .vrsq _ vd a _ _ => some (writesV vd [a.v])
  | .vfma _ vd o vc _ _ => some (writesV vd (vc :: o.regs))
  | .vfms _ vd o vc _ _ => some (writesV vd (vc :: o.regs))
  | .vfnma _ vd o vc _ _ => some (writesV vd (vc :: o.regs))
  | .vcmp _ _ _ a b => some { regs := [a.v, b.v], stops := true }
  | .vand _ vd o => some (writesV vd o.regs)
  | .vor _ vd o => some (writesV vd o.regs)
  | .vxor _ vd o => some (writesV vd o.regs)
  | .vnot _ vd a => some (writesV vd [a.v])
  | .vshl _ vd o => some (writesV vd o.regs)
  | .vshr _ vd o => some (writesV vd o.regs)
  | .vsha _ vd o => some (writesV vd o.regs)
  | .vrot _ vd o => some (writesV vd o.regs)
  | .vclz _ vd a => some (writesV vd [a.v])
  | .vpopc _ vd a => some (writesV vd [a.v])
  | .vbrev _ vd a => some (writesV vd [a.v])
  | .vbitil _ k3 vd a b vc => some (writesV vd ([a.v, b.v] ++ if k3 then [vc] else []))
  | .vbitdl _ _ vd a _ => some (writesV vd [a.v])
  | .vred _ _ vd va _ _ => some (writesV vd [va])
  | .vscan _ _ vd va _ _ => some (writesV vd [va])
  | .vmaxi _ vd va _ _ => some { writesV vd [va] with stops := true }
  | .vmini _ vd va _ _ => some { writesV vd [va] with stops := true }
  | .vslideUp _ vd va _ => some (writesV vd [va])
  | .vslideDn _ vd va _ => some (writesV vd [va])
  | .vperm _ vd va vb => some (writesV vd [va, vb])
  | .vcompr _ vd va => some (writesV vd [va])
  | .vexpd _ vd va => some (writesV vd [va])
  | .viota _ vd _ => some (writesV vd [])
  | .vtrans _ vd va => some (writesV vd [va])
  | .vcvt _ vd a _ _ => some (writesV vd [a.v])
  | .vqnt _ vd va vs _ => some { regs := [vd, va, vs], dst := [vd, vs] }
  | .vdqnt _ vd va vs _ _ => some (writesV vd [va, vs])
  | .vsel _ vd a b _ => some (writesV vd [a.v, b.v])
  | .vexp2 _ vd a _ _ => some (writesV vd [a.v])
  | .vlog2 _ vd a _ _ => some (writesV vd [a.v])
  | .vld _ vd _ t => some (loadsV vd [] t)
  | .vldP _ vd _ _ t => some (loadsV vd [] t)
  | .vlds _ vd _ _ t => some (loadsV vd [] t)
  | .vgth _ vd _ vb _ t => some (loadsV vd [vb] t)
  | .vgthCl _ vd _ vb _ t => some (loadsV vd [vb] t)
  | .vldw _ vd _ _ t => some (loadsV vd [] t)
  | .pref .. => some {}
  | .vst _ vs _ t => some (storesV [vs] t)
  | .vstP _ vs _ _ t => some (storesV [vs] t)
  | .vsts _ vs _ _ t => some (storesV [vs] t)
  | .vsct _ vs _ vb _ t => some (storesV [vs, vb] t)
  | .vsctCl _ vs _ vb _ t => some (storesV [vs, vb] t)
  | .vamo _ _ nr vd _ vb _ o t => some (atomicV [vd, vb] nr o t)
  | .vcas _ vd _ vb _ o t => some (atomicV [vd, vb, vd + 1] false o t)
  | .vbinc _ vd _ vb _ o t => some (atomicV [vd, vb] false o t)
  | .vstm _ vs _ _ t => some (storesV [vs] t)
  | .vpush _ _ vs _ tc nb => some { regs := [vs], tk := if nb || tc == 0 then none else some tc }
  | .vtake _ _ vd vm => some { writesV vd [vm] with stops := true }
  | .vfesRd .. => some { stops := true }
  | .vfesClr .. => some { stops := true }
  | .vfesSet .. => some { stops := true }
  | .strm _ _ _ _ _ _ cnt n => some { tk := if cnt then none else some n }
  | .strm2d _ _ _ _ _ _ cnt n => some { tk := if cnt then none else some n }
  | .wopen .. => some {}
  | .wclose .. => some {}
  | .winv .. => some {}
  | .matt .. => some { stops := true }
  | .mdet _ => some {}
  | .munf .. => some {}
  | .mma _ _ ma mb ms tk asrc bsrc _ scl => some { regs := (if asrc then [] else [ma]) ++ (if bsrc then [] else [mb])
      ++ (if scl then ms :: (if bsrc then [] else [ms + 1]) else []), tk := tk }
  | .maccLd _ _ va _ tk => some { regs := [va], tk := tk }
  | .maccSt _ vd ta _ tk => some { writesV vd [] with tile := some ta, tk := tk }
  | .maccZ _ _ tk _ => some { tk := tk }
  | .mepi _ vd ta vb vs tk _ _ _ scl bia =>
      some { writesV vd ((if scl then [vs] else []) ++ (if bia then [vb] else [])) with tile := some ta, tk := tk }
  | .wsld _ _ _ _ tk => some { tk := tk, stops := true }
  | .wsberthGet .. => some { stops := true }
  | .wsberthRdy .. => some { stops := true }
  | .wsberthDrop .. => some { stops := true }
  | .collArV _ op vd va _ _ tk => some (collV vd va tk (op == .blkAdd))
  | .collRsV _ op vd va _ _ tk => some (collV vd va tk (op == .blkAdd))
  | .collAgV _ vd va _ _ tk => some (collV vd va tk false)
  | .collBcV _ vd va _ _ tk => some (collV vd va tk false)
  | .collArM _ _ _ _ _ _ tk => some { tk := tk }
  | .collRsM _ _ _ _ _ _ tk => some { tk := tk }
  | .collAgM _ _ _ _ _ tk => some { tk := tk }
  | .collBcM _ _ _ _ _ tk => some { tk := tk }
  | .collSrs _ _ _ _ _ tk => some { tk := tk }
  | .collBar _ _ _ tk => some { tk := tk }
  | .collWait .. => some { stops := true }
  | .collStat .. => some { stops := true }
  | .collStatClr .. => some { stops := true }
  | _ => none

/-- Whether the interlocks of an instruction are met: its registers and its tile (R156, R222), and its token (R41). -/
def Hart.laneReady (h : Hart) (u : LaneUse) : Bool :=
  !h.interlocked (u.regs.map (·.toNat)) (u.dst.map (·.toNat)) && !u.tile.any (fun t => h.tileBusy t.toNat)
    && !u.tk.any (fun k => h.tok.getLsbD k.toNat)

/-- Whether the next instruction of a hart stands at the head of its vector queue with its interlocks met and its WM tokens clear (R38, R41,
R119). The state is only looked at. -/
def State.headReady (s : State) (hid : BitVec 20) : Bool :=
  let s := s.focus hid
  s.hart.run == .running && match s.fetch with
    | (.ok w, _) => !s.hart.waits (w.extractLsb' 43 8) && match decode w with
      | .ok i => (laneUse i).any s.hart.laneReady
      | .error _ => false
    | (.error _, _) => false

/-! ## The scalar unit ahead of the queue (R20, R351) -/

/-- The depth of a vector queue (R20). -/
def queueDepth : Nat := 32
/-- What the scalar unit may do ahead of the vector queue (R351): an instruction that writes scalar registers, predicates and the program
counter only, scalar loads among them. -/
def runsAhead (op : Nat) : Bool :=
  decide ((0x01 ≤ op ∧ op ≤ 0x04) ∨ (0x10 ≤ op ∧ op ≤ 0x13) ∨ op = 0x18 ∨ op = 0x19 ∨ (0x20 ≤ op ∧ op ≤ 0x24) ∨ op = 0x28 ∨ (0x30 ≤ op ∧ op ≤ 0x33))
/-- The copy behind an instruction that the scalar unit leaves in the vector queue. -/
def State.passed (c : State) (u : LaneUse) : State :=
  c.completed.upd (fun h => match u.tk with
    | some k => h.setTok k
    | none => h)

end Sys2Proof.Machine
end

