-- ==== Sys2Proof/Machine/Place.lean ====
section
/-! DEFINITION. The scheduler's own acts: placement and hart start (R102, R109 to R111), reservations (R112), choice of victims
(R114, R439), resumption (R116, R215), abort and halt (R104, R108), and the choice of a lane group (R119). -/

namespace Sys2Proof.Machine
open Sys2Proof

/-! ## Allotments (R34, R111) -/

/-- The tenant that last held an offset. -/
def holderAt (o : Nat) : List (Nat × Nat × BitVec 6) → BitVec 6
  | [] => 0
  | r :: rs => if r.1 ≤ o ∧ o < r.2.1 then r.2.2 else holderAt o rs

/-- The points at which holders change inside a range, in order. -/
def cutPoints (lo hi : Nat) (rs : List (Nat × Nat × BitVec 6)) : List Nat :=
  sortBy (fun a b => decide (a ≤ b)) ((lo :: hi :: rs.flatMap (fun r => [r.1, r.2.1])).filter (fun p => decide (lo ≤ p ∧ p ≤ hi)))

/-- Gives the bytes of an allotment to a tenant (R111): those of another holder read as zero, the tenant's own are
indeterminate. `base` is the address of the store. -/
def State.allotBytes (s : State) (base : Nat) (rs : List (Nat × Nat × BitVec 6)) (t : BitVec 6) : List Nat → State
  | a :: b :: ps =>
    let s := if b ≤ a then s
      else if holderAt a rs = t then s.markIndet (base + a) (base + b)
      else s.zeroRange (base + a) (base + b)
    s.allotBytes base rs t (b :: ps)
  | _ => s

/-- Allots a scratchpad range of a core. -/
def State.allotSpm (s : State) (core o n : Nat) (t : BitVec 6) : State :=
  if n = 0 then s else
  let rs := (s.core core).spm
  (s.allotBytes (spmBase core) rs t (cutPoints o (o + n) rs)).updCore core (fun c => { c with spm := (o, o + n, t) :: c.spm })
/-- Allots an accumulator range of a core. -/
def State.allotAcc (s : State) (core o n : Nat) (t : BitVec 6) : State :=
  if n = 0 then s else
  let rs := (s.core core).acc
  (s.allotBytes (accBase core) rs t (cutPoints o (o + n) rs)).updCore core (fun c => { c with acc := (o, o + n, t) :: c.acc })

/-! ## Hart start (R102) -/

/-- `gid` of a hart (R120). -/
def gidOf (l : Launch) (num bar size i : Nat) : Word :=
  0#32 ++ BitVec.ofNat 6 l.lid.q ++ pkClass l.pk ++ BitVec.ofNat 12 num ++ BitVec.ofNat 4 bar ++ BitVec.ofNat 4 (size - 1)
    ++ BitVec.ofNat 4 i

/-- The 32-bit arguments ARG3 to ARG8 as registers (R97, R102). -/
def pkArg (pk : BitVec 512) (i : Nat) : Word := (pk.extractLsb' (320 + 32 * (i - 3)) 32).signExtend 64

/-- The scalar registers at hart start (R102). -/
def startX (l : Launch) (x11 x12 : Word) : Vector Word 64 := Vector.ofFn (fun i : Fin 64 =>
  match i.val with
  | 1 => pkWord l.pk 3
  | 2 => pkWord l.pk 4
  | 3 | 4 | 5 | 6 | 7 | 8 => pkArg l.pk i.val
  | 9 => BitVec.ofNat 64 (pkCount l.pk)
  | 10 => BitVec.ofNat 64 l.lid.seq
  | 11 => x11
  | 12 => x12
  | _ => 0)

/-- Starts hart `i` of a gang (R93, R102, R354, R358). -/
def State.startHart (s : State) (l : Launch) (g : Gang) (i hid : Nat) (acc : Nat) : State :=
  let id := BitVec.ofNat 20 hid
  let core := coreKey id
  let d := s.die (hidDie id)
  let pod := s.pkg.toNat * 2 ^ 45
  let x11 := BitVec.ofNat 64 (pod + spmBase core + g.spmOff)
  let x12 := BitVec.ofNat 64 (pod + accBase core + acc)
  let seed := seedStore (mix (BitVec.ofNat 32 l.lid.seq ^^^ id.setWidth 32))
  let s := s.zeroRange (accBase core + 0x1C0000 + 0x200 * hidHart id) (accBase core + 0x1C0200 + 0x200 * hidHart id)
  s.updHart id (fun old => { Hart.reset id with
    run := .running, mode := .u, tenant := l.tenant, launch := some l.lid
    gid := gidOf l g.num g.bar g.harts.length i
    kclass := pkClass l.pk
    pc := pkEntry l.pk
    x := startX l x11 x12
    sb := (Vector.replicate 4 (0 : Word)).set 0 (d.sxdef + BitVec.ofNat 64 (64 * hartI id))
    regs := pkRegs l.pk, nxt := pkRegs l.pk
    fcsr := seed ++ 0#32
    tvec := d.tvdef
    headSince := s.cycleOf (hidDie id)
    pushes := old.pushes, pushNo := old.pushNo })

/-! ## Resumption (R116, R215) -/

/-- A hart as it resumes: what R116 names keeps its value, and its registers hold what other work left in them (free). -/
def staleHart (n : Nat) (h : Hart) (rows : Nat) : Hart :=
  { h with
    run := .running, mgrant := rows
    x := Vector.ofFn (fun i : Fin 64 => Config.staleX n i.val)
    p := Vector.ofFn (fun i : Fin 16 => Config.staleP n i.val)
    vst := Config.staleV n }

/-- Gives a gang its class modes and its allotments (R34, R111). -/
def State.allot (s : State) (g : Gang) : State :=
  let s := g.cores.foldl (fun s k => (s.switchCls (4 * g.cl + k) g.cls).allotSpm (4 * g.cl + k) g.spmOff g.spmLen g.tenant) s
  (g.js.zip g.accOff).foldl (fun s h => s.allotAcc (4 * g.cl + h.1 / 4) h.2 g.accLen g.tenant) s

/-- Resumes a parked gang in its place, with the grants recorded as its harts parked. The registers of the trap blocks hold what was written
there in between (R354). DESIGN CHOICE (log 80): the gang's residence (MINRES) and its placement time (R114) count from its resumption. -/
def State.resumeGang (s : State) (g : Gang) : State :=
  let s := s.allot g
  let s := s.updGangs (fun x => x.lid == g.lid && x.num == g.num) (fun x => { x with
    st := .resident, since := s.cycleOf 8, live := x.saved.map (fun h => h.hid.toNat), saved := [], rowsResv := 0, yielded := false
    grants := x.grants.map (fun _ => 0) })
  let s := s.updBar g.cl g.bar (fun _ => g.barSaved)
  g.saved.foldl (fun s h =>
    let (n, s) := s.fresh
    s.updHart h.hid (fun old => { staleHart n h (g.grants.getD (g.harts.idxOf h.hid.toNat) 0) with
      tcmp := old.tcmp, fb := old.fb })) s

/-- Whether a parked gang can resume by itself: its place and its rows are there (R116, R215). -/
def State.resumable (s : State) (g : Gang) : Bool :=
  s.placeBack g && decide (g.grants.sum ≤ s.freeRows g.cl + g.rowsResv)

/-- Resumes gangs one after another, each within the rows that the earlier ones have left; none when one cannot (R116, R215). -/
def State.resumeAll : List Gang → State → Option State
  | [], s => some s
  | g :: gs, s => if s.resumable g then State.resumeAll gs (s.resumeGang g) else none

/-- What resumes with a parked gang: all of a co-resident launch, once all of it has parked (R116). -/
def State.resumeWith (s : State) (g : Gang) : Option State :=
  if s.couldResume g then State.resumeAll (s.resumeSet g) s else none

/-! ## Placement (R109, R110, R116) -/

/-- Whether a cluster is open to a new gang of a launch: no reservation of at least its priority by another launch (R112), and
no parked gang of at least its priority that can resume there, with its launch if that is co-resident (R116). -/
def State.openTo (s : State) (cl : Nat) (l : LaunchId) (p : Nat) : Bool :=
  !s.resvs.any (fun r => r.cl == cl && r.lid != l && decide (p ≤ r.prio))
    && !s.gangs.any (fun g => g.cl == cl && g.st == Resid.parked && decide (p ≤ s.gangPrio g) && (s.resumeWith g).isSome)

/-- The better of two clusters (R110): no class switch, then fewest free harts left, then the lowest number. -/
def betterSpot (a b : Nat × Nat × Spot) : Bool :=
  (!a.2.2.switch && b.2.2.switch) || (a.2.2.switch == b.2.2.switch && decide (a.2.1 ≤ b.2.1))

/-- Where a gang of a launch goes, given the gangs that count (R109, R110): cluster and spot. -/
def State.choose (s : State) (sh : Shape) (gs : List Gang) (clusters : List Nat) : Option (Nat × Spot) :=
  (clusters.filterMap (fun cl =>
    let u := usageOf s cl gs
    (findSpot u sh).map (fun q => (cl, 16 - u.harts.eraseDups.length - sh.g, q)))).foldl
      (fun best c => match best with
        | none => some c
        | some b => if betterSpot b c then some b else some c) none
    |>.map (fun c => (c.1, c.2.2))

/-- The gang that stands for a spot. -/
def spotGang (l : Launch) (num cl : Nat) (sh : Shape) (p : Spot) (pkg : BitVec 7) (now : Nat) : Gang :=
  let hs := p.harts.map (fun h => (mkHid pkg cl h.1).toNat)
  { lid := l.lid, num := num, cl := cl, harts := hs, live := hs, ended := [], spmOff := p.spm, spmLen := sh.spm
    accOff := p.harts.map (·.2), accLen := sh.acc, bar := p.bar, cls := sh.cls, tenant := l.tenant, st := .resident
    since := now, parkNo := 0, forL := none, yielded := false, barSaved := {}, grants := hs.map (fun _ => 0), rowsResv := 0
    saved := [] }

/-- Seats a gang: class modes, allotments, barrier register (R34, R111, R121). -/
def State.seat (s : State) (g : Gang) (b : Bar) : State :=
  let s := s.allot g
  { s with gangs := s.gangs ++ [g] }.updBar g.cl g.bar (fun _ => b)
/-- Places the next gang of a launch at a spot (R102). -/
def State.placeAt (s : State) (l : Launch) (cl : Nat) (p : Spot) : State :=
  let g := spotGang l l.placed cl (shapeOf l.pk) p s.pkg (s.cycleOf 8)
  let s := s.seat g { used := true, members := BitVec.ofNat 16 (2 ^ g.harts.length - 1) }
  (g.harts.zip g.accOff).zipIdx.foldl (fun s (h, i) => s.startHart l g i h.1 h.2) s

/-- What follows the placement of `n` gangs of a launch: its state, the promises made to it, its reservation, the round-robin
pointer (R106, R108, R112, R283). -/
def State.placedGangs (s : State) (l : Launch) (n : Nat) : State :=
  let s := s.updLaunch l.lid (fun x => { x with
    placed := x.placed + n, started := true, st := .placing, waits := none
    ebcnt := if x.started then x.ebcnt else 0
    eblim := if x.started then x.eblim else s.ebdef })
  let s := s.promiseKept l.lid
  State.settle { s with resvs := s.resvs.filter (fun r => r.lid != l.lid), rr := (l.lid.q + 1) % 64 }

/-- Places gangs of a launch one after another; none when one does not fit (R107, R439). -/
def State.placeMany (l : Launch) : Nat → State → Option State
  | 0, s => some s
  | n + 1, s =>
    match s.launchOf l.lid with
    | none => none
    | some x =>
      let p := s.prio x
      match s.choose (shapeOf l.pk) (s.rivals l.lid p (fun _ => false))
          ((List.range 256).filter (fun cl => s.openTo cl l.lid p)) with
      | none => none
      | some (cl, q) =>
        State.placeMany l n ((s.placeAt x cl q).updLaunch l.lid (fun y => { y with placed := y.placed + 1 }))

/-- How many gangs a launch places together (R106, R107): one, or all of a co-resident launch. -/
def together (l : Launch) : Nat := if pkCor l.pk then pkGangs l.pk - l.placed else 1

/-- The order in which launches are served (R106): priority, then the round-robin pointer between queues, then age. -/
def State.servedBefore (s : State) (a b : Launch) : Bool :=
  let k (l : Launch) : Nat := (l.lid.q + 64 - s.rr) % 64
  decide (s.prio b < s.prio a) || (s.prio a == s.prio b && (decide (k a < k b) || (k a == k b && decide (a.lid.seq ≤ b.lid.seq))))
/-- The launches that want a gang placed, in the order of service. -/
def State.candidates (s : State) : List Launch := sortBy s.servedBefore (s.launches.filter s.wantsGang)

/-- Places the first candidate that fits; one that fits nowhere begins to wait (R112). -/
def State.placeFirst : List Launch → State → State
  | [], s => s
  | l :: ls, s =>
    match State.placeMany l (together l) s with
    | some s' => (s'.updLaunch l.lid (fun x => { x with placed := l.placed })).placedGangs l (together l)
    | none => State.placeFirst ls (s.updLaunch l.lid (fun x => { x with waits := some (x.waits.getD (s.cycleOf 8)) }))

/-- GANG_PLACEMENT (R109). A package that is undocking places nothing (R428). -/
def execGangPlacement (s : State) : Host.Outcome State Fault Refusal :=
  .next (if s.undocking then s else State.placeFirst s.candidates s)

/-! ## Reservations (R112) -/

/-- The sublists of a list. -/
def subsets {α : Type} : List α → List (List α)
  | [] => [[]]
  | x :: xs => subsets xs ++ (subsets xs).map (x :: ·)
/-- The smallest number of resident harts whose gangs, removed together, would let a gang fit a cluster. -/
def State.removalCost (s : State) (lid : LaunchId) (cl : Nat) (sh : Shape) : Option Nat :=
  let all := s.gangs.filter (fun g => g.cl == cl)
  let res := all.filter (fun g => g.st != Resid.parked)
  ((subsets res).filterMap (fun out =>
    let left := all.filter (fun g => !out.any (fun o => o.lid == g.lid && o.num == g.num))
    (findSpot (usageOf s cl (left ++ s.promisedAway lid)) sh).map (fun _ => (out.map (fun g => g.live.length)).sum))).min?

/-- The launch that receives the next reservation: it has waited long enough, its priority has none, and it has waited
longest. -/
def State.reserveFor (s : State) : Option Launch :=
  let now := s.cycleOf 8
  let hold := min (s.schcfg.extractLsb' 0 6).toNat 40
  (s.launches.filter (fun l => s.wantsGang l && !s.resvs.any (fun r => r.prio == s.prio l) && match l.waits with
    | some t => decide (t + 2 ^ hold ≤ now)
    | none => false)).foldl (fun best l => match best with
      | none => some l
      | some b => if b.waits.getD 0 ≤ l.waits.getD 0 then some b else some l) none

/-- Makes a reservation: the cluster with the least cost, ties to the lowest; its idle cores take the gang's class. -/
def State.reserve (s : State) (l : Launch) : State :=
  let sh := shapeOf l.pk
  let costs := (List.range 256).filterMap (fun cl => (s.removalCost l.lid cl sh).map (fun n => (cl, n)))
  match costs.foldl (fun best c => match best with
      | none => some c
      | some b => if b.2 ≤ c.2 then some b else some c) (none : Option (Nat × Nat)) with
  | none => s
  | some (cl, _) =>
    let s := { s with resvs := s.resvs ++ [⟨cl, l.lid, s.prio l⟩] }
    (List.range 4).foldl (fun s k =>
      if s.gangs.any (fun g => g.cl == cl && g.cores.contains k) then s else s.switchCls (4 * cl + k) sh.cls) s

/-- SCHEDULER_RESERVATION (R112). -/
def execSchedulerReservation (s : State) : Host.Outcome State Fault Refusal :=
  .next (match s.reserveFor with
    | some l => s.reserve l
    | none => s)

/-! ## Victims (R114, R439) -/

/-- The possible victims of a launch of priority `p`, in order: priority ascending, youngest first (R114). -/
def State.victims (s : State) (p : Nat) : List Gang :=
  let minres := 2 ^ (s.schcfg.extractLsb' 6 5).toNat
  sortBy (fun a b => decide (s.gangPrio a < s.gangPrio b) || (s.gangPrio a == s.gangPrio b && decide (b.since ≤ a.since)))
    (s.gangs.filter (fun g => g.st == Resid.resident && decide (s.gangPrio g < p) && decide (g.since + minres ≤ s.cycleOf 8)))

/-- Whether a gang goes with a prefix of victims: it is in it, or its co-resident launch is. -/
def State.inPrefix (s : State) (vs : List Gang) (g : Gang) : Bool :=
  vs.any (fun v => v.lid == g.lid && (v.num == g.num || s.isCor v))

/-- The length of the shortest prefix of the victims of a cluster whose removal makes room there. -/
def State.prefixLen (s : State) (l : Launch) (cl : Nat) (vs : List Gang) : Option Nat :=
  let mine := vs.filter (fun v => v.cl == cl)
  ((List.range mine.length).map (· + 1)).find? (fun k =>
    (s.fitsWithout cl l.lid (s.prio l) (shapeOf l.pk) (s.inPrefix (mine.take k))).isSome)

/-- Whether gangs have been chosen for a launch already. -/
def State.promised (s : State) (l : LaunchId) : Bool := s.gangs.any (fun g => g.forL == some l) || s.promises.any (fun g => g.forL == some l)

/-- Chooses victims for a launch (R114). -/
def State.preemptFor (s : State) (l : Launch) : State :=
  let vs := s.victims (s.prio l)
  let ns := (List.range 256).filterMap (fun cl => (s.prefixLen l cl vs).map (fun n => (cl, n)))
  match ns.foldl (fun best c => match best with
      | none => some c
      | some b => if b.2 ≤ c.2 then some b else some c) (none : Option (Nat × Nat)) with
  | none => s
  | some (cl, n) => s.preemptGangs (s.inPrefix ((vs.filter (fun v => v.cl == cl)).take n)) l.lid false

/-- PREEMPT_SELECTION (R114): the first candidate that is not co-resident and fits no cluster. -/
def execPreemptSelection (s : State) : Host.Outcome State Fault Refusal :=
  .next (match s.candidates.find? (fun l => !pkCor l.pk && !s.fitsSome l && !s.promised l.lid) with
    | some l => s.preemptFor l
    | none => s)

/-- Whether `n` gangs of a launch fit one after another, with some gangs taken away (R439). -/
def State.fitMany (s : State) (l : Launch) (sh : Shape) (num : Nat) : Nat → List Gang → Bool
  | 0, _ => true
  | n + 1, gs =>
    match s.choose sh gs (List.range 256) with
    | none => false
    | some (cl, q) => s.fitMany l sh (num + 1) n (gs ++ [spotGang l num cl sh q s.pkg 0])

/-- Chooses victims for a co-resident launch as a whole (R439). -/
def State.preemptForAll (s : State) (l : Launch) : State :=
  let vs := s.victims (s.prio l)
  match ((List.range vs.length).map (· + 1)).find? (fun k =>
      s.fitMany l (shapeOf l.pk) l.placed (together l) (s.rivals l.lid (s.prio l) (s.inPrefix (vs.take k)))) with
  | none => s
  | some k => s.preemptGangs (s.inPrefix (vs.take k)) l.lid false

/-- CORESIDENT_PREEMPT_SELECTION (R439). -/
def execCoresidentPreemptSelection (s : State) : Host.Outcome State Fault Refusal :=
  .next (match s.candidates.find? (fun l => pkCor l.pk && !s.promised l.lid
      && !s.fitMany l (shapeOf l.pk) l.placed (together l) (s.rivals l.lid (s.prio l) (fun _ => false))) with
    | some l => s.preemptForAll l
    | none => s)

/-! ## GANG_RESUME (R116, R429) -/

/-- Resumes a gang that an undock has moved here, in the first place that R109 gives it with rows enough: it has a new `hid`, and the
`gid.QUEUE` and `gid.BAR` of this package; GANG, GSIZE, GHART and CLASS stay (R120, R429). None when no cluster takes it. -/
def State.welcomeGang (s : State) (l : Launch) (old : Gang) : Option State :=
  (s.choose (shapeOf l.pk) (s.rivals l.lid (s.prio l) (fun _ => false)) ((List.range 256).filter (fun cl =>
      s.openTo cl l.lid (s.prio l) && decide (old.grants.sum ≤ s.freeRows cl)))).map (fun (cl, q) =>
    let g := spotGang l old.num cl (shapeOf l.pk) q s.pkg (s.cycleOf 8)
    let at_ (h : Nat) : Nat := g.harts.getD (old.harts.idxOf h) 0
    let g := { g with live := old.saved.map (fun h => at_ h.hid.toNat), ended := old.ended.map at_ }
    old.saved.foldl (fun s h =>
      let i := old.harts.idxOf h.hid.toNat
      let hid := BitVec.ofNat 20 (at_ h.hid.toNat)
      let (n, s) := s.fresh
      s.updHart hid (fun now => { staleHart n h (old.grants.getD i 0) with
        hid := hid, launch := some l.lid, gid := gidOf l g.num g.bar g.harts.length i, tcmp := now.tcmp, fb := now.fb }))
      (s.seat g old.barSaved))

/-- A launch moved here enters its queue, and its parked gangs resume (R429): all of them, or, when one finds no place yet or the queue is not of
its tenant, nothing happens. The launch takes the next sequence number of its queue (log 38). -/
def State.welcome (s : State) (l : Launch) (gs : List Gang) : State :=
  let q := s.queue l.lid.q
  let l := { l with lid := ⟨l.lid.q, q.qseq⟩, waits := none }
  if 64 ≤ l.lid.q ∨ q.tenant ≠ l.tenant ∨ s.undocking then s
  else
    let s' := { s.updQueue l.lid.q (fun x => { x with qseq := x.qseq + 1 }) with launches := s.launches ++ [l] }
    match gs.foldl (fun (a : Option State) g => a.bind (fun s => s.welcomeGang l g)) (some s') with
    | some u => u.settle
    | none => s

/-- GANG_RESUME (R116): the first parked gang that can resume, with its co-resident launch; or the gangs of a launch that an undock has moved here
(R429). -/
def execGangResume (s : State) : Host.Outcome State Fault Refusal :=
  match s.input with
  | .moved l gs => .next (s.welcome l gs)
  | _ =>
    let order := sortBy s.parkedBefore (s.gangs.filter (fun g => g.st == Resid.parked))
    .next (if s.undocking then s else (order.findSome? s.resumeWith).getD s)

/-! ## Abort and halt (R104, R108) -/

/-- QABORT (R108): the input names the launch. -/
def execQabort (s : State) : Host.Outcome State Fault Refusal :=
  match s.input with
  | .work q seq _ => .next (s.abortLaunch ⟨q, seq⟩)
  | _ => .next s
/-- QCTL_HALTED_CLEAR (R104): the input names the queue. -/
def execQctlHaltedClear (s : State) : Host.Outcome State Fault Refusal :=
  match s.input with
  | .unit q => .next (if (s.queue q).halted then s.clearHalted q else s)
  | _ => .next s

/-! ## The choice of a lane group (R119) -/

/-- The cycle at which the instruction at the head of a vector queue entered it: ahead of its turn, or as it came to the head (R119). -/
def Hart.entered (h : Hart) : Nat :=
  match h.ahead with
  | .queued t :: _ => t
  | _ => h.headSince
/-- The least of some harts by a stamp; ties to the first. -/
def firstBy (f : Nat → Nat) (c : List Nat) : Option Nat :=
  c.foldl (fun best k => match best with
    | none => some k
    | some b => if f k < f b then some k else some b) none
/-- The hart that a lane group chooses among the ready heads (R119): one that has been the head for at least 256 cycles first, the longest; else
the one that entered its queue earliest, ties to the first at or after the pointer. The bits of `free` say for whom the needed unit is
free, which is timing (log 73). -/
def State.laneChoice (s : State) (core : Nat) (ptr : Nat) (free : Nat) : Option Nat :=
  let h (k : Nat) : Hart := s.getHart (mkHid s.pkg (core / 4) (4 * (core % 4) + k))
  let c := ((List.range 4).map (fun i => (ptr + i) % 4)).filter (fun k => free / 2 ^ k % 2 == 1 && s.headReady (h k).hid)
  let old := c.filter (fun k => decide ((h k).headSince + 256 ≤ s.cycleOf (core / 128)))
  if old.isEmpty then firstBy (fun k => (h k).entered) c else firstBy (fun k => (h k).headSince) old

/-- LANE_GROUP_ISSUE (R119): the input names the core, the lane group, and the harts for which the needed unit is free; the
chosen hart moves next. -/
def execLaneGroupIssue (s : State) : Host.Outcome State Fault Refusal :=
  match s.input with
  | .work core lane ready =>
    if hl : lane < 4 then
      match s.laneChoice core ((s.core core).rr[lane]).toNat ready with
      | some k =>
        let s := s.updCore core (fun c => { c with rr := c.rr.set lane (BitVec.ofNat 2 (k + 1)) })
        .next { s with agenda := .hart (mkHid s.pkg (core / 4) (4 * (core % 4) + k)).toNat :: s.agenda }
      | none => .next s
    else .next s
  | _ => .next s

end Sys2Proof.Machine
end

