-- ==== Sys2Proof/Machine/System.lean ====
section
/-! DEFINITION. The system instructions: ECALL, EBREAK, TRET, WAIT, TINV (R365 to R369), VSAVE and VREST (R363, R370, R371), CLSET
(R289), BIND (R291); and the events of traps and of the timer (R354, R357 to R360). -/

namespace Sys2Proof.Machine
open Sys2Proof

/-! ## ECALL, EBREAK, TRET, WAIT (R367 to R369) -/

/-- ECALL (R356, R367). -/
def execEcall (wm : BitVec 8) (imm : BitVec 16) (s : State) : Host.Outcome State Fault Refusal :=
  issue (.ecall wm imm) true .all (.plain wm) [] []
    (fun s => .trap { cause := .ecall, epc := s.hart.pc + 8, val := imm.setWidth 64 } s) s
/-- EBREAK (R356, R367). -/
def execEbreak (wm : BitVec 8) (imm : BitVec 16) (s : State) : Host.Outcome State Fault Refusal :=
  issue (.ebreak wm imm) true .all (.plain wm) [] []
    (fun s => .trap { cause := .ebreak, epc := s.hart.pc, val := imm.setWidth 64 } s) s

/-- A return from a trap: withdrawn pushes go out again, the mode, status and pc return, and held results of collectives land
when the hart is in U mode again (R340, R368, R402). -/
def Hart.trapReturn (h : Hart) : Hart :=
  let h := h.resend.ret
  if h.mode = .u then h.landRes else h
/-- A system hart that has finished its handler stops when Pilot hands over to a new Crew image (R424). -/
def State.crewPause (s : State) : State :=
  if s.pilot.handover.isSome ∧ s.hart.isSys ∧ s.hart.depth = 0 then s.upd (fun h => { h with run := .idle }) else s
/-- TRET (R368). -/
def execTret (wm : BitVec 8) (s : State) : Host.Outcome State Fault Refusal :=
  issue (.tret wm) true .sp (.plain wm) [] [] (fun s => .whole ((s.upd Hart.trapReturn).sendPushes s.hart.hid).crewPause) s

/-- Whether the trap that comes first is a PREEMPT that the mode takes: WAIT does not end with it, but takes it at the WAIT, which
re-executes afterwards (R362; log 71). -/
def Hart.preemptedWait (h : Hart) : Bool :=
  h.takesExternal && match h.nextPending with
    | some (t, _) => t.cause == .preempt
    | none => false
/-- WAIT (R369): its first turn begins the wait, later turns look at what ends it. -/
def execWait (wm : BitVec 8) (xd xa : XReg) (s : State) : Host.Outcome State Fault Refusal :=
  issue (.wait wm xd xa) true .all (.plain wm) [xa] [] (fun s =>
    if s.hart.preemptedWait then .whole s.takePending
    else if s.hart.anyPending then .done (s.setX xd 2)
    else if !s.hart.inWait then
      .whole (s.upd (fun h => { h with inWait := true, woken := false, waitStart := some s.cycle }))
    else if s.hart.woken then .done (s.setX xd 1)
    else if s.x xa ≠ 0 ∧ s.timedOut (s.x xa) then .done (s.setX xd 0)
    else .whole s) s

/-! ## TINV (R366) -/

/-- Whether a core has a hart within a scope of the hart in focus (R321). -/
def State.coreWithin (s : State) (sc : Scope) (core : Nat) : Bool :=
  match sc with
  | .hart => core == coreKey s.hart.hid
  | .gang => core == coreKey s.hart.hid || match s.gangOf s.hart.hid with
    | some g => g.harts.any (fun h => coreKey (BitVec.ofNat 20 h) == core)
    | none => false
  | .die => core / 128 == hidDie s.hart.hid
  | .pkg | .pod => true

/-- Whether a translation is among those that TINV drops. -/
def tinvHits (all : Bool) (t : BitVec 6) (a len : Nat) (e : TlbEntry) : Bool :=
  (all || e.tenant == t) && (len == 0 || decide (e.page / e.size * e.size * 2 ^ 16 < a + len ∧ a < (e.page / e.size * e.size + e.size) * 2 ^ 16))

/-- TINV (R366). -/
def execTinv (wm : BitVec 8) (sc : Scope) (all : Bool) (t : BitVec 6) (xa xb : XReg) (s : State) :
    Host.Outcome State Fault Refusal :=
  issue (.tinv wm sc all t xa xb) true .sp (.plain wm) [xa, xb] [] (fun s =>
    if (s.x xa).toNat % 2 ^ 16 ≠ 0 then wordTrap .illegalOperand (.tinv wm sc all t xa xb) s
    else .done { s with tlb := s.tlb.filter (fun e =>
      !(s.coreWithin sc e.core && tinvHits all t (s.x xa).toNat (s.x xb).toNat e)) }) s

/-! ## CLSET and the change of a frame (R289, R290) -/

/-- The change of a frame of this package as CLSET starts it (R289): −2 while one is in progress, else 0. -/
def State.startChange (s : State) (d f : Nat) (k : Cls) (t : BitVec 6) : Int × State :=
  if (s.frame d f).change.isSome then (-2, s) else (0, s.updFrame d f (fun e => { e with change := some (k, t, 1) }))
/-- What CLSET answers, and the change that it starts. -/
def clsetEff (xd : XReg) (a : Word) (k : Cls) (t : BitVec 6) (s : State) : Eff :=
  let d := (a.extractLsb' 41 4).toNat
  let f := (a.extractLsb' 30 7).toNat
  if a.extractLsb' 45 7 ≠ s.pkg ∨ 7 < d ∨ a.extractLsb' 37 4 ≠ 0 ∨ a.extractLsb' 0 30 ≠ 0 ∨ 2 ^ 52 ≤ a.toNat then
    .done (s.setX xd (-1))
  else
    let (v, s) := s.startChange d f k t
    .done (s.setX xd (BitVec.ofInt 64 v))
/-- CLSET (R289). -/
def execClset (wm : BitVec 8) (cls : BitVec 2) (t : BitVec 6) (xd xa : XReg) (s : State) :
    Host.Outcome State Fault Refusal :=
  issue (.clset wm cls t xd xa) true .pOnly (.plain wm) [xa] [] (fun s => clsetEff xd (s.x xa) (clsOf cls) t s) s

/-- Pilot's write of the class-map capacity record after a change of a frame (R290, R431): one frame fewer of the old class, one more
of the new one, and the next generation. -/
def State.recordFrame (s : State) (d : Nat) (old new : Cls) : State :=
  let i := 3 * d + old.code.toNat
  let j := 3 * d + new.code.toNat
  let c := s.pilot.classes.set i (s.pilot.classes.getD i 0 - 1)
  { s with pilot := { s.pilot with classes := c.set j (c.getD j 0 + 1), gen := s.pilot.gen + 1 } }

/-- Steps 3 to 6 of the change of frame `f` of die `d` (R289). -/
def State.changeFrame (s : State) (d f : Nat) : State :=
  let e := s.frame d f
  match e.change with
  | none => s
  | some (k, t, _) =>
    let base := d * 2 ^ 41 + f * 2 ^ 30
    let lo := base / 128
    let hi := lo + 2 ^ 23
    let page := s.pkg.toNat * 2 ^ 29 + base / 2 ^ 16
    let s := { s with
      quay := s.quay.filter (fun x => !(decide (lo ≤ x.1) && decide (x.1 < hi)))
      msc := s.msc.filter (fun x => !(decide (lo ≤ x.1) && decide (x.1 < hi)))
      pack := s.pack.filter (fun x => !(decide (lo ≤ x.1) && decide (x.1 < hi)))
      copies := s.copies.filter (fun c => !(decide (s.pkg.toNat * 2 ^ 38 + lo ≤ c.line) && decide (c.line < s.pkg.toNat * 2 ^ 38 + hi)))
      tlb := s.tlb.filter (fun x => !(decide (page ≤ x.ppn.toNat) && decide (x.ppn.toNat < page + 2 ^ 14)))
      errs := s.errs.filter (fun x => match x.at_ with
        | .hbm g => !decide (base ≤ 64 * g ∧ 64 * g < base + 2 ^ 30)
        | .quay w | .local_ w => !decide (base ≤ 8 * w ∧ 8 * w < base + 2 ^ 30))
      gran := Tab.clearRange (base / 64) ((base + 2 ^ 30) / 64) s.gran }
    let s := if t ≠ e.tenant then s.zeroRange base (base + 2 ^ 30)
      else
        let old := usable e.cls
        let s := { s with poison := Tab.clearRange (base / 4) ((base + 2 ^ 30) / 4) s.poison }
        (s.zeroRange (base + old) (base + 2 ^ 30)).markIndet base (base + old)
    (s.updFrame d f (fun e => { e with tenant := t, cls := k, gen := e.gen + 1, change := none })).recordFrame d e.cls k

/-- FRAME_CLASS_CHANGE (R289): the input names the die and the frame. -/
def execFrameClassChange (s : State) : Host.Outcome State Fault Refusal :=
  match s.input with
  | .work d f _ => .next (s.changeFrame d f)
  | _ => .next s

/-! ## BIND (R291) -/

/-- BIND of a hart number: the old tenant, or −1 (R291). -/
def State.bindHart (s : State) (h : Word) (t : BitVec 6) : Word × State :=
  let id := h.extractLsb' 0 20
  if 2 ^ 20 ≤ h.toNat ∨ !namesHart s.pkg s.mgmtDie id ∨ hidDie id < 8 ∨ hidCluster id = 31 then (-1, s)
  else ((s.getHart id).tenant.setWidth 64, s.updHart id (fun x => { x with tenant := t }))
/-- BIND (R291). -/
def execBind (wm : BitVec 8) (t : BitVec 6) (xd xa : XReg) (s : State) : Host.Outcome State Fault Refusal :=
  issue (.bind wm t xd xa) true .pOnly (.plain wm) [xa] [] (fun s =>
    let (v, s) := s.bindHart (s.x xa) t
    .done (s.setX xd v)) s

/-! ## The save area (R363) -/

/-- Offsets: the predicates, the registers, the pushes. -/
def areaPred (j : Nat) : Nat := 0x1800 + 4096 * (j - 1)
def areaReg (h : Hart) (i : Nat) : Nat := 0x10800 + i * (h.regBits / 8)
def areaPush : Nat := 0x30800
/-- Bytes of a push record (R363). -/
def pushBytes (p : Push) : Nat := (elemsBits p.tag p.n + 511) / 512 * 64

/-- The fields of the first 2048 bytes: offset, bytes, value. -/
def areaHead (h : Hart) (saved : Word) (resv : List (Nat × Nat × Nat)) : List (Nat × Nat × Nat) :=
  let w (i : Nat) (v : Word) : Nat × Nat × Nat := (i, 8, v.toNat)
  let back := h.pushes.length
  [(0x00, 8, 1 + 256 * (back % 256)), w 0x08 saved, w 0x10 (0#52 ++ h.blk ++ 0#4 ++ h.nxt ++ 0#2 ++ h.regs),
   (0x18, 8, h.vl), (0x20, 8, h.vh), (0x28, 8, h.vstart.toNat), w 0x30 h.vqin, w 0x38 h.vqout, w 0x40 h.fcsr,
   w 0x48 h.instret, (0x50, 8, h.mgrant), w 0x58 h.full,
   (0x60, 8, resv.foldl (fun m r => m ||| 2 ^ r.1) 0)]
  ++ (List.range 8).map (fun i => (0x68 + 8 * i, 8, (h.cc.toList.getD i 0).toNat))
  ++ (List.range 4).flatMap (fun i => match (h.win.toList.getD i none) with
      | some x => [w (0xA8 + 16 * i) x.base, w (0xB0 + 16 * i) x.len]
      | none => [])
  ++ (match h.unf with
      | some u => u.toList.zipIdx.map (fun (v, i) => (0xE8 + 8 * i, 8, v.toNat)) ++ [(0x108, 8, 1)]
      | none => [])
  ++ [(0x110, 8, h.tok.toNat + 256 * (h.colls.foldl (fun t c => match c.tk with
      | some k => t ||| 2 ^ k.toNat
      | none => t) 0))]
  ++ resv.map (fun r => (0x200 + 4 * r.1, 4, r.2.1))
  ++ h.vtag.toList.zipIdx.map (fun (t, i) => (0x300 + i, 1, t.toNat))
  ++ (List.range 63).map (fun i => (0x400 + 8 * i, 8, (h.x.toList.getD (i + 1) 0).toNat))

/-- A value with fields at byte offsets. -/
def packFields (fs : List (Nat × Nat × Nat)) : Nat := fs.foldl (fun v f => v + f.2.2 % 2 ^ (8 * f.2.1) * 2 ^ (8 * f.1)) 0

/-- A piece of the save area: offset, bytes, value, poisoned bits. -/
structure Piece where
  off : Nat
  n   : Nat
  v   : Nat
  poi : Nat

/-- The pieces that VSAVE writes, in ascending order (R363, R370): a register outside SAVED is written as zeros, and one that an
earlier VSAVE saved and that has not changed since is left alone. -/
def areaPieces (h : Hart) (older : Word) : List Piece :=
  let saved := h.vdirty ||| older
  let size := h.regBits / 8
  [⟨0, 0x800, packFields (areaHead h saved h.resv), 0⟩, ⟨0x800, 4096, h.fm.toNat, 0⟩]
  ++ (List.range 15).map (fun j => ⟨areaPred (j + 1), 4096, (h.p.toList.getD (j + 1) 0).toNat, 0⟩)
  ++ (List.range h.nregs).filterMap (fun i =>
      if h.vdirty.getLsbD i then some ⟨areaReg h i, size, h.vstr i, h.vpoiStr i⟩
      else if older.getLsbD i then none
      else some ⟨areaReg h i, size, 0, 0⟩)
  ++ (h.pushes.foldl (fun (acc : List Piece × Nat) p =>
      let head := packFields [(0, 8, p.desc.toNat),
        (8, 8, p.tag.code.toNat + 32 * p.sc.toNat + 256 * (if p.nb then 1 else 0) + 512 * p.tc.toNat + 65536 * p.n)]
      (acc.1 ++ [⟨acc.2, 64, head, 0⟩, ⟨acc.2 + 64, pushBytes p, p.data, p.poi⟩], acc.2 + 64 + pushBytes p)) ([], areaPush)).1
/-- The bytes of the whole area. -/
def areaLen (h : Hart) : Nat := areaPush + (h.pushes.map (fun p => 64 + pushBytes p)).sum

/-- Poisons the words of located bytes that hold poisoned bits, unless the store is of class N (R286, R363). -/
def State.poisonWords (s : State) : List (Place × Nat) → Nat → State
  | [], _ => s
  | (p, n) :: t, poi =>
    let s := match p with
      | .here pa =>
        if s.placeCls (.here pa) = Cls.n then s
        else (List.range (n / 4)).foldl (fun s i => if elemAt 32 poi i = 0 then s else s.poisonAt (pa + 4 * i) 4) s
      | .away _ => s
    s.poisonWords t (poi / 2 ^ (8 * n))

/-- Writes pieces of the area at `a`; the first fault stops it. -/
def State.writePieces (s : State) (r : Req) (a : Word) : List Piece → Except MemFault Unit × State
  | [] => (.ok (), s)
  | p :: ps =>
    if p.n = 0 then s.writePieces r a ps else
    match s.locateAll r .write (pageSpans (a + BitVec.ofNat 64 p.off) p.n) with
    | (.error f, s) => (.error f, s)
    | (.ok pl, s) =>
      let s := s.writeAll r p.v pl
      (if p.poi = 0 then s else s.poisonWords pl p.poi).writePieces r a ps

/-- Whether an engine queue is halted. -/
def Hart.halted (h : Hart) : Bool := h.copySt.halt || h.nbSt.halt
/-- Whether the queues that VSAVE waits for have emptied, but for those that are halted (R370). -/
def Hart.saveQuiet (h : Hart) : Bool :=
  (h.copySt.halt || h.copyQ.isEmpty) && h.mq.isEmpty && (h.nbSt.halt || h.nbQ.all (fun o => o.pushNo.isSome))

/-- Meets the errors of the registers that VSAVE writes into the area: vector registers carry their poison, a scalar register
or predicate with a double-bit error makes it raise POISON (R130, R163). -/
def State.touchContext (s : State) : State × Bool :=
  let (s, b) := (List.range 64).foldl (fun (a : State × Bool) k =>
    if k = 0 then a else let (s, b) := a.1.touchAt k; (s, a.2 || b)) (s, false)
  let (s, c) := s.touchPs ((List.range 16).map (BitVec.ofNat 4))
  ((List.range s.hart.nregs).foldl (fun s v => if s.hart.vdirty.getLsbD v then s.touchReg v else s) s, b || c)

/-- VSAVE (R370). -/
def execVsave (wm : BitVec 8) (xd xa xb : XReg) (s : State) : Host.Outcome State Fault Refusal :=
  issue (.vsave wm xd xa xb) false .sOnly (.plain wm) [xa] [] (fun s =>
    let a := s.x xa
    if a.toNat % 4096 ≠ 0 then trapAt .misaligned a s
    else if !s.hart.saveQuiet then .wait s
    else if s.hart.halted then .done (s.setX xd (-1))
    else reading (.vsave wm xd xa xb) [xb] [] (fun s =>
      let older := s.x xb
      let (s, bad) := s.touchContext
      if bad then wordTrap .poison (.vsave wm xd xa xb) s
      else
        let s := s.withdraw
        match s.writePieces (s.req .vector) a (areaPieces s.hart older) with
        | (.error f, s) => faultTrap f s
        | (.ok _, s) => .done (s.setX xd (BitVec.ofNat 64 (areaLen s.hart)))) s) s

/-! ## VREST (R371) -/

/-- Reads `n` words of another package, each with its poison (R280). -/
def State.readAway (s : State) (r : Req) (pod : Nat) : Nat → (Nat × Nat) × State
  | 0 => ((0, 0), s)
  | n + 1 =>
    let (u, s) := s.readAway r pod n
    let (x, s) := s.readAt r (.away (pod + 8 * n)) 8
    ((u.1 + x.1 * 2 ^ (64 * n), u.2 + (if x.2 then (2 ^ 64 - 1) * 2 ^ (64 * n) else 0)), s)
/-- Reads located words: the value, and its poisoned bits (R280). -/
def State.readMarked (s : State) (r : Req) : List (Place × Nat) → (Nat × Nat) × State
  | [] => ((0, 0), s)
  | (p, k) :: t =>
    let (u, s) := match p with
      | .here pa =>
        let (x, s) := s.readAt r p k
        ((x.1, if x.2 then packNat 32 ((List.range (k / 4)).map (fun i => if s.poisonedAt (pa + 4 * i) 4 then 2 ^ 32 - 1 else 0)) else 0), s)
      | .away pod => s.readAway r pod (k / 8)
    let (v, s) := s.readMarked r t
    ((u.1 + v.1 * 2 ^ (8 * k), u.2 + v.2 * 2 ^ (8 * k)), s)
/-- The offset of the first poisoned word among `n` bytes. -/
def firstBad (poi n : Nat) : Nat := 8 * ((List.range (n / 8)).find? (fun i => elemAt 64 poi i != 0)).getD 0

/-- Reads `n` bytes of the area: the value, and its poisoned bits; where they may not be poisoned (`sure`), the fault at the first
poisoned word (R356). -/
def State.readPiece (s : State) (r : Req) (a : Word) (n : Nat) (sure : Bool) : Except MemFault (Nat × Nat) × State :=
  match s.locateAll r .read (pageSpans a n) with
  | (.error f, s) => (.error f, s)
  | (.ok pl, s) =>
    let (v, s) := s.readMarked r pl
    if sure && v.2 != 0 then (.error { cause := .poison, addr := a + BitVec.ofNat 64 (firstBad v.2 n) }, s) else (.ok v, s)
/-- Reads a list of pieces (offset, bytes, whether they may not be poisoned). -/
def State.readPieces (s : State) (r : Req) (a : Word) : List (Nat × Nat × Bool) → Except MemFault (List (Nat × Nat)) × State
  | [] => (.ok [], s)
  | (o, n, sure) :: t =>
    match s.readPiece r (a + BitVec.ofNat 64 o) n sure with
    | (.error f, s) => (.error f, s)
    | (.ok v, s) =>
      match s.readPieces r a t with
      | (.error f, s) => (.error f, s)
      | (.ok vs, s) => (.ok (v :: vs), s)

/-- A field of the header. -/
def headField (v off n : Nat) : Nat := v / 2 ^ (8 * off) % 2 ^ (8 * n)
/-- A double word of the header. -/
def headWord (v off : Nat) : Word := BitVec.ofNat 64 (headField v off 8)

/-- Whether a header is one that VREST accepts: FORMAT, and the fields and bytes that must be zero. -/
def headOk (v : Nat) : Bool :=
  headField v 0 1 == 1 && headField v 2 6 == 0 && headField v 0x112 6 == 0 && headField v 0x118 (0x200 - 0x118) == 0
    && headField v 0x340 (0x400 - 0x340) == 0 && headField v 0x5F8 (0x800 - 0x5F8) == 0
    && (headField v 0x108 8 == 0 || headField v 0x108 8 == 1)

/-- Reads the withdrawn pushes of an area, from offset `o` on. -/
def State.readPushes (s : State) (r : Req) (a : Word) (h : Hart) : Nat → Nat → Nat → Except MemFault (List Push × Nat) × State
  | 0, _, o => (.ok ([], o), s)
  | n + 1, k, o =>
    match s.readPiece r (a + BitVec.ofNat 64 o) 64 true with
    | (.error f, s) => (.error f, s)
    | (.ok (v, _), s) =>
      let w := headWord v 8
      let tag := (Tag.ofCode? (w.extractLsb' 0 5)).getD .none
      let p : Push := { no := h.pushNo + k, desc := headWord v 0, tag := tag, sc := w.extractLsb' 5 3, nb := w.getLsbD 8
                        tc := w.extractLsb' 9 3, n := (w.extractLsb' 16 32).toNat, data := 0, poi := 0, tenant := h.tenant
                        nacks := 0, next := 0, gone := true }
      let len := pushBytes p
      match (if len = 0 then (.ok (0, 0), s) else s.readPiece r (a + BitVec.ofNat 64 (o + 64)) len false) with
      | (.error f, s) => (.error f, s)
      | (.ok (d, q), s) =>
        match s.readPushes r a h n (k + 1) (o + 64 + len) with
        | (.error f, s) => (.error f, s)
        | (.ok (ps, e), s) =>
          let bits := elemsBits p.tag p.n
          (.ok ({ p with data := d % 2 ^ bits, poi := q % 2 ^ bits } :: ps, e), s)

/-- The context that VREST puts into a hart, in one step (R371): header, `fm`, predicates, registers, pushes. -/
def Hart.restore (h : Hart) (v fm : Nat) (ps : List Nat) (vs : List (Nat × Nat × Nat)) (pushes : List Push) (now tick : Nat) : Hart :=
  let cfg := headWord v 0x10
  let regs := cfg.extractLsb' 0 2
  let full := headWord v 0x58
  let size := 2 ^ 20 / (8 * 2 ^ regs.toNat)
  let collTok := h.colls.foldl (fun t c => match c.tk with
    | some k => setBit t k.toNat
    | none => t) (0 : BitVec 8)
  { h with
    regs := regs, nxt := cfg.extractLsb' 4 2, blk := cfg.extractLsb' 10 2
    vl := headField v 0x18 2, vh := headField v 0x20 2, vstart := BitVec.ofNat 15 (headField v 0x28 8)
    vqin := headWord v 0x30, vqout := headWord v 0x38, fcsr := fcsrStore h.fcsr (headWord v 0x40), instret := headWord v 0x48
    full := full
    resv := (List.range 64).filterMap (fun i => if (headWord v 0x60).getLsbD i then
      some (i, headField v (0x200 + 4 * i) 4, if full.getLsbD i then 0 else now + 2 ^ 15) else none)
    cc := Vector.ofFn (fun i : Fin 8 => headWord v (0x68 + 8 * i.val))
    win := Vector.ofFn (fun i : Fin 4 =>
      if headWord v (0xB0 + 16 * i.val) = 0 then none else some ⟨headWord v (0xA8 + 16 * i.val), headWord v (0xB0 + 16 * i.val), tick⟩)
    unf := if headField v 0x108 1 = 1 then some (Vector.ofFn (fun i : Fin 4 => headWord v (0xE8 + 8 * i.val))) else none
    fm := BitVec.ofNat 32768 fm
    p := Vector.ofFn (fun i : Fin 16 => if i.val = 0 then 0 else BitVec.ofNat 32768 (ps.getD (i.val - 1) 0))
    pcor := 0, pbad := 0
    vtag := Vector.ofFn (fun i : Fin 64 => BitVec.ofNat 5 (headField v (0x300 + i.val) 1))
    x := Vector.ofFn (fun i : Fin 64 => if i.val = 0 then 0 else headWord v (0x400 + 8 * (i.val - 1)))
    xcor := h.xcor &&& ~~~0xFFFFFFFFFFFFFFFF#68, xbad := h.xbad &&& ~~~0xFFFFFFFFFFFFFFFF#68
    vst := BitVec.ofNat 1048576 (vs.foldl (fun b x => b + x.2.1 % 2 ^ size * 2 ^ (x.1 * size)) 0)
    vpoi := BitVec.ofNat 1048576 (vs.foldl (fun b x => b + x.2.2 % 2 ^ size * 2 ^ (x.1 * size)) 0)
    vcor := [], vdirty := 0
    pushes := pushes, pushNo := h.pushNo + pushes.length
    nbQ := h.nbQ.filter (fun o => o.pushNo.isNone)
    tok := pushes.foldl (fun t p => if p.nb || p.tc == 0 then t else setBit t p.tc.toNat)
      (collTok &&& BitVec.ofNat 8 (headField v 0x111 1)) }

/-- VREST after its operand is known: reads everything, and then changes the context in one step. -/
def vrestEff (i : Instr) (xd : XReg) (a : Word) (s : State) : Eff :=
  let r := s.req .vector
  match s.readPiece r a 0x800 true with
  | (.error f, s) => faultTrap f s
  | (.ok (v, _), s) =>
    let cfg := headWord v 0x10
    if !headOk v || (s.shared && cfg.extractLsb' 0 2 != s.hart.regs) then wordTrap .illegalOperand i s
    else
      let size := Config.vstBytes / (8 * 2 ^ (cfg.extractLsb' 0 2).toNat)
      let saved := (List.range 64).filter (fun k => (headWord v 8).getLsbD k && decide (k < 8 * 2 ^ (cfg.extractLsb' 0 2).toNat))
      match s.readPieces r a ((0x800, 4096, true) :: (List.range 15).map (fun j => (areaPred (j + 1), 4096, true))
          ++ saved.map (fun k => (0x10800 + k * size, size, false))) with
      | (.error f, s) => faultTrap f s
      | (.ok vs, s) =>
        match s.readPushes r a s.hart (headField v 1 1) 0 areaPush with
        | (.error f, s) => faultTrap f s
        | (.ok (ps, e), s) =>
          let now := s.cycle
          .done ((s.upd (fun h => h.restore v ((vs.headD (0, 0)).1) ((vs.drop 1).map (·.1))
            ((saved.zip (vs.drop 16)).map (fun x => (x.1, x.2.1, x.2.2))) ps now s.tick)).setX xd (BitVec.ofNat 64 e))

/-- VREST (R371). -/
def execVrest (wm : BitVec 8) (xd xa : XReg) (s : State) : Host.Outcome State Fault Refusal :=
  issue (.vrest wm xd xa) false .sOnly (.plain wm) [xa] [] (fun s =>
    let a := s.x xa
    if a.toNat % 4096 ≠ 0 then trapAt .misaligned a s
    else if !s.hart.saveReady then .wait s
    else vrestEff (.vrest wm xd xa) xd a s) s

/-! ## Events of traps (R354, R357 to R360) -/

/-- NON_INSTRUCTION_WORD (R60, R61): a word that is no instruction raises ILLEGAL_INSTR, with the word as `tval`. -/
def execNonInstructionWord (w : Word) (s : State) : Host.Outcome State Fault Refusal :=
  if s.hart.run = .running then finish (trapAt .illegalInstr w s) else .next s
/-- INSTRUCTION_FETCH_FAULT (R62, R346): the fetch at `pc` faults, and the hart takes the fault. -/
def execInstructionFetchFault (s : State) : Host.Outcome State Fault Refusal :=
  if s.hart.run = .running then
    match s.fetch with
    | (.error f, s) => finish (faultTrap f s)
    | (.ok _, _) => .next s
  else .next s

/-- Takes a pending trap of the hart in focus at an instruction boundary, as its mode allows (R357, R358). -/
def State.takeBoundary (s : State) : State :=
  match s.hart.run with
  | .running => if s.hart.takesExternal && !s.hart.inWait then s.takePending else s
  | .held => s.heldAbort
  | _ => s
/-- TRAP_ENTRY (R352, R359): the input names the hart, and how many elements its next vector instruction completes before the
trap stops it; 0 takes the trap at the boundary, and so does a trap of orders 1 to 4 that is pending already. -/
def execTrapEntry (s : State) : Host.Outcome State Fault Refusal :=
  match s.input with
  | .work hid n _ => .next (s.onHart (BitVec.ofNat 20 hid) (fun s =>
      if n = 0 ∨ (s.hart.takesExternal ∧ s.hart.firstPending.isSome) then s.takeBoundary
      else s.upd (fun h => { h with stopAt := some n })))
  | _ => .next s
/-- TRAP_REPORT (R360): the report of a held hart enters the ring when there is room. -/
def execTrapReport (s : State) : Host.Outcome State Fault Refusal :=
  match s.input with
  | .hart hid => .next (s.postReport (BitVec.ofNat 20 hid))
  | _ => .next s
/-- TRES_RESUME (R360). -/
def execTresResume (s : State) : Host.Outcome State Fault Refusal :=
  match s.input with
  | .hart hid => .next (s.writeTres (BitVec.ofNat 20 hid) 1)
  | _ => .next s
/-- TRES_TAKE_TRAP (R360). -/
def execTresTakeTrap (s : State) : Host.Outcome State Fault Refusal :=
  match s.input with
  | .hart hid => .next (s.writeTres (BitVec.ofNat 20 hid) 2)
  | _ => .next s
/-- TRES_END (R360). -/
def execTresEnd (s : State) : Host.Outcome State Fault Refusal :=
  match s.input with
  | .hart hid => .next (s.writeTres (BitVec.ofNat 20 hid) 3)
  | _ => .next s

/-- The comparison of TCMP with `time` (R354). -/
def Hart.timer (h : Hart) (time : Nat) : Hart :=
  if h.tcmp ≠ 0 ∧ h.tcmp.toNat ≤ time then
    if h.isCompute ∧ h.launch.isNone then { h with tcmp := 0 }
    else { h with tcmp := 0, pend := { h.pend with timer := true } }
  else h
/-- TIMER_COMPARE (R354). -/
def execTimerCompare (s : State) : Host.Outcome State Fault Refusal :=
  match s.input with
  | .hart hid => .next (s.updHart (BitVec.ofNat 20 hid) (fun h => h.timer s.time))
  | _ => .next s

end Sys2Proof.Machine
end

