-- ==== Sys2Proof/Machine/Service.lean ====
section
/-! DEFINITION. Service messages (R420) and what Pilot does with them: bindings, images, the undock handshake (R428, R429), logs. -/

namespace Sys2Proof.Machine
open Sys2Proof

/-! ## Messages (R420) -/

/-- A service message: type, request identifier, body. -/
structure Service where
  ty   : Nat
  id   : List Byte
  body : List Byte

/-- The types of R420. -/
def serviceTypes : List Nat := [0x01, 0x02, 0x03, 0x04, 0x05, 0x10, 0x11, 0x12, 0x13, 0x20, 0x21, 0x30]
/-- Reads a service message; none when its version or its length is wrong. -/
def Service.parse (b : List Byte) : Option Service :=
  match b with
  | t :: v :: l0 :: l1 :: i0 :: i1 :: i2 :: i3 :: body =>
    if v = 1 ∧ body.length = l0.toNat + 256 * l1.toNat ∧ body.length ≤ 4088 then some ⟨t.toNat, [i0, i1, i2, i3], body⟩ else none
  | _ => none
/-- The type and the identifier of whatever arrived, for the response. -/
def Service.head (b : List Byte) : Nat × List Byte :=
  ((b.headD 0).toNat, (List.range 4).map (fun i => b.getD (4 + i) 0))
/-- A response: the header with the type OR 0x80, the status, and what follows it. -/
def Service.response (ty : Nat) (id : List Byte) (status : Nat) (more : List Byte) : List Byte :=
  [BitVec.ofNat 8 (ty ||| 0x80), 1] ++ bytesOf 2 (4 + more.length) ++ id ++ bytesOf 4 status ++ more

/-- Takes a request out of a mailbox, when there is one and its response has room. -/
def Mailbox.take (m : Mailbox) : Option (List Byte × Mailbox) :=
  if m.go && !m.ready then some (Tab.getRange (fun _ => 0) m.req 0 m.len.toNat, { m with go := false }) else none
/-- Writes a response into a mailbox. -/
def Mailbox.put (m : Mailbox) (bytes : List Byte) : Mailbox :=
  { m with ready := true, rlen := BitVec.ofNat 16 bytes.length, resp := Tab.setRange (fun _ => 0) m.resp 0 bytes }
/-- The request that waits on a path: in a mailbox on paths 0 and 2, given by the bus on path 1. -/
def State.request (s : State) (path : Nat) (given : List Byte) : Option (List Byte × State) :=
  match path with
  | 0 => s.hmb.take.map (fun (b, m) => (b, { s with hmb := m }))
  | 1 => some (given, s.wakeMgmt)
  | 2 => s.smb.take.map (fun (b, m) => (b, { s with smb := m }))
  | _ => none
/-- Sends a response on a path. -/
def State.respond (s : State) (path : Nat) (bytes : List Byte) : State :=
  match path with
  | 0 => { s with hmb := s.hmb.put bytes }
  | 2 => { s with smb := s.smb.put bytes }
  | _ => { s with sent := .response bytes :: s.sent }

/-- Sends a response on a path once READY of its mailbox is clear (R418, R419): until then Pilot keeps it. -/
def State.reply (s : State) (path : Nat) (bytes : List Byte) : State :=
  if (path = 0 ∧ s.hmb.ready) ∨ (path = 2 ∧ s.smb.ready) then
    { s with pilot := { s.pilot with owed := s.pilot.owed ++ [(path, bytes)] } }
  else s.respond path bytes
/-- Pilot writes the responses that it has kept, in order, as far as their mailboxes take them. -/
def State.payOwed (s : State) : State :=
  s.pilot.owed.foldl (fun s o => s.reply o.1 o.2) { s with pilot := { s.pilot with owed := [] } }
/-- Whether messages of a path are answered: a machine fault stops Pilot, but the I3C endpoint outlives a removal of power (R432). -/
def State.listens (s : State) (path : Nat) : Bool := !s.fault || (path == 1 && s.pilot.alive)

/-- What Pilot does with a service message of a type (R420): `f` acts on the body, with the path and the identifier for its answer. A
message of another listed type is not this one. A stopped Pilot answers nothing. -/
def State.serveAs (ty : Nat) (paths : List Nat) (f : Nat → List Byte → List Byte → State → State) (s : State) : State :=
  match s.input with
  | .message path given =>
    if !s.listens path then s else
    match s.request path given with
    | none => s
    | some (b, s') =>
      let h := Service.head b
      if h.1 ≠ ty ∧ serviceTypes.contains h.1 then s
      else match Service.parse b with
        | none => s'.respond path (Service.response h.1 h.2 2 [])
        | some m =>
          if m.ty ≠ ty then s'.respond path (Service.response m.ty m.id 2 [])
          else if !paths.contains path then s'.respond path (Service.response ty m.id 1 [])
          else f path m.id m.body s'
  | _ => s
/-- The same for a message that is answered at once: `f` gives the status, the rest of the body, and the state. -/
def State.serve (ty : Nat) (paths : List Nat) (f : List Byte → State → Nat × List Byte × State) (s : State) : State :=
  s.serveAs ty paths (fun path id body s =>
    let r := f body s
    r.2.2.respond path (Service.response ty id r.1 r.2.1))

/-! ## Bindings -/

/-- FRAME_SET (R420): CLSET of a frame of this package, from Pilot. -/
def frameSet (b : List Byte) (s : State) : Nat × List Byte × State :=
  match b with
  | [d, f, c, t] =>
    if 7 < d.toNat ∨ 127 < f.toNat ∨ 2 < c.toNat ∨ 63 < t.toNat then (4, [], s)
    else
      let (v, s) := s.startChange d.toNat f.toNat (clsOf (c.setWidth 2)) (t.setWidth 6)
      if v = 0 then (0, bytesOf 4 0, s) else (3, [], s)
  | _ => (2, [], s)
/-- FRAME_SET (R420). -/
def execFrameSet (s : State) : Host.Outcome State Fault Refusal := .next (s.serve 0x01 [2] frameSet)

/-- QUEUE_BIND (R420). -/
def queueBind (b : List Byte) (s : State) : Nat × List Byte × State :=
  match b with
  | [q, t] =>
    if 63 < q.toNat ∨ 63 < t.toNat ∨ (s.queue q.toNat).en ∨ s.launches.any (fun l => l.lid.q == q.toNat) then (4, [], s)
    else (0, [], s.updQueue q.toNat (fun u => { u with tenant := t.setWidth 6 }))
  | _ => (2, [], s)
/-- QUEUE_BIND (R420). -/
def execQueueBind (s : State) : Host.Outcome State Fault Refusal := .next (s.serve 0x02 [2] queueBind)

/-- FUNC_BIND (R420, R421). An armed NOTE looks at the count of the new queue (R417). -/
def funcBind (b : List Byte) (s : State) : Nat × List Byte × State :=
  match b with
  | [f, t, q, h0, h1] =>
    if f = 0 ∨ 63 < f.toNat then (4, [], s)
    else if t = 0xFF then (0, [], s.updFunc f.toNat (fun u => { u with v := false, tenant := 0, queue := 0, hw := 0 }))
    else if 63 < t.toNat ∨ 63 < q.toNat then (4, [], s)
    else (0, [], (s.updFunc f.toNat (fun u => { u with v := true, tenant := t.setWidth 6, queue := q.setWidth 6, hw := h1 ++ h0 })).noteFunc
      f.toNat)
  | _ => (2, [], s)
/-- FUNC_BIND (R420). -/
def execFuncBind (s : State) : Host.Outcome State Fault Refusal := .next (s.serve 0x03 [2] funcBind)

/-- HART_BIND (R420): BIND of a hart number. -/
def hartBind (b : List Byte) (s : State) : Nat × List Byte × State :=
  match b with
  | [h0, h1, h2, h3, t] =>
    if 63 < t.toNat then (4, [], s)
    else
      let (v, s) := s.bindHart (BitVec.ofNat 64 (ofBytes [h0, h1, h2, h3])) (t.setWidth 6)
      (0, bytesOf 4 (v.toNat % 2 ^ 32), s)
  | _ => (2, [], s)
/-- HART_BIND (R420). -/
def execHartBind (s : State) : Host.Outcome State Fault Refusal := .next (s.serve 0x04 [2] hartBind)

/-- The readable image of the partition table (R421): 64 queue tenants, and 64 function entries. -/
def State.partImage (s : State) : List Byte :=
  s.queues.toList.map (fun q => q.tenant.setWidth 8) ++ s.funcs.toList.flatMap (fun f => bytesOf 8 f.entry.toNat)
/-- PART_READ (R420). -/
def partRead (b : List Byte) (s : State) : Nat × List Byte × State :=
  match b with
  | [a0, a1] => (0, (s.partImage.drop (ofBytes [a0, a1])).take 4000, s)
  | _ => (2, [], s)
/-- PART_READ (R420). -/
def execPartRead (s : State) : Host.Outcome State Fault Refusal := .next (s.serve 0x05 [0, 1, 2] partRead)

/-! ## Images (R422, R424, R425) -/

/-- The offset and the data of a piece of an image. -/
def piece (b : List Byte) : Option (Nat × List Byte) :=
  match b with
  | a0 :: a1 :: a2 :: a3 :: data => some (ofBytes [a0, a1, a2, a3], data)
  | _ => none
/-- The first `n` bytes of a store as an image. -/
def imageOf (t : Tab Byte) (n : Nat) : Tab Byte := t.filter (fun e => decide (e.1 < n))
/-- Writes the inactive bank. -/
def Pilot.setOther (p : Pilot) (t : Tab Byte) : Pilot :=
  { p with banks := if p.active then p.banks.set 0 t else p.banks.set 1 t }

/-- CREW_LOAD (R420). -/
def crewLoad (b : List Byte) (s : State) : Nat × List Byte × State :=
  match piece b with
  | some (o, data) => (0, [], { s with pilot := { s.pilot with crewNew := Tab.setRange (fun _ => 0) s.pilot.crewNew o data } })
  | none => (2, [], s)
/-- CREW_LOAD (R420). -/
def execCrewLoad (s : State) : Host.Outcome State Fault Refusal := .next (s.serve 0x10 [0, 2] crewLoad)

/-- The system harts, of both I/O dies, or of die 9 when die 8 is lost (R22, R427). -/
def State.systemHarts (s : State) : List (BitVec 20) :=
  (if s.mgmtDie = 9 then [9] else [8, 9]).flatMap (fun d => (List.range 16).map (fun j => mkHid s.pkg (32 * d) j))
/-- Starts the system harts on the running Crew image. -/
def State.startCrew (s : State) : State :=
  s.systemHarts.foldl (fun s h => s.updHart h (fun x => x.boot (Config.entryOf s.pilot.crew (hartI h)) (s.die (hidDie h)).tvdef)) s
/-- Stops the system harts that are in no handler (R424, step 1). -/
def State.quietCrew (s : State) : State :=
  s.systemHarts.foldl (fun s h => s.updHart h (fun x => if x.run = .running ∧ x.depth = 0 then { x with run := .idle } else x)) s
/-- Hands over to a new Crew image as soon as no system hart runs a handler any more, and answers its CREW_START (R424). -/
def State.handOver (s : State) : State :=
  match s.pilot.handover with
  | none => s
  | some h =>
    let s := s.quietCrew
    if s.systemHarts.any (fun x => (s.getHart x).run == .running) then s
    else (State.startCrew { s with pilot := { s.pilot with crew := h.image, handover := none } }).reply h.path
      (Service.response 0x11 h.id 0 [])
/-- CREW_START (R420, R424): a checked image takes over from the running one. -/
def crewStart (path : Nat) (id b : List Byte) (s : State) : State :=
  if b.length ≠ 4 then s.respond path (Service.response 0x11 id 2 [])
  else if s.pilot.handover.isSome then s.respond path (Service.response 0x11 id 3 [])
  else
    let im := imageOf s.pilot.crewNew (ofBytes b)
    if Config.imageOk 1 im then State.handOver { s with pilot := { s.pilot with handover := some ⟨im, path, id⟩ } }
    else s.respond path (Service.response 0x11 id 5 [])
/-- CREW_START (R424). Without a message: Pilot writes the responses that it has kept, a handover that waited for a handler goes on, or Pilot
restarts Crew after a double trap of a system hart (R425). -/
def execCrewStart (s : State) : Host.Outcome State Fault Refusal :=
  .next (match s.input with
  | .none => if s.fault then s
      else if s.pilot.owed.any (fun o => !((o.1 == 0 && s.hmb.ready) || (o.1 == 2 && s.smb.ready))) then s.payOwed
      else if s.pilot.handover.isSome then s.handOver
      else if s.systemHarts.any (fun h => (s.getHart h).run == .halted) then s.startCrew else s
  | _ => s.serveAs 0x11 [0, 2] crewStart)

/-- PILOT_LOAD (R420): the inactive bank is no longer a checked one. -/
def pilotLoad (b : List Byte) (s : State) : Nat × List Byte × State :=
  match piece b with
  | some (o, data) =>
    (0, [], { s with pilot := { s.pilot.setOther (Tab.setRange (fun _ => 0) (s.pilot.bank true) o data) with staged := none } })
  | none => (2, [], s)
/-- PILOT_LOAD (R420). -/
def execPilotLoad (s : State) : Host.Outcome State Fault Refusal := .next (s.serve 0x12 [0, 1] pilotLoad)

/-- PILOT_STAGE (R420, R422). -/
def pilotStage (b : List Byte) (s : State) : Nat × List Byte × State :=
  if b.length ≠ 4 then (2, [], s)
  else
    let im := imageOf (s.pilot.bank true) (ofBytes b)
    if Config.imageOk 0 im then (0, [], { s with pilot := { s.pilot.setOther im with staged := some (ofBytes b) } }) else (5, [], s)
/-- PILOT_STAGE (R420). -/
def execPilotStage (s : State) : Host.Outcome State Fault Refusal := .next (s.serve 0x13 [0, 1] pilotStage)

/-- The staged bank becomes the active one, on trial until Pilot reports ready; an image that fails the boot ROM's check does not
(R422, R425). -/
def Pilot.activate (p : Pilot) : Pilot :=
  if p.staged.isSome && Config.imageOk 0 (p.bank true) then { p with staged := none, active := !p.active, trial := true }
  else { p with staged := none }
/-- PILOT_BANK_ACTIVATE (R425): with input 1 at a quiesce the management hart restarts from the staged bank; input 0 says that a new
image on trial has failed, so that the boot ROM returns to the other bank; input 2 that Pilot reports ready. -/
def execPilotBankActivate (s : State) : Host.Outcome State Fault Refusal :=
  match s.input with
  | .unit 1 =>
    .next (if s.pilot.staged.isNone ∨ !s.gangs.isEmpty ∨ s.fault then s else State.startPilot { s with pilot := s.pilot.activate })
  | .unit 0 => .next (if s.pilot.trial ∧ !s.fault then s.otherBank else s)
  | .unit 2 => .next { s with pilot := { s.pilot with trial := false } }
  | _ => .next s

/-! ## The undock handshake (R428, R429) -/

/-- Whether an undock towards a neighbour is allowed (R428). -/
def State.undockOk (s : State) (nb : Nat) : Bool :=
  decide (nb < 128) && nb != s.pkg.toNat && s.reach[0].getLsbD nb && s.reach[1].getLsbD nb && !(s.pg 0).out && !(s.pg 1).out
    && !s.fault && Config.neighbourFits nb
/-- Begins step 1 (R428): no queue accepts packets, and every resident gang is pre-empted. -/
def State.undockBegin (s : State) (nb : Nat) : State :=
  let en := BitVec.ofNat 64 (packNat 1 (s.queues.toList.map (fun q => if q.en then 1 else 0)))
  let live := (s.gangs.filter (fun g => g.st == Resid.resident)).flatMap (·.live)
  let s := { s with
    undock := some { nb := nb, step := 1, st := .running, began := s.time, stepAt := s.time, ended := 0, queues := en }
    queues := s.queues.map (fun (q : Queue) => { q with en := false }) }
  let s := s.updGangs (fun g => g.st == Resid.resident) (fun g => { g with st := .preempting, forL := none, yielded := false })
  live.foldl (fun s h => s.updHart (BitVec.ofNat 20 h) (fun x => { x with pend := { x.pend with preempt := true } })) s
/-- The request of an undock (R420, R428); while one runs, and after RELEASE, it is to be sent again. -/
def undockAsk (b : List Byte) (s : State) : Nat × List Byte × State :=
  match b with
  | [nb] =>
    if s.undocking then (3, [], s)
    else if s.undockOk nb.toNat then (0, [], s.undockBegin nb.toNat) else (4, [], s)
  | _ => (2, [], s)
/-- Disables every group that still runs an instance (R390, R428). -/
def State.disableBusy (s : State) : State :=
  (List.range 64).foldl (fun s g => if s.insts.any (fun x => x.grp == g) then s.writeGctl g ((s.group g).gctl &&& ~~~1#64) else s) s
/-- The budget of a step in ns (R428). -/
def undockBudget (n : Nat) : Nat :=
  match n with
  | 1 => 3000000000
  | 2 => 22000000000
  | 3 => 2000000000
  | 4 => 2000000000
  | _ => 500000000
/-- What the end of a step of an undock changes in this package (R428): step 1 needs every gang parked, step 3 moves the launches and their parked
gangs to the neighbour's queues, step 4 needs that no request is outstanding. -/
def State.undockStep (s : State) (u : Undock) (n : Nat) : State :=
  let go (s : State) : State := { s with undock := some { u with step := n + 1, stepAt := s.time } }
  match n with
  | 1 => if s.gangs.all (fun g => g.st == Resid.parked) then go s.disableBusy else s
  | 2 => go s
  | 3 => { s with launches := [], gangs := [], resvs := [], promises := []
                  undock := some { u with step := 4, stepAt := s.time, launches := s.launches, gangs := s.gangs } }
  | 4 => if s.outbox.isEmpty then go (s.updateTable (Vector.replicate 2 0)) else s
  | 5 => { s with undock := some { u with st := .released, ended := s.time }, sent := .release :: s.sent }
  | _ => s
/-- UNDOCK (R428): a service message, or the report that the present step, which the input names, is done, within its budget. -/
def execUndock (s : State) : Host.Outcome State Fault Refusal :=
  .next (match s.input with
  | .unit n =>
    match s.undock with
    | some u => if u.st = .running ∧ u.step = n ∧ s.time ≤ u.stepAt + undockBudget n then s.undockStep u n else s
    | none => s
  | _ => s.serve 0x20 [1] undockAsk)

/-- UNDOCK_BUDGET_EXPIRE (R429): the undock has failed; the queues are enabled again, the launches and gangs that were to move stand where they
stood, and the scheduler resumes the parked gangs. -/
def execUndockBudgetExpire (s : State) : Host.Outcome State Fault Refusal :=
  .next (match s.undock with
  | some u =>
    if u.st = .running ∧ u.stepAt + undockBudget u.step < s.time then
      { s with undock := some { u with st := .failed, ended := s.time, launches := [], gangs := [] }
               launches := u.launches ++ s.launches, gangs := u.gangs ++ s.gangs
               queues := Vector.ofFn (fun i : Fin 64 => { s.queues[i] with en := s.queues[i].en || u.queues.getLsbD i.val }) }
    else s
  | none => s)
/-- LATCH_FORCED_OPEN (R429): before RELEASE it is a machine fault, and every lane of the ports is dead. -/
def execLatchForcedOpen (s : State) : Host.Outcome State Fault Refusal :=
  .next (if (s.undock.map (·.st)) = some .released then s
    else
      let s := s.machineFault
      (s.setPg 0 { s.pg 0 with dead := BitVec.allOnes 72 }).setPg 1 { s.pg 1 with dead := BitVec.allOnes 72 })

/-- UNDOCK_STATUS (R420): the step, the state and the elapsed milliseconds of the latest undock. -/
def undockStatus (b : List Byte) (s : State) : Nat × List Byte × State :=
  if !b.isEmpty then (2, [], s) else
  match s.undock with
  | none => (0, [0, 3] ++ bytesOf 4 0, s)
  | some u =>
    let c := match u.st with
      | .running => (0, s.time)
      | .released => (1, u.ended)
      | .failed => (2, u.ended)
    (0, [BitVec.ofNat 8 u.step, c.1] ++ bytesOf 4 ((c.2 - u.began) / 1000000), s)
/-- UNDOCK_STATUS (R420). -/
def execUndockStatus (s : State) : Host.Outcome State Fault Refusal := .next (s.serve 0x21 [0, 1] undockStatus)

/-! ## The error log -/

/-- The 32 bytes of a record (R420). -/
def LogRec.bytes (d : Nat) (r : LogRec) : List Byte :=
  bytesOf 8 r.time ++ [r.cause, r.cls, BitVec.ofNat 8 d, 0] ++ bytesOf 8 r.addr ++ bytesOf 4 r.count ++ List.replicate 8 0
/-- LOG_READ (R420). -/
def logRead (b : List Byte) (s : State) : Nat × List Byte × State :=
  match b with
  | [d, a0, a1, a2, a3] =>
    if 9 < d.toNat then (4, [], s)
    else (0, (((s.die d.toNat).log.drop (ofBytes [a0, a1, a2, a3])).take 125).flatMap (LogRec.bytes d.toNat), s)
  | _ => (2, [], s)
/-- LOG_READ (R420). -/
def execLogRead (s : State) : Host.Outcome State Fault Refusal := .next (s.serve 0x30 [0, 1, 2] logRead)

end Sys2Proof.Machine
end

