-- ==== Sys2Proof/Machine/Board.lean ====
section
/-! DEFINITION. Attestation (R423), power and clock steps (R432), the identity store (R431), bring-up (R426), and the takeover of the
management by die 9 (R427). -/

namespace Sys2Proof.Machine
open Sys2Proof

/-! ## SPDM (R423) -/

/-- Sends a response of SPDM with Pilot's signature, which is a free value (R423, log 9): on the host's path it also fills the response
buffer of the mailbox (R418). -/
def State.spdm (s : State) (r : SpdmRsp) : State :=
  let (i, s) := s.fresh
  let s := { s with sent := .spdm r (Config.signature i) :: s.sent }
  match s.input with
  | .message 0 _ => { s with hmb := s.hmb.put (Config.spdmBytes i) }
  | _ => s
/-- What Pilot does with a request of SPDM on the host's mailbox path or on I3C, given whether its place in the sequence is right; a
wrong one is answered with an error. On the host's path the request waits in the mailbox, and is taken when there is room for
the response (R418). A stopped Pilot answers nothing, but the I3C endpoint outlives a removal of power (R432). -/
def State.attest (s : State) (okNow : Pilot → Bool) (f : List Byte → State → State) : State :=
  match s.input with
  | .message path bytes =>
    if !s.listens path || !(path == 0 || path == 1) then s
    else match s.request path bytes with
      | none => s
      | some (b, s) => if okNow s.pilot then f b s else s.spdm .error
  | _ => s

/-- GET_VERSION (R423): the sequence begins again. -/
def execGetVersion (s : State) : Host.Outcome State Fault Refusal :=
  .next (s.attest (fun _ => true) (fun _ s => State.spdm { s with
    pilot := { s.pilot with version := true, caps := false, algs := false, keyEx := false, session := false } } .version))
/-- GET_CAPABILITIES (R423). -/
def execGetCapabilities (s : State) : Host.Outcome State Fault Refusal :=
  .next (s.attest (fun p => p.version) (fun _ s => State.spdm { s with pilot := { s.pilot with caps := true } } .capabilities))
/-- The extended algorithms of a request, as registry and algorithm identifiers: structures of four bytes. -/
def extAlgs : List Byte → List (Nat × Nat)
  | r :: _ :: a0 :: a1 :: t => (r.toNat, ofBytes [a0, a1]) :: extAlgs t
  | _ => []
/-- NEGOTIATE_ALGORITHMS (R423): the message names the base asymmetric and the base hash algorithm that it selects, 0 for none, and
then the extended ones that it offers. A base algorithm is refused; Falcon-1024 and SHAKE256 of registry 0x04 are negotiated when they
are offered. -/
def execNegotiateAlgorithms (s : State) : Host.Outcome State Fault Refusal :=
  .next (s.attest (fun p => p.caps) (fun b s =>
    let offered := extAlgs (b.drop 2)
    if (b.take 2).any (fun x => x != 0) || !offered.contains (4, 1) || !offered.contains (4, 2) then s.spdm .error
    else State.spdm { s with pilot := { s.pilot with algs := true } } (.algorithms 0x04 0x0001 0x0002)))
/-- GET_DIGESTS (R423). -/
def execGetDigests (s : State) : Host.Outcome State Fault Refusal :=
  .next (s.attest (fun p => p.algs) (fun _ s => s.spdm (.digests Config.certDigest)))
/-- GET_CERTIFICATE (R423). -/
def execGetCertificate (s : State) : Host.Outcome State Fault Refusal :=
  .next (s.attest (fun p => p.algs) (fun _ s => s.spdm (.certificate Config.certificate)))
/-- CHALLENGE (R423). -/
def execChallenge (s : State) : Host.Outcome State Fault Refusal :=
  .next (s.attest (fun p => p.algs) (fun _ s => s.spdm .challengeAuth))

/-- The bytes of every frame table entry, in the order of dies and frames (R276). -/
def State.frameImage (s : State) : List Byte :=
  (List.range 8).flatMap (fun d => (List.range 128).flatMap (fun f => bytesOf 8 (s.frame d f).word.toNat))
/-- The measurement blocks (R423): index, digest, security version. -/
def State.measurements (s : State) : List (Nat × BitVec 512 × Nat) :=
  [(1, Config.romDigest, 0), (2, Config.imageDigest (s.pilot.bank false), Config.imageVersion (s.pilot.bank false)),
   (3, Config.imageDigest s.pilot.crew, Config.imageVersion s.pilot.crew), (4, Config.shake256 s.partImage, 0),
   (5, Config.shake256 s.frameImage, 0)]
/-- GET_MEASUREMENTS (R423). -/
def execGetMeasurements (s : State) : Host.Outcome State Fault Refusal :=
  .next (s.attest (fun p => p.algs) (fun _ s => s.spdm (.measurements s.measurements)))
/-- KEY_EXCHANGE (R423). -/
def execKeyExchange (s : State) : Host.Outcome State Fault Refusal :=
  .next (s.attest (fun p => p.algs) (fun _ s => State.spdm { s with pilot := { s.pilot with keyEx := true } } .keyExchange))
/-- FINISH (R423). -/
def execFinish (s : State) : Host.Outcome State Fault Refusal :=
  .next (s.attest (fun p => p.keyEx) (fun _ s =>
    State.spdm { s with pilot := { s.pilot with keyEx := false, session := true } } .finish))

/-! ## Power and cooling (R26, R27, R432) -/

/-- The PLDM sensors that the model holds (R430): 0 the clock step of a die, 1 the count of its error log. -/
def State.sensor (s : State) (kind d : Nat) : Nat := if kind = 0 then (s.die d).clk.toNat else (s.die d).log.length
/-- A message of PLDM on I3C, or in the host's mailbox, where it is taken when there is room for the response, whose bytes are free (R418,
R430; log 9). -/
def State.pldm (s : State) (path : Nat) (f : State → State) : State :=
  if !s.listens path || !(path == 0 || path == 1) then s
  else match s.request path [] with
    | none => s
    | some (_, s) =>
      if path = 0 then
        let (i, s) := s.fresh
        let s := f s
        { s with hmb := s.hmb.put (Config.pldmBytes i) }
      else f s
/-- The PLDM effecter of the power cap (R432): from 2 to 7.5 kW, in W. -/
def State.setCap (s : State) (w : Nat) : State :=
  if 2000 ≤ w ∧ w ≤ 7500 then { s with pilot := { s.pilot with cap := w } } else s
/-- POWER_CAP_SET (R430, R432): the effecter is set, over I3C or, with the path named, by a message on that path; or a PLDM message on a path reads
a sensor of a die. -/
def execPowerCapSet (s : State) : Host.Outcome State Fault Refusal :=
  match s.input with
  | .unit w => .next (s.setCap w)
  | .nums [path, w] => .next (s.pldm path (fun s => s.setCap w))
  | .nums [path, kind, d] =>
    .next (if kind < 2 ∧ d < 10 then s.pldm path (fun s => { s with sent := .sensor kind d (s.sensor kind d) :: s.sent }) else s)
  | _ => .next s
/-- Sets the clock step of a die, and reports it as an event of PLDM (R26, R430). -/
def State.setClock (s : State) (d : Nat) (k : BitVec 4) : State :=
  { s.updDie d (fun x => { x with clk := k }) with sent := .clock d k :: s.sent }
/-- CLOCK_STEP_RAISE (R432): die, draw in W, temperature of the hottest die in °C. -/
def execClockStepRaise (s : State) : Host.Outcome State Fault Refusal :=
  match s.input with
  | .nums [d, draw, temp] =>
    .next (if d < 10 ∧ (s.die d).clk.toNat < 8 ∧ (s.pilot.cap < draw ∨ 95 < temp) then s.setClock d ((s.die d).clk + 1) else s)
  | _ => .next s
/-- CLOCK_STEP_LOWER (R432): die, the highest draw in W of the time in ns for which it has stayed 5 % below the cap. -/
def execClockStepLower (s : State) : Host.Outcome State Fault Refusal :=
  match s.input with
  | .nums [d, draw, ns] =>
    .next (if d < 10 ∧ 0 < (s.die d).clk.toNat ∧ 100 * draw ≤ 95 * s.pilot.cap ∧ 10000000 ≤ ns then s.setClock d ((s.die d).clk - 1)
      else s)
  | _ => .next s
/-- OVER_TEMPERATURE (R432): the temperature of a die in °C; power goes, and the I3C endpoint and the identity store live on. -/
def execOverTemperature (s : State) : Host.Outcome State Fault Refusal :=
  match s.input with
  | .unit t => .next (if 110 < t then { s.machineFault with pilot := { s.pilot with power := false, alive := true } } else s)
  | _ => .next s

/-! ## The identity store (R431) -/

/-- One step of the CRC-16 with polynomial 0x1021, most significant bit first. -/
def crcBit (c : BitVec 16) : BitVec 16 := if c.getLsbD 15 then (c <<< 1) ^^^ 0x1021 else c <<< 1
/-- The CRC-16 of R431 over bytes in ascending order. -/
def crc16 (bytes : List Byte) : BitVec 16 :=
  bytes.foldl (fun (c : BitVec 16) (b : Byte) => (List.range 8).foldl (fun c _ => crcBit c) (c ^^^ (b ++ 0#8))) 0xFFFF
/-- Offsets 0x00 to 0x85 of the identity store. -/
def Pilot.idBody (p : Pilot) : List Byte :=
  (List.range 16).map Config.serial ++ (List.range 64).map Config.fingerprint ++ [1, 0]
    ++ (List.range 24).map (fun i => BitVec.ofNat 8 (p.classes.getD i 0)) ++ List.replicate 24 0 ++ bytesOf 4 p.gen.toNat
/-- The byte of the identity store at an offset. -/
def Pilot.idByte (p : Pilot) (o : Nat) : Byte := (p.idBody ++ bytesOf 2 (crc16 p.idBody).toNat).getD (o % 256) 0
/-- IDENTITY_STORE_READ (R431): offset, bytes. -/
def execIdentityStoreRead (s : State) : Host.Outcome State Fault Refusal :=
  match s.input with
  | .nums [o, n] => .next { s with sent := .bus ((List.range n).map (fun i => s.pilot.idByte (o + i))) :: s.sent }
  | _ => .next s

/-! ## Bring-up (R426) -/

/-- How many frames of each class each compute die has, by the frame tables (R431). -/
def State.classCounts (s : State) : List Nat :=
  (List.range 8).flatMap (fun d => [Cls.f, Cls.d, Cls.n].map (fun c => ((List.range 128).filter (fun f => (s.frame d f).cls == c)).length))
/-- What survives in a die: the classes and tenants of its frames, as the partition record sets them (R426). -/
def Die.fromRecord (old : Die) : Die :=
  { Die.reset with frames := old.frames.filterMap (fun (e : Nat × Frame) =>
      let f : Frame := { tenant := e.2.tenant, cls := e.2.cls }
      if f = {} then none else some (e.1, f)) }
/-- What survives of a function: its entry (R421). -/
def Func.fromRecord (f : Func) : Func := { v := f.v, tenant := f.tenant, queue := f.queue, hw := f.hw }
/-- What survives of Pilot: its images, the class record, and the bank that becomes active at a reset (R425). -/
def Pilot.fromRecord (p : Pilot) : Pilot :=
  { banks := p.banks, active := p.activate.active, trial := p.activate.trial, crew := p.crew, classes := p.classes, gen := p.gen }
/-- The boot ROM's check of the active Pilot bank (R422): a bank that fails gives way to the other one (R425), which is checked
in its turn before Pilot runs. -/
def Pilot.checked (p : Pilot) : Pilot :=
  if Config.imageOk 0 (p.bank false) then p else { p with active := !p.active, trial := false }
/-- Pilot's write of the class record where the classes that it sets differ from it (R431). -/
def State.syncRecord (s : State) : State :=
  if s.classCounts = s.pilot.classes then s
  else { s with pilot := { s.pilot with classes := s.classCounts, gen := s.pilot.gen + 1 } }
/-- The wavelengths of a die that no light reaches once die 8 is lost: those from it, and all of its own. -/
def darkWaves (d : Nat) : List Nat := if d = 8 then List.range 1280 else (List.range 128).map (waveKey 8 0 0 + ·)
/-- Bring-up training: every wavelength is ACTIVE but those of a lost die 8 (R427) and those that failed, named by 1280 * die + wavelength (R377,
R426). -/
def State.train (s : State) (failed : List Nat) : State :=
  let dark (d : Nat) : Tab Wave := if s.mgmtDie = 9 then (darkWaves d).map (fun k => (k, { st := .failed })) else []
  let s := { s with dies := s.dies.mapIdx (fun i (d : Die) => { d with trained := true, waves := dark i }) }
  (failed.foldl (fun s k => s.setWave (k / 1280) (k % 1280) { st := .failed }) s).updateTable s.reach
/-- The software's start (R426): Pilot, when the boot ROM's check passes, and then Crew, when Pilot's check of its image does (R422). -/
def State.startSoftware (s : State) : State :=
  let s := s.startPilot
  if Config.imageOk 0 (s.pilot.bank false) && Config.imageOk 1 s.pilot.crew then s.startCrew else s
/-- The state from which bring-up begins: reset, with what the package's records hold. -/
def State.powered (s : State) : State :=
  { State.reset with
    hart := Hart.reset (mkHid s.pkg 0 0), agenda := s.agenda, input := s.input, pkg := s.pkg, sent := s.sent, free := s.free
    dies := s.dies.map Die.fromRecord
    funcs := s.funcs.map Func.fromRecord
    queues := s.queues.map (fun (q : Queue) => { tenant := q.tenant })
    reach := s.reach
    -- the reply caches are gone: an old tag that still arrives is ambiguous (R330)
    lost := (s.replies.map (fun r => (r.home, r.src))).eraseDups ++ s.lost
    mgmtDie := s.mgmtDie
    port1 := s.mgmtDie == 9
    pgs := #v[if s.mgmtDie = 9 then { dead := BitVec.allOnes 72 } else {}, {}]
    pilot := s.pilot.fromRecord.checked }
/-- POWER_ON (R426): the input names the wavelengths that fail to train. -/
def execPowerOn (s : State) : Host.Outcome State Fault Refusal :=
  .next ((s.powered.syncRecord.train (match s.input with
    | .nums l => l
    | _ => [])).startSoftware)

/-! ## The takeover (R427) -/

/-- The state from which die 9 restarts the package: a machine fault, and then only what R427 carries across, and HBM. The Pilot bank is the one
that was active last: a staged one does not become active. -/
def State.takenOver (s : State) : State :=
  let t := s.machineFault
  { t with
    hart := Hart.reset (mkHid s.pkg 0 0), rest := [], tlb := [], fault := false, mgmtDie := 9, port1 := true
    queues := t.queues.map (fun (q : Queue) => { q with halted := true })
    dies := t.dies.map (fun (d : Die) => { Die.reset with frames := d.frames, cyc := d.cyc, log := d.log })
    cores := []
    ring := Vector.replicate 64 (Vector.replicate 16 0), trqh := 0, trqt := 0
    ltab := [], ltpg := Vector.replicate 2 0, lttree := 0, ltevt := 0
    pgs := Vector.replicate 2 {}
    reach := t.reach.set 0 0
    funcs := t.funcs.map Func.fromRecord
    hmb := {}, smb := {}, undock := none
    pilot := Pilot.checked { s.pilot.fromRecord with active := s.pilot.active, trial := s.pilot.trial } }
/-- The takeover halts every queue: the functions of those that the machine fault itself does not halt learn of it as well (R417). -/
def State.tellTakeover (s : State) : State :=
  let t := s.machineFault
  s.msiAll (fun f => !(s.queue f.queue.toNat).halted && !(t.queue f.queue.toNat).halted)
/-- MANAGEMENT_TAKEOVER (R427): die 8 is lost, or does not answer the watchdog; the input names the wavelengths that fail to train. When
die 9 is the management die already, the package is lost: its ports are dead, and it has no power. -/
def execManagementTakeover (s : State) : Host.Outcome State Fault Refusal :=
  .next (if s.mgmtDie = 9 then
      let s := s.machineFault
      let s := (s.setPg 0 { s.pg 0 with dead := BitVec.allOnes 72 }).setPg 1 { s.pg 1 with dead := BitVec.allOnes 72 }
      { s with pilot := { s.pilot with power := false } }
    else
      let port0 := !s.port1
      let s := s.tellTakeover.takenOver
      let s := s.setPg 0 { dead := BitVec.allOnes 72 }
      -- the port of die 9 becomes the active one (R414)
      let s := if port0 then s.msiAll (fun _ => true) else s
      (s.train (match s.input with
        | .nums l => l
        | _ => [])).startSoftware)

end Sys2Proof.Machine
end

