-- ==== Sys2Proof/Machine/Chunk.lean ====
section
/-! DEFINITION. The Rally engine's chunks: the trees on which they are reduced (R392 to R395), the contributions of the ranks (R396,
R397, R407, R408), the order of the sums (R399, R400), and the writing of results (R287, R396, R402). -/

namespace Sys2Proof.Machine
open Sys2Proof

/-! ## Trees (R392 to R395) -/

/-- The parents of a die path rooted at one of its dies (R392). -/
def pathParents (t root : Nat) : List Nat :=
  let ds := pathDies t
  let i := ds.idxOf root
  (List.range 10).map (fun d =>
    let j := ds.idxOf d
    if j < i then ds.getD (j + 1) d else if i < j then ds.getD (j - 1) d else d)
/-- A breadth-first search over pairs up in both directions: reached dies with their parents (R394). -/
def State.bfs (s : State) : Nat → List Nat → List (Nat × Nat) → List (Nat × Nat)
  | 0, _, ps => ps
  | _, [], ps => ps
  | fuel + 1, d :: q, ps =>
    let nb := (List.range 10).filter (fun b => !ps.any (fun p => p.1 == b) && s.tableUp d b && s.tableUp b d)
    s.bfs fuel (q ++ nb) (ps ++ nb.map (fun b => (b, d)))
/-- The parents of the fallback tree, when it reaches all ten dies (R394). -/
def State.fallback (s : State) (root : Nat) : Option (List Nat) :=
  let ps := s.bfs 10 [root] [(root, root)]
  if ps.length = 10 then
    some ((List.range 10).map (fun d => ((ps.find? (fun p => p.1 == d)).map (·.2)).getD d))
  else none
/-- The weight of a die path: the least WAVES of its 18 entries (R394). -/
def State.pathWeight (s : State) (t : Nat) : Nat :=
  ((pathPairs t).map (fun p => entryWaves (s.pairEntry p.1 p.2))).min?.getD 0
/-- Whether a package tree is usable for a group: its port group is UP or DEGRADED, and reaches every member (R394). -/
def State.pkgTreeUsable (s : State) (g : Group) (h : Nat) : Bool :=
  if hh : h < 2 then
    (entryState (s.ltpg[h]) == 0 || entryState (s.ltpg[h]) == 1) && g.members.all (fun p => s.reach[h].getLsbD p)
  else false

/-- The usable tree with the least (n + 1) / weight, ties to the first (R395). -/
def leastTree (opts : List (Nat × Nat)) (ns : List Nat) : Nat :=
  ((opts.foldl (fun best o => match best with
    | none => some o
    | some b => if (ns.getD o.1 0 + 1) * b.2 < (ns.getD b.1 0 + 1) * o.2 then some o else some b)
      (none : Option (Nat × Nat))).map (·.1)).getD 0
/-- Deals chunks to trees in ascending order (R395). -/
def spread (opts : List (Nat × Nat)) : Nat → List Nat → List Nat
  | 0, _ => []
  | n + 1, ns => leastTree opts ns :: spread opts n (ns.modify (leastTree opts ns) (· + 1))

/-- The root die of the die tree: die 8 on package tree A, die 9 on tree B; in a single-package group the fifth die of the path,
and die 8 for the fallback tree (R392, R394). -/
def rootDie (path pkt : Nat) : Nat :=
  if pkt = 0 then 8 else if pkt = 1 then 9 else if path < 5 then (pathDies path).getD 4 0 else 8

/-- The trees of chunks, assigned under the table as it is (R394, R395), or the reason why there are none. -/
def State.assignTrees (s : State) (g : Group) (cs : List Nat) : Except Nat (List (Nat × ChunkTree)) :=
  let paths := ((List.range 5).filter s.pathUsable).map (fun t => (t, s.pathWeight t))
  let multi : Bool := decide (1 < g.members.length)
  let pkts := ((List.range 2).filter (s.pkgTreeUsable g)).map (fun t => (t, 1))
  if multi && pkts.isEmpty then .error 5
  -- without a usable path and a fallback tree no tree spans the package, whether or not there is a chunk
  else if paths.isEmpty && (s.fallback 8).isNone then .error 4
  else
    let ds := if paths.isEmpty then cs.map (fun _ => 5) else spread paths cs.length (List.replicate 5 0)
    let ps := if multi then spread pkts cs.length [0, 0] else cs.map (fun _ => 2)
    (cs.zip (ds.zip ps)).foldr (fun (x : Nat × Nat × Nat) acc => match acc with
      | .error r => .error r
      | .ok l =>
        let root := rootDie x.2.1 x.2.2
        let par := if x.2.1 < 5 then some (pathParents x.2.1 root) else s.fallback root
        match par with
        | some p => .ok ((x.1, ⟨x.2.1, p, x.2.2⟩) :: l)
        | none => .error 4) (.ok [])

/-- Whether the trees of a chunk are still usable (R398). -/
def State.treeUsable (s : State) (g : Group) (t : ChunkTree) : Bool :=
  (if t.path < 5 then s.pathUsable t.path
   else (List.range 10).all (fun d => t.par.getD d d == d || (s.tableUp d (t.par.getD d d) && s.tableUp (t.par.getD d d) d)))
  && (t.pkt == 2 || s.pkgTreeUsable g t.pkt)

/-- The value at node `d` of a tree over `n` nodes: the node's operation on the contributions that sit there and on its
children's values, with the flags and escalations of the whole subtree (R399). -/
def treeVal {α : Type} (n : Nat) (par : Nat → Nat) (leaf : Nat → List α) (node : List α → Option α × Flags × Nat) :
    Nat → Nat → Option α × Flags × Nat
  | 0, _ => (none, 0, 0)
  | fuel + 1, d =>
    let rs := ((List.range n).filter (fun c => c != d && par c == d)).map (treeVal n par leaf node fuel)
    let (v, f, e) := node (leaf d ++ rs.filterMap (·.1))
    (v, rs.foldl (fun a r => a ||| r.2.1) f, rs.foldl (fun a r => a + r.2.2) e)
/-- The value at the root of a die tree. -/
def dieTree {α : Type} (t : ChunkTree) (leaf : Nat → List α) (node : List α → Option α × Flags × Nat) : Option α × Flags × Nat :=
  treeVal 10 (fun c => t.par.getD c c) leaf node 10 (rootDie t.path t.pkt)
/-- The value at the root of a package tree; `vals` are the package values in ascending package number (R393). -/
def pkgTree {α : Type} (t : ChunkTree) (vals : List (Option α)) (node : List α → Option α × Flags × Nat) : Option α × Flags × Nat :=
  let vs := if t.pkt = 1 then vals.reverse else vals
  treeVal vs.length (fun i => if i = 0 then 0 else (i - 1) / 16) (fun i => (vs.getD i none).toList) node (vs.length + 1) 0

/-! ## Nodes (R399, R400) -/

/-- The exact sum of values, whatever their order (R399): infinities of both signs are an invalid operation, and a NaN among the
values makes the sum a NaN (R84; log 75). -/
def sumAll (x : Exact) (xs : List Exact) : Exact × Flags :=
  let all := x :: xs
  if all.contains (.inf false) && all.contains (.inf true) then (.nan, fNV)
  else if all.contains .nan then (.nan, 0)
  else (xs.foldl (fun a y => (Exact.add false a y).1) x, 0)
/-- The value of a node before it is rounded (R399). -/
def nodeSum (op : COp) (t : Tag) (x : Val) (xs : List Val) : Val × Flags :=
  match op with
  | .min => (xs.foldl (fun a y => (vMinMax false t false a y y).1) x, 0)
  | .max => (xs.foldl (fun a y => (vMinMax true t false a y y).1) x, 0)
  | _ => match x with
    | .int i => (.int (xs.foldl (fun a y => match y with
        | .int j => a + j
        | .real _ => a) i), 0)
    | .real e => let (r, f) := sumAll e (xs.map Val.exact); (.real r, f)

/-- A node of add, min or max (R399). -/
def redNode (op : COp) (t : Tag) (vs : List Val) : Option Val × Flags × Nat :=
  match vs with
  | [] => (none, 0, 0)
  | x :: xs =>
    let (v, f) := nodeSum op t x xs
    match op, v with
    | .add, .real r =>
      let (b, g) := deliver t .rne false 0 (.real r)
      (some (tagValue t b), f ||| g, 0)
    | _, v => (some v, f, 0)

/-- Half of an integer, with RNE. -/
def halfEven (i : Int) : Int :=
  let q := i / 2
  if i % 2 = 0 then q else if q % 2 = 0 then q else q + 1
/-- A block on its way: its scale and its integers (R400). -/
structure Block where
  sc : Nat
  xs : List Int
deriving DecidableEq, Repr
/-- Raises the scale of a block by `n` halvings. -/
def Block.raise (b : Block) : Nat → Block
  | 0 => b
  | n + 1 => Block.raise ⟨b.sc + 1, b.xs.map halfEven⟩ n
/-- Raises the scale of a block until every integer fits (R400). -/
def Block.fit (b : Block) : Nat → Block × Nat
  | 0 => (b, 0)
  | fuel + 1 =>
    if b.xs.any (fun x => decide (2 ^ 31 ≤ x.natAbs)) then
      let (r, n) := Block.fit (b.raise 1) fuel
      (r, n + 1)
    else (b, 0)
/-- A node of the block-scaled add: inputs aligned to the largest scale, added exactly, and fitted (R400). -/
def blkNode (vs : List Block) : Option Block × Flags × Nat :=
  match vs with
  | [] => (none, 0, 0)
  | x :: xs =>
    let top := xs.foldl (fun m b => max m b.sc) x.sc
    let al := vs.map (fun b => b.raise (top - b.sc))
    let sum := al.tail.foldl (fun a b => List.zipWith (· + ·) a b.xs) ((al.map (·.xs)).headD [])
    let (r, n) := Block.fit ⟨top, sum⟩ 64
    (some r, 0, n + (vs.map (fun b => top - b.sc)).sum)
/-- F of R400. -/
def blkShift : Tag → Int
  | .e2m1 | .e2m3 => 21 | .e3m2 => 19 | .e4m3 => 15 | _ => 8
/-- A contribution entered under the agreed scale `a` (R400): the integer, and its flags. A NaN or an infinity enters as a free
integer. -/
def blkEntry (t : Tag) (a sc bits : Nat) : Int × Flags :=
  match (tagValue t bits).exact with
  | .fin n m e _ =>
    let (i, ix) := roundInt .rne 0 n m (e + (sc : Int) - (a : Int) + blkShift t) false
    (i, flagIf ix fNX)
  | _ => (Config.blockEntry (bits + 2 ^ 16 * sc), 0)

/-! ## Chunks (R396) -/

/-- The unit in which elements are dealt to chunks: a block for block-scaled add, else an element. -/
def CollCall.unit (c : CollCall) : Nat := if c.rop = .blkAdd then max 1 c.blk else 1
/-- The element width of a call. -/
def CollCall.width (c : CollCall) : Nat := tagWidth c.tag
/-- The elements below which chunk `i` begins: an element belongs to the chunk in which its first bit lies. -/
def CollCall.below (c : CollCall) (i : Nat) : Nat :=
  let q := c.width * c.unit
  min c.count (c.unit * ((i * 524288 + q - 1) / q))
/-- The bytes of a source's elements. -/
def CollCall.srcBytes (c : CollCall) : Nat := (c.count * c.width + 7) / 8
/-- The chunks of an instance of this call. -/
def CollCall.chunks (c : CollCall) : Nat := if c.kind = .bar then 0 else (c.srcBytes + 65535) / 65536
/-- Elements that the rank of a call receives, for G ranks (R407). -/
def CollCall.received (c : CollCall) (ranks : Nat) : Nat :=
  match c.kind with
  | .rs | .srs => c.count / max 1 ranks
  | .ag => ranks * c.count
  | .bar => 0
  | _ => c.count
/-- Whether a call moves data in memory. -/
def CollCall.moves (c : CollCall) : Bool := c.mem && c.kind != .bar

/-! ## Reading (R287, R403, R405) -/

/-- A span cut at lines of 128 bytes; a span of no byte is none. -/
def collSpans (va : Word) (n : Nat) : List (Word × Nat) := if n = 0 then [] else pageSpans va n
/-- The request of a call. -/
def CollCall.req (c : CollCall) (l : LaunchId) : Req := ⟨.coll, c.mode, c.tenant, some l, coreKey (BitVec.ofNat 20 c.hid), 0⟩
/-- Locates a piece for the Rally engine: HBM or scratchpad of the own package (R405). -/
def State.collPlace (s : State) (r : Req) (k : Kind) (va : Word) (n : Nat) : Option Nat × State :=
  match s.locate r k va n with
  | (.ok (.here pa), s) => (if regionOf pa = .hbm ∨ regionOf pa = .spm then some pa else none, s)
  | (_, s) => (none, s)
/-- Reads pieces: the bytes, and their poisoned bits; none on a fault. -/
def State.readPieces2 (s : State) (r : Req) : List (Word × Nat) → Option (Nat × Nat) × State
  | [] => (some (0, 0), s)
  | (va, n) :: t =>
    match s.collPlace r .read va n with
    | (none, s) => (none, s)
    | (some pa, s) =>
      let (_, s) := s.readAt r (.here pa) n
      let (v, p) := if s.poisonedAt pa n then s.seen.stringAt pa n else (s.seen.bytes pa n, 0)
      match s.readPieces2 r t with
      | (none, s) => (none, s)
      | (some (v2, p2), s) => (some (v + 2 ^ (8 * n) * v2, p + 2 ^ (8 * n) * p2), s)
/-- Reads `n` bytes at a virtual address. -/
def State.readSpan (s : State) (r : Req) (va : Word) (n : Nat) : Option (Nat × Nat) × State :=
  s.readPieces2 r (collSpans va n)
/-- Reads `w` bits from bit `o` of an address on. -/
def State.readBits (s : State) (r : Req) (va : Word) (o w : Nat) : Option (Nat × Nat) × State :=
  if w = 0 then (some (0, 0), s) else
  match s.readSpan r (va + BitVec.ofNat 64 (o / 8)) ((o % 8 + w + 7) / 8) with
  | (none, s) => (none, s)
  | (some (v, p), s) => (some (v / 2 ^ (o % 8) % 2 ^ w, p / 2 ^ (o % 8) % 2 ^ w), s)

/-- What a rank contributes to a chunk: the elements' bits and poison from the chunk's first element on, its scales and theirs;
for COLL.SRS the elements that it has. -/
structure Contrib where
  bits : Nat
  poi  : Nat
  sc   : Nat := 0
  scP  : Nat := 0
  has  : Option Nat := none
  flags : Flags := 0
deriving DecidableEq, Repr

/-- The exact sum of the pairs of a COLL.SRS list with index `i` (R408). -/
def pairSum (ps : List Nat) (i : Nat) : Option (Exact × Flags) :=
  match (ps.filter (fun p => p % 2 ^ 32 == i)).map (fun p => fp32.value (p / 2 ^ 32)) with
  | [] => none
  | x :: xs => some (sumAll x xs)
/-- The contribution of a COLL.SRS list to the elements from `lo` below `hi` (R408). -/
def srsContrib (n lo hi v p : Nat) : Contrib :=
  let ps := (List.range n).map (elemAt 64 v)
  let es := (List.range (hi - lo)).map (fun e => (pairSum ps (lo + e)).map (fun (x, f) =>
    let (b, g) := fp32.round .rne false 0 x
    (b, f ||| g)))
  let bad := (List.range n).filterMap (fun i => if elemAt 64 p i = 0 then none else some (elemAt 64 v i % 2 ^ 32))
  { bits := packNat 32 (es.map (fun e => (e.map (·.1)).getD 0))
    poi := packNat 32 ((List.range (hi - lo)).map (fun e => if bad.contains (lo + e) then 2 ^ 32 - 1 else 0))
    has := some (packNat 1 (es.map (fun e => if e.isSome then 1 else 0)))
    flags := es.foldl (fun f e => f ||| (e.map (·.2)).getD 0) 0 }

/-- The contribution of a call to chunk `i`: from its staging copy, from what it captured, or from memory (R396, R397, R403). Of a
broadcast only the root's source is read (R407). -/
def State.contribAt (s : State) (x : CollInst) (i : Nat) (c : CollCall) : Option Contrib × State :=
  let lo := c.below i
  let hi := c.below (i + 1)
  let w := c.width
  match x.slots.find? (fun t => t.lrank == c.lrank && t.chunk == i) with
  | some t => (some { bits := t.bits, poi := t.poi, sc := t.sc, scP := t.scP }, s)
  | none =>
    if c.kind = .bc ∧ c.rank ≠ c.root then (some { bits := 0, poi := 0 }, s)
    else if c.kind = .srs then
      match s.readSpan (c.req x.lid) c.src (8 * c.pairs) with
      | (none, s) => (none, s)
      | (some (v, p), s) => (some (srsContrib c.pairs lo hi v p), s)
    else if !c.mem then
      let cut (v k a b : Nat) : Nat := v / 2 ^ (k * a) % 2 ^ (k * (b - a))
      let u := c.unit
      (some { bits := cut c.bits w lo hi, poi := cut c.poi w lo hi
              sc := cut c.sc 8 (lo / u) (hi / u), scP := cut c.scP 8 (lo / u) (hi / u) }, s)
    else
      match s.readBits (c.req x.lid) c.src (lo * w) ((hi - lo) * w) with
      | (none, s) => (none, s)
      | (some (v, p), s) =>
        if c.rop = .blkAdd then
          match s.readBits (c.req x.lid) (c.src + BitVec.ofNat 64 c.srcBytes) (lo / c.blk * 8) ((hi - lo) / c.blk * 8) with
          | (none, s) => (none, s)
          | (some (sc, scP), s) => (some { bits := v, poi := p, sc := sc, scP := scP }, s)
        else (some { bits := v, poi := p }, s)
/-- The same, as the instance itself sees the memory (R403). -/
def State.contrib (s : State) (x : CollInst) (i : Nat) (c : CollCall) : Option Contrib × State :=
  let (k, t) := (s.ownView x).contribAt x i c
  (k, { t with insts := s.insts })
/-- The contributions of all calls. -/
def State.contribs (s : State) (x : CollInst) (i : Nat) : List CollCall → Option (List (CollCall × Contrib)) × State
  | [] => (some [], s)
  | c :: cs =>
    match s.contrib x i c with
    | (none, s) => (none, s)
    | (some k, s) =>
      match s.contribs x i cs with
      | (none, s) => (none, s)
      | (some ks, s) => (some ((c, k) :: ks), s)

/-! ## The result of a chunk (R399, R400) -/

/-- The result of a chunk: the bits and poison of its elements, and for block-scaled add of its scales. -/
structure Result where
  bits : Nat
  poi  : Nat
  sc   : Nat
  scP  : Nat
  flags : Flags
  esc  : Nat
  poisoned : Bool
deriving DecidableEq, Repr

/-- Element `e` of a contribution, if it has one. -/
def Contrib.elem (k : Contrib) (w e : Nat) : Option Nat :=
  match k.has with
  | some m => if m.testBit e then some (elemAt w k.bits e) else none
  | none => some (elemAt w k.bits e)
/-- Element `e` of another package's part. -/
def PkgPart.elem (p : PkgPart) (w e : Nat) : Option Nat := if p.has.testBit e then some (elemAt w p.bits e) else none

/-- One element of an AR, RS or SRS with add, min or max: the bits, and the flags (R399). -/
def reduceElem (op : COp) (t : Tag) (tree : ChunkTree) (own : Nat) (ks : List (CollCall × Contrib)) (parts : List PkgPart) (e : Nat) :
    Nat × Flags :=
  let w := tagWidth t
  let leaf (d : Nat) : List Val := ks.filterMap (fun k =>
    if hidDie (BitVec.ofNat 20 k.1.hid) = d then (k.2.elem w e).map (tagValue t) else none)
  let (v, f, _) := dieTree tree leaf (redNode op t)
  let (r, g, _) := if tree.pkt = 2 then (v, (0 : Flags), 0)
    else pkgTree tree ((parts.take own).map (fun p => (p.elem w e).map (tagValue t)) ++ [v]
      ++ (parts.drop own).map (fun p => (p.elem w e).map (tagValue t))) (redNode op t)
  match r with
  | none => (0, f ||| g)
  | some (.int i) => (intBits w i, f ||| g)
  | some x => ((deliver t .rne false 0 x).1, f ||| g)

/-- One block of a block-scaled add, block `b` of the chunk (R400): its scale, its elements, flags, escalations. -/
def reduceBlock (t : Tag) (blk : Nat) (tree : ChunkTree) (own : Nat) (ks : List (CollCall × Contrib)) (parts : List PkgPart) (b : Nat) :
    Nat × List Nat × Flags × Nat :=
  let w := tagWidth t
  let tops := ks.map (fun k => elemAt 8 k.2.sc b) ++ parts.map (fun p => p.tops.getD b 0)
  let a := tops.foldl max 0
  if a = 255 then (255, List.replicate blk 0, fNV, 0)
  else
    let enter (k : Contrib) : List (Int × Flags) :=
      (List.range blk).map (fun j => blkEntry t a (elemAt 8 k.sc b) (elemAt w k.bits (b * blk + j)))
    let leaf (d : Nat) : List Block := ks.filterMap (fun k =>
      if hidDie (BitVec.ofNat 20 k.1.hid) = d then some ⟨a, (enter k.2).map (·.1)⟩ else none)
    let nx := ks.foldl (fun f k => (enter k.2).foldl (fun f x => f ||| x.2) f) (0 : Flags)
    let (v, _, e) := dieTree tree leaf blkNode
    let other (p : PkgPart) : Option Block := some ⟨p.scales.getD b 0, (p.ints.drop (b * blk)).take blk⟩
    let (r, _, e2) := if tree.pkt = 2 then (v, (0 : Flags), 0)
      else pkgTree tree ((parts.take own).map other ++ [v] ++ (parts.drop own).map other) blkNode
    match r with
    | none => (0, List.replicate blk 0, nx, e + e2)
    | some x =>
      let es := x.xs.zipIdx.map (fun (i, j) => (j, (Exact.ofInt i).scale ((x.sc : Int) - 127 - blkShift t)))
      let (sc, ws, f, _) := quantBlock t ((emaxOf t).getD 0) .rne 0 es
      (sc, ws.map (·.2), nx ||| f, e + e2)

/-- Whether element `e` of the chunk is reached by a poisoned contribution. -/
def reachedBad (w : Nat) (ks : List (CollCall × Contrib)) (parts : List PkgPart) (e : Nat) : Bool :=
  ks.any (fun k => badAt w k.2.poi e) || parts.any (fun p => badAt w p.poi e)

/-- The reduction of chunk elements `0` to `n - 1` (R399, R400). -/
def reduceChunk (c : CollCall) (n : Nat) (tree : ChunkTree) (own : Nat) (ks : List (CollCall × Contrib)) (parts : List PkgPart) : Result :=
  let w := c.width
  if c.rop = .blkAdd then
    let nb := n / max 1 c.blk
    let rs := (List.range nb).map (reduceBlock c.tag c.blk tree own ks parts)
    let badB (b : Nat) : Bool := ks.any (fun k => badAt 8 k.2.scP b)
    let bad (e : Nat) : Bool := reachedBad w ks parts e || badB (e / max 1 c.blk)
    { bits := packNat w (rs.flatMap (·.2.1)), sc := packNat 8 (rs.map (·.1))
      poi := packNat w ((List.range n).map (fun e => if bad e then 2 ^ w - 1 else 0))
      scP := packNat 8 ((List.range nb).map (fun b => if badB b then 255 else 0))
      flags := rs.foldl (fun f r => f ||| r.2.2.1) 0, esc := (rs.map (·.2.2.2)).sum
      poisoned := (List.range n).any bad }
  else
    let rs := (List.range n).map (reduceElem c.rop c.tag tree own ks parts)
    { bits := packNat w (rs.map (·.1)), sc := 0, scP := 0
      poi := packNat w ((List.range n).map (fun e => if reachedBad w ks parts e then 2 ^ w - 1 else 0))
      flags := rs.foldl (fun f r => f ||| r.2) (ks.foldl (fun f k => f ||| k.2.flags) 0), esc := 0
      poisoned := (List.range n).any (reachedBad w ks parts) }

/-! ## Writing (R287, R396) -/

/-- Writes pieces with their poison; the answer is the reason of a COLL_FAULT, if there is one. -/
def State.writePieces2 (s : State) (r : Req) (v p : Nat) : List (Word × Nat) → Option Nat × State
  | [] => (none, s)
  | (va, n) :: t =>
    match s.collPlace r .write va n with
    | (none, s) => (some 3, s)
    | (some pa, s) =>
      let low := p % 2 ^ (8 * n)
      if low ≠ 0 ∧ s.placeCls (.here pa) = Cls.n then (some 2, s)
      else
        let s := s.writeAt r (.here pa) n (v % 2 ^ (8 * n))
        let s := if low = 0 then s
          else (List.range n).foldl (fun s i => if elemAt 8 low i = 0 then s else s.poisonAt (pa + i) 1) s
        s.writePieces2 r (v / 2 ^ (8 * n)) (p / 2 ^ (8 * n)) t
/-- Writes `w` bits from bit `o` of an address on; the other bits of the first and last byte stay. -/
def State.writeBits (s : State) (r : Req) (va : Word) (o w v p : Nat) : Option Nat × State :=
  if w = 0 then (none, s) else
  let a := va + BitVec.ofNat 64 (o / 8)
  let n := (o % 8 + w + 7) / 8
  let spans := collSpans a n
  if o % 8 = 0 ∧ w % 8 = 0 then s.writePieces2 r v p spans
  else
    match s.readSpan r a n with
    | (none, s) => (some 3, s)
    | (some (old, oldP), s) =>
      let put (base x : Nat) : Nat := base % 2 ^ (o % 8) + x * 2 ^ (o % 8) + base / 2 ^ (o % 8 + w) * 2 ^ (o % 8 + w)
      s.writePieces2 r (put old v) (if oldP = 0 ∧ p = 0 then 0 else put 0 p) spans

/-- A piece of a result at a rank: the elements from `at_` on of what it receives, `n` of them, bits and poison; for scales
`sc` says so. -/
structure Given where
  at_  : Nat
  n    : Nat
  bits : Nat
  poi  : Nat
  sc   : Bool := false
deriving DecidableEq, Repr

/-- The field width of a piece. -/
def Given.width (g : Given) (c : CollCall) : Nat := if g.sc then 8 else c.width

/-- Writes one piece: into memory, or into the result that the rank's register form will receive. -/
def State.give (s : State) (x : CollInst) (ranks : Nat) (c : CollCall) (g : Given) : Option Nat × State :=
  if c.mem then
    let base := if g.sc then c.dst + BitVec.ofNat 64 ((c.received ranks * c.width + 7) / 8) else c.dst
    s.writeBits (c.req x.lid) base (g.at_ * g.width c) (g.n * g.width c) g.bits g.poi
  else (none, s)
/-- Writes pieces at a rank; the first fault ends it. -/
def State.giveAll (s : State) (x : CollInst) (ranks : Nat) (c : CollCall) : List Given → Option Nat × State
  | [] => (none, s)
  | g :: gs =>
    match s.give x ranks c g with
    | (some r, s) => (some r, s)
    | (none, s) => s.giveAll x ranks c gs

/-- What a rank receives of a reduction's chunk that covers elements `lo` to `hi - 1` (R407). -/
def CollCall.share (c : CollCall) (ranks lo hi : Nat) (r : Result) : List Given :=
  let w := c.width
  let m := c.received ranks
  let first := if c.kind = .rs ∨ c.kind = .srs then c.rank * m else 0
  let a := max lo first
  let b := min hi (first + m)
  if b ≤ a then [] else
  let cut (v k x y : Nat) : Nat := v / 2 ^ (k * x) % 2 ^ (k * (y - x))
  ⟨a - first, b - a, cut r.bits w (a - lo) (b - lo), cut r.poi w (a - lo) (b - lo), false⟩ ::
    (if c.rop = .blkAdd then
      let u := max 1 c.blk
      [⟨(a - first) / u, (b - a) / u, cut r.sc 8 ((a - lo) / u) ((b - lo) / u), cut r.scP 8 ((a - lo) / u) ((b - lo) / u), true⟩]
     else [])

end Sys2Proof.Machine
end

