-- ==== Sys2Proof/Machine/Collective.lean ====
section
/-! DEFINITION. The collective instructions (R404 to R411), and the events of instances: marks, recomputes, timeouts and endings (R396
to R398, R401, R402). -/

namespace Sys2Proof.Machine
open Sys2Proof

/-! ## Staging (R397) -/

/-- Whether a call keeps its input in staging: an in-place AR or RS. -/
def CollCall.staged (c : CollCall) : Bool := c.inPlace && (c.kind == .ar || c.kind == .rs)
/-- The staging slots of a group that chunks hold: those of an instance, and of the others that run on the group. -/
def State.staging (s : State) (x : CollInst) : List Staged :=
  x.slots ++ (s.insts.filter (fun y => y.grp == x.grp && !(y.lid == x.lid && y.k == x.k))).flatMap (·.slots)
/-- The lowest free staging slot of a rank, whichever of its instances hold the others. -/
def State.freeSlot (s : State) (x : CollInst) (lrank : Nat) : Option Nat :=
  (List.range (s.group x.grp).win).find? (fun i => !(s.staging x).any (fun t => t.lrank == lrank && t.slot == i))
/-- Whether a chunk may start: every staging rank has a free slot. -/
def State.mayStart (s : State) (x : CollInst) : Bool :=
  x.calls.all (fun c => !c.staged || (s.freeSlot x c.lrank).isSome)
/-- Writes a staging copy at a pod address: the area must lie in an HBM frame of the group's tenant. Errors that it meets are charged to the launch (R284). -/
def State.stage (s : State) (l : LaunchId) (t : BitVec 6) (pod n v p : Nat) : Option State :=
  let r : Req := ⟨.coll, .s, t, some l, 0, 0⟩
  let pa := s.redirect (pod % 2 ^ 45)
  if n = 0 then some s
  else if pod / 2 ^ 45 ≠ s.pkg.toNat ∨ regionOf pa ≠ .hbm ∨ (s.homeCheck r .write pa n).isSome then none
  else
    let s := s.writeAt r (.here pa) n v
    some (if p = 0 ∨ s.placeCls (.here pa) = Cls.n then s
      else (List.range n).foldl (fun s i => if elemAt 8 p i = 0 then s else s.poisonAt (pa + i) 1) s)
/-- Copies the input of chunk `i` of one staging rank (R397). -/
def State.stageCall (s : State) (x : CollInst) (i : Nat) (c : CollCall) : Option (CollInst × State) :=
  let g := s.group x.grp
  match s.freeSlot x c.lrank, s.contrib x i c with
  | some slot, (some k, s) =>
    let n := ((c.below (i + 1) - c.below i) * c.width + 7) / 8
    let pod := (g.gstage &&& gstageMask).toNat + (c.lrank * g.win + slot) * 65536
    (s.stage x.lid g.tenant pod n k.bits k.poi).map (fun s => ({ x with slots := ⟨c.lrank, i, slot, k.bits, k.poi, k.sc, k.scP⟩ :: x.slots }, s))
  | _, _ => none
/-- Starts chunk `i` at every rank: none when a staging access fails. -/
def State.startChunk (s : State) (x : CollInst) (i : Nat) : Option (CollInst × State) :=
  (x.calls.filter (·.staged)).foldl (fun acc c => match acc with
    | some (x, s) => s.stageCall x i c
    | none => none) (some ({ x with started := i :: x.started }, s))
/-- Starts up to `n` further chunks, the lowest first, as far as slots allow. -/
def State.startSome (x : CollInst) : Nat → State → State
  | 0, s => s.putInst x
  | n + 1, s =>
    match (List.range x.chunks).find? (fun i => !x.started.contains i && !x.marked.contains i) with
    | none => s.putInst x
    | some i =>
      if !x.calls.any (·.staged) || !s.mayStart x || s.collHeld x then s.putInst x
      else match s.startChunk x i with
        | some (y, s) => State.startSome y n s
        | none => s.endInst x 3
/-- Starts as many further chunks as the engine chooses; how many is free (R397 gives the bound only). -/
def State.startFree (s : State) (x : CollInst) : State :=
  let (n, s) := s.fresh
  State.startSome x (Config.pick n 256 % 256) s

/-! ## Issue (R391, R405) -/

/-- The bytes that a virtual range has at issue, page by page: from, to. -/
def State.spansOf (r : Req) (kd : Kind) : Nat → Word → Nat → State → List (Nat × Nat)
  | 0, _, _, _ => []
  | fuel + 1, va, n, s =>
    if n = 0 then [] else
    let k := min n (65536 - va.toNat % 65536)
    match (s.translate r kd va).1 with
    | .ok pod =>
      if pod / 2 ^ 45 = s.pkg.toNat then
        let pa := s.redirect (pod % 2 ^ 45)
        (pa, pa + k) :: State.spansOf r kd fuel (va + BitVec.ofNat 64 k) (n - k) s
      else State.spansOf r kd fuel (va + BitVec.ofNat 64 k) (n - k) s
    | .error _ => State.spansOf r kd fuel (va + BitVec.ofNat 64 k) (n - k) s

/-- Whether two calls agree (R391). -/
def CollCall.agrees (c d : CollCall) : Bool :=
  c.kind == d.kind && c.mem == d.mem && c.rop == d.rop && c.tag == d.tag && c.count == d.count && c.blk == d.blk && c.root == d.root

/-- An instance whose local ranks have all called gets its trees, and its first chunks start (R395, R397). -/
def State.begin_ (s : State) (x : CollInst) : State :=
  match s.assignTrees (s.group x.grp) (List.range x.chunks) with
  | .error r => s.endInst x r
  | .ok a => (s.putInst { x with assign := a }).startFree { x with assign := a }

/-- A call joins its instance (R391, R401). -/
def State.joinInst (s : State) (l : LaunchId) (grp k : Nat) (c : CollCall) : State :=
  let full (x : CollInst) : Bool := decide ((s.group grp).rpp ≤ x.calls.length)
  match s.inst l grp k with
  | none =>
    let x : CollInst := { grp := grp, k := k, lid := l, calls := [c], first := s.time, chunks := c.chunks, marked := [], assign := []
                          started := [], slots := [] }
    let s := { s with insts := s.insts ++ [x] }
    if full x then s.begin_ x else s
  | some x =>
    let y := { x with calls := x.calls ++ [c] }
    if x.calls.any (fun d => d.rank == c.rank || !d.agrees c) then s.endInst y 1
    else
      let s := s.putInst y
      if full y then s.begin_ y else s

/-- A call enters the collective queue (R405): it takes its number, sets its token, and joins its instance; a call of an instance that
has ended in COLL_FAULT ends with it at once (R401). -/
def State.enterColl (s : State) (l : LaunchId) (grp : Nat) (tk : Option (BitVec 3)) (regs : List Nat) (c : CollCall) : State :=
  let k := Tab.get (fun _ => 0) s.hart.collCnt grp
  let s := s.upd (fun h => { h with collCnt := Tab.set (fun _ => 0) h.collCnt grp (k + 1)
                                    collRank := Tab.set (fun _ => 0) h.collRank grp (c.rank + 1) })
  match s.ends.find? (fun e => e.lid == l && e.grp == grp && e.k == k) with
  | some e =>
    let s := s.updStat l grp c.rank (fun u => { u with reason := e.reason })
    let left := e.missing.filter (· != c.lrank)
    let s := { s with ends := s.ends.filterMap (fun d => if d = e then (if left.isEmpty then none else some { e with missing := left }) else some d) }
    s.upd (fun h => { h with pend := { h.pend with coll := h.pend.coll ++ [(grp, k, collTval e.reason grp k)] } })
  | none =>
    let s := s.upd (fun h => { h with
      colls := h.colls ++ [⟨grp, k, tk, regs⟩]
      tok := match tk with
        | some t => setBit h.tok t.toNat
        | none => h.tok })
    s.joinInst l grp k c

/-- The fields of a rank word (R405). -/
def rankL (w : Word) : Nat := (w.extractLsb' 0 12).toNat
def rankTag (w : Word) : BitVec 5 := w.extractLsb' 12 5
def rankRoot (w : Word) : Nat := (w.extractLsb' 17 19).toNat

/-- The tags of R406. -/
def collTag (kind : CollKind) (op : COp) (t : Tag) : Bool :=
  match kind with
  | .ag | .bc => t != .none && !t.isBlock
  | .bar => true
  | .srs => t == .fp32
  | _ => match op with
    | .blkAdd => t == .e2m1 || t == .e3m2 || t == .e2m3 || t == .e4m3 || t == .e5m2
    | _ => t == .si32 || t == .si64 || t == .ui32 || t == .ui64 || t == .bf16 || t == .fp16 || t == .fp32 || t == .fp64

/-- Whether two byte ranges share a byte. -/
def rangesMeet (a n b m : Nat) : Bool := decide (a < b + m ∧ b < a + n ∧ 0 < n ∧ 0 < m)

/-- What an instruction asks for, before its rank word is looked at. -/
structure CollAsk where
  kind : CollKind
  rop  : COp
  mem  : Bool
  vd   : Nat := 0
  va   : Nat := 0
  dst  : Word := 0
  src  : Word := 0
  rank : Word
  count : Nat := 0
  pairs : Nat := 0

/-- The tag of a call: of vA in register forms, FP32 for COLL.SRS, else that of the rank word. -/
def CollAsk.tag (a : CollAsk) (h : Hart) : Tag :=
  if a.kind = .bar then .none
  else if a.kind = .srs then .fp32
  else if a.mem then (Tag.ofCode? (rankTag a.rank)).getD .none
  else h.tag a.va

/-- The call that an instruction makes: its rank, its operands, and what a register form captures (R391, R397, R405). -/
def State.callOf (s : State) (a : CollAsk) (g : Group) : CollCall :=
  let h := s.hart
  let t := a.tag h
  let n := if a.mem || a.kind == .bar then a.count else h.n
  let w := tagWidth t
  let rank := g.posOf s.pkg.toNat * g.rpp + rankL a.rank
  let c : CollCall :=
    { hid := h.hid.toNat, lrank := rankL a.rank, rank := rank, kind := a.kind, rop := a.rop, mem := a.mem, tag := t, count := n
      blk := h.blkSize, root := rankRoot a.rank, vd := a.vd, dst := a.dst, src := a.src, pairs := a.pairs
      bits := if a.mem then 0 else h.vstr a.va % 2 ^ (n * w), poi := if a.mem then 0 else h.vpoiStr a.va % 2 ^ (n * w)
      sc := if a.mem || a.rop != .blkAdd then 0 else h.vstr (a.va + 1) % 2 ^ (8 * (n / h.blkSize))
      scP := if a.mem || a.rop != .blkAdd then 0 else h.vpoiStr (a.va + 1) % 2 ^ (8 * (n / h.blkSize))
      mode := h.mode, tenant := h.tenant, inPlace := false, spans := [], reads := [], at_ := s.wno
      ord := (h.collCnt.map (·.2)).sum }
  let m := c.received g.ranks
  let at_ (x y : Word) (off : Nat) : Bool := off * w % 8 == 0 && y == x + BitVec.ofNat 64 (off * w / 8)
  let inPlace := a.mem && match a.kind with
    | .ar => a.dst == a.src
    | .rs => at_ a.src a.dst (rank * m)
    | .ag => at_ a.dst a.src (rank * n)
    | .bc => a.dst == a.src && rank == c.root
    | _ => false
  { c with inPlace := inPlace }

/-- The bytes of a call's source and destination in memory. -/
def CollCall.srcLen (c : CollCall) : Nat :=
  if c.kind = .srs then 8 * c.pairs else c.srcBytes + (if c.rop = .blkAdd then c.count / max 1 c.blk else 0)
def CollCall.dstLen (c : CollCall) (ranks : Nat) : Nat :=
  (c.received ranks * c.width + 7) / 8 + (if c.rop = .blkAdd then c.received ranks / max 1 c.blk else 0)

/-- The size rules of R407 and R408, and those of block-scaled add (R162, R406). -/
def CollCall.sizeOk (c : CollCall) (h : Hart) (va ranks : Nat) : Bool :=
  (match c.kind with
    | .rs | .srs => ranks != 0 && c.count % ranks == 0
    | .ag => c.mem || decide (ranks * c.count ≤ mvl (h.tag c.vd) h.nregs)
    | _ => true)
  && (c.rop != .blkAdd ||
      ((if c.mem then c.count % 256 == 0
        else decide (va + 1 < h.nregs ∧ c.vd + 1 < h.nregs) && h.scaleOk (va + 1) && h.scaleOk (c.vd + 1))
       && (c.kind != .rs || c.received ranks % max 1 c.blk == 0)))

/-- The ILLEGAL_OPERAND conditions of R405, in a call that its group accepts. -/
def State.collIllegal (s : State) (a : CollAsk) (g : Group) (c : CollCall) : Bool :=
  a.rank.extractLsb' 36 28 != 0
  || decide (g.rpp ≤ c.lrank) || decide (g.ranks ≤ c.root) || (a.kind != .bc && c.root != 0)
  || ((!a.mem || a.kind == .bar) && rankTag a.rank != 0)
  || (a.kind == .srs && rankTag a.rank != 0 && rankTag a.rank != 0x17)
  || (a.mem && decide (2 ^ 32 ≤ c.count))
  || !collTag a.kind a.rop c.tag
  || (!a.mem && a.kind != .bar && s.hart.tag a.vd != c.tag)
  || !c.sizeOk s.hart a.va g.ranks
  || (c.moves && !c.inPlace && rangesMeet c.src.toNat c.srcLen c.dst.toNat (c.dstLen g.ranks))
  || (c.staged && g.win == 0)

/-- A collective (R405): its group is looked at before its scalar registers `xs`, and, in a register form, its source are read. -/
def collEff (i : Instr) (grp : BitVec 6) (tk : Option (BitVec 3)) (xs : List XReg) (touch : State → State) (a : CollAsk) (s : State) : Eff :=
  let g := s.group grp.toNat
  match s.hart.launch with
  | none => wordTrap .accessFault i s
  | some l =>
    if !g.en || g.tenant != s.hart.tenant || g.queue.toNat != l.q then wordTrap .accessFault i s
    else reading i xs [] (fun s =>
      let s := touch s
      let c := s.callOf a g
      if s.collIllegal a g c then wordTrap .illegalOperand i s
      else if c.moves && a.dst.toNat % 128 != 0 then trapAt .misaligned a.dst s
      else if c.moves && a.src.toNat % 128 != 0 then trapAt .misaligned a.src s
      else if a.rop = .blkAdd ∧ !a.mem ∧ (s.hart.regBusy (a.va + 1) ∨ s.hart.regBusy (a.vd + 1) ∨ s.hart.mxReads (a.vd + 1)) then .wait s
      else if 8 ≤ s.hart.colls.length then .wait s
      else
        let n := c.dstLen g.ranks
        let m := c.srcLen
        let c := if c.moves then { c with spans := State.spansOf (c.req l) .write (n / 65536 + 2) c.dst n s
                                          reads := State.spansOf (c.req l) .read (m / 65536 + 2) c.src m s } else c
        let regs := if a.mem || a.kind == .bar then [] else a.vd :: (if a.rop = .blkAdd then [a.vd + 1] else [])
        .done (s.enterColl l grp.toNat tk regs c)) s

/-- The issue of a register form: both registers below N and tagged, and the rule of R155, before the group is looked at. -/
def collRegIssue (i : Instr) (wm : BitVec 8) (grp : BitVec 6) (tk : Option (BitVec 3)) (kind : CollKind) (op : COp) (vd va : VReg)
    (xb : XReg) (s : State) : Host.Outcome State Fault Refusal :=
  vecIssue i (.plain wm) { regs := [vd.toNat, va.toNat], tk := tk } (fun s => s.hart.lenOk [vd.toNat, va.toNat])
    (fun s => collEff i grp tk [xb] (fun s =>
        let s := s.touchV va.toNat (tagWidth (s.hart.tag va.toNat)) (List.range s.hart.n)
        if op = .blkAdd then s.touchV (va.toNat + 1) 8 (List.range (s.hart.n / s.hart.blkSize)) else s)
      { kind := kind, rop := op, mem := false, vd := vd.toNat, va := va.toNat, rank := s.x xb } s) s
/-- The issue of a memory form, with COUNT from `xB` + 1, and for COLL.SRS the length of the list from `xB` + 2. -/
def collMemIssue (i : Instr) (wm : BitVec 8) (grp : BitVec 6) (tk : Option (BitVec 3)) (kind : CollKind) (op : COp) (xd xa xb : XReg)
    (s : State) : Host.Outcome State Fault Refusal :=
  vecIssue i (.plain wm) { regs := [], tk := tk } (fun _ => true)
    (fun s => collEff i grp tk ([xd, xa, xb, xb + 1] ++ (if kind = .srs then [xb + 2] else [])) id
      { kind := kind, rop := op, mem := true, dst := s.x xd, src := s.x xa, rank := s.x xb
        count := (s.x (xb + 1)).toNat, pairs := if kind = .srs then (s.x (xb + 2)).toNat else 0 } s) s

/-- COLL.AR (R407). -/
def execCollArV (wm : BitVec 8) (op : COp) (vd va : VReg) (xb : XReg) (grp : BitVec 6) (tk : Option (BitVec 3)) (s : State) :
    Host.Outcome State Fault Refusal := collRegIssue (.collArV wm op vd va xb grp tk) wm grp tk .ar op vd va xb s
/-- COLL.AR, memory form (R407). -/
def execCollArM (wm : BitVec 8) (op : COp) (xd xa xb : XReg) (grp : BitVec 6) (tk : Option (BitVec 3)) (s : State) :
    Host.Outcome State Fault Refusal := collMemIssue (.collArM wm op xd xa xb grp tk) wm grp tk .ar op xd xa xb s
/-- COLL.RS (R407). -/
def execCollRsV (wm : BitVec 8) (op : COp) (vd va : VReg) (xb : XReg) (grp : BitVec 6) (tk : Option (BitVec 3)) (s : State) :
    Host.Outcome State Fault Refusal := collRegIssue (.collRsV wm op vd va xb grp tk) wm grp tk .rs op vd va xb s
/-- COLL.RS, memory form (R407). -/
def execCollRsM (wm : BitVec 8) (op : COp) (xd xa xb : XReg) (grp : BitVec 6) (tk : Option (BitVec 3)) (s : State) :
    Host.Outcome State Fault Refusal := collMemIssue (.collRsM wm op xd xa xb grp tk) wm grp tk .rs op xd xa xb s
/-- COLL.AG (R407). -/
def execCollAgV (wm : BitVec 8) (vd va : VReg) (xb : XReg) (grp : BitVec 6) (tk : Option (BitVec 3)) (s : State) :
    Host.Outcome State Fault Refusal := collRegIssue (.collAgV wm vd va xb grp tk) wm grp tk .ag .add vd va xb s
/-- COLL.AG, memory form (R407). -/
def execCollAgM (wm : BitVec 8) (xd xa xb : XReg) (grp : BitVec 6) (tk : Option (BitVec 3)) (s : State) :
    Host.Outcome State Fault Refusal := collMemIssue (.collAgM wm xd xa xb grp tk) wm grp tk .ag .add xd xa xb s
/-- COLL.BC (R407). -/
def execCollBcV (wm : BitVec 8) (vd va : VReg) (xb : XReg) (grp : BitVec 6) (tk : Option (BitVec 3)) (s : State) :
    Host.Outcome State Fault Refusal := collRegIssue (.collBcV wm vd va xb grp tk) wm grp tk .bc .add vd va xb s
/-- COLL.BC, memory form (R407). -/
def execCollBcM (wm : BitVec 8) (xd xa xb : XReg) (grp : BitVec 6) (tk : Option (BitVec 3)) (s : State) :
    Host.Outcome State Fault Refusal := collMemIssue (.collBcM wm xd xa xb grp tk) wm grp tk .bc .add xd xa xb s
/-- COLL.SRS (R408). -/
def execCollSrs (wm : BitVec 8) (xd xa xb : XReg) (grp : BitVec 6) (tk : Option (BitVec 3)) (s : State) :
    Host.Outcome State Fault Refusal := collMemIssue (.collSrs wm xd xa xb grp tk) wm grp tk .srs .add xd xa xb s
/-- COLL.BAR (R409). -/
def execCollBar (wm : BitVec 8) (xb : XReg) (grp : BitVec 6) (tk : Option (BitVec 3)) (s : State) :
    Host.Outcome State Fault Refusal :=
  vecIssue (.collBar wm xb grp tk) (.plain wm) { regs := [], tk := tk } (fun _ => true)
    (fun s => collEff (.collBar wm xb grp tk) grp tk [xb] id { kind := .bar, rop := .add, mem := false, rank := s.x xb } s) s

/-! ## COLL.WAIT and COLL.STAT (R410, R411) -/

/-- COLL.WAIT (R410). -/
def execCollWait (wm : BitVec 8) (xd xa : XReg) (grp : BitVec 6) (s : State) : Host.Outcome State Fault Refusal :=
  issue (.collWait wm xd xa grp) false .all (.plain wm) [xa] [] (fun s =>
    let n := (s.hart.colls.filter (fun c => c.grp == grp.toNat)).length
    if n = 0 ∨ (xa ≠ 0 ∧ s.timedOut (s.x xa)) then .done (s.setX xd (BitVec.ofNat 64 n)) else .wait s) s

/-- A status item (R411). -/
def CollStat.item (u : CollStat) (i : Word) : Word :=
  match i.toNat with
  | 0 => BitVec.ofNat 32 u.done ++ BitVec.ofNat 8 u.reason ++ 0#18 ++ u.flags
  | 1 => BitVec.ofNat 64 u.esc
  | 2 => BitVec.ofNat 64 u.restarts
  | 3 => BitVec.ofNat 64 u.drop
  | _ => 0
/-- A status item cleared. -/
def CollStat.clear (u : CollStat) (i : Word) : CollStat :=
  match i.toNat with
  | 0 => { u with done := 0, reason := 0, flags := 0 }
  | 1 => { u with esc := 0 }
  | 2 => { u with restarts := 0 }
  | 3 => { u with drop := 0 }
  | _ => u
/-- COLL.STAT after its operand is known; `clr` clears the item. -/
def collStatEff (xd xa : XReg) (grp : BitVec 6) (clr : Bool) (s : State) : Eff :=
  let r := Tab.get (fun _ => 0) s.hart.collRank grp.toNat
  match s.hart.launch with
  | some l =>
    if r = 0 then .done (s.setX xd 0)
    else
      let u := s.stat l grp.toNat (r - 1)
      let i := s.x xa
      let s := if clr then s.updStat l grp.toNat (r - 1) (fun u => u.clear i) else s
      .done (s.setX xd (u.item i))
  | none => .done (s.setX xd 0)
/-- COLL.STAT (R411). -/
def execCollStat (wm : BitVec 8) (xd xa : XReg) (grp : BitVec 6) (s : State) : Host.Outcome State Fault Refusal :=
  issue (.collStat wm xd xa grp) false .all (.plain wm) [xa] [] (collStatEff xd xa grp false) s
/-- COLL.STAT.clr (R411). -/
def execCollStatClr (wm : BitVec 8) (xd xa : XReg) (grp : BitVec 6) (s : State) : Host.Outcome State Fault Refusal :=
  issue (.collStatClr wm xd xa grp) false .all (.plain wm) [xa] [] (collStatEff xd xa grp true) s

/-! ## Completion (R396, R402) -/

/-- The register-form result of a call, from the pieces that it receives. -/
def CollCall.result (c : CollCall) (ranks : Nat) (gs : List Given) : CollRes :=
  let w := c.width
  let data := gs.filter (fun g => !g.sc)
  let sum (k : Nat) (f : Given → Nat) (l : List Given) : Nat := (l.map (fun g => f g <<< (g.at_ * k))).sum
  let n := c.received ranks
  { vd := c.vd, n := n * w, bits := sum w (·.bits) data, poi := sum w (·.poi) data
    scale := if c.rop = .blkAdd then
        let sc := gs.filter (·.sc)
        some (n / max 1 c.blk * 8, sum 8 (·.bits) sc, sum 8 (·.poi) sc)
      else none }
/-- A register-form result reaches its hart: at once in U mode, else it is held (R402). -/
def Hart.collLand (h : Hart) (r : CollRes) : Hart :=
  let h := { h with collRes := h.collRes ++ [r] }
  if h.run = .running ∧ h.mode = .u then h.landRes else h

/-- Completes an instance (R396): results, tokens, counts. -/
def State.complete (s : State) (x : CollInst) (rs : List (CollCall × List Given)) : State :=
  let ranks := (s.group x.grp).ranks
  let s := (s.dropInst x).updStats x (fun _ u => { u with done := (u.done + 1) % 2 ^ 32 })
  let s := x.calls.foldl (fun s c => s.updRank x.lid c.hid (fun h => h.collDone x.grp x.k)) s
  (rs.filter (fun r => !r.1.mem)).foldl (fun s r => s.updRank x.lid r.1.hid (fun h => h.collLand (r.1.result ranks r.2))) s
  |>.settle

/-- The group status flags of a result (R411). -/
def statFlags (r : Result) : BitVec 6 :=
  BitVec.ofBool (decide (0 < r.esc)) ++ BitVec.ofBool r.poisoned ++ r.flags.extractLsb' 4 1 ++ r.flags.extractLsb' 0 3

/-- The contributions of every rank of AG and BC to a chunk, by global rank: bits and poison. -/
def gathered (g : Group) (own : Nat) (ks : List (CollCall × Contrib)) (parts : List PkgPart) (q : Nat) : Nat × Nat :=
  let p := q / g.rpp
  if p = own then ((ks.find? (fun k => k.1.rank == q)).map (fun k => (k.2.bits, k.2.poi))).getD (0, 0)
  else ((parts.getD (if p < own then p else p - 1) ⟨0, 0, 0, [], [], [], []⟩).ranks).getD (q % g.rpp) (0, 0)

/-- The pieces that every call receives of a chunk, and the status of the chunk (R399, R407). -/
def chunkPieces (g : Group) (own : Nat) (c0 : CollCall) (i : Nat) (tree : ChunkTree) (ks : List (CollCall × Contrib)) (parts : List PkgPart) :
    List (CollCall × List Given) × Result :=
  let lo := c0.below i
  let hi := c0.below (i + 1)
  let n := hi - lo
  match c0.kind with
  | .ag =>
    let all := (List.range g.ranks).map (fun q => (q, gathered g own ks parts q))
    (ks.map (fun k => (k.1, all.map (fun x => (⟨x.1 * c0.count + lo, n, x.2.1, x.2.2, false⟩ : Given)))),
     ⟨0, 0, 0, 0, 0, 0, all.any (fun x => x.2.2 != 0)⟩)
  | .bc =>
    let x := gathered g own ks parts c0.root
    (ks.map (fun k => (k.1, [⟨lo, n, x.1, x.2, false⟩])), ⟨0, 0, 0, 0, 0, 0, x.2 != 0⟩)
  | .bar => ([], ⟨0, 0, 0, 0, 0, 0, false⟩)
  | _ =>
    let r := reduceChunk c0 n tree own ks parts
    (ks.map (fun k => (k.1, k.1.share g.ranks lo hi r)), r)

/-- Gives every call its pieces; the first fault ends it. -/
def State.giveCalls (s : State) (x : CollInst) (ranks : Nat) : List (CollCall × List Given) → Option Nat × State
  | [] => (none, s)
  | r :: rs =>
    match s.giveAll x ranks r.1 r.2 with
    | (some e, s) => (some e, s)
    | (none, s) => s.giveCalls x ranks rs

/-- The pairs of a COLL.SRS list with an index outside the dense range (R408). -/
def State.srsDrop (s : State) (x : CollInst) (c : CollCall) : Nat :=
  if c.kind = .srs then
    match (s.readSpan (c.req x.lid) c.src (8 * c.pairs)).1 with
    | some (v, _) => ((List.range c.pairs).filter (fun i => decide (c.count ≤ elemAt 64 v i % 2 ^ 32))).length
    | none => 0
  else 0

/-- Performs chunk `i` of a started instance on its trees, and marks it (R396): the instance ends when an access fails or poison
reaches a destination of class N, and completes when all its chunks are marked. -/
def State.performChunk (s : State) (x : CollInst) (i : Nat) (tree : ChunkTree) (parts : List PkgPart) : State :=
  let g := s.group x.grp
  let own := g.posOf s.pkg.toNat
  match x.calls, s.contribs x i x.calls with
  | c0 :: _, (some ks, s) =>
    let (ps, r) := chunkPieces g own c0 i tree ks parts
    let (e, t) := (s.ownView x).giveCalls x g.ranks ps
    let s := { t with insts := s.insts }
    match e with
    | some e => s.endInst x e
    | none =>
      let s := s.updStats x (fun c u => { u with flags := u.flags ||| statFlags r, esc := u.esc + r.esc
                                                 drop := u.drop + (if i = 0 then s.srsDrop x c else 0) })
      let y := { x with marked := i :: x.marked, slots := x.slots.filter (fun t => t.chunk != i) }
      if (List.range x.chunks).all y.marked.contains then s.complete y ps
      else (s.putInst y).startFree y
  | _, (_, s) => s.endInst x 3

/-- Completes an instance without chunks. The pairs of COLL.SRS lists are read even then: each has an index outside the empty
range, and counts in DROP (R408). -/
def State.finishEmpty (s : State) (x : CollInst) : State :=
  match s.contribs x 0 x.calls with
  | (some _, s) => (s.updStats x (fun c u => { u with drop := u.drop + s.srsDrop x c })).complete x []
  | (none, s) => s.endInst x 3

/-- A chunk is marked (R396), when its trees are usable, no earlier collective of a rank's hart is in the way (R296), and, for an
in-place form, a staging slot is free or it has started (R397). An instance without chunks completes once every rank has called it. -/
def State.markChunk (s : State) (x : CollInst) (i : Nat) (parts : List PkgPart) : State :=
  let g := s.group x.grp
  if x.calls.length < g.rpp ∨ parts.length + 1 ≠ max 1 g.members.length then s
  else if s.collHeld x then s
  else if x.chunks = 0 then s.finishEmpty x
  else if x.marked.contains i then s
  else match x.assign.find? (fun a => a.1 == i) with
    | none => s
    | some (_, tree) =>
      if !s.treeUsable g tree then s
      else if x.started.contains i || !x.calls.any (·.staged) then s.performChunk x i tree parts
      else if !s.mayStart x then s
      else match s.startChunk x i with
        | some (y, s) => (s.putInst y).performChunk y i tree parts
        | none => s.endInst x 3

/-- CHUNK_MARK (R396): the input names the instance and the chunk, with the parts of the other member packages, or the reason for
which the instance has ended at another package (R401). -/
def execChunkMark (s : State) : Host.Outcome State Fault Refusal :=
  match s.input with
  | .rally l grp k c o =>
    match s.inst l grp k, o with
    | some x, .parts ps => .next (s.markChunk x c ps)
    | some x, .ended r =>
      .next (if 1 < (s.group grp).members.length ∧ 1 ≤ r ∧ r ≤ 8 then (s.endInst x r).settle else s)
    | none, _ => .next s
  | _ => .next s

/-! ## Recompute, timeout, disabling (R390, R398, R401) -/

/-- A recompute (R398): when a tree of an unmarked chunk has become unusable, every unmarked chunk is assigned afresh. -/
def State.recompute (s : State) (x : CollInst) : State :=
  let g := s.group x.grp
  let left := (List.range x.chunks).filter (fun i => !x.marked.contains i)
  if x.assign.any (fun a => left.contains a.1 && !s.treeUsable g a.2) then
    match s.assignTrees g left with
    | .error r => (s.endInst x r).settle
    | .ok a =>
      (s.putInst { x with assign := a }).updStats x (fun _ u => { u with restarts := u.restarts + left.length })
  else s
/-- COLLECTIVE_RECOMPUTE (R398): every running instance. -/
def execCollectiveRecompute (s : State) : Host.Outcome State Fault Refusal :=
  .next (s.insts.foldl (fun s x => match s.inst x.lid x.grp x.k with
    | some y => s.recompute y
    | none => s) s)
/-- COLLECTIVE_TIMEOUT (R401): every instance whose TMO has elapsed since its first call. -/
def execCollectiveTimeout (s : State) : Host.Outcome State Fault Refusal :=
  .next (s.endInsts (fun x =>
    let t := (s.group x.grp).tmo
    t != 0 && decide (x.first + t * 65536 ≤ s.time)) 8).settle
/-- GROUP_DISABLE (R390): a write of 0 to EN; the input names the group. -/
def execGroupDisable (s : State) : Host.Outcome State Fault Refusal :=
  match s.input with
  | .unit g => .next (s.writeGctl g ((s.group g).gctl &&& ~~~1#64))
  | _ => .next s

end Sys2Proof.Machine
end

