-- ==== Sys2Proof/Machine/Control.lean ====
section
/-! DEFINITION. Compares and predicates (R142, R143), branches and jumps (R144). -/

namespace Sys2Proof.Machine
open Sys2Proof

/-- CMP.cc (R142). -/
def execCmp (g : Hdr) (c : Cond) (pd : PReg) (xa xb : XReg) (s : State) : Host.Outcome State Fault Refusal :=
  issue (.cmp g c pd xa xb) true .all g [xa, xb] [] (fun s => .done (s.setP pd (predAll (condHolds c (s.x xa) (s.x xb))))) s
/-- PAND (R143). -/
def execPand (g : Hdr) (pd pa pb : PReg) (s : State) : Host.Outcome State Fault Refusal :=
  issue (.pand g pd pa pb) true .all g [] [pa, pb] (fun s => .done (s.setP pd (s.pred pa &&& s.pred pb))) s
/-- POR (R143). -/
def execPor (g : Hdr) (pd pa pb : PReg) (s : State) : Host.Outcome State Fault Refusal :=
  issue (.por g pd pa pb) true .all g [] [pa, pb] (fun s => .done (s.setP pd (s.pred pa ||| s.pred pb))) s
/-- PXOR (R143). -/
def execPxor (g : Hdr) (pd pa pb : PReg) (s : State) : Host.Outcome State Fault Refusal :=
  issue (.pxor g pd pa pb) true .all g [] [pa, pb] (fun s => .done (s.setP pd (s.pred pa ^^^ s.pred pb))) s
/-- PNOT (R143). -/
def execPnot (g : Hdr) (pd pa : PReg) (s : State) : Host.Outcome State Fault Refusal :=
  issue (.pnot g pd pa) true .all g [] [pa] (fun s => .done (s.setP pd (~~~(s.pred pa)))) s
/-- PMOV (R143). -/
def execPmov (g : Hdr) (pd pa : PReg) (s : State) : Host.Outcome State Fault Refusal :=
  issue (.pmov g pd pa) true .all g [] [pa] (fun s => .done (s.setP pd (s.pred pa))) s
/-- The result of PFIRST (R143). -/
def firstBit (v : BitVec 32768) (n : Nat) : BitVec 32768 :=
  match firstFrom v 0 n with
  | some i => BitVec.twoPow 32768 i
  | none => 0
/-- PFIRST (R143). -/
def execPfirst (g : Hdr) (pd pa : PReg) (s : State) : Host.Outcome State Fault Refusal :=
  issue (.pfirst g pd pa) true .all g [] [pa] (fun s => .done (s.setP pd (firstBit (s.pred pa) s.hart.elems))) s
/-- PCNT (R143). -/
def execPcnt (g : Hdr) (xd : XReg) (pa : PReg) (s : State) : Host.Outcome State Fault Refusal :=
  issue (.pcnt g xd pa) true .all g [] [pa]
    (fun s => .done (s.setX xd (BitVec.ofNat 64 (countLow (s.pred pa) s.hart.elems)))) s
/-- PSET (R143). -/
def execPset (g : Hdr) (pd : PReg) (xa : XReg) (s : State) : Host.Outcome State Fault Refusal :=
  issue (.pset g pd xa) true .all g [xa] [] (fun s => .done (s.setP pd (lowOnes (min (s.x xa).toNat 32768)))) s

/-- BR.cc (R144). -/
def execBr (g : Hdr) (c : Cond) (xa xb : XReg) (ofs : BitVec 27) (s : State) : Host.Outcome State Fault Refusal :=
  issue (.br g c xa xb ofs) true .all g [xa, xb] []
    (fun s => if condHolds c (s.x xa) (s.x xb) then .goto (s.target ofs) s else .done s) s
/-- BRP.cond (R144). -/
def execBrp (g : Hdr) (c : PCond) (pa : PReg) (ofs : BitVec 27) (s : State) : Host.Outcome State Fault Refusal :=
  issue (.brp g c pa ofs) true .all g [] [pa]
    (fun s => if pcondHolds c (s.pred pa) s.hart.elems then .goto (s.target ofs) s else .done s) s
/-- J (R144). -/
def execJ (g : Hdr) (ofs : BitVec 27) (s : State) : Host.Outcome State Fault Refusal :=
  issue (.j g ofs) true .all g [] [] (fun s => .goto (s.target ofs) s) s
/-- JAL (R144). -/
def execJal (g : Hdr) (xl : XReg) (ofs : BitVec 27) (s : State) : Host.Outcome State Fault Refusal :=
  issue (.jal g xl ofs) true .all g [] [] (fun s => .goto (s.target ofs) (s.setX xl (s.hart.pc + 8))) s
/-- JALR (R62, R144): `xa` is read before the link register is written, and a target that is no multiple of 8 raises
MISALIGNED before the link register is written. -/
def execJalr (g : Hdr) (xd xa : XReg) (imm : BitVec 27) (s : State) : Host.Outcome State Fault Refusal :=
  issue (.jalr g xd xa imm) true .all g [xa] []
    (fun s =>
      let t := s.x xa + imm27 imm * 8
      if t.extractLsb' 0 3 ≠ 0 then trapAt .misaligned t s else .goto t (s.setX xd (s.hart.pc + 8))) s

end Sys2Proof.Machine
end

