-- ==== Sys2Proof/Machine/Matrix.lean ====
section
/-! DEFINITION. The matrix units and the accumulator store (file 08): row lanes (R212 to R215, R232, R233), tiles (R216 to
R220), the matrix queue (R221 to R224), MMA (R225 to R228, R235), the unfolding unit (R229, R230, R234), MACC and MEPI. -/

namespace Sys2Proof.Machine
open Sys2Proof

/-! ## Row lanes (R214, R232, R233) -/

/-- The place of a hart in its cluster's waiting list. -/
def State.waiter (s : State) (hid : BitVec 20) : Option Waiter :=
  (s.cluster (clusterKey hid)).wait.find? (fun w => w.hid == hid.toNat)
/-- Takes a hart off its cluster's waiting list. -/
def State.unlist (s : State) (hid : BitVec 20) : State :=
  s.updCluster (clusterKey hid) (fun c => { c with wait := c.wait.filter (fun w => w.hid != hid.toNat) })
/-- Lists a hart, keeping its place. -/
def State.enlist (s : State) (w : Waiter) : State :=
  s.updCluster (clusterKey (BitVec.ofNat 20 w.hid)) (fun c =>
    if c.wait.any (fun x => x.hid == w.hid) then { c with wait := c.wait.map (fun x => if x.hid = w.hid then w else x) }
    else { c with wait := c.wait ++ [w] })

/-- MATT with a request of `r` rows, on the hart in focus: its grant (R232). DESIGN CHOICE (log 83): a request that it obtains whole takes the rows
reserved for it first, and what is reserved beyond it is released under R214. -/
def State.matt (s : State) (r : Nat) : State :=
  let hid := s.hart.hid
  let cl := clusterKey hid
  let g := s.hart.mgrant
  if r ≤ g then s.passRows cl ((s.unlist hid).upd (fun h => { h with mgrant := r }))
  else
    let resv := ((s.waiter hid).map (·.resv)).getD 0
    let take := min (r - g) (resv + s.freeRows cl)
    let s' := s.upd (fun h => { h with mgrant := g + take })
    if g + take < r then s'.enlist ⟨hid.toNat, r, resv - take, s.cycle⟩
    else s.passRows cl (s'.unlist hid)

/-- MATT (R232). The clusters of the I/O dies have no matrix unit and grant nothing (R18). -/
def execMatt (g : Hdr) (xd xa : XReg) (s : State) : Host.Outcome State Fault Refusal :=
  vecIssue (.matt g xd xa) g { regs := [], xs := [xa], whole := true } (fun _ => true) (fun s =>
    if !s.hart.mq.isEmpty then .wait s
    else
      let s := if s.hart.isCompute then s.matt (min (s.x xa).toNat 64) else s
      .done (s.setX xd (BitVec.ofNat 64 s.hart.mgrant))) s

/-- MDET (R233). -/
def execMdet (g : Hdr) (s : State) : Host.Outcome State Fault Refusal :=
  vecIssue (.mdet g) g { regs := [], whole := true } (fun _ => true) (fun s =>
    if !s.hart.mq.isEmpty then .wait s
    else if s.hart.isCompute then .done (s.matt 0) else .done s) s

/-- A waiting-list entry expires 4096 cycles after the hart's latest MATT or the latest passing of rows to it (R214). -/
def State.expireWaiter (s : State) (hid : BitVec 20) : State :=
  match s.waiter hid with
  | none => s
  | some w => if w.last + 4096 ≤ s.cycleOf (hidDie hid) then s.passRows (clusterKey hid) (s.unlist hid) else s

/-- MATRIX_WAITLIST_EXPIRE (R214): the input names the hart. -/
def execMatrixWaitlistExpire (s : State) : Host.Outcome State Fault Refusal :=
  match s.input with
  | .hart hid => .next (s.expireWaiter (BitVec.ofNat 20 hid))
  | _ => .next s

/-! ## Tiles (R216 to R218) -/

/-- The offset in its core's slot, and the length in bytes, of the allotment of a hart. -/
def State.accRange (s : State) (hid : BitVec 20) : Nat × Nat :=
  match s.gangOf hid with
  | some g => (g.accOff.getD (g.harts.idxOf hid.toNat) 0, g.accLen)
  | none => (0, 0)
/-- The number of tiles of the hart in focus (R216). -/
def State.tiles (s : State) : Nat := min 64 ((s.accRange s.hart.hid).2 / 8192)
/-- The accumulator slot of the core of the hart in focus. -/
def State.accSlot (s : State) : Nat :=
  coreKey s.hart.hid / 128 * 2 ^ 41 + 0x11000000000 + coreKey s.hart.hid % 128 * 2 ^ 21
/-- The physical address of element (`row`, `col`) of a tile (R216). -/
def State.tilePa (s : State) (t row col : Nat) : Nat := s.accSlot + (s.accRange s.hart.hid).1 + 8192 * t + 128 * row + 4 * col
/-- The physical address of a tile's status word (R218). -/
def State.statPa (s : State) (t : Nat) : Nat := s.accSlot + 0x1C0000 + 0x200 * hidHart s.hart.hid + 8 * t

/-- A tile's status word. -/
def State.tileStat (s : State) (t : Nat) : Nat := s.bytes (s.statPa t) 8
/-- Writes a tile's status word: the sticky fields and the type. -/
def State.putStat (s : State) (t : Nat) (fields : Nat) (si : Bool) : State :=
  s.putBytes (s.statPa t) 8 ((fields % 64 &&& 0x37) + if si then 256 else 0)
/-- Whether a tile is an SI32 tile once the hart's earlier matrix work has been performed (R235). -/
def State.tileInt (s : State) (t : Nat) : Bool :=
  let last := (s.hart.mq.filterMap (fun (o : MxOp) => match o.work with
    | .ld k _ _ si _ _ => if k = t then some si else none
    | .zero k si => if k = t then some si else none
    | .mma _ => none)).getLast?
  last.getD (decide (s.tileStat t / 256 % 2 = 1))
/-- The bits of a tile region, row by row, and the elements of it that are poisoned (R220). -/
def State.tileRegion (s : State) (t vl vh : Nat) : List (Nat × Bool) :=
  (List.range (vh * vl)).map (fun e =>
    let pa := s.tilePa t (e / vl) (e % vl)
    (s.bytes pa 4, s.poisonedAt pa 4))
/-- Meets the errors of a tile region (R220, R278); `wr` when its elements are written, which replaces them. -/
def State.meetTile (s : State) (t vl vh : Nat) (wr : Bool := false) : State :=
  if s.errs.isEmpty then s
  else (List.range vh).foldl (fun s r => s.meetErrors s.hart.launch (s.tilePa t r 0) (4 * vl) wr) s
/-- Writes the elements of a tile region from packed 32-bit fields, clearing their poison (R236). -/
def State.putTile (s : State) (t vl bits : Nat) : Nat → State
  | 0 => s
  | e + 1 => (s.putTile t vl bits e).store (s.tilePa t (e / vl) (e % vl)) 4 (elemAt 32 bits e)

/-! ## MACC (R236 to R238) -/

/-- Passes work into the matrix queue, with its token (R221, R222). -/
def enterMatrix (w : MxWork) (tk : Option (BitVec 3)) (s : State) : Eff :=
  .done (s.upd (fun h => { (match tk with
    | some k => h.setTok k
    | none => h) with mq := h.mq ++ [⟨w, tk⟩] }))

/-- MACC.LD (R236). -/
def execMaccLd (g : Hdr) (ta : AReg) (va : VReg) (xs : XReg) (tk : Option (BitVec 3)) (s : State) :
    Host.Outcome State Fault Refusal :=
  vecIssue (.maccLd g ta va xs tk) g { regs := [va.toNat], dst := [], xs := [xs], tk := tk, whole := true }
    (fun s => s.hart.lenOk [va.toNat] && decide (ta.toNat < s.tiles ∧ s.hart.vl ≤ 32 ∧ s.hart.vh ≤ 64)
      && (s.hart.tag va.toNat == .fp32 || s.hart.tag va.toNat == .si32))
    (fun s =>
      let h := s.hart
      let es := List.range h.n
      let s := s.touchV va.toNat 32 es
      if es.any (badAt 32 (h.vpoiStr va.toNat)) then wordTrap .poison (.maccLd g ta va xs tk) s
      else enterMatrix (.ld ta.toNat h.vl h.vh (h.tag va.toNat == .si32) ((s.x xs).setWidth 8 &&& 0x37#8) (h.vstr va.toNat)) tk s) s

/-- MACC.Z (R238). -/
def execMaccZ (g : Hdr) (ta : AReg) (tk : Option (BitVec 3)) (si : Bool) (s : State) : Host.Outcome State Fault Refusal :=
  vecIssue (.maccZ g ta tk si) g { regs := [], tk := tk, whole := true } (fun s => decide (ta.toNat < s.tiles))
    (fun s => enterMatrix (.zero ta.toNat si) tk s) s

/-- MACC.ST (R237). -/
def execMaccSt (g : Hdr) (vd : VReg) (ta : AReg) (xs : XReg) (tk : Option (BitVec 3)) (s : State) :
    Host.Outcome State Fault Refusal :=
  vecIssue (.maccSt g vd ta xs tk) g { regs := [vd.toNat], tk := tk, whole := true }
    (fun s => s.hart.lenOk [vd.toNat] && decide (ta.toNat < s.tiles ∧ s.hart.vl ≤ 32 ∧ s.hart.vh ≤ 64)
      && s.hart.tag vd.toNat == (if s.tileInt ta.toNat then .si32 else .fp32))
    (fun s =>
      let t := ta.toNat
      if s.hart.tileBusy t then .wait s
      else
        let s := s.meetTile t s.hart.vl s.hart.vh
        let es := s.tileRegion t s.hart.vl s.hart.vh
        if es.any (·.2) then wordTrap .poison (.maccSt g vd ta xs tk) s
        else .done ((s.upd (fun h => h.writeElems vd.toNat 32 (es.zipIdx.map (fun x => (x.2, x.1.1))))).setX xs
          (BitVec.ofNat 64 (s.tileStat t)))) s

/-! ## MEPI (R239) -/

/-- The tags that MEPI delivers to. -/
def mepiTag (t : Tag) : Bool := t.isArith || t == .e2m1 || t == .e3m2 || t == .e2m3 || t == .si4

/-- The activation (R86, R239): a NaN stays. -/
def activate (act : BitVec 2) (x : Exact) : Exact :=
  if x.isNan ∨ act = 0 then x
  else
    let y := if Exact.firstWins true x (.zero false) then x else .zero false
    if act = 1 then y else if Exact.firstWins false y (Exact.ofInt 6) then y else Exact.ofInt 6

/-- The value that MEPI delivers for an element, with the flags of forming it; `rdn` for the sign of an exact sum that is zero (R85). -/
def mepiValue (rdn si : Bool) (act : BitVec 2) (scale bias : Option Exact) (raw : Nat) : Val × Flags :=
  let v := tagValue (if si then .si32 else .fp32) raw
  let (x, f) := match scale with
    | some k => v.exact.mul k
    | none => (v.exact, 0)
  let (x, f') := match bias with
    | some b => let (y, f2) := x.add rdn b; (y, f ||| f2)
    | none => (x, f)
  match v, scale, bias with
  | .int i, none, none => (.int (match act.toNat with
    | 1 => max i 0
    | 2 => min (max i 0) 6
    | _ => i), 0)
  | _, _, _ => (.real (activate act x), f')

/-- MEPI (R239). -/
def execMepi (g : Hdr) (vd : VReg) (ta : AReg) (vb vs : VReg) (tk : Option (BitVec 3)) (sat : Bool) (rnd act : BitVec 2)
    (scl bia : Bool) (s : State) : Host.Outcome State Fault Refusal :=
  let i : Instr := .mepi g vd ta vb vs tk sat rnd act scl bia
  vecIssue i g { regs := vd.toNat :: (if scl then [vs.toNat] else []) ++ (if bia then [vb.toNat] else []), tk := tk, whole := true }
    (fun s => s.hart.lenOk (vd.toNat :: (if scl then [vs.toNat] else []) ++ (if bia then [vb.toNat] else []))
      && decide (ta.toNat < s.tiles ∧ s.hart.vl ≤ 32 ∧ s.hart.vh ≤ 64) && mepiTag (s.hart.tag vd.toNat) && (!scl || s.hart.tag vs.toNat == .fp32) && (!bia || s.hart.tag vb.toNat == .fp32))
    (fun s =>
      let t := ta.toNat
      if s.hart.tileBusy t then .wait s
      else
        let h := s.hart
        let cols := List.range h.vl
        let s := s.meetTile t h.vl h.vh
        let s := if scl then s.touchV vs.toNat 32 cols else s
        let s := if bia then s.touchV vb.toNat 32 cols else s
        let es := s.tileRegion t h.vl h.vh
        if es.any (·.2) || (scl && cols.any (badAt 32 (h.vpoiStr vs.toNat))) || (bia && cols.any (badAt 32 (h.vpoiStr vb.toNat))) then
          wordTrap .poison i s
        else
          let si : Bool := s.tileStat t / 256 % 2 == 1
          let dt := h.tag vd.toNat
          let m := h.rmode rnd
          let sb := h.vstr vs.toNat
          let bb := h.vstr vb.toNat
          let op (on : Bool) (bits e : Nat) : Option Exact := if on then some (fp32.value (elemAt 32 bits (e % h.vl))) else none
          let plain : Bool := si && !scl && !bia && dt.isInt
          let rs := es.zipIdx.map (fun x =>
            let (v, f) := mepiValue (m == .rdn) si act (op scl sb x.2) (op bia bb x.2) x.1.1
            let (r, f2) := deliver dt m sat (drawWord h.seed x.2) v
            (x.2, r, f ||| f2))
          .done (((s.upd (fun h => h.writeElems vd.toNat (tagWidth dt) (rs.map (fun r => (r.1, r.2.1))))).raise
            (rs.foldl (fun f r => f ||| r.2.2) 0)).advanceSeed (m == .sr && !plain))) s

/-! ## The unfolding unit (R229, R230, R234) -/

/-- The fields of an unfolding descriptor (R229). -/
structure Unfold where
  base : Word
  tag  : Tag
  c    : Nat
  w    : Nat
  h    : Nat
  ow   : Nat
  pdx  : Nat
  pdy  : Nat
  dlx  : Nat
  dly  : Nat
  stx  : Nat
  sty  : Nat
  ks   : Nat
  kr   : Nat
  oh   : Nat

/-- The descriptor of four double words. -/
def unfoldOf (d : Vector Word 4) : Unfold :=
  let f (i lo n : Nat) (hi : i < 4 := by decide) : Nat := ((d[i]'hi).extractLsb' lo n).toNat
  { base := d[0], tag := (Tag.ofCode? (d[1].extractLsb' 48 5)).getD .none
    c := f 1 32 16, w := f 1 16 16, h := f 1 0 16, ow := f 2 48 16, pdx := f 2 40 8, pdy := f 2 32 8
    dlx := f 2 28 4, dly := f 2 24 4, stx := f 2 20 4, sty := f 2 16 4, ks := f 2 8 8, kr := f 2 0 8, oh := f 3 0 16 }

/-- K per step of a tag of R225; none for a tag that no MMA takes. -/
def stepK : Tag → Option Nat
  | .e2m1 => some 128
  | .e3m2 | .e2m3 | .e4m3 | .e5m2 => some 64
  | .bf16 | .fp16 => some 32
  | .fp32 => some 8
  | .sx3 | .sx5 | .sx8 => some 128
  | .si8 => some 64
  | .si4 => some 128
  | _ => none
/-- The tags that allow block scales (R225). -/
def scalable : Tag → Bool
  | .e2m1 | .e3m2 | .e2m3 | .e4m3 | .e5m2 => true
  | _ => false

/-- Whether the reserved fields are 0 and every field is within its limit (R229). -/
def unfoldOk (d : Vector Word 4) : Bool :=
  let u := unfoldOf d
  d[1].extractLsb' 53 11 == 0 && d[3].extractLsb' 16 48 == 0 && (stepK u.tag).isSome && !u.tag.isBlock
    && (u.c * tagWidth u.tag) % 8 == 0
    && [u.c, u.w, u.h, u.ow, u.dlx, u.dly, u.stx, u.sty, u.ks, u.kr, u.oh].all (fun x => decide (0 < x))

/-- Bytes of the tensor. -/
def Unfold.len (u : Unfold) : Nat := (u.h * u.w * u.c * tagWidth u.tag + 7) / 8

/-- The first byte of a tensor that lies outside the gang's scratchpad allotment in the hart's own core (R234). -/
def State.outsideSpm (s : State) (u : Unfold) : Option Word :=
  match s.gangOf s.hart.hid with
  | none => some u.base
  | some g =>
    let k := coreKey s.hart.hid
    let lo := s.pkg.toNat * 2 ^ 45 + k / 128 * 2 ^ 41 + 0x10000000000 + k % 128 * 2 ^ 21 + g.spmOff
    let hi := lo + g.spmLen
    if u.base.toNat < lo ∨ hi ≤ u.base.toNat then some u.base
    else if hi < u.base.toNat + u.len then some (BitVec.ofNat 64 hi) else none

/-- MUNF (R234). -/
def execMunf (g : Hdr) (xa : XReg) (s : State) : Host.Outcome State Fault Refusal :=
  vecIssue (.munf g xa) g { regs := [], xs := [xa], whole := true } (fun _ => true) (fun s =>
    let a := s.x xa
    if a.toNat % 32 ≠ 0 then trapAt .misaligned a s
    else match s.load (s.req .vector) a 32 with
      | (.error f, s) => faultTrap f s
      | (.ok (v, bad), s) =>
        let d : Vector Word 4 := Vector.ofFn (fun i : Fin 4 => BitVec.ofNat 64 (elemAt 64 v i.val))
        if bad then trapAt .poison a s
        else if !unfoldOk d then wordTrap .illegalOperand (.munf g xa) s
        else match s.outsideSpm (unfoldOf d) with
          | some x => trapAt .accessFault x s
          | none => .done (s.upd (fun h => { h with unf := some d }))) s

/-- The tensor element that entry (`r`, `k`) of the virtual A names; none for a padded position (R230). -/
def Unfold.entry (u : Unfold) (p k : Nat) : Option Nat :=
  if u.oh * u.ow ≤ p then none
  else
    let oy := p / u.ow
    let ox := p % u.ow
    let c := k % u.c
    let kx := k / u.c % u.ks
    let ky := k / (u.c * u.ks)
    let iy : Int := (oy * u.sty + ky * u.dly : Nat) - (u.pdy : Int)
    let ix : Int := (ox * u.stx + kx * u.dlx : Nat) - (u.pdx : Int)
    if 0 ≤ iy ∧ iy < u.h ∧ 0 ≤ ix ∧ ix < u.w then some ((iy.toNat * u.w + ix.toNat) * u.c + c) else none

/-! ## MMA: issue (R225 to R227, R235, R254) -/

/-- The offset of the weight store of a die (R254). -/
def wsBase (d : Nat) : Nat := d * 2 ^ 41 + 0x12000000000
/-- Bytes of B in the weight store, with its scales. -/
def wsLen (t : Tag) (vl blk : Nat) (scl : Bool) : Nat :=
  let bits := if t.isBlock then 32 * vl / 32 * tagBlockBits t else 32 * vl * tagWidth t
  (bits + 7) / 8 + if scl then 32 * vl / blk else 0

/-- The berths that `n` bytes of the weight store from offset `o` touch. -/
def berthsOf (o n : Nat) : List Nat := if n = 0 then [] else (List.range ((o + n - 1) / 2 ^ 24 - o / 2 ^ 24 + 1)).map (· + o / 2 ^ 24)
/-- A berth of a die. -/
def State.berth (s : State) (d b : Nat) : Berth := if h : b < 32 then (s.die d).berths[b] else {}
/-- The first offset at which the weight store may not be read by the hart in focus (R235, R254). -/
def State.wsFault (s : State) (o n : Nat) : Option Nat :=
  let d := hidDie s.hart.hid
  if 2 ^ 29 < o + n then some (max o (2 ^ 29))
  else
    let bad (b : Nat) : Bool := !((s.berth d b).st == 1 || (s.berth d b).st == 2) || (s.berth d b).tenant != s.hart.tenant
    ((berthsOf o n).find? bad).map (fun b => max o (b * 2 ^ 24))

/-- The conditions of R225 to R227 and R235 that raise ILLEGAL_OPERAND. -/
def State.mmaOk (s : State) (ta : AReg) (ma mb : BitVec 6) (ms : VReg) (asrc bsrc scl : Bool) : Bool :=
  let h := s.hart
  let tagA := match asrc, h.unf with
    | true, some d => (unfoldOf d).tag
    | true, none => .none
    | false, _ => h.tag ma.toNat
  let unfOk := !asrc || (match h.unf with
    | some d => h.vl == (unfoldOf d).kr * (unfoldOf d).ks * (unfoldOf d).c
    | none => false)
  let scOk (v n : Nat) : Bool := h.tag v == .e8m0 && decide (n / h.blkSize ≤ mvl .e8m0 h.nregs)
  (stepK tagA).isSome && unfOk && (asrc || h.lenOk [ma.toNat])
    && (bsrc || (h.tag mb.toNat == tagA && decide (32 * h.vl ≤ mvl tagA h.nregs)))
    && decide (h.vh ≤ 64) && (!tagA.isBlock || h.vl % 32 == 0)
    && (!scl || (scalable tagA && h.vl % h.blkSize == 0 && scOk ms.toNat h.n && (bsrc || scOk (ms.toNat + 1) (32 * h.vl))))
    && h.mgrant != 0 && decide (ta.toNat < s.tiles) && s.tileInt ta.toNat == tagA.isInt

/-- MMA (R235): the checks, the operands as they stand, and the entry of the matrix queue. -/
def execMma (g : Hdr) (ta : AReg) (ma mb : BitVec 6) (ms : VReg) (tk : Option (BitVec 3)) (asrc bsrc sat scl : Bool)
    (s : State) : Host.Outcome State Fault Refusal :=
  let i : Instr := .mma g ta ma mb ms tk asrc bsrc sat scl
  vecIssue i g
    { regs := (if asrc then [] else [ma.toNat]) ++ (if bsrc then [] else [mb.toNat])
        ++ (if scl then ms.toNat :: (if bsrc then [] else [ms.toNat + 1]) else [])
      dst := []
      xs := (if asrc then [ma] else []) ++ (if bsrc then [mb] else []), tk := tk, whole := true }
    (fun s => s.mmaOk ta ma mb ms asrc bsrc scl)
    (fun s =>
      if bsrc && (s.x mb).toNat % 128 != 0 then wordTrap .illegalOperand i s
      else
        let h := s.hart
        let tag := match asrc, h.unf with
          | true, some d => (unfoldOf d).tag
          | _, _ => h.tag ma.toNat
        match (if bsrc then s.wsFault (s.x mb).toNat (wsLen tag h.vl h.blkSize scl) else none) with
        | some o => trapAt .accessFault (BitVec.ofNat 64 (s.pkg.toNat * 2 ^ 45 + wsBase (hidDie h.hid) + o)) s
        | none =>
          let elems (n : Nat) : List Nat := (List.range n).map (fun e => (fieldOf tag e).2)
          let w := (fieldOf tag 0).1
          let s := if asrc then s else s.touchV ma.toNat w (elems h.n)
          let s := if bsrc then s else s.touchV mb.toNat w (elems (32 * h.vl))
          let s := if scl then s.touchV ms.toNat 8 (List.range (h.n / h.blkSize)) else s
          let s := if scl && !bsrc then s.touchV (ms.toNat + 1) 8 (List.range (32 * h.vl / h.blkSize)) else s
          enterMatrix (.mma
            { tile := ta.toNat, vl := h.vl, vh := h.vh, tag := tag, sat := sat, scl := scl, blk := h.blkSize
              a := match asrc, h.unf with
                | true, some d => .unf d (s.x ma)
                | _, _ => .reg (h.vstr ma.toNat) (h.vpoiStr ma.toNat)
              b := if bsrc then .ws (s.x mb).toNat else .reg (h.vstr mb.toNat) (h.vpoiStr mb.toNat)
              sa := h.vstr ms.toNat, saP := h.vpoiStr ms.toNat
              sb := h.vstr (ms.toNat + 1), sbP := h.vpoiStr (ms.toNat + 1)
              regs := (if asrc then [] else [ma.toNat]) ++ (if bsrc then [] else [mb.toNat])
                ++ (if scl then ms.toNat :: (if bsrc then [] else [ms.toNat + 1]) else []) }) tk s) s

/-! ## The matrix queue (R228) -/

/-- An operand as a function of its place: the exact value, and whether it is poisoned. -/
abbrev Operand := Nat → Exact × Bool

/-- An operand held as a string of elements, with one scale per block. -/
def stringOperand (t : Tag) (bits poi : Nat) (scl : Bool) (blk sc scP : Nat) : Operand := fun e =>
  let x := (srcValue t bits e).exact
  if scl then (scaled x (elemAt 8 sc (e / blk)), srcBad t poi e || badAt 8 scP (e / blk)) else (x, srcBad t poi e)

/-- The A operand at (`r`, `k`): index `r * vl + k`. -/
def State.operandA (s : State) (o : MmaOp) : Operand :=
  match o.a with
  | .reg bits poi => stringOperand o.tag bits poi o.scl o.blk o.sa o.saP
  | .unf d p =>
    let u := unfoldOf d
    let (bits, poi) := s.seen.stringAt (u.base.toNat % 2 ^ 45) u.len
    fun e =>
      let (x, b) := match u.entry (p.toNat + e / o.vl) (e % o.vl) with
        | some i => ((tagValue u.tag (elemAt (tagWidth u.tag) bits i)).exact, badAt (tagWidth u.tag) poi i)
        | none => (.zero false, false)
      if o.scl then (scaled x (elemAt 8 o.sa (e / o.blk)), b || badAt 8 o.saP (e / o.blk)) else (x, b)

/-- The B operand at (`k`, `col`): index `col * vl + k`. -/
def State.operandB (s : State) (o : MmaOp) : Operand :=
  match o.b with
  | .reg bits poi => stringOperand o.tag bits poi o.scl o.blk o.sb o.sbP
  | .ws off =>
    let base := wsBase (hidDie s.hart.hid) + off
    let n := wsLen o.tag o.vl o.blk false
    let (bits, poi) := s.stringAt base n
    let (sc, scP) := if o.scl then s.stringAt (base + n) (32 * o.vl / o.blk) else (0, 0)
    stringOperand o.tag bits poi o.scl o.blk sc scP

/-- The steps of one accumulator element: its bits and the tile status that they set (R94, R95, R228). -/
def mmaElem (o : MmaOp) (a b : Operand) (ks : Nat) (r col : Nat) : Nat → Nat → Nat × Nat → Nat × Nat
  | 0, _, x => x
  | n + 1, st, (acc, stat) =>
    let js := (List.range ks).map (st * ks + ·) |>.filter (fun k => decide (k < o.vl))
    let ps := js.map (fun k => ((a (r * o.vl + k)).1.mul (b (col * o.vl + k)).1).1)
    let next := if o.tag.isInt then
        let sum := (js.map (fun k => match (a (r * o.vl + k)).1, (b (col * o.vl + k)).1 with
          | .fin n m e _, .fin n' m' e' _ =>
            let v : Int := ((m * m' * 2 ^ (e + e').toNat : Nat) : Int)
            if n != n' then -v else v
          | _, _ => 0)).foldl (· + ·) (0 : Int)
        let (v, c) := matStepInt o.sat acc sum
        (v, if c then stat ||| 0x20 else stat)
      else
        let (v, f) := matStep acc ps
        (v, stat ||| (f.toNat &&& 0x17))
    mmaElem o a b ks r col n (st + 1) next

/-- Meets the errors of the words that an MMA reads outside the registers, and counts its berths (R220, R257). -/
def State.mmaReads (s : State) (o : MmaOp) : State :=
  let s := match o.a with
    | .unf d p =>
      if s.errs.isEmpty then s else
      let u := unfoldOf d
      let w := tagWidth u.tag
      -- a padded position performs no access (R230)
      let named := ((List.range (o.vh * o.vl)).filterMap (fun e => u.entry (p.toNat + e / o.vl) (e % o.vl))).eraseDups
      named.foldl (fun s i => s.meetErrors s.hart.launch (u.base.toNat % 2 ^ 45 + i * w / 8) ((i * w % 8 + w + 7) / 8)) s
    | .reg .. => s
  match o.b with
  | .ws off =>
    let d := hidDie s.hart.hid
    let n := wsLen o.tag o.vl o.blk o.scl
    let bs := berthsOf off n
    let s := s.meetErrors s.hart.launch (wsBase d + off) n
    s.updDie d (fun x => { x with berths := Vector.ofFn (fun b : Fin 32 =>
      if bs.contains b.val ∧ x.berths[b].st = 2 then { x.berths[b] with count := min (x.berths[b].count + 1) 65535 }
      else x.berths[b]) })
  | .reg .. => s

/-- Performs an MMA of the hart in focus (R228): the elements, the status, and the poison of R220. -/
def State.mma (s : State) (o : MmaOp) : State :=
  let s := (s.mmaReads o).meetTile o.tile 32 o.vh
  let a := s.operandA o
  let b := s.operandB o
  let ks := (stepK o.tag).getD 1
  let steps := (o.vl + ks - 1) / ks
  let acc := (s.tileRegion o.tile 32 o.vh).map (·.1)
  let rs := acc.zipIdx.map (fun x => mmaElem o a b ks (x.2 / 32) (x.2 % 32) steps 0 (x.1, 0))
  let badRow := (List.range o.vh).filter (fun r => (List.range o.vl).any (fun k => (a (r * o.vl + k)).2))
  let badCol := (List.range 32).filter (fun c => (List.range o.vl).any (fun k => (b (c * o.vl + k)).2))
  let stat := s.tileStat o.tile
  let s' := rs.zipIdx.foldl (fun s x => s.putBytes (s.tilePa o.tile (x.2 / 32) (x.2 % 32)) 4 x.1.1) s
  let s' := s'.putStat o.tile (rs.foldl (fun f x => f ||| x.2) (stat % 64)) o.tag.isInt
  (List.range (32 * o.vh)).foldl (fun s e =>
    if badRow.contains (e / 32) || badCol.contains (e % 32) then s.poisonAt (s.tilePa o.tile (e / 32) (e % 32)) 4 else s) s'

/-- Performs the next work of the matrix queue of the hart in focus, and clears its token (R221, R222). -/
def State.matrixNext (s : State) : State :=
  match s.hart.mq with
  | [] => s
  | q :: rest =>
    let s := match q.work with
      | .mma o => s.mma o
      | .ld t vl vh si status bits => ((s.meetTile t vl vh true).putTile t vl bits (vl * vh)).putStat t status.toNat si
      | .zero t si => ((s.meetTile t 32 64 true).putTile t 32 0 2048).putStat t 0 si
    let s := s.upd (fun h => { (match q.tk with
      | some k => h.clearTok k
      | none => h) with mq := rest })
    -- a hart that a double trap ends waits for this only (R224, R359)
    if rest.isEmpty ∧ s.hart.run = .ending then s.endHart s.hart.hid else s

/-- MATRIX_QUEUE_EXECUTE (R228): the input names the hart. -/
def execMatrixQueueExecute (s : State) : Host.Outcome State Fault Refusal :=
  match s.input with
  | .hart hid => .next (s.onHart (BitVec.ofNat 20 hid) State.matrixNext)
  | _ => .next s

end Sys2Proof.Machine
end

