-- ==== Sys2Proof/Machine/ScalarFp.lean ====
section
/-! DEFINITION. Scalar floating point (R147 to R150). -/

namespace Sys2Proof.Machine
open Sys2Proof

/-- The layout of the precision bit: FP64, or FP32 (R147). -/
def fpOf (sgl : Bool) : Fp := if sgl then fp32 else fp64
/-- Reads a scalar register as a value of the precision; FP32 ignores bits [63:32] (R147). -/
def State.fx (s : State) (sgl : Bool) (i : XReg) : Exact := (fpOf sgl).value ((s.x i).toNat % 2 ^ (fpOf sgl).width)
/-- The raw bits of a source of the precision. -/
def State.fbits (s : State) (sgl : Bool) (i : XReg) : Nat := (s.x i).toNat % 2 ^ (fpOf sgl).width

/-- Writes a floating-point result rounded once (R83, R147), with its flags. -/
def State.putFp (s : State) (sgl : Bool) (rnd : BitVec 2) (xd : XReg) (r : Exact × Flags) : State :=
  let m := s.hart.rmode rnd
  let (b, f) := (fpOf sgl).round m false (drawWord s.hart.seed 0) r.1
  (s.fpEffect (r.2 ||| f) m true).setX xd (BitVec.ofNat 64 b)

/-- Whether the mode of an instruction rounds sums down (R85). -/
def State.isRdn (s : State) (rnd : BitVec 2) : Bool := s.hart.rmode rnd == .rdn

/-- FADD (R147). -/
def execFadd (g : Hdr) (sgl : Bool) (xd xa xb : XReg) (rnd : BitVec 2) (s : State) : Host.Outcome State Fault Refusal :=
  issue (.fadd g sgl xd xa xb rnd) true .all g [xa, xb] []
    (fun s => .done (s.putFp sgl rnd xd ((s.fx sgl xa).add (s.isRdn rnd) (s.fx sgl xb)))) s
/-- FSUB (R147). -/
def execFsub (g : Hdr) (sgl : Bool) (xd xa xb : XReg) (rnd : BitVec 2) (s : State) : Host.Outcome State Fault Refusal :=
  issue (.fsub g sgl xd xa xb rnd) true .all g [xa, xb] []
    (fun s => .done (s.putFp sgl rnd xd ((s.fx sgl xa).add (s.isRdn rnd) (s.fx sgl xb).neg))) s
/-- FMUL (R147). -/
def execFmul (g : Hdr) (sgl : Bool) (xd xa xb : XReg) (rnd : BitVec 2) (s : State) : Host.Outcome State Fault Refusal :=
  issue (.fmul g sgl xd xa xb rnd) true .all g [xa, xb] []
    (fun s => .done (s.putFp sgl rnd xd ((s.fx sgl xa).mul (s.fx sgl xb)))) s
/-- FDIV (R147). -/
def execFdiv (g : Hdr) (sgl : Bool) (xd xa xb : XReg) (rnd : BitVec 2) (s : State) : Host.Outcome State Fault Refusal :=
  issue (.fdiv g sgl xd xa xb rnd) true .all g [xa, xb] []
    (fun s => .done (s.putFp sgl rnd xd ((s.fx sgl xa).div (s.fx sgl xb)))) s
/-- FSQRT (R147). -/
def execFsqrt (g : Hdr) (sgl : Bool) (xd xa : XReg) (rnd : BitVec 2) (s : State) : Host.Outcome State Fault Refusal :=
  issue (.fsqrt g sgl xd xa rnd) true .all g [xa] [] (fun s => .done (s.putFp sgl rnd xd (s.fx sgl xa).sqrt)) s

/-- The bits that FMIN and FMAX deliver, unrounded and without flags (R86, R147). -/
def State.fpMinMax (s : State) (sgl mx : Bool) (xa xb : XReg) : Nat :=
  minMaxBits mx (fpOf sgl).nanBits (s.fx sgl xa) (s.fx sgl xb) (s.fbits sgl xa) (s.fbits sgl xb)
/-- FMIN (R147). -/
def execFmin (g : Hdr) (sgl : Bool) (xd xa xb : XReg) (s : State) : Host.Outcome State Fault Refusal :=
  issue (.fmin g sgl xd xa xb) true .all g [xa, xb] []
    (fun s => .done (s.setX xd (BitVec.ofNat 64 (s.fpMinMax sgl false xa xb)))) s
/-- FMAX (R147). -/
def execFmax (g : Hdr) (sgl : Bool) (xd xa xb : XReg) (s : State) : Host.Outcome State Fault Refusal :=
  issue (.fmax g sgl xd xa xb) true .all g [xa, xb] []
    (fun s => .done (s.setX xd (BitVec.ofNat 64 (s.fpMinMax sgl true xa xb)))) s

/-- FFMA (R148): the product is exact, and the sum is rounded once. -/
def execFfma (g : Hdr) (sgl : Bool) (rnd : BitVec 2) (xd xa xb xc : XReg) (s : State) :
    Host.Outcome State Fault Refusal :=
  issue (.ffma g sgl rnd xd xa xb xc) true .all g [xa, xb, xc] []
    (fun s => .done (s.putFp sgl rnd xd ((s.fx sgl xa).fma (s.isRdn rnd) (s.fx sgl xb) (s.fx sgl xc)))) s

/-- The 64-bit form of a converted result: SI results are sign-extended, all others zero-extended (R149). -/
def extendResult (t : Tag) (b : Nat) : Word :=
  if t = .si32 then (BitVec.ofNat 32 b).signExtend 64 else BitVec.ofNat 64 b

/-- Whether a conversion passes a value through a rounding step, so that stochastic mode draws a word (R88). -/
def convRounds (dst src : Tag) : Bool := dst != src && !(dst.isInt && src.isInt)

/-- The bits and flags of a scalar conversion (R149): equal tags deliver the value unchanged, a NaN as the canonical NaN. -/
def fcvtBits (dst src : Tag) (m : RMode) (draw : BitVec 32) (bits : Nat) : Nat × Flags :=
  if dst = src then
    match Fp.ofTag src with
    | some f => (if (f.value bits).isNan then f.nanBits else bits, 0)
    | none => (bits, 0)
  else deliver dst m false draw (tagValue src bits)

/-- FCVT (R149). -/
def execFcvt (g : Hdr) (dst src : Tag) (rnd : BitVec 2) (xd xa : XReg) (s : State) : Host.Outcome State Fault Refusal :=
  issue (.fcvt g dst src rnd xd xa) true .all g [xa] []
    (fun s =>
      let m := s.hart.rmode rnd
      let (b, f) := fcvtBits dst src m (drawWord s.hart.seed 0) ((s.x xa).toNat % 2 ^ tagWidth src)
      .done ((s.fpEffect f m (convRounds dst src)).setX xd (extendResult dst b))) s

/-- FCMP.cc (R150): no flag is set. -/
def execFcmp (g : Hdr) (c : FCond) (sgl : Bool) (pd : PReg) (xa xb : XReg) (s : State) :
    Host.Outcome State Fault Refusal :=
  issue (.fcmp g c sgl pd xa xb) true .all g [xa, xb] []
    (fun s => .done (s.setP pd (predAll (fcondHolds c (s.fx sgl xa) (s.fx sgl xb))))) s

end Sys2Proof.Machine
end

