-- ==== Sys2Proof/Machine/WeightStore.lean ====
section
/-! DEFINITION. The weight store and its berths (R254 to R257, R268, R269), and the windows' share of the quay (R249). -/

namespace Sys2Proof.Machine
open Sys2Proof

/-- Runs an instruction that only S mode and loader launches may execute (R61, R268, R269). -/
def loaderOnly (i : Instr) (run : State → Host.Outcome State Fault Refusal) (s : State) : Host.Outcome State Fault Refusal :=
  let ldr := ((s.hart.launch.bind s.launchOf).map (fun l => pkLdr l.pk)).getD false
  if s.hart.isMgmt || s.hart.mode == .s || ldr then run s else finish (wordTrap .privilege i s)

/-! ## WSLD (R268) -/

/-- The first weight-store offset at which the hart in focus may not write `n` bytes from `o` on. -/
def State.wsldFault (s : State) (o n : Nat) : Option Nat :=
  let d := hidDie s.hart.hid
  ((berthsOf o n).find? (fun b => (s.berth d b).st != 1 || (s.berth d b).tenant != s.hart.tenant)).map (fun b => max o (b * 2 ^ 24))

/-- Gives `n` bytes a write that leaves each as it reads now, so that their history ends with that value. -/
def State.settleBytes (s : State) (a : Nat) : Nat → State
  | 0 => s
  | n + 1 => (s.putByte a (s.byte a)).settleBytes (a + 1) n
/-- Writes bytes into the weight store of a die; the errors of the words that they replace are gone. A FILLING berth reads, for each
byte, as before the write or as written (R254), until the next WSLD of the berth or until it is READY. -/
def State.putWs (s : State) (d o n v : Nat) : State :=
  let a := wsBase d + o
  (((s.settleBytes a n).meetErrors none a n true).store a n v).markNear a (a + n)
/-- A WSLD begins: the bytes that earlier ones wrote in the berths that it touches have the values written (R254). -/
def State.settleBerths (s : State) (d o n : Nat) : State :=
  (berthsOf o n).foldl (fun s b =>
    let lo := wsBase d + b * 2 ^ 24
    { s with indet := cutIndet lo (lo + 2 ^ 24) s.indet }) s

/-- The pieces of WSLD: `n` of them; the state, and the trap that stopped it. -/
def wsldPieces (xd xa xb : XReg) : Nat → State → Option Trap × State
  | 0, s => (none, s)
  | n + 1, s =>
    let a := s.x xa
    let r := s.req .vector
    match s.locateAll r .read (pageSpans a 128) with
    | (.error f, s) => (some { cause := f.cause, epc := s.hart.pc, val := f.addr, npg := f.fb.length, fb := f.fb }, s)
    | (.ok ps, s) =>
      let (v, s) := s.readAll r ps
      if v.2 then (some { cause := .poison, epc := s.hart.pc, val := a }, s)
      else
        let s := s.putWs (hidDie s.hart.hid) (s.x xd).toNat 128 v.1
        wsldPieces xd xa xb n (((s.setX xa (a + 128)).setX xd (s.x xd + 128)).setX xb (s.x xb - 128))

/-- WSLD (R268): a fault, or a trap from outside, stops it between pieces. -/
def execWsld (g : Hdr) (xd xa xb : XReg) (tk : Option (BitVec 3)) (s : State) : Host.Outcome State Fault Refusal :=
  let i : Instr := .wsld g xd xa xb tk
  loaderOnly i (vecIssue i g { regs := [], xs := [xd, xa, xb], tk := tk, whole := true } (fun _ => true) (fun s =>
    let o := (s.x xd).toNat
    let len := (s.x xb).toNat
    if o % 128 ≠ 0 ∨ len % 128 ≠ 0 ∨ 2 ^ 29 < o + len then wordTrap .illegalOperand i s
    else if (s.x xa).toNat % 8 ≠ 0 then trapAt .misaligned (s.x xa) s
    else match s.wsldFault o len with
      | some b => trapAt .accessFault (BitVec.ofNat 64 (s.pkg.toNat * 2 ^ 45 + wsBase (hidDie s.hart.hid) + b)) s
      | none =>
        let stop := s.hart.stopsAfter (len / 128)
        match wsldPieces xd xa xb (stop.getD (len / 128)) (s.settleBerths (hidDie s.hart.hid) o len) with
        | (some t, s) => .trap t s
        | (none, s) => if stop.isSome then .whole (s.upd (fun h => { h with stopAt := none })).takePending else .done s)) s

/-! ## WSBERTH (R257, R269) -/

/-- Changes a berth. -/
def State.updBerth (s : State) (d b : Nat) (f : Berth → Berth) : State :=
  s.updDie d (fun x => if h : b < 32 then { x with berths := x.berths.set b (f x.berths[b]) } else x)

/-- Makes a berth FILLING for a tenant and an expert (R257): bytes of another tenant read as zero. -/
def State.fillBerth (s : State) (d b : Nat) (t : BitVec 6) (e : BitVec 32) (owner : Option LaunchId) : State :=
  let s' := if (s.berth d b).tenant = t then s
    else s.zeroRange (wsBase d + b * 2 ^ 24) (wsBase d + b * 2 ^ 24 + 2 ^ 24)
  s'.updBerth d b (fun _ => ⟨1, t, e, 0, owner⟩)
/-- Makes a FILLING berth READY (R257): its bytes are settled. -/
def State.readyBerth (s : State) (d b : Nat) : State :=
  let lo := wsBase d + b * 2 ^ 24
  let init := ((s.die d).wsctl.extractLsb' 48 16).toNat
  ({ s with indet := cutIndet lo (lo + 2 ^ 24) s.indet }).updBerth d b (fun x => { x with st := 2, count := init, owner := none })
/-- Makes a berth EMPTY (R257). -/
def State.emptyBerth (s : State) (d b : Nat) : State :=
  s.updBerth d b (fun x => if x.st = 0 then x else { x with st := 0, count := 0, owner := none })

/-- The berth that WSBERTH.get chooses: the least COUNT, ties to the lowest number. -/
def State.pickBerth (s : State) (d : Nat) : Option Nat :=
  ((List.range 32).filter (fun b => (s.die d).wsctl.getLsbD b && (s.berth d b).st != 1)).foldl (fun acc b => match acc with
    | none => some b
    | some a => if (s.berth d b).count < (s.berth d a).count then some b else some a) none

/-- WSBERTH.get on the hart in focus: the result and the state. -/
def State.berthGet (s : State) (e : BitVec 32) : Word × State :=
  let d := hidDie s.hart.hid
  let t := s.hart.tenant
  match (List.range 32).find? (fun b => (s.berth d b).st != 0 && (s.berth d b).tenant == t && (s.berth d b).expert == e) with
  | some b => (if (s.berth d b).st = 2 then BitVec.ofNat 64 b else BitVec.ofNat 64 (0x200 + b), s)
  | none =>
    match s.pickBerth d with
    | none => (-1, s)
    | some b => (BitVec.ofNat 64 (0x100 + b), s.fillBerth d b t e s.hart.launch)

/-- The issue of a WSBERTH. The I/O dies have no weight store (R18): there it finds no berth. -/
def wsberth (i : Instr) (g : Hdr) (xd xa : XReg) (f : Word → State → Word × State) (s : State) : Host.Outcome State Fault Refusal :=
  loaderOnly i (vecIssue i g { regs := [], xs := [xa], whole := true } (fun _ => true) (fun s =>
    let (v, s) := if s.hart.isCompute then f (s.x xa) s else (-1, s)
    .done (s.setX xd v))) s

/-- WSBERTH.get (R269). -/
def execWsberthGet (g : Hdr) (xd xa : XReg) (s : State) : Host.Outcome State Fault Refusal :=
  wsberth (.wsberthGet g xd xa) g xd xa (fun a s => s.berthGet (a.extractLsb' 0 32)) s
/-- WSBERTH.rdy (R269). -/
def execWsberthRdy (g : Hdr) (xd xa : XReg) (s : State) : Host.Outcome State Fault Refusal :=
  wsberth (.wsberthRdy g xd xa) g xd xa (fun a s =>
    let d := hidDie s.hart.hid
    let b := (a.extractLsb' 0 5).toNat
    if (s.berth d b).st = 1 ∧ (s.berth d b).tenant = s.hart.tenant then (0, s.readyBerth d b) else (-1, s)) s
/-- WSBERTH.drop (R269). -/
def execWsberthDrop (g : Hdr) (xd xa : XReg) (s : State) : Host.Outcome State Fault Refusal :=
  wsberth (.wsberthDrop g xd xa) g xd xa (fun a s =>
    let d := hidDie s.hart.hid
    let b := (a.extractLsb' 0 5).toNat
    if (s.berth d b).tenant = s.hart.tenant ∨ s.hart.mode = .s then (0, s.emptyBerth d b) else (-1, s)) s

/-! ## Events -/

/-- BERTH_AGEING (R257): the input names the die. -/
def execBerthAgeing (s : State) : Host.Outcome State Fault Refusal :=
  match s.input with
  | .unit d =>
    if s.cycleOf d % 2 ^ ((s.die d).wsctl.extractLsb' 32 6).toNat = 0 then
      .next (s.updDie d (fun x => { x with berths := x.berths.map (fun (b : Berth) => { b with count := b.count / 2 }) }))
    else .next s
  | _ => .next s

/-- REFRESH_SLOT_END (R255): time passes to the end of the slot of the bank that is in its slot. A stalled access returns what
it would have returned without the stall. -/
def execRefreshSlotEnd (s : State) : Host.Outcome State Fault Refusal :=
  if s.time % 2000 < 1600 then .next (s.elapse (1600 - s.time % 2000)) else .next s

/-- WFRAC_WRITE (R249): the input names a compute die and the value written. -/
def execWfracWrite (s : State) : Host.Outcome State Fault Refusal :=
  match s.input with
  | .work d v _ => if d < 8 then .next (s.setWfrac d (BitVec.ofNat 64 v)) else .next s
  | _ => .next s

end Sys2Proof.Machine
end

