-- ==== Sys2Proof/Machine/Window.lean ====
section
/-! DEFINITION. The read-only windows of a hart (R250 to R253, R267): WOPEN, WCLOSE, WINV. -/

namespace Sys2Proof.Machine
open Sys2Proof

/-- The pod line of a virtual address under the translations in force, without entering any (R253): none when the page has no
valid translation. -/
def State.imageLine (s : State) (va : Word) : Option Nat := (s.imagePod (s.req .vector) va).map (· / 128)

/-- The line in the range of a window whose image is a pod line, searched page by page of 64 KiB: `n` pages from `va` on. -/
def State.windowImages (s : State) (w : Win) (line : Nat) : Nat → Word → Bool
  | 0, _ => false
  | n + 1, va =>
    let page := va &&& ~~~0xFFFF#64
    let here := page + BitVec.ofNat 64 (line % 512 * 128)
    (w.covers here && s.imageLine here == some line) || s.windowImages w line n (page + 0x10000)

/-- Drops the copies of a window's range on the hart's own die (R253). The device may drop further copies of the tenant; which
ones is free. -/
def State.dropWindow (s : State) (w : Win) : State :=
  let (n, s) := s.fresh
  let own (c : Copy) : Bool := c.die == hidDie s.hart.hid && c.tenant == s.hart.tenant
  let pages := (w.base.toNat % 65536 + w.len.toNat + 65535) / 65536
  s.dropCopies (fun c => own c && (s.windowImages w c.line pages w.base || Config.pick n c.line % 2 == 1))

/-- Changes a window of the hart in focus. -/
def State.setWin (s : State) (i : BitVec 2) (v : Option Win) : State :=
  s.upd (fun h => { h with win := h.win.set i.toNat v i.isLt })
/-- A window of the hart in focus. -/
def State.winOf (s : State) (i : BitVec 2) : Option Win := s.hart.win[i.toNat]'i.isLt

/-- Closes a window (R253, R267). -/
def State.closeWin (s : State) (i : BitVec 2) : State :=
  match s.winOf i with
  | some w => (s.dropWindow w).setWin i none
  | none => s

/-- WOPEN (R267). -/
def execWopen (g : Hdr) (w : BitVec 2) (xa xb : XReg) (s : State) : Host.Outcome State Fault Refusal :=
  vecIssue (.wopen g w xa xb) g { regs := [], xs := [xa, xb], whole := true } (fun _ => true) (fun s =>
    let b := s.x xa
    let n := s.x xb
    if b.toNat % 128 ≠ 0 ∨ n.toNat % 128 ≠ 0 ∨ n.toNat < 128 ∨ 2 ^ 40 < n.toNat ∨ 2 ^ 57 < b.toNat + n.toNat then
      wordTrap .illegalOperand (.wopen g w xa xb) s
    else
      let s := s.closeWin w
      .done (s.setWin w (some ⟨b, n, s.tick⟩))) s
/-- WCLOSE (R267). -/
def execWclose (g : Hdr) (w : BitVec 2) (s : State) : Host.Outcome State Fault Refusal :=
  vecIssue (.wclose g w) g { regs := [], whole := true } (fun _ => true) (fun s => .done (s.closeWin w)) s
/-- WINV (R267). -/
def execWinv (g : Hdr) (w : BitVec 2) (s : State) : Host.Outcome State Fault Refusal :=
  vecIssue (.winv g w) g { regs := [], whole := true } (fun _ => true) (fun s =>
    match s.winOf w with
    | some x =>
      let s := s.dropWindow x
      .done (s.setWin w (some { x with since := s.tick }))
    | none => .done s) s

end Sys2Proof.Machine
end

