-- ==== Sys2Proof/Machine/Dispatch.lean ====
section
/-! DEFINITION. The meaning of every instruction and event: one arm per constructor, each a direct call. -/

namespace Sys2Proof.Machine
open Sys2Proof

def exec (i : Instr) (s : State) : Host.Outcome State Fault Refusal :=
  match i with
  | .add g xd xa xb => Sys2Proof.Machine.execAdd g xd xa xb s
  | .addImm g xd xa imm => Sys2Proof.Machine.execAddImm g xd xa imm s
  | .sub g xd xa xb => Sys2Proof.Machine.execSub g xd xa xb s
  | .subImm g xd xa imm => Sys2Proof.Machine.execSubImm g xd xa imm s
  | .and g xd xa xb => Sys2Proof.Machine.execAnd g xd xa xb s
  | .andImm g xd xa imm => Sys2Proof.Machine.execAndImm g xd xa imm s
  | .or g xd xa xb => Sys2Proof.Machine.execOr g xd xa xb s
  | .orImm g xd xa imm => Sys2Proof.Machine.execOrImm g xd xa imm s
  | .xor g xd xa xb => Sys2Proof.Machine.execXor g xd xa xb s
  | .xorImm g xd xa imm => Sys2Proof.Machine.execXorImm g xd xa imm s
  | .andn g xd xa xb => Sys2Proof.Machine.execAndn g xd xa xb s
  | .andnImm g xd xa imm => Sys2Proof.Machine.execAndnImm g xd xa imm s
  | .shl g xd xa xb => Sys2Proof.Machine.execShl g xd xa xb s
  | .shlImm g xd xa imm => Sys2Proof.Machine.execShlImm g xd xa imm s
  | .shr g xd xa xb => Sys2Proof.Machine.execShr g xd xa xb s
  | .shrImm g xd xa imm => Sys2Proof.Machine.execShrImm g xd xa imm s
  | .sha g xd xa xb => Sys2Proof.Machine.execSha g xd xa xb s
  | .shaImm g xd xa imm => Sys2Proof.Machine.execShaImm g xd xa imm s
  | .rotl g xd xa xb => Sys2Proof.Machine.execRotl g xd xa xb s
  | .rotlImm g xd xa imm => Sys2Proof.Machine.execRotlImm g xd xa imm s
  | .min g xd xa xb => Sys2Proof.Machine.execMin g xd xa xb s
  | .minImm g xd xa imm => Sys2Proof.Machine.execMinImm g xd xa imm s
  | .max g xd xa xb => Sys2Proof.Machine.execMax g xd xa xb s
  | .maxImm g xd xa imm => Sys2Proof.Machine.execMaxImm g xd xa imm s
  | .minu g xd xa xb => Sys2Proof.Machine.execMinu g xd xa xb s
  | .minuImm g xd xa imm => Sys2Proof.Machine.execMinuImm g xd xa imm s
  | .maxu g xd xa xb => Sys2Proof.Machine.execMaxu g xd xa xb s
  | .maxuImm g xd xa imm => Sys2Proof.Machine.execMaxuImm g xd xa imm s
  | .slt g xd xa xb => Sys2Proof.Machine.execSlt g xd xa xb s
  | .sltImm g xd xa imm => Sys2Proof.Machine.execSltImm g xd xa imm s
  | .sltu g xd xa xb => Sys2Proof.Machine.execSltu g xd xa xb s
  | .sltuImm g xd xa imm => Sys2Proof.Machine.execSltuImm g xd xa imm s
  | .mul g xd xa xb => Sys2Proof.Machine.execMul g xd xa xb s
  | .mulh g xd xa xb => Sys2Proof.Machine.execMulh g xd xa xb s
  | .mulhu g xd xa xb => Sys2Proof.Machine.execMulhu g xd xa xb s
  | .div g xd xa xb => Sys2Proof.Machine.execDiv g xd xa xb s
  | .divu g xd xa xb => Sys2Proof.Machine.execDivu g xd xa xb s
  | .rem g xd xa xb => Sys2Proof.Machine.execRem g xd xa xb s
  | .remu g xd xa xb => Sys2Proof.Machine.execRemu g xd xa xb s
  | .clz g xd xa => Sys2Proof.Machine.execClz g xd xa s
  | .ctz g xd xa => Sys2Proof.Machine.execCtz g xd xa s
  | .popc g xd xa => Sys2Proof.Machine.execPopc g xd xa s
  | .bext g xd xa xb => Sys2Proof.Machine.execBext g xd xa xb s
  | .bdep g xd xa xb => Sys2Proof.Machine.execBdep g xd xa xb s
  | .brev g xd xa => Sys2Proof.Machine.execBrev g xd xa s
  | .li g xd imm => Sys2Proof.Machine.execLi g xd imm s
  | .lih g xd imm => Sys2Proof.Machine.execLih g xd imm s
  | .lea g xd m => Sys2Proof.Machine.execLea g xd m s
  | .pamk g xd xa xb => Sys2Proof.Machine.execPamk g xd xa xb s
  | .pax g xd xa => Sys2Proof.Machine.execPax g xd xa s
  | .cmp g c pd xa xb => Sys2Proof.Machine.execCmp g c pd xa xb s
  | .pand g pd pa pb => Sys2Proof.Machine.execPand g pd pa pb s
  | .por g pd pa pb => Sys2Proof.Machine.execPor g pd pa pb s
  | .pxor g pd pa pb => Sys2Proof.Machine.execPxor g pd pa pb s
  | .pnot g pd pa => Sys2Proof.Machine.execPnot g pd pa s
  | .pmov g pd pa => Sys2Proof.Machine.execPmov g pd pa s
  | .pfirst g pd pa => Sys2Proof.Machine.execPfirst g pd pa s
  | .pcnt g xd pa => Sys2Proof.Machine.execPcnt g xd pa s
  | .pset g pd xa => Sys2Proof.Machine.execPset g pd xa s
  | .br g c xa xb ofs => Sys2Proof.Machine.execBr g c xa xb ofs s
  | .brp g c pa ofs => Sys2Proof.Machine.execBrp g c pa ofs s
  | .j g ofs => Sys2Proof.Machine.execJ g ofs s
  | .jal g xl ofs => Sys2Proof.Machine.execJal g xl ofs s
  | .jalr g xd xa imm => Sys2Proof.Machine.execJalr g xd xa imm s
  | .ld g xd m sz zx => Sys2Proof.Machine.execLd g xd m sz zx s
  | .st g xs m sz => Sys2Proof.Machine.execSt g xs m sz s
  | .amo g op xd xa xb o dbl => Sys2Proof.Machine.execAmo g op xd xa xb o dbl s
  | .cas g xd xa xb o dbl => Sys2Proof.Machine.execCas g xd xa xb o dbl s
  | .binc g xd xa xb o dbl => Sys2Proof.Machine.execBinc g xd xa xb o dbl s
  | .cclean g xa xb => Sys2Proof.Machine.execCclean g xa xb s
  | .cflush g xa xb => Sys2Proof.Machine.execCflush g xa xb s
  | .fadd g sgl xd xa xb rnd => Sys2Proof.Machine.execFadd g sgl xd xa xb rnd s
  | .fsub g sgl xd xa xb rnd => Sys2Proof.Machine.execFsub g sgl xd xa xb rnd s
  | .fmul g sgl xd xa xb rnd => Sys2Proof.Machine.execFmul g sgl xd xa xb rnd s
  | .fdiv g sgl xd xa xb rnd => Sys2Proof.Machine.execFdiv g sgl xd xa xb rnd s
  | .fmin g sgl xd xa xb => Sys2Proof.Machine.execFmin g sgl xd xa xb s
  | .fmax g sgl xd xa xb => Sys2Proof.Machine.execFmax g sgl xd xa xb s
  | .fsqrt g sgl xd xa rnd => Sys2Proof.Machine.execFsqrt g sgl xd xa rnd s
  | .ffma g sgl rnd xd xa xb xc => Sys2Proof.Machine.execFfma g sgl rnd xd xa xb xc s
  | .fcvt g dst src rnd xd xa => Sys2Proof.Machine.execFcvt g dst src rnd xd xa s
  | .fcmp g c sgl pd xa xb => Sys2Proof.Machine.execFcmp g c sgl pd xa xb s
  | .csrr g xd n => Sys2Proof.Machine.execCsrr g xd n s
  | .csrw g xd n xa => Sys2Proof.Machine.execCsrw g xd n xa s
  | .csrs g xd n xa => Sys2Proof.Machine.execCsrs g xd n xa s
  | .csrc g xd n xa => Sys2Proof.Machine.execCsrc g xd n xa s
  | .fenceSv wm sc => Sys2Proof.Machine.execFenceSv wm sc s
  | .fenceVs wm sc => Sys2Proof.Machine.execFenceVs wm sc s
  | .fenceVv wm sc => Sys2Proof.Machine.execFenceVv wm sc s
  | .fenceA wm sc => Sys2Proof.Machine.execFenceA wm sc s
  | .qfence wm sc qs => Sys2Proof.Machine.execQfence wm sc qs s
  | .ecall wm imm => Sys2Proof.Machine.execEcall wm imm s
  | .ebreak wm imm => Sys2Proof.Machine.execEbreak wm imm s
  | .tret wm => Sys2Proof.Machine.execTret wm s
  | .wait wm xd xa => Sys2Proof.Machine.execWait wm xd xa s
  | .lnch g xd xa => Sys2Proof.Machine.execLnch g xd xa s
  | .claim g xd xa => Sys2Proof.Machine.execClaim g xd xa s
  | .gbarArr g sc xd => Sys2Proof.Machine.execGbarArr g sc xd s
  | .gbarWait g sc xa => Sys2Proof.Machine.execGbarWait g sc xa s
  | .exit g => Sys2Proof.Machine.execExit g s
  | .yield g xd => Sys2Proof.Machine.execYield g xd s
  | .waitm g sc xd xa xb imm => Sys2Proof.Machine.execWaitm g sc xd xa xb imm s
  | .tinv wm sc all t xa xb => Sys2Proof.Machine.execTinv wm sc all t xa xb s
  | .clset wm cls t xd xa => Sys2Proof.Machine.execClset wm cls t xd xa s
  | .bind wm t xd xa => Sys2Proof.Machine.execBind wm t xd xa s
  | .vsave wm xd xa xb => Sys2Proof.Machine.execVsave wm xd xa xb s
  | .vrest wm xd xa => Sys2Proof.Machine.execVrest wm xd xa s
  | .vcfg wm xd regs blk => Sys2Proof.Machine.execVcfg wm xd regs blk s
  | .setvl wm xd xa t => Sys2Proof.Machine.execSetvl wm xd xa t s
  | .setvh wm xd xa t => Sys2Proof.Machine.execSetvh wm xd xa t s
  | .vtag wm vd t => Sys2Proof.Machine.execVtag wm vd t s
  | .vmov g vd a => Sys2Proof.Machine.execVmov g vd a s
  | .vsliceExtract g col vd va xb => Sys2Proof.Machine.execVsliceExtract g col vd va xb s
  | .vsliceInsert g col vd va xb => Sys2Proof.Machine.execVsliceInsert g col vd va xb s
  | .vbcast g vd xa => Sys2Proof.Machine.execVbcast g vd xa s
  | .vxt g xd va xb => Sys2Proof.Machine.execVxt g xd va xb s
  | .vins g vd xa xb => Sys2Proof.Machine.execVins g vd xa xb s
  | .vadd g vd o sat rnd => Sys2Proof.Machine.execVadd g vd o sat rnd s
  | .vsub g vd o sat rnd => Sys2Proof.Machine.execVsub g vd o sat rnd s
  | .vmin g vd o sat rnd => Sys2Proof.Machine.execVmin g vd o sat rnd s
  | .vmax g vd o sat rnd => Sys2Proof.Machine.execVmax g vd o sat rnd s
  | .vabs g vd a sat rnd => Sys2Proof.Machine.execVabs g vd a sat rnd s
  | .vneg g vd a sat rnd => Sys2Proof.Machine.execVneg g vd a sat rnd s
  | .vmul g vd o sat rnd => Sys2Proof.Machine.execVmul g vd o sat rnd s
  | .vmulh g vd o => Sys2Proof.Machine.execVmulh g vd o s
  | .vdiv g vd o sat rnd => Sys2Proof.Machine.execVdiv g vd o sat rnd s
  | .vrem g vd o sat => Sys2Proof.Machine.execVrem g vd o sat s
  | .vsqrt g vd a sat rnd => Sys2Proof.Machine.execVsqrt g vd a sat rnd s
  | .vrcp g vd a sat rnd => Sys2Proof.Machine.execVrcp g vd a sat rnd s
  | .vrsq g vd a sat rnd => Sys2Proof.Machine.execVrsq g vd a sat rnd s
  | .vfma g vd o vc sat rnd => Sys2Proof.Machine.execVfma g vd o vc sat rnd s
  | .vfms g vd o vc sat rnd => Sys2Proof.Machine.execVfms g vd o vc sat rnd s
  | .vfnma g vd o vc sat rnd => Sys2Proof.Machine.execVfnma g vd o vc sat rnd s
  | .vcmp g c pd a b => Sys2Proof.Machine.execVcmp g c pd a b s
  | .vand g vd o => Sys2Proof.Machine.execVand g vd o s
  | .vor g vd o => Sys2Proof.Machine.execVor g vd o s
  | .vxor g vd o => Sys2Proof.Machine.execVxor g vd o s
  | .vnot g vd a => Sys2Proof.Machine.execVnot g vd a s
  | .vshl g vd o => Sys2Proof.Machine.execVshl g vd o s
  | .vshr g vd o => Sys2Proof.Machine.execVshr g vd o s
  | .vsha g vd o => Sys2Proof.Machine.execVsha g vd o s
  | .vrot g vd o => Sys2Proof.Machine.execVrot g vd o s
  | .vclz g vd a => Sys2Proof.Machine.execVclz g vd a s
  | .vpopc g vd a => Sys2Proof.Machine.execVpopc g vd a s
  | .vbrev g vd a => Sys2Proof.Machine.execVbrev g vd a s
  | .vbitil g k3 vd a b vc => Sys2Proof.Machine.execVbitil g k3 vd a b vc s
  | .vbitdl g k3 vd a jx => Sys2Proof.Machine.execVbitdl g k3 vd a jx s
  | .vred g op vd va sat rnd => Sys2Proof.Machine.execVred g op vd va sat rnd s
  | .vscan g op vd va sat rnd => Sys2Proof.Machine.execVscan g op vd va sat rnd s
  | .vmaxi g vd va xb pm => Sys2Proof.Machine.execVmaxi g vd va xb pm s
  | .vmini g vd va xb pm => Sys2Proof.Machine.execVmini g vd va xb pm s
  | .vslideUp g vd va xb => Sys2Proof.Machine.execVslideUp g vd va xb s
  | .vslideDn g vd va xb => Sys2Proof.Machine.execVslideDn g vd va xb s
  | .vperm g vd va vb => Sys2Proof.Machine.execVperm g vd va vb s
  | .vcompr g vd va => Sys2Proof.Machine.execVcompr g vd va s
  | .vexpd g vd va => Sys2Proof.Machine.execVexpd g vd va s
  | .viota g vd pa => Sys2Proof.Machine.execViota g vd pa s
  | .vtrans g vd va => Sys2Proof.Machine.execVtrans g vd va s
  | .vcvt g vd a sat rnd => Sys2Proof.Machine.execVcvt g vd a sat rnd s
  | .vqnt g vd va vs rnd => Sys2Proof.Machine.execVqnt g vd va vs rnd s
  | .vdqnt g vd va vs sat rnd => Sys2Proof.Machine.execVdqnt g vd va vs sat rnd s
  | .vsel g vd a b pc => Sys2Proof.Machine.execVsel g vd a b pc s
  | .vexp2 g vd a sat rnd => Sys2Proof.Machine.execVexp2 g vd a sat rnd s
  | .vlog2 g vd a sat rnd => Sys2Proof.Machine.execVlog2 g vd a sat rnd s
  | .vld g vd xa t => Sys2Proof.Machine.execVld g vd xa t s
  | .vldP g vd xa xb t => Sys2Proof.Machine.execVldP g vd xa xb t s
  | .vlds g vd xa xb t => Sys2Proof.Machine.execVlds g vd xa xb t s
  | .vgth g vd xa vb sz t => Sys2Proof.Machine.execVgth g vd xa vb sz t s
  | .vgthCl g vd xa vb sz t => Sys2Proof.Machine.execVgthCl g vd xa vb sz t s
  | .vldw g vd xa xb t => Sys2Proof.Machine.execVldw g vd xa xb t s
  | .pref g xa xb t => Sys2Proof.Machine.execPref g xa xb t s
  | .vst g vs xa t => Sys2Proof.Machine.execVst g vs xa t s
  | .vstP g vs xa xb t => Sys2Proof.Machine.execVstP g vs xa xb t s
  | .vsts g vs xa xb t => Sys2Proof.Machine.execVsts g vs xa xb t s
  | .vsct g vs xa vb sz t => Sys2Proof.Machine.execVsct g vs xa vb sz t s
  | .vsctCl g vs xa vb sz t => Sys2Proof.Machine.execVsctCl g vs xa vb sz t s
  | .vamo g op nr vd xa vb sz o t => Sys2Proof.Machine.execVamo g op nr vd xa vb sz o t s
  | .vcas g vd xa vb sz o t => Sys2Proof.Machine.execVcas g vd xa vb sz o t s
  | .vbinc g vd xa vb sz o t => Sys2Proof.Machine.execVbinc g vd xa vb sz o t s
  | .vstm g vs xa r t => Sys2Proof.Machine.execVstm g vs xa r t s
  | .vpush wm sc vs xa tc nb => Sys2Proof.Machine.execVpush wm sc vs xa tc nb s
  | .vtake wm sc vd vm => Sys2Proof.Machine.execVtake wm sc vd vm s
  | .vfesRd wm xd vm => Sys2Proof.Machine.execVfesRd wm xd vm s
  | .vfesClr wm xd vm => Sys2Proof.Machine.execVfesClr wm xd vm s
  | .vfesSet wm xd vm => Sys2Proof.Machine.execVfesSet wm xd vm s
  | .strm g xd xa xb lu evp cnt n => Sys2Proof.Machine.execStrm g xd xa xb lu evp cnt n s
  | .strm2d g xd xa xb lu evp cnt n => Sys2Proof.Machine.execStrm2d g xd xa xb lu evp cnt n s
  | .waitK gd t mask xd xa => Sys2Proof.Machine.execWaitK gd t mask xd xa s
  | .ccwait gd t n xd xa xb => Sys2Proof.Machine.execCcwait gd t n xd xa xb s
  | .ccrd gd n xd => Sys2Proof.Machine.execCcrd gd n xd s
  | .ccrdClr gd n xd => Sys2Proof.Machine.execCcrdClr gd n xd s
  | .wopen g w xa xb => Sys2Proof.Machine.execWopen g w xa xb s
  | .wclose g w => Sys2Proof.Machine.execWclose g w s
  | .winv g w => Sys2Proof.Machine.execWinv g w s
  | .matt g xd xa => Sys2Proof.Machine.execMatt g xd xa s
  | .mdet g => Sys2Proof.Machine.execMdet g s
  | .munf g xa => Sys2Proof.Machine.execMunf g xa s
  | .mma g ta ma mb ms tk asrc bsrc sat scl => Sys2Proof.Machine.execMma g ta ma mb ms tk asrc bsrc sat scl s
  | .maccLd g ta va xs tk => Sys2Proof.Machine.execMaccLd g ta va xs tk s
  | .maccSt g vd ta xs tk => Sys2Proof.Machine.execMaccSt g vd ta xs tk s
  | .maccZ g ta tk si => Sys2Proof.Machine.execMaccZ g ta tk si s
  | .mepi g vd ta vb vs tk sat rnd act scl bia => Sys2Proof.Machine.execMepi g vd ta vb vs tk sat rnd act scl bia s
  | .wsld g xd xa xb tk => Sys2Proof.Machine.execWsld g xd xa xb tk s
  | .wsberthGet g xd xa => Sys2Proof.Machine.execWsberthGet g xd xa s
  | .wsberthRdy g xd xa => Sys2Proof.Machine.execWsberthRdy g xd xa s
  | .wsberthDrop g xd xa => Sys2Proof.Machine.execWsberthDrop g xd xa s
  | .collArV wm op vd va xb grp tk => Sys2Proof.Machine.execCollArV wm op vd va xb grp tk s
  | .collArM wm op xd xa xb grp tk => Sys2Proof.Machine.execCollArM wm op xd xa xb grp tk s
  | .collRsV wm op vd va xb grp tk => Sys2Proof.Machine.execCollRsV wm op vd va xb grp tk s
  | .collRsM wm op xd xa xb grp tk => Sys2Proof.Machine.execCollRsM wm op xd xa xb grp tk s
  | .collAgV wm vd va xb grp tk => Sys2Proof.Machine.execCollAgV wm vd va xb grp tk s
  | .collAgM wm xd xa xb grp tk => Sys2Proof.Machine.execCollAgM wm xd xa xb grp tk s
  | .collBcV wm vd va xb grp tk => Sys2Proof.Machine.execCollBcV wm vd va xb grp tk s
  | .collBcM wm xd xa xb grp tk => Sys2Proof.Machine.execCollBcM wm xd xa xb grp tk s
  | .collSrs wm xd xa xb grp tk => Sys2Proof.Machine.execCollSrs wm xd xa xb grp tk s
  | .collBar wm xb grp tk => Sys2Proof.Machine.execCollBar wm xb grp tk s
  | .collWait wm xd xa grp => Sys2Proof.Machine.execCollWait wm xd xa grp s
  | .collStat wm xd xa grp => Sys2Proof.Machine.execCollStat wm xd xa grp s
  | .collStatClr wm xd xa grp => Sys2Proof.Machine.execCollStatClr wm xd xa grp s
  | .nonInstructionWord w => Sys2Proof.Machine.execNonInstructionWord w s
  | .launchPortWrite => Sys2Proof.Machine.execLaunchPortWrite s
  | .qabort => Sys2Proof.Machine.execQabort s
  | .qctlHaltedClear => Sys2Proof.Machine.execQctlHaltedClear s
  | .gangPlacement => Sys2Proof.Machine.execGangPlacement s
  | .schedulerReservation => Sys2Proof.Machine.execSchedulerReservation s
  | .preemptSelection => Sys2Proof.Machine.execPreemptSelection s
  | .coresidentPreemptSelection => Sys2Proof.Machine.execCoresidentPreemptSelection s
  | .gangResume => Sys2Proof.Machine.execGangResume s
  | .laneGroupIssue => Sys2Proof.Machine.execLaneGroupIssue s
  | .trapEntry => Sys2Proof.Machine.execTrapEntry s
  | .trapReport => Sys2Proof.Machine.execTrapReport s
  | .tresResume => Sys2Proof.Machine.execTresResume s
  | .tresTakeTrap => Sys2Proof.Machine.execTresTakeTrap s
  | .tresEnd => Sys2Proof.Machine.execTresEnd s
  | .timerCompare => Sys2Proof.Machine.execTimerCompare s
  | .homeAccess => Sys2Proof.Machine.execHomeAccess s
  | .scrubError => Sys2Proof.Machine.execScrubError s
  | .remoteAtomicArrival => Sys2Proof.Machine.execRemoteAtomicArrival s
  | .loadElementArrival => Sys2Proof.Machine.execLoadElementArrival s
  | .streamDispatch => Sys2Proof.Machine.execStreamDispatch s
  | .streamGranule => Sys2Proof.Machine.execStreamGranule s
  | .nbRetire => Sys2Proof.Machine.execNbRetire s
  | .efactResume => Sys2Proof.Machine.execEfactResume s
  | .efactAbandon => Sys2Proof.Machine.execEfactAbandon s
  | .matrixQueueExecute => Sys2Proof.Machine.execMatrixQueueExecute s
  | .matrixWaitlistExpire => Sys2Proof.Machine.execMatrixWaitlistExpire s
  | .berthAgeing => Sys2Proof.Machine.execBerthAgeing s
  | .refreshSlotEnd => Sys2Proof.Machine.execRefreshSlotEnd s
  | .wfracWrite => Sys2Proof.Machine.execWfracWrite s
  | .pushArrival => Sys2Proof.Machine.execPushArrival s
  | .pushRetry => Sys2Proof.Machine.execPushRetry s
  | .pushReservationExpire => Sys2Proof.Machine.execPushReservationExpire s
  | .migrationStart => Sys2Proof.Machine.execMigrationStart s
  | .migrationFree => Sys2Proof.Machine.execMigrationFree s
  | .migrationLineMove => Sys2Proof.Machine.execMigrationLineMove s
  | .frameClassChange => Sys2Proof.Machine.execFrameClassChange s
  | .dieFlitReceive => Sys2Proof.Machine.execDieFlitReceive s
  | .wavelengthRetrainTrigger => Sys2Proof.Machine.execWavelengthRetrainTrigger s
  | .wlctlForce => Sys2Proof.Machine.execWlctlForce s
  | .wlctlOffSet => Sys2Proof.Machine.execWlctlOffSet s
  | .wlctlOffClear => Sys2Proof.Machine.execWlctlOffClear s
  | .wavelengthFlitBoundary => Sys2Proof.Machine.execWavelengthFlitBoundary s
  | .wavelengthTrainingDone => Sys2Proof.Machine.execWavelengthTrainingDone s
  | .linkTableUpdate => Sys2Proof.Machine.execLinkTableUpdate s
  | .fabricPacketReceive => Sys2Proof.Machine.execFabricPacketReceive s
  | .transportResend => Sys2Proof.Machine.execTransportResend s
  | .requestTimeout => Sys2Proof.Machine.execRequestTimeout s
  | .grantCrcCheck => Sys2Proof.Machine.execGrantCrcCheck s
  | .portGroupResetDone => Sys2Proof.Machine.execPortGroupResetDone s
  | .portGroupLost => Sys2Proof.Machine.execPortGroupLost s
  | .machineFault => Sys2Proof.Machine.execMachineFault s
  | .chunkMark => Sys2Proof.Machine.execChunkMark s
  | .collectiveRecompute => Sys2Proof.Machine.execCollectiveRecompute s
  | .collectiveTimeout => Sys2Proof.Machine.execCollectiveTimeout s
  | .groupDisable => Sys2Proof.Machine.execGroupDisable s
  | .pciePortFailover => Sys2Proof.Machine.execPciePortFailover s
  | .hostWindowAccess => Sys2Proof.Machine.execHostWindowAccess s
  | .noteWrite => Sys2Proof.Machine.execNoteWrite s
  | .mailboxGo => Sys2Proof.Machine.execMailboxGo s
  | .mailboxReadyClear => Sys2Proof.Machine.execMailboxReadyClear s
  | .frameSet => Sys2Proof.Machine.execFrameSet s
  | .queueBind => Sys2Proof.Machine.execQueueBind s
  | .funcBind => Sys2Proof.Machine.execFuncBind s
  | .hartBind => Sys2Proof.Machine.execHartBind s
  | .partRead => Sys2Proof.Machine.execPartRead s
  | .crewLoad => Sys2Proof.Machine.execCrewLoad s
  | .crewStart => Sys2Proof.Machine.execCrewStart s
  | .pilotLoad => Sys2Proof.Machine.execPilotLoad s
  | .pilotStage => Sys2Proof.Machine.execPilotStage s
  | .undock => Sys2Proof.Machine.execUndock s
  | .undockStatus => Sys2Proof.Machine.execUndockStatus s
  | .logRead => Sys2Proof.Machine.execLogRead s
  | .getVersion => Sys2Proof.Machine.execGetVersion s
  | .getCapabilities => Sys2Proof.Machine.execGetCapabilities s
  | .negotiateAlgorithms => Sys2Proof.Machine.execNegotiateAlgorithms s
  | .getDigests => Sys2Proof.Machine.execGetDigests s
  | .getCertificate => Sys2Proof.Machine.execGetCertificate s
  | .challenge => Sys2Proof.Machine.execChallenge s
  | .getMeasurements => Sys2Proof.Machine.execGetMeasurements s
  | .keyExchange => Sys2Proof.Machine.execKeyExchange s
  | .finish => Sys2Proof.Machine.execFinish s
  | .powerCapSet => Sys2Proof.Machine.execPowerCapSet s
  | .clockStepRaise => Sys2Proof.Machine.execClockStepRaise s
  | .clockStepLower => Sys2Proof.Machine.execClockStepLower s
  | .overTemperature => Sys2Proof.Machine.execOverTemperature s
  | .identityStoreRead => Sys2Proof.Machine.execIdentityStoreRead s
  | .pilotBankActivate => Sys2Proof.Machine.execPilotBankActivate s
  | .powerOn => Sys2Proof.Machine.execPowerOn s
  | .managementTakeover => Sys2Proof.Machine.execManagementTakeover s
  | .undockBudgetExpire => Sys2Proof.Machine.execUndockBudgetExpire s
  | .latchForcedOpen => Sys2Proof.Machine.execLatchForcedOpen s
  | .registerWrite => Sys2Proof.Machine.execRegisterWrite s
  | .instructionFetchFault => Sys2Proof.Machine.execInstructionFetchFault s
  | .storedDataError => Sys2Proof.Machine.execStoredDataError s
  | .fabricLaneFailure => Sys2Proof.Machine.execFabricLaneFailure s

end Sys2Proof.Machine
end

