-- ==== Sys2Proof/Machine/Run.lean ====
section
/-! DEFINITION. One turn of the machine: the hart in focus runs its next instruction, or the head of the agenda happens. -/

namespace Sys2Proof.Machine
open Sys2Proof

/-- Runs the instruction of a fetched word; a word that is none raises ILLEGAL_INSTR (R60). -/
def runWord (w : Word) (s : State) : Host.Outcome State Fault Refusal :=
  match decode w with
  | .ok i => exec i s
  | .error _ => exec (.nonInstructionWord w) s

/-- A pending trap of orders 6 to 8 follows an instruction that raised none (R357). -/
def thenPending (o : Host.Outcome State Fault Refusal) : Host.Outcome State Fault Refusal :=
  match o with
  | .next s => .next s.afterExec
  | .fault r => .fault r
  | .refused r => .refused r

/-- The state in which the hart in focus begins its next instruction: what an atomic with AQ left in its queue has been performed. -/
def State.begin (s : State) : State :=
  let s := s.upd (fun h => { h with trapped := false })
  if s.hart.run == .running && s.hart.acquires then s.nbDrain else s

/-- One instruction of the hart in focus. A hart that runs nothing changes nothing. -/
def runHart (s : State) : Host.Outcome State Fault Refusal :=
  let s := s.begin
  match s.hart.run with
  | .running =>
    match s.beforeFetch with
    | some s' => .next s'
    | none => thenPending (
        match s.fetch with
        | (.ok w, s) => runWord w s
        | (.error _, _) => exec .instructionFetchFault s)
  | .held => .next s.heldAbort
  | _ => .next s

/-! ## The scalar unit ahead of the vector queue (R20, R351) -/

/-- What the scalar unit does ahead of its turn at the next instruction of the hart in focus, on a copy of the machine: the entry, and the copy
behind the instruction; none where it waits (R351). -/
def aheadOne (c : State) : Option (Ahead × State) :=
  let c := c.upd (fun h => { h with trapped := false })
  match c.fetch with
  | (.error _, _) => none
  | (.ok w, c) =>
    match decode w with
    | .error _ => none
    | .ok i =>
      match laneUse i with
      | some u => if u.stops then none else some (.queued c.hart.entered, c.passed u)
      | none =>
        if !runsAhead (w.extractLsb' 56 8).toNat || c.hart.waits (w.extractLsb' 43 8) then none
        else match exec i c with
          | .next d =>
            if d.hart.trapped || d.hart.waitStart.isSome then none
            else some (match i with
              | .ld _ xd .. => .load (d.x xd)
              | _ => .scalar, d)
          | _ => none
/-- What the scalar unit has gone over once it has looked at `n` instructions, with `room` places in the vector queue; and the free values used. -/
def aheadMany : Nat → Nat → State → List Ahead × Nat
  | 0, _, c => (c.hart.ahead, c.free)
  | n + 1, room, c =>
    match aheadOne c with
    | none => (c.hart.ahead, c.free)
    | some (.queued t, d) =>
      if room = 0 then ([], c.free) else let r := aheadMany n (room - 1) d; (.queued t :: r.1, r.2)
    | some (a, d) => let r := aheadMany n room d; (a :: r.1, r.2)
/-- The scalar unit of the hart in focus goes over its next `n` instructions (R351): it changes no state but what the hart remembers of it. DESIGN CHOICE
(log 88): how many is an input. -/
def State.runAhead (s : State) (n : Nat) : State :=
  if s.hart.run == .running && !s.hart.isMgmt && !s.hart.acquires then
    let r := aheadMany n queueDepth s
    { s.upd (fun h => { h with ahead := r.1 }) with free := r.2 }
  else s

/-- One turn (log 1): the head of the agenda, or the next instruction of the hart in focus. -/
def turn (s : State) : Host.Outcome State Fault Refusal :=
  match s.agenda with
  | [] => runHart s
  | .hart h :: t =>
    if namesHart s.pkg s.mgmtDie (BitVec.ofNat 20 h) then runHart ({ s with agenda := t }.focus (BitVec.ofNat 20 h))
    else .next { s with agenda := t }
  | .ahead h n :: t =>
    if namesHart s.pkg s.mgmtDie (BitVec.ofNat 20 h) then .next (State.runAhead ({ s with agenda := t }.focus (BitVec.ofNat 20 h)) n)
    else .next { s with agenda := t }
  | .event i d :: t => if i.isEvent then exec i { s with agenda := t, input := d } else .next { s with agenda := t }
  | .elapse ns :: t => .next ({ s with agenda := t }.elapse ns)

end Sys2Proof.Machine
end

