-- ==== Sys2Proof/Safety.lean ====
section
/-! DEFINITION. The conditions under which instructions run to their own effect, and the invariant that every step keeps. -/

namespace Sys2Proof.Machine
open Sys2Proof

/-! ## The invariant -/

/-- No mark that makes bytes indeterminate is of a later time than the latest write (R4): the marks in force, and those that the
instances under way carry. -/
abbrev State.MarksPast (s : State) : Prop :=
  (∀ r ∈ s.indet, r.at_ ≤ s.wno) ∧ (∀ x ∈ s.insts, ∀ c ∈ x.calls, c.at_ ≤ s.wno)

/-- Every hart out of focus is listed under its own number. -/
abbrev State.Named (s : State) : Prop := ∀ e ∈ s.rest, e.2.hid.toNat = e.1

/-- Memory has its canonical form (addresses rise, and no entry equals what an unlisted address reads as), a byte that has
been written since it was made indeterminate is determinate, and every hart is listed under its own number. -/
abbrev State.Inv (s : State) : Prop := Memory.wf s.mem = true ∧ s.MarksPast ∧ s.Named

/-! ## Ready to issue -/

/-- No register of the hart holds a stored error (R130, R163, R278). -/
abbrev Hart.Sound (h : Hart) : Prop :=
  h.xcor = 0 ∧ h.xbad = 0 ∧ h.pcor = 0 ∧ h.pbad = 0 ∧ h.vcor = [] ∧ h.vpoi = 0

/-- The hart in focus may issue an instruction with this token wait mask (R41): no token that it names is set. -/
abbrev State.Ready (s : State) (wm : BitVec 8) : Prop := s.hart.Sound ∧ s.hart.waits wm = false

/-- A hart that is no management hart (R19), at an instruction that is no reissue and that no trap from outside stops inside
itself (R352, R355). -/
abbrev Hart.Fresh (h : Hart) : Prop := h.isMgmt = false ∧ h.reissue = false ∧ h.stopAt = none

/-- The hart in focus may issue an instruction of the vector queue that names the registers `vs`, writes those of `dst` (the
first one, where nothing else is said) and sets the token `tk` (R41, R42, R155, R156, R222): the guard is not the one that is
always false (R39). -/
abbrev State.VReady (s : State) (g : Hdr) (vs : List Nat) (tk : Option (BitVec 3) := none) (dst : List Nat := vs.take 1) : Prop :=
  s.Ready g.wm ∧ s.hart.Fresh ∧ (tk.any (fun k => s.hart.tok.getLsbD k.toNat)) = false ∧ (g.pg == 0 && g.pn) = false
    ∧ vs.all (fun v => decide (v < s.hart.nregs) && !s.hart.regBusy v) = true ∧ dst.any s.hart.mxReads = false

/-- Element `e` of vector register `v`, as bits under the register's tag (R153). -/
def Hart.elem (h : Hart) (v e : Nat) : Nat := elemAt (tagWidth (h.tag v)) (h.vstr v) e

/-- Instruction `i` completes: the next state is `t`, no trap was taken, and the hart goes on with the next word (R62). -/
def Completes (i : Instr) (s t : State) : Prop :=
  exec i s = .next t ∧ t.hart.pc = s.hart.pc + 8 ∧ t.hart.mode = s.hart.mode ∧ t.hart.tcause = s.hart.tcause
    ∧ t.hart.tepc = s.hart.tepc ∧ t.hart.tval = s.hart.tval ∧ t.hart.run = s.hart.run

/-- No bit error lies stored that its code misses (class N, or an error that escapes: R278): the bytes show such an error, or cease to, when a
cache fetches or drops the line it lies in, without a write. -/
abbrev State.NoFlips (s : State) : Prop := ∀ e ∈ s.errs, e.esc = false

/-! ## Frames -/

/-- The hart in focus is as it was, but for traps that have become pending, and for where such a trap stops its instruction. -/
def SameHart (s t : State) : Prop := t.hart = { s.hart with pend := t.hart.pend, stopAt := t.hart.stopAt }

/-- Every byte of memory reads as it did. -/
def SameMemory (s t : State) : Prop := ∀ a, t.byte a = s.byte a

/-- Every byte of memory outside the `n` bytes from `lo` on reads as it did. -/
def SameOutside (s t : State) (lo n : Nat) : Prop := ∀ a, a < lo ∨ lo + n ≤ a → t.byte a = s.byte a

/-- A scalar access of `n` bytes at a virtual address passes translation and every check, and lies at a physical address of
this package (R241, R273); `t` is the state behind the checks. -/
def State.Reaches (s : State) (k : Kind) (va : Word) (n pa : Nat) (t : State) : Prop :=
  s.locate (s.req .scalar) k va n = (.ok (.here pa), t)

/-- What an instruction that writes vector registers only leaves alone: scalar registers, predicates, the other special
registers, every other hart, and all of memory. -/
def OnlyVectors (s t : State) : Prop :=
  t.hart.x = s.hart.x ∧ t.hart.sb = s.hart.sb ∧ t.hart.p = s.hart.p ∧ t.hart.tok = s.hart.tok ∧ t.hart.cc = s.hart.cc
    ∧ t.hart.vl = s.hart.vl ∧ t.hart.vh = s.hart.vh ∧ t.hart.regs = s.hart.regs ∧ t.rest = s.rest
    ∧ ∀ a, t.byte a = s.byte a

end Sys2Proof.Machine
end

