-- ==== Sys2Proof/Certificates/Slice0/Obligations.lean ====
section
/-! DEFINITION. The statements for the provers. Each says which rules of spec/ it formalises; the tables of results that several
statements share stand before them, written from the rules. -/

namespace Sys2Proof.Spec
open Sys2Proof Sys2Proof.Machine

/-! ## Results of integer instructions -/

/-- The positions of the set bits of a word, in ascending order. -/
def setBits (b : Word) : List Nat := (List.range 64).filter (fun i => b.getLsbD i)
/-- A word whose listed bits are set. -/
def wordOf (bs : List Nat) : Word := bs.foldl (fun r i => r ||| BitVec.twoPow 64 i) 0

/-- The results of the instructions on two registers (R137 to R139, R141). -/
def regOps : List ((Hdr → XReg → XReg → XReg → Instr) × (Word → Word → Word)) :=
  [(.add, fun a b => a + b), (.sub, fun a b => a - b), (.and, fun a b => a &&& b), (.or, fun a b => a ||| b),
   (.xor, fun a b => a ^^^ b), (.andn, fun a b => a &&& ~~~b),
   (.shl, fun a b => a <<< (b.toNat % 64)), (.shr, fun a b => a >>> (b.toNat % 64)),
   (.sha, fun a b => a.sshiftRight (b.toNat % 64)), (.rotl, fun a b => a.rotateLeft (b.toNat % 64)),
   (.min, fun a b => if a.toInt ≤ b.toInt then a else b), (.max, fun a b => if a.toInt ≤ b.toInt then b else a),
   (.minu, fun a b => if a.toNat ≤ b.toNat then a else b), (.maxu, fun a b => if a.toNat ≤ b.toNat then b else a),
   (.slt, fun a b => if a.toInt < b.toInt then 1 else 0), (.sltu, fun a b => if a.toNat < b.toNat then 1 else 0),
   (.mul, fun a b => BitVec.ofNat 64 (a.toNat * b.toNat)),
   (.mulh, fun a b => BitVec.ofInt 64 (a.toInt * b.toInt / 2 ^ 64)),
   (.mulhu, fun a b => BitVec.ofNat 64 (a.toNat * b.toNat / 2 ^ 64)),
   (.div, fun a b => if b = 0 then -1 else BitVec.ofInt 64 (a.toInt.tdiv b.toInt)),
   (.divu, fun a b => if b = 0 then -1 else BitVec.ofNat 64 (a.toNat / b.toNat)),
   (.rem, fun a b => if b = 0 then a else BitVec.ofInt 64 (a.toInt.tmod b.toInt)),
   (.remu, fun a b => if b = 0 then a else BitVec.ofNat 64 (a.toNat % b.toNat)),
   (.bext, fun a b => wordOf (((setBits b).zipIdx.filter (fun p => a.getLsbD p.1)).map (·.2))),
   (.bdep, fun a b => wordOf (((setBits b).zipIdx.filter (fun p => a.getLsbD p.2)).map (·.1))),
   (.pamk, fun a b => BitVec.ofNat 64 (a.toNat % 2 ^ 11 * 2 ^ 41 + b.toNat % 2 ^ 41))]

/-- The results of the instructions on a register and the sign-extended immediate (R137). -/
def immOps : List ((Hdr → XReg → XReg → BitVec 27 → Instr) × (Word → Word → Word)) :=
  [(.addImm, fun a b => a + b), (.subImm, fun a b => a - b), (.andImm, fun a b => a &&& b), (.orImm, fun a b => a ||| b),
   (.xorImm, fun a b => a ^^^ b), (.andnImm, fun a b => a &&& ~~~b),
   (.shlImm, fun a b => a <<< (b.toNat % 64)), (.shrImm, fun a b => a >>> (b.toNat % 64)),
   (.shaImm, fun a b => a.sshiftRight (b.toNat % 64)), (.rotlImm, fun a b => a.rotateLeft (b.toNat % 64)),
   (.minImm, fun a b => if a.toInt ≤ b.toInt then a else b), (.maxImm, fun a b => if a.toInt ≤ b.toInt then b else a),
   (.minuImm, fun a b => if a.toNat ≤ b.toNat then a else b), (.maxuImm, fun a b => if a.toNat ≤ b.toNat then b else a),
   (.sltImm, fun a b => if a.toInt < b.toInt then 1 else 0), (.sltuImm, fun a b => if a.toNat < b.toNat then 1 else 0)]

/-- The results of the instructions on one register (R139, R141). -/
def oneOps : List ((Hdr → XReg → XReg → Instr) × (Word → Word)) :=
  [(.clz, fun a => if a = 0 then 64 else BitVec.ofNat 64 (63 - a.toNat.log2)),
   (.ctz, fun a => BitVec.ofNat 64 ((setBits a).headD 64)),
   (.popc, fun a => BitVec.ofNat 64 (setBits a).length),
   (.brev, fun a => wordOf ((setBits a).map (fun i => 63 - i))),
   (.pax, fun a => BitVec.ofNat 64 (a.toNat / 2 ^ 41 % 2 ^ 11))]

/-- A condition of CMP and BR (R57). -/
def condTrue : Cond → Word → Word → Bool
  | .eq, a, b => a == b
  | .ne, a, b => a != b
  | .lt, a, b => decide (a.toInt < b.toInt)
  | .ge, a, b => decide (b.toInt ≤ a.toInt)
  | .ltu, a, b => decide (a.toNat < b.toNat)
  | .geu, a, b => decide (b.toNat ≤ a.toNat)

/-- A condition of BRP on the bits below `n` (R57). -/
def pcond : PCond → BitVec 32768 → Nat → Bool
  | .t, v, _ => v.getLsbD 0
  | .f, v, _ => !v.getLsbD 0
  | .any, v, n => (List.range n).any (fun e => v.getLsbD e)
  | .none, v, n => (List.range n).all (fun e => !v.getLsbD e)

/-- The logic instructions on predicates (R143). -/
def predOps : List ((Hdr → PReg → PReg → PReg → Instr) × (BitVec 32768 → BitVec 32768 → BitVec 32768)) :=
  [(.pand, fun a b => a &&& b), (.por, fun a b => a ||| b), (.pxor, fun a b => a ^^^ b)]

/-- The next state of a guarded instruction that has one effect: under the guard the effect and the next word, else the next
word alone (R39). -/
def guarded (s : State) (g : Hdr) (t : State) : Host.Outcome State Fault Refusal :=
  .next (if s.hart.guard g.grd then t.completed else s.completed)

end Sys2Proof.Spec

open Sys2Proof Sys2Proof.Machine Sys2Proof.Spec

/-! ## Integer instructions -/

/-- R137, R138, R139, R141: the instructions on two registers write the result of the table, for every guard, and change nothing
else but what completing changes. -/
def Sys2Proof.Spec.RegisterResults : Prop :=
  ∀ p ∈ regOps, ∀ (s : State) (g : Hdr) (xd xa xb : XReg), s.Ready g.wm →
    exec (p.1 g xd xa xb) s = guarded s g (s.setX xd (p.2 (s.x xa) (s.x xb)))

/-- R44, R137: the forms with an immediate take Sext(IMM) as their second source. -/
def Sys2Proof.Spec.ImmediateResults : Prop :=
  ∀ p ∈ immOps, ∀ (s : State) (g : Hdr) (xd xa : XReg) (imm : BitVec 27), s.Ready g.wm →
    exec (p.1 g xd xa imm) s = guarded s g (s.setX xd (p.2 (s.x xa) (imm.signExtend 64)))

/-- R139 to R141: bit counts and constants. -/
def Sys2Proof.Spec.ConstantsAndCounts : Prop :=
  ∀ (s : State) (g : Hdr) (xd xa : XReg), s.Ready g.wm →
    (∀ p ∈ oneOps, exec (p.1 g xd xa) s = guarded s g (s.setX xd (p.2 (s.x xa))))
    ∧ (∀ imm : BitVec 37, exec (.li g xd imm) s = guarded s g (s.setX xd (imm.signExtend 64)))
    ∧ (∀ imm : BitVec 27, exec (.lih g xd imm) s =
        guarded s g (s.setX xd (BitVec.ofNat 64 (imm.toNat * 2 ^ 37 + (s.x xd).toNat % 2 ^ 37))))

/-- R145: LEA writes its address, modulo 2^64, in both forms, with FN 0 and FN 8; on a hart that may issue it, nothing else happens: no
translation, no check, no access and no trap. -/
def Obligations.AddressesAreComputed : Prop :=
  ∀ (s : State) (g : Hdr) (xd xa xb : XReg) (imm : BitVec 27) (k : BitVec 2),
    let word (fn low : Nat) : Nat := 0x12 * 2 ^ 56 + g.pg.toNat * 2 ^ 52 + g.pn.toNat * 2 ^ 51 + g.wm.toNat * 2 ^ 43
      + xd.toNat * 2 ^ 37 + xa.toNat * 2 ^ 31 + fn * 2 ^ 27 + low
    (encode (.lea g xd (.direct xa imm))).toNat = word 0 imm.toNat
    ∧ (encode (.lea g xd (.indexed xa xb k))).toNat = word 8 (xb.toNat * 2 ^ 21 + k.toNat)
    ∧ (s.Ready g.wm →
      exec (.lea g xd (.direct xa imm)) s = guarded s g (s.setX xd (s.x xa + imm.signExtend 64))
      ∧ exec (.lea g xd (.indexed xa xb k)) s = guarded s g (s.setX xd (s.x xa + s.x xb * BitVec.ofNat 64 (2 ^ k.toNat))))

/-- R57, R142, R143: compares and the predicate instructions; PFIRST and PCNT look at the elements of the tile. -/
def Obligations.PredicateResults : Prop :=
  ∀ (s : State) (g : Hdr) (pd pa pb : PReg) (xd xa xb : XReg), s.Ready g.wm →
    (∀ c, exec (.cmp g c pd xa xb) s =
        guarded s g (s.setP pd (if condTrue c (s.x xa) (s.x xb) then BitVec.allOnes 32768 else 0)))
    ∧ (∀ p ∈ predOps, exec (p.1 g pd pa pb) s = guarded s g (s.setP pd (p.2 (s.pred pa) (s.pred pb))))
    ∧ exec (.pnot g pd pa) s = guarded s g (s.setP pd (~~~s.pred pa))
    ∧ exec (.pmov g pd pa) s = guarded s g (s.setP pd (s.pred pa))
    ∧ exec (.pfirst g pd pa) s = guarded s g (s.setP pd
        (match (List.range s.hart.elems).find? (fun e => (s.pred pa).getLsbD e) with
         | some e => BitVec.twoPow 32768 e
         | none => 0))
    ∧ exec (.pcnt g xd pa) s = guarded s g (s.setX xd
        (BitVec.ofNat 64 ((List.range s.hart.elems).filter (fun e => (s.pred pa).getLsbD e)).length))
    ∧ exec (.pset g pd xa) s = guarded s g (s.setP pd (BitVec.ofNat 32768 (2 ^ min (s.x xa).toNat 32768 - 1)))

/-- R48, R57, R144: branches and jumps: where they go, and what the link register receives. A JALR whose target is no
multiple of 8 raises MISALIGNED with the target in `tval`, and writes no link register. -/
def Sys2Proof.Spec.BranchesAndJumps : Prop :=
  ∀ (s : State) (g : Hdr) (xd xa xb : XReg) (ofs : BitVec 27), s.Ready g.wm → s.hart.guard g.grd = true →
    (∀ c, exec (.br g c xa xb ofs) s = .next (if condTrue c (s.x xa) (s.x xb)
        then s.completedAt (s.hart.pc + 8 * ofs.signExtend 64) else s.completed))
    ∧ (∀ c pa, exec (.brp g c pa ofs) s = .next (if pcond c (s.pred pa) s.hart.elems
        then s.completedAt (s.hart.pc + 8 * ofs.signExtend 64) else s.completed))
    ∧ exec (.j g ofs) s = .next (s.completedAt (s.hart.pc + 8 * ofs.signExtend 64))
    ∧ exec (.jal g xd ofs) s = .next ((s.setX xd (s.hart.pc + 8)).completedAt (s.hart.pc + 8 * ofs.signExtend 64))
    ∧ (let t := s.x xa + 8 * ofs.signExtend 64
       exec (.jalr g xd xa ofs) s = .next (if t.toNat % 8 = 0 then (s.setX xd (s.hart.pc + 8)).completedAt t
         else s.takeTrap { cause := .misaligned, epc := s.hart.pc, val := t }))

/-- R39: an instruction of these families whose guard is false only goes on with the next word. -/
def Sys2Proof.Spec.FalseGuardBranches : Prop :=
  ∀ (s : State) (g : Hdr) (xd xa xb : XReg) (ofs : BitVec 27), s.Ready g.wm → s.hart.guard g.grd = false →
    (∀ c, exec (.br g c xa xb ofs) s = .next s.completed)
    ∧ (∀ c pa, exec (.brp g c pa ofs) s = .next s.completed)
    ∧ exec (.j g ofs) s = .next s.completed
    ∧ exec (.jal g xd ofs) s = .next s.completed
    ∧ exec (.jalr g xd xa ofs) s = .next s.completed
    ∧ (∀ m sz zx, exec (.ld g xd m sz zx) s = .next s.completed)
    ∧ (∀ m sz, exec (.st g xa m sz) s = .next s.completed)

/-- R130, R131: `x0` reads 0 and `p0` reads all ones whatever is written to them; every other register reads back what was
written, and a write changes no other register. -/
def Obligations.HardwiredRegisters : Prop :=
  ∀ (s : State) (i j : XReg) (v : Word) (a b : PReg) (q : BitVec 32768),
    s.x 0 = 0 ∧ s.pred 0 = BitVec.allOnes 32768 ∧ s.setX 0 v = s ∧ s.setP 0 q = s
    ∧ (i ≠ 0 → (s.setX i v).x i = v) ∧ (j ≠ i → (s.setX i v).x j = s.x j)
    ∧ (a ≠ 0 → (s.setP a q).pred a = q) ∧ (b ≠ a → (s.setP a q).pred b = s.pred b)
    ∧ (s.setX i v).hart.p = s.hart.p ∧ (s.setP a q).hart.x = s.hart.x

/-! ## Scalar memory -/

/-- R241: a direct address is the pod address itself, and bits [63:57] of every address are 0. -/
def Sys2Proof.Spec.DirectAddresses : Prop :=
  ∀ (s : State) (r : Req) (k : Kind) (va : Word),
    (va.toNat / 2 ^ 57 ≠ 0 → s.translate r k va = (.error { cause := .accessFault, addr := va }, s))
    ∧ (va.toNat / 2 ^ 52 = 0 → 2 ^ 40 ≤ va.toNat % 2 ^ 41 → s.translate r k va = (.ok va.toNat, s))

/-- R45, R146, R351: LD writes the loaded value, extended as the size says, and nothing else; where the bytes lie in memory the value
is theirs, least significant first (`seen`: a byte that a collective under way is to write is indeterminate, R403). An LD that the scalar
unit has performed ahead of its vector queue delivers what it read then (log 88: when the scalar unit runs ahead is an input of the
model). -/
def Sys2Proof.Spec.LoadsComplete : Prop :=
  ∀ (s : State) (g : Hdr) (xd : XReg) (m : MemOp) (sz : BitVec 2) (zx : Bool) (p : Place) (s1 s2 : State) (v : Nat),
    s.Ready g.wm → s.hart.guard g.grd = true → s.NoFlips →
    (∀ old, s.hart.readAhead = some old → exec (.ld g xd m sz zx) s = .next (s.setX xd old).completed)
    ∧ (s.hart.readAhead = none → (s.memAddr m).toNat % 2 ^ sz.toNat = 0 →
      s.locate (s.req .scalar) .read (s.memAddr m) (2 ^ sz.toNat) = (.ok p, s1) →
      s1.readAt (s.req .scalar) p (2 ^ sz.toNat) = ((v, false), s2) →
      exec (.ld g xd m sz zx) s = .next (s2.setX xd (if zx then BitVec.ofNat 64 v
          else (BitVec.ofNat (8 * 2 ^ sz.toNat) v).signExtend 64)).completed
      ∧ SameHart s s2 ∧ SameMemory s s2
      ∧ ∀ pa, p = .here pa → regionOf pa ≠ .sys → v = s.seen.bytes pa (2 ^ sz.toNat))

/-- R45, R146: ST of a size writes that many low bytes of the register, and no other byte and no register. -/
def Sys2Proof.Spec.StoresComplete : Prop :=
  ∀ (s : State) (g : Hdr) (xs : XReg) (m : MemOp) (sz : BitVec 2) (pa : Nat) (s1 : State),
    s.Ready g.wm → s.hart.guard g.grd = true → s.MarksPast → s.NoFlips → (s.memAddr m).toNat % 2 ^ sz.toNat = 0 →
    s.Reaches .write (s.memAddr m) (2 ^ sz.toNat) pa s1 → regionOf pa ≠ .sys →
    let t := s1.writeAt (s.req .scalar) (.here pa) (2 ^ sz.toNat) ((s.x xs).toNat % 2 ^ (8 * 2 ^ sz.toNat))
    exec (.st g xs m sz) s = .next t.completed ∧ SameHart s t
    ∧ t.bytes pa (2 ^ sz.toNat) = heldBits pa (2 ^ sz.toNat) ((s.x xs).toNat % 2 ^ (8 * 2 ^ sz.toNat))
    ∧ SameOutside s t pa (2 ^ sz.toNat)

/-- R146, R353, R356: where LD (one not performed ahead, R351) and ST trap: a misaligned address, the fault of an access, and a poisoned
word, each with the address in `tval`; no register is written by the access. -/
def Sys2Proof.Spec.ScalarAccessTraps : Prop :=
  ∀ (s : State) (g : Hdr) (x : XReg) (m : MemOp) (sz : BitVec 2) (zx : Bool) (s1 : State) (f : MemFault),
    s.Ready g.wm → s.hart.guard g.grd = true → s.hart.readAhead = none →
    ((s.memAddr m).toNat % 2 ^ sz.toNat ≠ 0 →
      exec (.ld g x m sz zx) s = .next (s.takeTrap { cause := .misaligned, epc := s.hart.pc, val := s.memAddr m })
      ∧ exec (.st g x m sz) s = .next (s.takeTrap { cause := .misaligned, epc := s.hart.pc, val := s.memAddr m }))
    ∧ ((s.memAddr m).toNat % 2 ^ sz.toNat = 0 →
      (s.load (s.req .scalar) (s.memAddr m) (2 ^ sz.toNat) = (.error f, s1) →
        exec (.ld g x m sz zx) s = .next (s1.takeTrap { cause := f.cause, epc := s.hart.pc, val := f.addr, npg := f.fb.length, fb := f.fb }))
      ∧ (∀ v, s.load (s.req .scalar) (s.memAddr m) (2 ^ sz.toNat) = (.ok (v, true), s1) →
        exec (.ld g x m sz zx) s = .next (s1.takeTrap { cause := .poison, epc := s.hart.pc, val := s.memAddr m }))
      ∧ (s.locate (s.req .scalar) .write (s.memAddr m) (2 ^ sz.toNat) = (.error f, s1) → f.amb = false →
        exec (.st g x m sz) s = .next (s1.takeTrap { cause := f.cause, epc := s.hart.pc, val := f.addr, npg := f.fb.length, fb := f.fb })))

namespace Sys2Proof.Spec

/-- The new value of an AMO on patterns of one width (R325). -/
def amo {w : Nat} : AOp → BitVec w → BitVec w → BitVec w
  | .add, o, b => o + b
  | .min, o, b => if o.toInt ≤ b.toInt then o else b
  | .max, o, b => if b.toInt ≤ o.toInt then o else b
  | .and, o, b => o &&& b
  | .or, o, b => o ||| b
  | .xor, o, b => o ^^^ b
  | .swap, _, b => b

/-- What a scalar atomic of `w` bits leaves (R324, R325): `exec` answers a next state in which `xd` holds the old value of the
`w` bits at `pa`, those bits hold what `new` gives for it, and no other byte and no other register has changed; where `new` gives
nothing, no byte changes. -/
def atomicResult (s : State) (i : Instr) (xd : XReg) (pa w : Nat) (zx : Bool) (new : BitVec w → Option (BitVec w)) : Prop :=
  ∃ t, let old := BitVec.ofNat w (s.seen.bytes pa (w / 8))
    exec i s = .next (t.setX xd (if zx then old.setWidth 64 else old.signExtend 64)).completed
    ∧ SameHart s t ∧ (∀ v, new old = some v → t.bytes pa (w / 8) = v.toNat ∧ SameOutside s t pa (w / 8))
    ∧ (new old = none → SameMemory s t)

end Sys2Proof.Spec

/-- R324, R325: AMO, CAS and BINC on an aligned word that they reach and that is not poisoned: the old value, the new one, and
the frame. -/
def Sys2Proof.Spec.AtomicsComplete : Prop :=
  ∀ (s : State) (g : Hdr) (xd xa xb : XReg) (o : Ord) (dbl : Bool) (pa : Nat) (s1 : State) (w : Nat), w = (if dbl then 64 else 32) →
    s.Ready g.wm → s.hart.guard g.grd = true → s.MarksPast → s.NoFlips → (s.x xa).toNat % (w / 8) = 0 →
    s.Reaches .atomic (s.x xa) (w / 8) pa s1 → (s1.atHome (s.req .scalar) pa (w / 8) false).poisonedAt pa (w / 8) = false →
    (∀ op, atomicResult s (.amo g op xd xa xb o dbl) xd pa w false (fun old => some (amo op old ((s.x xb).setWidth w))))
    ∧ atomicResult s (.cas g xd xa xb o dbl) xd pa w false
        (fun old => if old = (s.x xd).setWidth w then some ((s.x xb).setWidth w) else none)
    ∧ atomicResult s (.binc g xd xa xb o dbl) xd pa w true
        (fun old => if old.toNat < ((s.x xb).setWidth w).toNat then some (old + 1) else none)

/-- R266: CCLEAN and CFLUSH of no bytes do nothing; of more than 2^32 bytes they raise ILLEGAL_OPERAND; and a line of HBM that they
reach is left without a dirty copy, after CFLUSH without any copy. No byte changes. -/
def Sys2Proof.Spec.CacheMaintenance : Prop :=
  ∀ (s : State) (g : Hdr) (xa xb : XReg), s.Ready g.wm → s.hart.guard g.grd = true → s.NoFlips →
    ((s.x xb) = 0 → exec (.cclean g xa xb) s = .next s.completed ∧ exec (.cflush g xa xb) s = .next s.completed)
    ∧ (2 ^ 32 < (s.x xb).toNat →
      exec (.cclean g xa xb) s = .next (s.takeTrap { cause := .illegalOperand, epc := s.hart.pc, val := encode (.cclean g xa xb) })
      ∧ exec (.cflush g xa xb) s = .next (s.takeTrap { cause := .illegalOperand, epc := s.hart.pc, val := encode (.cflush g xa xb) }))
    ∧ ∀ (pod pa : Nat) (s1 s2 : State), 0 < (s.x xb).toNat → (s.x xa).toNat % 128 + (s.x xb).toNat ≤ 128 →
      s.translate (s.req .scalar) .clean (s.x xa &&& ~~~127#64) = (.ok pod, s1) → regionOf (s1.redirect (pod % 2 ^ 45)) = .hbm →
      s1.Reaches .clean (s.x xa &&& ~~~127#64) 128 pa s2 →
      (∃ t, exec (.cclean g xa xb) s = .next t.completed ∧ SameHart s t ∧ SameMemory s t
        ∧ (t.quay.any (fun e => e.1 == pa / 128 && e.2.dirty)) = false ∧ (t.msc.any (fun e => e.1 == pa / 128 && e.2.dirty)) = false)
      ∧ (∃ t, exec (.cflush g xa xb) s = .next t.completed ∧ SameHart s t ∧ SameMemory s t
        ∧ hasLine t.quay (pa / 128) = false ∧ hasLine t.msc (pa / 128) = false)

/-! ## Scalar floating point -/

namespace Sys2Proof.Spec

/-- An exact result rounded once to the precision and written with its flags; a stochastic rounding advances the generator by one
step (R83, R87, R88, R92, R147). -/
def fpResult (s : State) (sgl : Bool) (rnd : BitVec 2) (xd : XReg) (r : Exact × Flags) : State :=
  let m := s.hart.rmode rnd
  let p := (if sgl then fp32 else fp64).round m false (drawWord s.hart.seed 0) r.1
  let c := s.hart.fcsr ||| (r.2 ||| p.2).setWidth 64
  (s.upd (fun h => { h with fcsr := if m = .sr then seedNext s.hart.seed ++ c.extractLsb' 0 32 else c })).setX xd (BitVec.ofNat 64 p.1)

/-- A scalar register read as a value of a precision: FP32 ignores bits [63:32] (R147). -/
def fpIn (s : State) (sgl : Bool) (i : XReg) : Exact :=
  if sgl then fp32.value ((s.x i).toNat % 2 ^ 32) else fp64.value (s.x i).toNat

/-- The exact results of the instructions on two floating-point values (R83 to R85, R147). -/
def fpOps : List ((Hdr → Bool → XReg → XReg → XReg → BitVec 2 → Instr) × (Bool → Exact → Exact → Exact × Flags)) :=
  [(.fadd, fun d a b => a.add d b), (.fsub, fun d a b => a.add d b.neg), (.fmul, fun _ a b => a.mul b), (.fdiv, fun _ a b => a.div b)]

/-- The pattern that a minimum (`lt`) or a maximum of two patterns of a precision delivers (R86): a source that is no NaN where there is one, −0
below +0. -/
def minMaxOf (f : Fp) (lt : Bool) (x y r : Nat) : Prop :=
  let a := f.value x
  let b := f.value y
  (a.isNan = true → b.isNan = true → r = f.nanBits)
  ∧ (a.isNan = false → b.isNan = true → r = x)
  ∧ (a.isNan = true → b.isNan = false → r = y)
  ∧ (a.cmp? b = some .lt → r = if lt then x else y)
  ∧ (a.cmp? b = some .gt → r = if lt then y else x)
  ∧ (a.cmp? b = some .eq → r = if lt then max x y else min x y)

/-- A condition of FCMP on two values (R86, R150): a comparison with a NaN is unordered. -/
def fcond (c : FCond) (o : Option Ordering) : Bool :=
  match c with
  | .eq => o == some .eq
  | .ne => o != some .eq
  | .lt => o == some .lt
  | .le => o == some .lt || o == some .eq
  | .un => o == none

end Sys2Proof.Spec

/-- R147, R148: the arithmetic instructions write the exact result rounded once, for both precisions, every mode and every guard. -/
def Sys2Proof.Spec.FloatingPointArithmetic : Prop :=
  ∀ (s : State) (g : Hdr) (sgl : Bool) (xd xa xb xc : XReg) (rnd : BitVec 2), s.Ready g.wm →
    let d : Bool := s.hart.rmode rnd == .rdn
    (∀ p ∈ fpOps, exec (p.1 g sgl xd xa xb rnd) s = guarded s g (fpResult s sgl rnd xd (p.2 d (fpIn s sgl xa) (fpIn s sgl xb))))
    ∧ exec (.fsqrt g sgl xd xa rnd) s = guarded s g (fpResult s sgl rnd xd (fpIn s sgl xa).sqrt)
    ∧ exec (.ffma g sgl rnd xd xa xb xc) s =
        guarded s g (fpResult s sgl rnd xd ((fpIn s sgl xa).fma d (fpIn s sgl xb) (fpIn s sgl xc)))

/-- R86, R147: FMIN and FMAX deliver one of their sources as it stands, a source that is no NaN where there is one, −0 below +0, and no
flag. -/
def Sys2Proof.Spec.MinimumAndMaximum : Prop :=
  ∀ (s : State) (g : Hdr) (sgl : Bool) (xd xa xb : XReg), s.Ready g.wm →
    let w := if sgl then 32 else 64
    let pick (lt : Bool) : Nat → Prop := minMaxOf (if sgl then fp32 else fp64) lt ((s.x xa).toNat % 2 ^ w) ((s.x xb).toNat % 2 ^ w)
    (∃ r, exec (.fmin g sgl xd xa xb) s = guarded s g (s.setX xd (BitVec.ofNat 64 r)) ∧ pick true r)
    ∧ ∃ r, exec (.fmax g sgl xd xa xb) s = guarded s g (s.setX xd (BitVec.ofNat 64 r)) ∧ pick false r

/-- R149, R150: FCVT delivers the converted value with its flags, extended to 64 bits; FCMP writes its condition to every bit of the
predicate and sets no flag. -/
def Obligations.ConversionsAndCompares : Prop :=
  ∀ (s : State) (g : Hdr) (dst src : Tag) (rnd : BitVec 2) (xd xa xb : XReg) (pd : PReg), s.Ready g.wm →
    (let m := s.hart.rmode rnd
     let raw := (s.x xa).toNat % 2 ^ tagWidth src
     dst ≠ src →
      let r := deliver dst m false (drawWord s.hart.seed 0) (tagValue src raw)
      let c := s.hart.fcsr ||| r.2.setWidth 64
      let draws := !(dst.isInt && src.isInt) && m == .sr
      exec (.fcvt g dst src rnd xd xa) s = guarded s g
        ((s.upd (fun h => { h with fcsr := if draws then seedNext s.hart.seed ++ c.extractLsb' 0 32 else c })).setX xd
          (if dst = .si32 then (BitVec.ofNat 32 r.1).signExtend 64 else BitVec.ofNat 64 r.1)))
    ∧ (dst.isInt = true → exec (.fcvt g dst dst rnd xd xa) s = guarded s g (s.setX xd
          (if dst = .si32 then ((s.x xa).setWidth 32).signExtend 64 else BitVec.ofNat 64 ((s.x xa).toNat % 2 ^ tagWidth dst))))
    ∧ ∀ c sgl, exec (.fcmp g c sgl pd xa xb) s = guarded s g (s.setP pd
        (if fcond c ((fpIn s sgl xa).cmp? (fpIn s sgl xb)) then BitVec.allOnes 32768 else 0))

/-! ## CSRs -/

namespace Sys2Proof.Spec

/-- The CSRs and what a read returns (R134, R136); `ebcnt` and `eblim` are the launch's, and 0 on a hart without one (log 14). -/
def csrs (s : State) : List (Nat × Word) :=
  let h := s.hart
  [(0x001, h.fcsr), (0x008, BitVec.ofNat 64 h.vl), (0x009, BitVec.ofNat 64 h.vh),
   (0x00A, BitVec.ofNat 64 (h.regs.toNat + 16 * h.nxt.toNat + 1024 * h.blk.toNat)), (0x00B, h.vstart.setWidth 64), (0x00C, h.vdirty),
   (0x00D, h.vqin), (0x00E, h.vqout), (0x010, BitVec.ofNat 64 h.mgrant), (0x018, h.kclass.setWidth 64),
   (0x019, s.launchWord (·.ebcnt)), (0x01A, s.launchWord (·.eblim)), (0x020, h.hid.setWidth 64), (0x021, h.gid),
   (0x030, BitVec.ofNat 64 ((s.die (hidDie h.hid)).cyc / 32)), (0x031, h.instret), (0x032, BitVec.ofNat 64 s.time),
   (0x100, h.tcause.setWidth 64), (0x101, h.tepc), (0x102, h.tval), (0x103, h.tvec), (0x104, h.tstatWord),
   (0x110, if h.isCompute then BitVec.ofNat 64 (s.die (hidDie h.hid)).wfrac else 0)]

/-- The CSRs that a mode may only read (R134). -/
def csrRO (m : Mode) : List Nat :=
  [0x008, 0x009, 0x00A, 0x010, 0x018, 0x020, 0x021, 0x030, 0x031, 0x032] ++ if m = .u then [0x019, 0x01A] else []

/-- `fcsr` after a write of a value (R93): a SEED of 0 becomes the default, and a reserved RM keeps the old one. -/
def fcsrIn (old v : Word) : Word :=
  (if v.extractLsb' 32 32 = 0 then 0x9E3779B9#32 else v.extractLsb' 32 32) ++ 0#21
    ++ (if 6 ≤ (v.extractLsb' 8 3).toNat then old.extractLsb' 8 3 else v.extractLsb' 8 3) ++ 0#2 ++ v.extractLsb' 0 6

/-- What a write of a value makes of the state, for the CSRs that a mode other than U may write (R93, R134, R361). -/
def csrStores : List (Nat × (State → Word → State)) :=
  [(0x001, fun s v => s.upd (fun h => { h with fcsr := fcsrIn h.fcsr v })),
   (0x00B, fun s v => s.upd (fun h => { h with vstart := v.setWidth 15 })),
   (0x00C, fun s v => s.upd (fun h => { h with vdirty := v &&& BitVec.ofNat 64 (2 ^ h.nregs - 1) })),
   (0x00D, fun s v => s.upd (fun h => { h with vqin := v })),
   (0x00E, fun s v => s.upd (fun h => { h with vqout := v })),
   (0x019, fun s v => s.writeBudget (fun x => { x with ebcnt := v })),
   (0x01A, fun s v => s.writeBudget (fun x => { x with eblim := v })),
   (0x100, fun s v => s.upd (fun h => { h with tcause := v.setWidth 8 })),
   (0x101, fun s v => s.upd (fun h => { h with tepc := v &&& ~~~7#64 })),
   (0x102, fun s v => s.upd (fun h => { h with tval := v })),
   (0x103, fun s v => s.upd (fun h => { h with tvec := v &&& ~~~7#64 })),
   (0x104, fun s v => s.upd (fun h => { h with tstat := h.tstatStore v })),
   (0x110, fun s v => if s.hart.isCompute then s.setWfrac (hidDie s.hart.hid) v else s)]

/-- Whether the hart in focus has a CSR in its mode: the S CSRs outside U mode, and the vector CSRs on harts that have a vector
unit (R134). -/
def csrHere (h : Hart) (n : Nat) : Prop := (0x100 ≤ n → h.mode ≠ .u) ∧ (h.isMgmt = true → ¬(8 ≤ n ∧ n ≤ 16))

end Sys2Proof.Spec

/-- R134 to R136, R151: CSRR reads every CSR, and so do CSRS and CSRC with `x0` where the CSR is read-only. -/
def Sys2Proof.Spec.CsrReads : Prop :=
  ∀ (s : State) (g : Hdr) (xd : XReg), s.Ready g.wm → ∀ p ∈ csrs s, csrHere s.hart p.1 →
    exec (.csrr g xd (BitVec.ofNat 12 p.1)) s = guarded s g (s.setX xd p.2)
    ∧ (p.1 ∈ csrRO s.hart.mode → exec (.csrs g xd (BitVec.ofNat 12 p.1) 0) s = guarded s g (s.setX xd p.2)
        ∧ exec (.csrc g xd (BitVec.ofNat 12 p.1) 0) s = guarded s g (s.setX xd p.2))

/-- R93, R134, R151, R361: CSRW, CSRS and CSRC write the new value, and deliver the old one. -/
def Sys2Proof.Spec.CsrWrites : Prop :=
  ∀ (s : State) (g : Hdr) (xd xa : XReg), s.Ready g.wm → ∀ p ∈ csrStores, ∀ q ∈ csrs s, p.1 = q.1 → csrHere s.hart p.1 →
    p.1 ∉ csrRO s.hart.mode →
    exec (.csrw g xd (BitVec.ofNat 12 p.1) xa) s = guarded s g ((p.2 s (s.x xa)).setX xd q.2)
    ∧ exec (.csrs g xd (BitVec.ofNat 12 p.1) xa) s = guarded s g ((p.2 s (q.2 ||| s.x xa)).setX xd q.2)
    ∧ exec (.csrc g xd (BitVec.ofNat 12 p.1) xa) s = guarded s g ((p.2 s (q.2 &&& ~~~s.x xa)).setX xd q.2)

/-- R134, R135: where a CSR instruction raises ILLEGAL_INSTR and PRIVILEGE, whatever its guard. -/
def Sys2Proof.Spec.CsrTraps : Prop :=
  ∀ (s : State) (g : Hdr) (xd xa : XReg) (n : BitVec 12) (i : Instr),
    i = .csrr g xd n ∨ i = .csrw g xd n xa ∨ i = .csrs g xd n xa ∨ i = .csrc g xd n xa →
    let trap (c : Cause) := exec i s = .next (s.takeTrap { cause := c, epc := s.hart.pc, val := encode i })
    (n.toNat ∉ (csrs s).map (·.1) → trap .illegalInstr)
    ∧ (s.hart.isMgmt = true → 8 ≤ n.toNat → n.toNat ≤ 16 → trap .illegalInstr)
    ∧ (s.hart.mode = .u → n.toNat ∈ [0x100, 0x101, 0x102, 0x103, 0x104, 0x110] → trap .privilege)
    ∧ (n.toNat ∈ csrRO s.hart.mode → (i = .csrw g xd n xa ∨ (i ≠ .csrr g xd n ∧ xa ≠ 0)) → trap .illegalInstr)

/-! ## Fences, tokens and completion counters -/

/-- R223, R313, R322, log 5, log 55: a fence completes at once, since this model performs the accesses of a hart in program order; only
while an MMA of the hart is queued, whose reads come before the fence, the fences after vector accesses wait. QFENCE completes
when the queues it names are empty, and waits while one is not. Nothing else changes. -/
def Sys2Proof.Spec.FencesComplete : Prop :=
  ∀ (s : State) (wm : BitVec 8) (sc : Scope) (qs : BitVec 4), s.Ready wm →
    let mma := ∃ q ∈ s.hart.mq, ∃ o, q.work = .mma o
    exec (.fenceSv wm sc) s = .next s.completed
    ∧ (¬mma → exec (.fenceVs wm sc) s = .next s.completed ∧ exec (.fenceVv wm sc) s = .next s.completed
        ∧ exec (.fenceA wm sc) s = .next s.completed)
    ∧ (mma → exec (.fenceVs wm sc) s = .next s.waiting ∧ exec (.fenceVv wm sc) s = .next s.waiting
        ∧ exec (.fenceA wm sc) s = .next s.waiting)
    ∧ (s.hart.isMgmt = false →
        (let busy := (qs.getLsbD 0 = true ∧ s.hart.copyQ ≠ []) ∨ (qs.getLsbD 1 = true ∧ s.hart.mq ≠ [])
            ∨ (qs.getLsbD 2 = true ∧ s.hart.nbQ ≠ []) ∨ (qs.getLsbD 3 = true ∧ s.hart.colls ≠ [])
         (¬busy → exec (.qfence wm sc qs) s = .next s.completed) ∧ (busy → exec (.qfence wm sc qs) s = .next s.waiting)))

/-- R311, R312: WAIT.K, CCWAIT, CCRD and CCRD.clr: when each completes, what it delivers, and when it goes on waiting. -/
def Sys2Proof.Spec.TokensAndCounters : Prop :=
  ∀ (s : State) (gd : Grd) (t : Bool) (mask : BitVec 8) (n : BitVec 3) (xd xa xb : XReg),
    s.hart.Sound → s.hart.isMgmt = false → s.hart.guard gd = true →
    let late (x : XReg) : Prop := t = true ∧ s.hart.waitStart.getD s.cycle + (s.x x).toNat ≤ s.cycle
    let c : Word := s.hart.cc[n.toNat]'n.isLt
    (s.hart.tok &&& mask = 0 → exec (.waitK gd t mask xd xa) s = .next (s.setX xd 0).completed)
    ∧ (late xa → exec (.waitK gd t mask xd xa) s = .next (s.setX xd ((s.hart.tok &&& mask).setWidth 64)).completed)
    ∧ (s.hart.tok &&& mask ≠ 0 → ¬late xa → exec (.waitK gd t mask xd xa) s = .next s.waiting)
    ∧ ((c - s.x xa).toNat < 2 ^ 63 ∨ late xb → exec (.ccwait gd t n xd xa xb) s = .next (s.setX xd c).completed)
    ∧ (2 ^ 63 ≤ (c - s.x xa).toNat → ¬late xb → exec (.ccwait gd t n xd xa xb) s = .next s.waiting)
    ∧ exec (.ccrd gd n xd) s = .next (s.setX xd c).completed
    ∧ exec (.ccrdClr gd n xd) s = .next ((s.upd (fun h => { h with cc := h.cc.set n.toNat 0 n.isLt })).setX xd c).completed

/-! ## Engine queues -/

namespace Sys2Proof.Spec

/-- The stream that STRM of a shape (row bytes, rows, pitches) puts into the copy queue (R303, R304). -/
def streamOf (s : State) (xd xa : XReg) (rb rows : Nat) (sp dp : Int) (x : Stream) : Prop :=
  x.src = s.x xa ∧ x.dst = s.x xd ∧ x.rb = rb ∧ x.rows = rows ∧ x.sp = sp ∧ x.dp = dp ∧ x.w = 0 ∧ x.chan = none ∧ x.stop = none
    ∧ x.mode = s.hart.mode ∧ x.tenant = s.hart.tenant ∧ x.launch = s.hart.launch

/-- Whether the spans of two strided ranges share a byte (R300, R304). -/
def spansShare (a : Word) (p : Int) (b : Word) (q : Int) (rb rows : Nat) : Prop :=
  let lo (w : Word) (k : Int) : Int := w.toNat + min 0 (((rows : Int) - 1) * k)
  let hi (w : Word) (k : Int) : Int := w.toNat + max 0 (((rows : Int) - 1) * k) + rb
  lo a p < hi b q ∧ lo b q < hi a p

/-- STRM enters its stream into the queue and sets its token, or, with a counter, sets none (R297, R304). -/
def enters (s : State) (i : Instr) (cnt : Bool) (n : BitVec 3) (shape : Stream → Prop) : Prop :=
  ∃ x, shape x ∧ x.cnt = cnt ∧ x.n = n ∧
    exec i s = .next (s.upd (fun h => { h with copyQ := h.copyQ ++ [x]
                                               tok := if cnt then h.tok else h.tok ||| BitVec.twoPow 8 n.toNat })).completed

end Sys2Proof.Spec

/-- R303, R304: STRM and STRM.2d: the checks in their order, and the stream that enters the copy queue. With both addresses misaligned
`tval` is the source (log 70, the model's choice). -/
def Sys2Proof.Spec.StreamsEnterTheQueue : Prop :=
  ∀ (s : State) (g : Hdr) (xd xa xb : XReg) (lu cnt : Bool) (evp : BitVec 2) (n : BitVec 3),
    s.VReady g [] (if cnt then none else some n) → s.hart.guard g.grd = true →
    let shape (i : Instr) (rb rows : Nat) (sp dp : Int) (bad : Prop) : Prop :=
      let trap (c : Cause) (v : Word) : Prop := exec i s = .next (s.takeTrap { cause := c, epc := s.hart.pc, val := v })
      let wrong := bad ∨ rb % 8 ≠ 0 ∨ 2 ^ 32 < rb * rows
      (wrong → trap .illegalOperand (encode i))
      ∧ (¬wrong → (s.x xa).toNat % 8 ≠ 0 → trap .misaligned (s.x xa))
      ∧ (¬wrong → (s.x xa).toNat % 8 = 0 → (s.x xd).toNat % 8 ≠ 0 → trap .misaligned (s.x xd))
      ∧ (¬wrong → (s.x xa).toNat % 8 = 0 → (s.x xd).toNat % 8 = 0 →
          let meet := 0 < rb * rows ∧ spansShare (s.x xa) sp (s.x xd) dp rb rows
          (meet → trap .illegalOperand (encode i))
          ∧ (¬meet → s.hart.copyQ.length < Config.copyDepth → enters s i cnt n (streamOf s xd xa rb rows sp dp))
          ∧ (¬meet → Config.copyDepth ≤ s.hart.copyQ.length → exec i s = .next s.waiting))
    shape (.strm g xd xa xb lu evp cnt n) (s.x xb).toNat 1 0 0 False
    ∧ (let rb := (s.x xb).toNat
       let rows := (s.x (xb + 1)).toNat
       let sp := (s.x (xb + 2)).toInt
       let dp := (s.x (xb + 3)).toInt
       shape (.strm2d g xd xa xb lu evp cnt n) rb rows sp dp
         (2 ^ 24 < rb ∨ 2 ^ 16 < rows ∨ sp % 8 ≠ 0 ∨ dp % 8 ≠ 0 ∨ (1 < rows ∧ dp.natAbs < rb)))

namespace Sys2Proof.Spec

/-- No stream of the copy queue has copied bytes that its counter has not received yet (R299). -/
def owesNothing (h : Hart) : Prop := ∀ y ∈ h.copyQ, y.owed = 0 ∧ y.copied = false

end Sys2Proof.Spec

/-- R300, R301, R304, R305: STREAM_DISPATCH gives the next ready stream of a cluster a free channel (a stream of length 0 ends at
once); STREAM_GRANULE moves the write pointer and counts the bytes, and ends the stream with its last granule, while no addition to a
counter is outstanding in the queue (R299) and no earlier stream of the queue holds the granule back (R296); a fault stops the stream,
frees its channel and halts the queue. That the channel is the lowest-numbered free one, and that the words before a faulting word count,
is the model's choice (log 70). -/
def Sys2Proof.Spec.StreamEvents : Prop :=
  ∀ (s : State) (hid : BitVec 20) (i : Nat) (x : Stream), (s.getHart hid).hid = hid → (s.getHart hid).copyQ[i]? = some x →
    owesNothing (s.getHart hid) →
    (∀ cl c, s.input = .unit cl → s.nextDispatch cl = some (hid, i) → (s.cluster cl).chans.toList.findIdx? (·.isNone) = some c →
      ∃ t, exec .streamDispatch s = .next t ∧ SameMemory s t ∧
        (if x.len = 0 then (t.getHart hid).copyQ = (s.getHart hid).copyQ.eraseIdx i
         else (t.getHart hid).copyQ[i]? = some { x with chan := some c } ∧ (t.cluster cl).chans.toList[c]? = some (some (hartJ hid))))
    ∧ ∀ k w f s1, s.input = .work hid.toNat i k → x.chan.isSome = true → x.stop = none → (s.getHart hid).countsBefore i x = false →
      (i = 0 ∨ s.granuleHeld hid i x (min x.len (128 * (x.w / 128 + 1))) = false) →
      State.streamWords hid x ((min x.len (128 * (x.w / 128 + 1)) - x.w) / 8) x.w s = (w, f, s1) →
      (s1.getHart hid).hid = hid → (s1.getHart hid).copyQ[i]? = some x → owesNothing (s1.getHart hid) →
      ∃ t, exec .streamGranule s = .next t ∧ SameMemory s1 t
        ∧ (x.cnt = true → (t.getHart hid).cc[x.n.toNat]'x.n.isLt =
            (s1.getHart hid).cc[x.n.toNat]'x.n.isLt + BitVec.ofNat 64 (w - x.w))
        ∧ (f = none → w ≠ x.len → (t.getHart hid).copyQ[i]? = some { x with w := w })
        ∧ (f = none → w = x.len → (t.getHart hid).copyQ = (s1.getHart hid).copyQ.eraseIdx i
            ∧ (x.cnt = false → (t.getHart hid).tok.getLsbD x.n.toNat = false))
        ∧ (f.isSome = true → (t.getHart hid).copyQ[i]? = some { x with w := w, stop := f, chan := none }
            ∧ (t.getHart hid).copySt.halt = true)

/-- R304: a stream copies a double word at a time: where no two virtual addresses of its spans reach one byte, the destination holds the
bytes of the source, and no other byte changes (R300: the source span is every byte from its lowest to its highest). -/
def Sys2Proof.Spec.StreamsCopyBytes : Prop :=
  ∀ (s s1 s2 : State) (hid : BitVec 20) (x : Stream) (o pa pb : Nat), s.MarksPast → s.NoFlips → x.lu = false → regionOf pa ≠ .sys → regionOf pb ≠ .sys →
    s.locate (x.req hid) .read (x.srcAt o) 8 = (.ok (.here pa), s1) →
    (s1.readAt (x.req hid) (.here pa) 8).1.2 = false →
    (s1.readAt (x.req hid) (.here pa) 8).2.locate (x.req hid) .write (x.dstAt o) 8 = (.ok (.here pb), s2) →
    (s2.writeAt (x.req hid) (.here pb) 8 (s1.readAt (x.req hid) (.here pa) 8).1.1).aliased (x.req hid) (s.pkg.toNat * 2 ^ 45 + pb) 8
      x.srcBytes = false →
    ∃ t, s.streamWord hid x o = (.ok (), t) ∧ t.bytes pb 8 = heldBits pb 8 (s.seen.bytes pa 8) ∧ SameOutside s t pb 8

/-- R260, R306, R307: an element of a non-blocking load is written when its reply arrives and then no longer stands open; an instruction
with no element open retires, and counts 1, once no earlier one counts into the same counter. A poisoned operand or source stops the
instruction before any element (R259, R306; that it does so at the first turn of an element, and what EFA then holds, is log 77). -/
def Sys2Proof.Spec.NonBlockingQueue : Prop :=
  ∀ (s : State) (i j : Nat) (o : NbOp), s.input = .work s.hart.hid.toNat i j → s.hart.nbQ[i]? = some o →
    (∀ x b bad s1, o.kind = .load → o.cl = false → o.todo[j]? = some x → o.todo.find? (fun y => y.e == x.e) = some x →
      o.halt = false → (s.hart.nbSt.halt = true → o.begun = true) → o.poison = false → o.todo.find? (·.poi) = none →
      s.nbHeld i o x = false → s.nbBehind o x = false → s.nbAccess o x = (.ok (some (b, bad)), s1) →
      exec .loadElementArrival s = .next (s1.upd (fun h =>
        ({ h with nbQ := h.nbQ.modify i (fun o => { o with begun := true, todo := o.todo.filter (fun y => y.e != x.e) }) }).loadWrites
          o.vd o.size [(fieldIx o.size x.e, b, bad)])))
    ∧ ((∀ no, o.kind ≠ .push no) → o.halt = false → s.hart.nbSt.halt = false → (o.poison = true ∨ ∃ x ∈ o.todo, x.poi = true) →
      ∃ t, exec .loadElementArrival s = .next t ∧ SameMemory s t ∧ (t.hart.nbQ[i]?).map (·.halt) = some true ∧ t.hart.nbSt.halt = true
        ∧ t.hart.cc = s.hart.cc ∧ t.hart.vst = s.hart.vst)
    ∧ (o.todo = [] → o.halt = false → o.poison = false → (∀ p ∈ s.hart.nbQ.take i, p.tc ≠ o.tc) →
      ∃ t, exec .nbRetire s = .next t ∧ t.hart.nbQ = s.hart.nbQ.eraseIdx i
        ∧ t.hart.cc[o.tc.toNat]'o.tc.isLt = s.hart.cc[o.tc.toNat]'o.tc.isLt + 1
        ∧ (∀ (k : BitVec 3), k ≠ o.tc → t.hart.cc[k.toNat]'k.isLt = s.hart.cc[k.toNat]'k.isLt) ∧ SameMemory s t)

/-- R309, R336: EFACT_RESUME lets every stopped piece of work of a halted queue go on from its progress (a push that its target
rejected is gone: log 77, the model's choice), EFACT_ABANDON ends it; either way the queue is halted no longer, and the rest of its fault
record stays (log 50, the model's choice). A queue that is not halted is left alone. -/
def Sys2Proof.Spec.EngineActions : Prop :=
  ∀ (s : State) (hid : BitVec 20) (k : Nat), (s.getHart hid).hid = hid →
    let h := s.getHart hid
    ((s.input = .work hid.toNat 0 k ∧ h.copySt.halt = false) ∨ (s.input = .work hid.toNat 1 k ∧ h.nbSt.halt = false) →
      (∃ t, exec .efactResume s = .next t ∧ t.getHart hid = h) ∧ ∃ t, exec .efactAbandon s = .next t ∧ t.getHart hid = h)
    ∧ (s.input = .work hid.toNat 0 k → h.copySt.halt = true → owesNothing h →
      (∃ t, exec .efactResume s = .next t ∧ (t.getHart hid).copyQ = h.copyQ.map (fun x => { x with stop := none })
        ∧ (t.getHart hid).copySt = { h.copySt with halt := false } ∧ (t.getHart hid).cc = h.cc ∧ (t.getHart hid).tok = h.tok)
      ∧ ∃ t, exec .efactAbandon s = .next t ∧ (t.getHart hid).copyQ = h.copyQ.filter (fun x => x.stop.isNone)
        ∧ (t.getHart hid).copySt = { h.copySt with halt := false } ∧ (t.getHart hid).cc = h.cc
        ∧ ∀ x ∈ h.copyQ, x.stop.isSome = true → x.cnt = false → (t.getHart hid).tok.getLsbD x.n.toNat = false)
    ∧ (s.input = .work hid.toNat 1 k → h.nbSt.halt = true →
      (∃ t, exec .efactResume s = .next t ∧ (t.getHart hid).nbQ =
          (h.nbQ.filter (fun x => !(x.halt && x.pushNo.isSome))).map (fun x => { x with bad := [], halt := false })
        ∧ (t.getHart hid).nbSt = { h.nbSt with halt := false } ∧ (t.getHart hid).cc = h.cc)
      ∧ ∃ t, exec .efactAbandon s = .next t ∧ (t.getHart hid).nbQ = h.nbQ.filter (fun x => !x.halt)
        ∧ (t.getHart hid).nbSt = { h.nbSt with halt := false } ∧ (t.getHart hid).cc = h.cc)

/-! ## Traps -/

namespace Sys2Proof.Spec

/-- Whether a synchronous cause is taken on the hart in focus: in U mode unless it is reported, else while `tstat.IE` is set (R358), and
while no trap of orders 1 to 4 comes before it (R357). -/
def takesHere (s : State) (t : Trap) : Prop :=
  s.hart.firstPending = none ∧ if s.hart.mode = .u then (s.die (hidDie s.hart.hid)).tdeleg.getLsbD t.cause.code.toNat = false else s.hart.tstat.getLsbD 3 = true

/-- The value of `tstat` behind a trap (R359, R361). -/
def tstatAfter (h : Hart) (t : Trap) : Nat :=
  h.mode.code.toNat + 16 * (h.tstat.getLsbD 3).toNat + 128 * (t.vec || h.reissue).toNat + 256 * t.eng.toNat + 512 * t.eq.toNat
    + 2 ^ 20 * (t.npg % 16)

end Sys2Proof.Spec

/-- R358, R359: a synchronous trap that the hart takes: the saved registers, the status, the mode, and the handler's address.
The scalar, predicate and vector registers, `fcsr`, the tokens and memory stay. -/
def Sys2Proof.Spec.TrapsEnterTheHandler : Prop :=
  ∀ (s : State) (t : Trap), takesHere s t →
    let r := (s.takeTrap t).hart
    r.tcause = t.cause.code ∧ r.tepc = t.epc ∧ r.tval = t.val ∧ r.tstat.toNat = tstatAfter s.hart t
    ∧ r.mode = (if s.hart.isMgmt then .p else .s) ∧ r.pc = s.hart.tvec ∧ r.run = .running
    ∧ r.tvec = s.hart.tvec ∧ r.x = s.hart.x ∧ r.sb = s.hart.sb ∧ r.p = s.hart.p ∧ r.fcsr = s.hart.fcsr ∧ r.vst = s.hart.vst
    ∧ r.vtag = s.hart.vtag ∧ r.tok = s.hart.tok ∧ r.cc = s.hart.cc ∧ r.instret = s.hart.instret
    ∧ (s.takeTrap t).mem = s.mem ∧ (s.takeTrap t).rest = s.rest

/-- R357: where a trap of orders 1 to 4 is pending that the mode takes, it is taken in the place of a synchronous cause. -/
def Sys2Proof.Spec.EarlierTrapsComeFirst : Prop :=
  ∀ (s : State) (t p : Trap) (h : Hart), s.hart.takesExternal = true → s.hart.firstPending = some (p, h) →
    let r := (s.takeTrap t).hart
    r.tcause = p.cause.code ∧ r.tepc = s.hart.pc ∧ r.tval = p.val ∧ r.pc = s.hart.tvec ∧ r.run = .running ∧ r.x = s.hart.x
      ∧ r.mode = (if s.hart.isMgmt then .p else .s)

/-- R353: the page batch changes with a PAGE_FAULT, and with no other cause (log 60, the model's reading). -/
def Sys2Proof.Spec.PageBatchChangesWithPageFaults : Prop :=
  ∀ (s : State) (t : Trap), takesHere s t →
    (t.cause ≠ .pageFault → (s.takeTrap t).hart.fb = s.hart.fb)
    ∧ (t.cause = .pageFault → ∀ (i : Nat) (h : i < 8), (s.takeTrap t).hart.fb[i] = t.fb.getD i 0)

/-- R358, R359, R360: a cause that TDELEG reports holds a hart in U mode, and leaves its own trap registers, mode and `pc`. In S or P mode
with `tstat.IE` = 0 a synchronous cause is a double trap: a system hart halts, the management hart brings a machine fault, but under a new Pilot image that is not ready yet, a return to the other bank (R425); a compute hart ends, at once or, with work
in its matrix queue, once that has completed (log 15), and its launch is aborted as by QABORT: it is ABORTING with cause 0x13, and every
other resident hart of it has LAUNCH_ABORT pending; when no hart and no collective of it is left it is COMPLETE, and retired when it is
the oldest (R105, R108). -/
def Sys2Proof.Spec.ReportedAndDoubleTraps : Prop :=
  ∀ (s : State) (t : Trap),
    (s.hart.mode = .u → s.hart.firstPending = none → (s.die (hidDie s.hart.hid)).tdeleg.getLsbD t.cause.code.toNat = true →
      let r := (s.takeTrap t).hart
      r.run = .held ∧ r.report = some t ∧ r.tcause = s.hart.tcause ∧ r.tepc = s.hart.tepc ∧ r.tval = s.hart.tval
      ∧ r.tstat = s.hart.tstat ∧ r.mode = .u ∧ r.pc = s.hart.pc ∧ r.x = s.hart.x ∧ r.p = s.hart.p ∧ r.vst = s.hart.vst)
    ∧ (s.hart.mode ≠ .u → s.hart.tstat.getLsbD 3 = false →
      (s.hart.isSys = true → (s.takeTrap t).hart.run = .halted)
      ∧ (s.hart.isMgmt = true → s.pilot.trial = false → (s.takeTrap t).fault = true)
      ∧ (s.hart.isMgmt = true → s.pilot.trial = true → (s.takeTrap t).pilot.active = !s.pilot.active ∧ (s.takeTrap t).fault = s.fault)
      ∧ (s.hart.isCompute = true → s.hart.mq = [] → (s.takeTrap t).hart.run = .idle)
      ∧ (s.hart.isCompute = true → s.hart.mq ≠ [] → (s.takeTrap t).hart.run = .ending)
      ∧ (s.hart.isCompute = true → s.Named → ∀ l x, s.hart.launch = some l → s.launchOf l = some x → (x.st = .placing ∨ x.st = .draining) →
          let u := s.takeTrap t
          (∀ y, u.launchOf l = some y → y.cause = 0x13 ∧ (y.st = .aborting ∨ y.st = .complete))
          ∧ (u.launchOf l = none → l.seq < (u.queue l.q).qcnt)
          ∧ ∀ g ∈ s.gangs, g.lid = l → g.st ≠ .parked → ∀ k ∈ g.live, BitVec.ofNat 20 k ≠ s.hart.hid →
              (u.getHart (BitVec.ofNat 20 k)).pend.abort = some l.seq))

/-- R356, R367: ECALL and EBREAK take their traps: the saved `pc` is the next instruction for ECALL and the instruction itself for
EBREAK, and `tval` is the immediate. -/
def Sys2Proof.Spec.CallsAndBreakpoints : Prop :=
  ∀ (s : State) (wm : BitVec 8) (imm : BitVec 16), s.Ready wm →
    exec (.ecall wm imm) s = .next (s.takeTrap { cause := .ecall, epc := s.hart.pc + 8, val := imm.setWidth 64 })
    ∧ exec (.ebreak wm imm) s = .next (s.takeTrap { cause := .ebreak, epc := s.hart.pc, val := imm.setWidth 64 })

/-- R28, R361, R368: TRET brings back the mode (a system hart has S mode only, the management hart P mode only: that its PM is not looked at
is log 63), `tstat.IE` and the `pc`,
and reissues the instruction when VEC is set; the scalar and predicate registers, the other trap registers and memory stay. Only a
system hart whose Crew image is being replaced stops behind its handler (R424; when it counts as inside one is log 78). -/
def Sys2Proof.Spec.ReturnsFromTraps : Prop :=
  ∀ (s : State) (wm : BitVec 8), s.Ready wm → s.hart.mode ≠ .u →
    ∃ t, exec (.tret wm) s = .next t
      ∧ t.hart.mode = (if s.hart.isMgmt then .p else if s.hart.isSys then .s else match (s.hart.tstat.extractLsb' 0 2).toNat with
          | 0 => .u
          | 1 => .s
          | _ => .p)
      ∧ (s.pilot.handover = none → t.hart.run = s.hart.run)
      ∧ t.hart.pc = s.hart.tepc ∧ t.hart.reissue = s.hart.tstat.getLsbD 7
      ∧ (∀ i, t.hart.tstat.getLsbD i = if i = 3 then s.hart.tstat.getLsbD 4 else s.hart.tstat.getLsbD i)
      ∧ t.hart.x = s.hart.x ∧ t.hart.p = s.hart.p ∧ t.hart.fcsr = s.hart.fcsr ∧ t.hart.tcause = s.hart.tcause ∧ t.hart.tepc = s.hart.tepc
      ∧ t.hart.tval = s.hart.tval ∧ t.hart.tvec = s.hart.tvec ∧ t.hart.instret = s.hart.instret ∧ t.mem = s.mem ∧ t.rest = s.rest
      ∧ (∀ p ∈ t.hart.pushes, p.gone = false)

/-- R28, R61: an instruction that its mode may not execute raises PRIVILEGE, with its word in `tval`, whatever tokens it names. -/
def Sys2Proof.Spec.PrivilegedInstructions : Prop :=
  ∀ (s : State) (wm : BitVec 8) (sc : Scope) (all : Bool) (t : BitVec 6) (cls : BitVec 2) (xd xa xb : XReg), s.hart.isMgmt = false →
    let refused (i : Instr) : Prop := exec i s = .next (s.takeTrap { cause := .privilege, epc := s.hart.pc, val := encode i })
    (s.hart.mode = .u → refused (.tret wm) ∧ refused (.tinv wm sc all t xa xb))
    ∧ (s.hart.mode ≠ .s → refused (.vsave wm xd xa xb) ∧ refused (.vrest wm xd xa))
    ∧ (s.hart.mode ≠ .p → refused (.clset wm cls t xd xa) ∧ refused (.bind wm t xd xa))

/-- R60, R61: a word that is no instruction raises ILLEGAL_INSTR with the word in `tval`; a fetch that faults traps at the
fetch address. -/
def Sys2Proof.Spec.WordsThatAreNoInstructions : Prop :=
  ∀ (s : State) (w : Word) (f : MemFault) (s1 : State), s.hart.run = .running →
    exec (.nonInstructionWord w) s = .next (s.takeTrap { cause := .illegalInstr, epc := s.hart.pc, val := w })
    ∧ (s.fetch = (.error f, s1) → exec .instructionFetchFault s =
        .next (s1.takeTrap { cause := f.cause, epc := s1.hart.pc, val := f.addr, npg := f.fb.length, fb := f.fb }))

/-- R352, R357, R359, R360: TRAP_ENTRY takes the pending trap that comes first, at once, or, where none of orders 1 to 4 is pending, inside
the next vector instruction, after a number of its elements (log 21, the model's choice: the number is an input, and those elements are the
lowest-indexed ones; R12); TRAP_REPORT writes the report of a held hart into
the ring while there is room. -/
def Sys2Proof.Spec.TrapEvents : Prop :=
  ∀ (s : State) (hid : BitVec 20) (k : Nat) (n : Nat),
    (∀ t h, s.input = .work s.hart.hid.toNat 0 k → s.hart.run = .running → s.hart.takesExternal = true → s.hart.inWait = false →
      s.hart.nextPending = some (t, h) → h.hid = s.hart.hid →
      (t.cause ≠ .launchAbort → exec .trapEntry s = .next { s with hart := h.enter t })
      ∧ (t.cause = .launchAbort → ∃ u, exec .trapEntry s = .next u ∧ u.hart.tcause = t.cause.code ∧ u.hart.tepc = s.hart.pc
          ∧ u.hart.tval = t.val ∧ u.hart.pc = s.hart.tvec ∧ u.hart.copyQ = [] ∧ u.hart.nbQ = [] ∧ u.hart.x = s.hart.x))
    ∧ (s.input = .work s.hart.hid.toNat (n + 1) k → (s.hart.takesExternal = true → s.hart.firstPending = none) → exec .trapEntry s = .next (s.upd (fun h => { h with stopAt := some (n + 1) })))
    ∧ (∀ t, s.input = .hart hid.toNat → (s.getHart hid).hid = hid → (s.getHart hid).report = some t → (s.getHart hid).posted = false →
      (s.trqt - s.trqh).toNat < 64 → ∃ u, exec .trapReport s = .next u ∧ u.trqt = s.trqt + 1 ∧ (u.getHart hid).posted = true
        ∧ u.ring[s.trqt.toNat % 64]'(Nat.mod_lt _ (by decide)) = reportEntry (s.getHart hid) t ∧ SameMemory s u)

/-- R360: a held hart goes on at the reported `tepc`, takes the reported trap, or, as a double trap would, ends. -/
def Sys2Proof.Spec.HeldHarts : Prop :=
  ∀ (s : State) (hid : BitVec 20) (t : Trap), s.input = .hart hid.toNat → (s.getHart hid).hid = hid →
    (s.getHart hid).run = .held → (s.getHart hid).report = some t →
    (∃ u, exec .tresResume s = .next u ∧ (u.getHart hid).run = .running ∧ (u.getHart hid).report = none ∧ (u.getHart hid).pc = t.epc
      ∧ (u.getHart hid).mode = (s.getHart hid).mode ∧ (u.getHart hid).x = (s.getHart hid).x ∧ SameMemory s u)
    ∧ (∃ u, exec .tresTakeTrap s = .next u ∧ (u.getHart hid).run = .running ∧ (u.getHart hid).report = none
      ∧ (u.getHart hid).tcause = t.cause.code ∧ (u.getHart hid).tepc = t.epc ∧ (u.getHart hid).tval = t.val
      ∧ (u.getHart hid).pc = (s.getHart hid).tvec ∧ (u.getHart hid).x = (s.getHart hid).x ∧ SameMemory s u)
    ∧ exec .tresEnd s = .next (s.doubleTrap hid)

/-- R354: TIMER_COMPARE makes TIMER pending once `time` has reached TCMP, and clears TCMP; a hart of a compute die without a launch
only clears it. Before that time, and with TCMP = 0, nothing happens. -/
def Sys2Proof.Spec.Timers : Prop :=
  ∀ (s : State) (hid : BitVec 20), s.input = .hart hid.toNat → (s.getHart hid).hid = hid →
    let h := s.getHart hid
    ∃ u, exec .timerCompare s = .next u ∧ SameMemory s u ∧
      (if h.tcmp ≠ 0 ∧ h.tcmp.toNat ≤ s.time then
        (u.getHart hid).tcmp = 0 ∧ ((h.isCompute = false ∨ h.launch.isSome = true) → (u.getHart hid).pend.timer = true)
       else u.getHart hid = h)

/-! ## System instructions -/

/-- R362, R369: WAIT takes a PREEMPT that comes first at the WAIT itself (log 71), and ends with 2 for another pending trap, with 1 for a push or a service event since it began, with 0 at its deadline, and else goes
on waiting; its first turn begins the wait. -/
def Sys2Proof.Spec.Waiting : Prop :=
  ∀ (s : State) (wm : BitVec 8) (xd xa : XReg), s.Ready wm →
    let h := s.hart
    let late : Prop := s.x xa ≠ 0 ∧ h.waitStart.getD s.cycle + (s.x xa).toNat ≤ s.cycle
    (∀ t h', h.nextPending = some (t, h') → t.cause = .preempt → h.takesExternal = true →
        exec (.wait wm xd xa) s = .next { s with hart := h'.enter t } ∧ t.epc = s.hart.pc)
    ∧ (h.anyPending = true → (∀ t h', h.nextPending = some (t, h') → t.cause = .preempt → h.takesExternal = false) →
        exec (.wait wm xd xa) s = .next (s.setX xd 2).completed)
    ∧ (h.anyPending = false → h.inWait = false →
        exec (.wait wm xd xa) s = .next (s.upd (fun h => { h with inWait := true, woken := false, waitStart := some s.cycle })))
    ∧ (h.anyPending = false → h.inWait = true → h.woken = true → exec (.wait wm xd xa) s = .next (s.setX xd 1).completed)
    ∧ (h.anyPending = false → h.inWait = true → h.woken = false → late → exec (.wait wm xd xa) s = .next (s.setX xd 0).completed)
    ∧ (h.anyPending = false → h.inWait = true → h.woken = false → ¬late → exec (.wait wm xd xa) s = .next s)

/-- R289, R291, R366: TINV, CLSET and BIND in the modes that may execute them. -/
def Sys2Proof.Spec.SystemInstructions : Prop :=
  ∀ (s : State) (wm : BitVec 8) (sc : Scope) (all : Bool) (t : BitVec 6) (cls : BitVec 2) (xd xa xb : XReg), s.Ready wm →
    (s.hart.mode ≠ .u →
      ((s.x xa).toNat % 2 ^ 16 ≠ 0 → exec (.tinv wm sc all t xa xb) s =
        .next (s.takeTrap { cause := .illegalOperand, epc := s.hart.pc, val := encode (.tinv wm sc all t xa xb) }))
      ∧ ((s.x xa).toNat % 2 ^ 16 = 0 → ∃ tlb, exec (.tinv wm sc all t xa xb) s = .next ({ s with tlb := tlb }).completed
        ∧ ∀ e, e ∈ tlb ↔ e ∈ s.tlb ∧ ¬(s.coreWithin sc e.core = true ∧ (all = true ∨ e.tenant = t)
            ∧ ((s.x xb) = 0 ∨ (e.page / e.size * e.size * 2 ^ 16 < (s.x xa).toNat + (s.x xb).toNat
                ∧ (s.x xa).toNat < (e.page / e.size * e.size + e.size) * 2 ^ 16)))))
    ∧ (s.hart.mode = .p →
      (let a := (s.x xa).toNat
       let d := a / 2 ^ 41 % 16
       let f := a / 2 ^ 30 % 128
       let ok := a / 2 ^ 45 = s.pkg.toNat ∧ d ≤ 7 ∧ a / 2 ^ 37 % 16 = 0 ∧ a % 2 ^ 30 = 0
       (¬ok → exec (.clset wm cls t xd xa) s = .next (s.setX xd (-1)).completed)
       ∧ (ok → (s.frame d f).change.isSome = true → exec (.clset wm cls t xd xa) s = .next (s.setX xd (-2)).completed)
       ∧ (ok → (s.frame d f).change = none → ∃ u, exec (.clset wm cls t xd xa) s = .next (u.setX xd 0).completed
          ∧ (u.frame d f).change = some (clsOf cls, t, 1) ∧ u.hart = s.hart ∧ SameMemory s u))
      ∧ (let id : BitVec 20 := (s.x xa).setWidth 20
         let ok := (s.x xa).toNat < 2 ^ 20 ∧ namesHart s.pkg s.mgmtDie id = true ∧ 8 ≤ hidDie id ∧ hidCluster id ≠ 31
         (¬ok → exec (.bind wm t xd xa) s = .next (s.setX xd (-1)).completed)
         ∧ (ok → exec (.bind wm t xd xa) s =
            .next ((s.updHart id (fun h => { h with tenant := t })).setX xd ((s.getHart id).tenant.setWidth 64)).completed)))

/-- R290, R289: FRAME_CLASS_CHANGE ends a change of a frame: the frame has its new class and tenant and the next generation, no copy of
it stays in the quay, the memory-side cache or a TLB, and under a new tenant its bytes read as zero. -/
def Sys2Proof.Spec.FrameChanges : Prop :=
  ∀ (s : State) (d f k : Nat) (cls : Cls) (t : BitVec 6) (n : Nat), s.Inv → d < 8 → f < 128 → s.input = .work d f k →
    (s.frame d f).change = some (cls, t, n) →
    ∃ u, exec .frameClassChange s = .next u ∧ u.hart = s.hart
      ∧ (u.frame d f).cls = cls ∧ (u.frame d f).tenant = t ∧ (u.frame d f).gen = (s.frame d f).gen + 1 ∧ (u.frame d f).change = none
      ∧ (∀ l ∈ u.quay, l.1 / 2 ^ 23 ≠ d * 2 ^ 11 + f) ∧ (∀ l ∈ u.msc, l.1 / 2 ^ 23 ≠ d * 2 ^ 11 + f)
      ∧ (∀ e ∈ u.tlb, ¬(s.pkg.toNat * 2 ^ 29 + d * 2 ^ 25 + f * 2 ^ 14 ≤ e.ppn.toNat
          ∧ e.ppn.toNat < s.pkg.toNat * 2 ^ 29 + d * 2 ^ 25 + (f + 1) * 2 ^ 14))
      ∧ (t ≠ (s.frame d f).tenant → ∀ a, d * 2 ^ 41 + f * 2 ^ 30 ≤ a → a < d * 2 ^ 41 + f * 2 ^ 30 + 2 ^ 30 → u.byte a = 0)
      ∧ (∀ a, a < d * 2 ^ 41 + f * 2 ^ 30 ∨ d * 2 ^ 41 + f * 2 ^ 30 + 2 ^ 30 ≤ a → u.byte a = s.byte a)

namespace Sys2Proof.Spec

/-- The fields of the first 2048 bytes of a save area (R363): offset, bytes, value. -/
def areaFields (h : Hart) (saved : Word) : List (Nat × Nat × Nat) :=
  [(0x000, 8, 1 + 256 * (h.pushes.length % 256)), (0x008, 8, saved.toNat),
   (0x010, 8, h.regs.toNat + 16 * h.nxt.toNat + 1024 * h.blk.toNat), (0x018, 8, h.vl), (0x020, 8, h.vh), (0x028, 8, h.vstart.toNat),
   (0x030, 8, h.vqin.toNat), (0x038, 8, h.vqout.toNat), (0x040, 8, h.fcsr.toNat), (0x048, 8, h.instret.toNat), (0x050, 8, h.mgrant),
   (0x058, 8, h.full.toNat),
   (0x060, 8, (((List.range 64).filter (fun i => h.resv.any (fun r => r.1 == i))).map (2 ^ ·)).sum)]
  ++ (List.finRange 8).map (fun i => (0x068 + 8 * i.val, 8, h.cc[i].toNat))
  ++ (List.finRange 4).flatMap (fun i => match h.win[i] with
      | some w => [(0x0A8 + 16 * i.val, 8, w.base.toNat), (0x0B0 + 16 * i.val, 8, w.len.toNat)]
      | none => [])
  ++ (match h.unf with
      | some u => (List.finRange 4).map (fun i => (0x0E8 + 8 * i.val, 8, u[i].toNat)) ++ [(0x108, 8, 1)]
      | none => [])
  ++ [(0x110, 8, h.tok.toNat
        + 256 * (((List.range 8).filter (fun k => h.colls.any (fun c => c.tk == some (BitVec.ofNat 3 k)))).map (2 ^ ·)).sum)]
  ++ h.resv.map (fun r => (0x200 + 4 * r.1, 4, r.2.1))
  ++ (List.finRange 64).map (fun i => (0x300 + i.val, 1, h.vtag[i].toNat))
  ++ ((List.finRange 64).drop 1).map (fun i => (0x400 + 8 * (i.val - 1), 8, h.x[i].toNat))

/-- The records of withdrawn pushes from an offset on (R363): the head, and the data padded to 64 bytes. -/
def pushRecords : List Push → Nat → List (Nat × Nat × Nat × Nat)
  | [], _ => []
  | p :: ps, o =>
    let len := (elemsBits p.tag p.n + 511) / 512 * 64
    let dw1 := p.tag.code.toNat + 2 ^ 5 * p.sc.toNat + 2 ^ 8 * p.nb.toNat + 2 ^ 9 * p.tc.toNat + 2 ^ 16 * p.n
    (o, 64, p.desc.toNat + 2 ^ 64 * (dw1 % 2 ^ 64), 0) :: (o + 64, len, p.data, p.poi) :: pushRecords ps (o + 64 + len)

/-- The save area of a context (R363), `older` the register mask of an earlier save: offset, bytes, value, poisoned bits. A register that is
neither dirty nor in the earlier save is written as zeros. -/
def savedArea (h : Hart) (older : Word) : List (Nat × Nat × Nat × Nat) :=
  let size := 131072 / h.nregs
  [(0, 0x800, ((areaFields h (h.vdirty ||| older)).map (fun f => f.2.2 % 2 ^ (8 * f.2.1) * 2 ^ (8 * f.1))).sum, 0), (0x800, 4096, h.fm.toNat, 0)]
  ++ ((List.finRange 16).drop 1).map (fun j => (0x1800 + 4096 * (j.val - 1), 4096, h.p[j].toNat, 0))
  ++ (List.range h.nregs).filterMap (fun i =>
      if h.vdirty.getLsbD i then some (0x10800 + i * size, size, h.vstr i, h.vpoiStr i)
      else if older.getLsbD i then none else some (0x10800 + i * size, size, 0, 0))
  ++ pushRecords h.pushes 0x30800

/-- The spans of this package among located ones: address, bytes, and the offset of the span in the whole. -/
def spread : List (Place × Nat) → Nat → List (Nat × Nat × Nat)
  | [], _ => []
  | (.here pa, n) :: t, o => (pa, n, o) :: spread t (o + n)
  | (.away _, n) :: t, o => spread t (o + n)
/-- Located spans lie in this package, outside the control space. -/
def plain (pl : List (Place × Nat)) : Prop := ∀ p ∈ pl, ∃ pa, p.1 = .here pa ∧ regionOf pa ≠ .sys

end Sys2Proof.Spec

/-- R286, R363: a piece of a save area that VSAVE writes: its bytes lie least significant first in the bytes located for it (none of which
overlap), no other byte changes, and its poisoned bits poison their words but in a store of class N. -/
def Sys2Proof.Spec.AreaPiecesAreWritten : Prop :=
  ∀ (s s0 : State) (r : Req) (a : Word) (o n v poi : Nat) (pl : List (Place × Nat)), 0 < n → s.MarksPast → s.NoFlips →
    s.locateAll r .write (pageSpans (a + BitVec.ofNat 64 o) n) = (.ok pl, s0) → plain pl →
    (spread pl 0).Pairwise (fun x y => x.1 + x.2.1 ≤ y.1 ∨ y.1 + y.2.1 ≤ x.1) →
    ∃ t, s.writePieces r a [⟨o, n, v, poi⟩] = (.ok (), t)
      ∧ (∀ x ∈ spread pl 0, t.bytes x.1 x.2.1 = heldBits x.1 x.2.1 (v / 2 ^ (8 * x.2.2) % 2 ^ (8 * x.2.1))
          ∧ ∀ i, i < x.2.1 / 4 → elemAt 32 (poi / 2 ^ (8 * x.2.2)) i ≠ 0 → t.placeCls (.here x.1) ≠ .n →
              t.poisonedAt (x.1 + 4 * i) 4 = true)
      ∧ ∀ b, (∀ x ∈ spread pl 0, b < x.1 ∨ x.1 + x.2.1 ≤ b) → t.byte b = s.byte b

/-- R356, R363, R371: what VREST reads of an area: the bytes of memory, least significant first, with the poison of their words; where a
field may not be poisoned, POISON at the first poisoned double word; and the records of withdrawn pushes. -/
def Sys2Proof.Spec.AreaPiecesAreRead : Prop :=
  (∀ (s s0 : State) (r : Req) (a : Word) (n : Nat) (pl : List (Place × Nat)), s.NoFlips → a.toNat % 8 = 0 → n % 8 = 0 →
    s.locateAll r .read (pageSpans a n) = (.ok pl, s0) → plain pl →
    ∃ v t, s.readPiece r a n false = (.ok v, t) ∧ SameMemory s t
      ∧ (∀ x ∈ spread pl 0, v.1 / 2 ^ (8 * x.2.2) % 2 ^ (8 * x.2.1) = s.seen.bytes x.1 x.2.1)
      ∧ (v.2 = 0 → s.readPiece r a n true = (.ok v, t))
      ∧ (v.2 ≠ 0 → ∃ k, k < n / 8 ∧ elemAt 64 v.2 k ≠ 0 ∧ (∀ j, j < k → elemAt 64 v.2 j = 0)
          ∧ s.readPiece r a n true = (.error { cause := .poison, addr := a + BitVec.ofNat 64 (8 * k) }, t)))
  ∧ ∀ (s s1 s2 s3 : State) (r : Req) (a : Word) (h : Hart) (n k o v z d q e : Nat) (rest : List Push),
    s.readPiece r (a + BitVec.ofNat 64 o) 64 true = (.ok (v, z), s1) →
    let w := headWord v 8
    let tag := (Tag.ofCode? (w.extractLsb' 0 5)).getD .none
    let m := (w.extractLsb' 16 32).toNat
    let len := (elemsBits tag m + 511) / 512 * 64
    (if len = 0 then d = 0 ∧ q = 0 ∧ s2 = s1 else s1.readPiece r (a + BitVec.ofNat 64 (o + 64)) len false = (.ok (d, q), s2)) →
    s2.readPushes r a h n (k + 1) (o + 64 + len) = (.ok (rest, e), s3) →
    let bits := 2 ^ elemsBits tag m
    let p : Push :=
      { no := h.pushNo + k, desc := headWord v 0, tag := tag, sc := w.extractLsb' 5 3, nb := w.getLsbD 8, tc := w.extractLsb' 9 3, n := m,
        data := d % bits, poi := q % bits, tenant := h.tenant, nacks := 0, next := 0, gone := true }
    s.readPushes r a h (n + 1) k o = (.ok (p :: rest, e), s3)

/-- R363, R370: VSAVE with a misaligned area raises MISALIGNED; it waits until the queues that are not halted have emptied; with a halted
queue it then delivers −1 (log 43, the model's reading); else it withdraws the pushes not accepted, writes the area of R363 and delivers
its length. No register but `xD` changes. -/
def Sys2Proof.Spec.ContextsAreSaved : Prop :=
  ∀ (s s1 : State) (wm : BitVec 8) (xd xa xb : XReg) (f : MemFault), s.Ready wm → s.hart.isMgmt = false → s.hart.mode = .s →
    let quiet := (s.hart.copySt.halt = true ∨ s.hart.copyQ = []) ∧ s.hart.mq = []
      ∧ (s.hart.nbSt.halt = true ∨ ∀ o ∈ s.hart.nbQ, ∃ no, o.kind = .push no)
    let halted := s.hart.copySt.halt = true ∨ s.hart.nbSt.halt = true
    ((s.x xa).toNat % 4096 ≠ 0 → exec (.vsave wm xd xa xb) s =
      .next (s.takeTrap { cause := .misaligned, epc := s.hart.pc, val := s.x xa }))
    ∧ ((s.x xa).toNat % 4096 = 0 →
      (¬quiet → exec (.vsave wm xd xa xb) s = .next s.waiting)
      ∧ (quiet → halted → exec (.vsave wm xd xa xb) s = .next (s.setX xd (-1)).completed)
      ∧ (quiet → ¬halted →
        let w := s.withdraw
        let area := (savedArea w.hart (s.x xb)).map (fun p => (⟨p.1, p.2.1, p.2.2.1, p.2.2.2⟩ : Piece))
        (w.writePieces (w.req .vector) (s.x xa) area = (.ok (), s1) →
          exec (.vsave wm xd xa xb) s = .next (s1.setX xd (BitVec.ofNat 64
            (0x30800 + (s1.hart.pushes.map (fun p => 64 + (elemsBits p.tag p.n + 511) / 512 * 64)).sum))).completed)
        ∧ (w.writePieces (w.req .vector) (s.x xa) area = (.error f, s1) →
          exec (.vsave wm xd xa xb) s =
            .next (s1.takeTrap { cause := f.cause, epc := s1.hart.pc, val := f.addr, npg := f.fb.length, fb := f.fb }))))

/-- R363, R371: VREST reads the whole area and puts its context into the hart in one step: the configuration and lengths, `fcsr`, the
counters, the windows (open from now on: log 48), the unfolding state, `fm` and the predicates, the tags and the contents of the vector
registers (those that the area does not hold are zero), the full bits and reservations, the scalar registers, the pushes, and the tokens of
these and of the collectives in progress. A header that is none of R363's, or that gives another register count while the unit is
shared, raises ILLEGAL_OPERAND; a poisoned header, `fm` or predicate raises POISON, and any fault traps. Memory, `mgrant` and the S bank
stay. -/
def Sys2Proof.Spec.ContextsAreRestored : Prop :=
  ∀ (s s1 s2 s3 : State) (wm : BitVec 8) (xd xa : XReg) (v e : Nat) (vs : List (Nat × Nat)) (ps : List Push) (f : MemFault),
    s.Ready wm → s.hart.isMgmt = false → s.hart.mode = .s → (s.x xa).toNat % 4096 = 0 → s.hart.saveReady = true → s.NoFlips →
    let traps (u : State) : Prop := exec (.vrest wm xd xa) s =
      .next (u.takeTrap { cause := f.cause, epc := u.hart.pc, val := f.addr, npg := f.fb.length, fb := f.fb })
    (s.readPiece (s.req .vector) (s.x xa) 0x800 true = (.error f, s1) → traps s1)
    ∧ (s.readPiece (s.req .vector) (s.x xa) 0x800 true = (.ok (v, 0), s1) →
    let cfg := headWord v 0x10
    let n := 8 * 2 ^ (cfg.extractLsb' 0 2).toNat
    let saved := (List.range 64).filter (fun k => (headWord v 8).getLsbD k && decide (k < n))
    let zero (from_ to_ : Nat) : Prop := v / 2 ^ (8 * from_) % 2 ^ (8 * (to_ - from_)) = 0
    let good := headField v 0 1 = 1 ∧ zero 2 8 ∧ headField v 0x108 8 ≤ 1 ∧ zero 0x112 0x118 ∧ zero 0x118 0x200 ∧ zero 0x340 0x400
      ∧ zero 0x5F8 0x800 ∧ (s1.shared = true → cfg.extractLsb' 0 2 = s1.hart.regs)
    let pieces := (0x800, 4096, true) :: (List.range 15).map (fun j => (0x1800 + 4096 * j, 4096, true))
      ++ saved.map (fun k => (0x10800 + k * (131072 / n), 131072 / n, false))
    let size := 8 * (131072 / n)
    let piece (i : Nat) : Nat × Nat := if saved.contains i then vs.getD (16 + saved.idxOf i) (0, 0) else (0, 0)
    (¬good → exec (.vrest wm xd xa) s =
      .next (s1.takeTrap { cause := .illegalOperand, epc := s1.hart.pc, val := encode (.vrest wm xd xa) }))
    ∧ (good → s1.readPieces (s.req .vector) (s.x xa) pieces = (.error f, s2) → traps s2)
    ∧ (good → s1.readPieces (s.req .vector) (s.x xa) pieces = (.ok vs, s2) →
        (s2.readPushes (s.req .vector) (s.x xa) s2.hart (headField v 1 1) 0 0x30800 = (.error f, s3) → traps s3)
        ∧ (s2.readPushes (s.req .vector) (s.x xa) s2.hart (headField v 1 1) 0 0x30800 = (.ok (ps, e), s3) →
        ∃ t, exec (.vrest wm xd xa) s = .next (t.setX xd (BitVec.ofNat 64 e)).completed ∧ SameMemory s t
          ∧ (∀ (i : Nat) (h : i < 64), 0 < i → t.hart.x[i] = headWord v (0x400 + 8 * (i - 1)))
          ∧ (∀ (i : Nat) (h : i < 16), 0 < i → t.hart.p[i] = BitVec.ofNat 32768 ((vs.getD i (0, 0)).1))
          ∧ t.hart.fm = BitVec.ofNat 32768 ((vs.headD (0, 0)).1)
          ∧ t.hart.vl = headField v 0x18 2 ∧ t.hart.vh = headField v 0x20 2 ∧ t.hart.regs = cfg.extractLsb' 0 2
          ∧ t.hart.nxt = cfg.extractLsb' 4 2 ∧ t.hart.blk = cfg.extractLsb' 10 2 ∧ t.hart.vstart.toNat = headField v 0x28 8 % 2 ^ 15
          ∧ t.hart.vqin = headWord v 0x30 ∧ t.hart.vqout = headWord v 0x38 ∧ t.hart.fcsr = fcsrIn s.hart.fcsr (headWord v 0x40)
          ∧ t.hart.instret = headWord v 0x48
          ∧ (∀ (i : Nat) (h : i < 8), t.hart.cc[i] = headWord v (0x68 + 8 * i)) ∧ t.hart.full = headWord v 0x58
          ∧ t.hart.resv.map (fun r => (r.1, r.2.1)) = (List.range 64).filterMap (fun i =>
              if (headWord v 0x60).getLsbD i then some (i, headField v (0x200 + 4 * i) 4) else none)
          ∧ (∀ (i : Nat) (h : i < 4), t.hart.win[i] = if headWord v (0xB0 + 16 * i) = 0 then none
              else some { base := headWord v (0xA8 + 16 * i), len := headWord v (0xB0 + 16 * i), since := s3.tick })
          ∧ t.hart.unf = (if headField v 0x108 8 = 1 then some (Vector.ofFn (fun i : Fin 4 => headWord v (0xE8 + 8 * i.val))) else none)
          ∧ (∀ (i : Nat) (h : i < 64), (t.hart.vtag[i]).toNat = headField v (0x300 + i) 1 % 32)
          ∧ (∀ i, i < n → t.hart.vstr i = (piece i).1 % 2 ^ size ∧ t.hart.vpoiStr i = (piece i).2 % 2 ^ size)
          ∧ t.hart.vdirty = 0 ∧ t.hart.pushes = ps
          ∧ (∀ k : BitVec 3, t.hart.tok.getLsbD k.toNat = (ps.any (fun p => !p.nb && p.tc != 0 && p.tc == k)
              || (headField v 0x111 1).testBit k.toNat && s.hart.colls.any (fun c => c.tk == some k)))
          ∧ t.hart.mgrant = s.hart.mgrant ∧ t.hart.sb = s.hart.sb ∧ t.hart.mode = .s ∧ t.hart.tepc = s.hart.tepc)))

/-! ## Launch, claim, barrier, exit -/

/-- R97, R99, R105, R106, R108, R123: LNCH reads a packet; a refused one delivers its negative code; an accepted one enters its queue with
the queue's next sequence number, which is delivered: as QUEUED, and a launch that is eligible leaves QUEUED for PLACING. A queue of another tenant raises ACCESS_FAULT, a misaligned packet
MISALIGNED, a poisoned one POISON, with the packet's address. -/
def Sys2Proof.Spec.Launching : Prop :=
  ∀ (s s1 : State) (g : Hdr) (xd xa : XReg) (v : Nat), s.Ready g.wm → s.hart.isMgmt = false → s.hart.guard g.grd = true → s.NoFlips →
    let trap (u : State) (c : Cause) : Prop :=
      exec (.lnch g xd xa) s = .next (u.takeTrap { cause := c, epc := s.hart.pc, val := s.x xa })
    ((s.x xa).toNat % 64 ≠ 0 → trap s .misaligned)
    ∧ ((s.x xa).toNat % 64 = 0 → s.load (s.req .scalar) (s.x xa) 64 = (.ok (v, true), s1) → trap s1 .poison)
    ∧ ((s.x xa).toNat % 64 = 0 → s.load (s.req .scalar) (s.x xa) 64 = (.ok (v, false), s1) →
      let pk := BitVec.ofNat 512 v
      let q := pkQueue pk
      ((s1.queue q).tenant ≠ s1.hart.tenant → trap s1 .accessFault)
      ∧ ((s1.queue q).tenant = s1.hart.tenant →
        (∀ c, s1.refusal pk q (s1.hart.mode == .s) = some c →
          exec (.lnch g xd xa) s = .next (s1.setX xd (BitVec.ofInt 64 c)).completed)
        ∧ (s1.refusal pk q (s1.hart.mode == .s) = none → ∃ t l,
          exec (.lnch g xd xa) s = .next (t.setX xd (BitVec.ofNat 64 (s1.queue q).qseq)).completed
          ∧ (let u := { s1.updQueue q (fun x => { x with qseq := x.qseq + 1 }) with launches := s1.launches ++ [l] }
             t.launches = u.launches.map (fun x => if x.st = .queued ∧ u.eligible x = true then { x with st := .placing } else x))
          ∧ l.lid = ⟨q, (s1.queue q).qseq⟩ ∧ l.pk = pk ∧ l.st = .queued ∧ l.tenant = (s1.queue q).tenant
          ∧ l.cursor = 0 ∧ l.ebcnt = 0 ∧ l.eblim = s1.ebdef ∧ (t.queue q).qseq = (s1.queue q).qseq + 1 ∧ SameHart s t ∧ SameMemory s t)))

/-- R97, R99: the code of a refusal, or none, in the order of the checks: −2 for a queue that is not enabled, −3 for a malformed packet, −4
for one that cannot fit, −1 for a queue with 256 launches. -/
def Sys2Proof.Spec.RefusalsInOrder : Prop :=
  ∀ (s : State) (pk : BitVec 512) (q : Nat) (inS : Bool),
    let n (lo w : Nat) : Nat := (pk.extractLsb' lo w).toNat
    let plain : Bool := n 116 2 != 2
    let malformed : Prop := pk.getLsbD 63 = true ∨ n 125 3 ≠ 0 ∨ n 116 2 = 3 ∨ n 0 3 ≠ 0 ∨ (if plain then 8192 else 9216) < n 128 14
      ∨ (pk.getLsbD 121 = true ∧ n 156 12 = 0) ∨ (pk.getLsbD 123 = true ∧ (s.queue q).ldok = false ∧ inS = false)
      ∨ (pk.getLsbD 124 = true ∧ n 57 6 = q ∧
          let d := (pk.extractLsb' 168 24 - BitVec.ofNat 24 (s.queue q).qseq).toNat
          1 ≤ d ∧ d < 2 ^ 23)
    let unfit : Prop := (if plain then 12288 else 13824) < n 142 14 * ((n 112 4 + 4) / 4)
      ∨ (pk.getLsbD 121 = true ∧ 256 * clusterHolds (shapeOf pk) 16 idleUsage < n 156 12)
    ((s.queue q).en = false → s.refusal pk q inS = some (-2))
    ∧ ((s.queue q).en = true → malformed → s.refusal pk q inS = some (-3))
    ∧ ((s.queue q).en = true → ¬malformed → unfit → s.refusal pk q inS = some (-4))
    ∧ ((s.queue q).en = true → ¬malformed → ¬unfit → 256 ≤ (s.queue q).qseq - (s.queue q).qcnt → s.refusal pk q inS = some (-1))
    ∧ ((s.queue q).en = true → ¬malformed → ¬unfit → (s.queue q).qseq - (s.queue q).qcnt < 256 → s.refusal pk q inS = none)

/-- R124: CLAIM takes the next elements of the launch: whole tiles, else whole rows, else what is left, and sets the lengths to
what it took. On a hart without a launch it delivers zeros. -/
def Sys2Proof.Spec.Claiming : Prop :=
  ∀ (s : State) (g : Hdr) (xd xa : XReg) (l : Launch), s.Ready g.wm → s.hart.guard g.grd = true →
    (s.hart.launch.bind s.launchOf = none → exec (.claim g xd xa) s = .next ((s.setX xa 0).setX xd 0).completed)
    ∧ (s.hart.launch.bind s.launchOf = some l →
      let left := pkCount l.pk - l.cursor
      let vl := s.hart.vl
      let vh := s.hart.vh
      let took (n vl' vh' : Nat) : Prop := exec (.claim g xd xa) s =
        .next (((((s.updLaunch l.lid (fun x => { x with cursor := x.cursor + n })).settle).upd (fun h => { h with vl := vl', vh := vh' })).setX xa
          (BitVec.ofNat 64 n)).setX xd (BitVec.ofNat 64 l.cursor)).completed
      (vl * vh ≤ left → took (vl * vh) vl vh)
      ∧ (left < vl * vh → 0 < vl → vl ≤ left → took (left / vl * vl) vl (left / vl))
      ∧ (left < vl * vh → left < vl → 0 < left → took left left 1)
      ∧ (left < vl * vh → left = 0 → 0 < vl → took 0 vl vh))

/-- R121, R125: GBAR.ARR delivers the phase and records the hart's arrival; the arrival of the last member completes the phase.
GBAR.WAIT completes when the phase is no longer the one it names, and waits until then. On a hart of no gang GBAR.ARR delivers a
free value and GBAR.WAIT completes (log 19). -/
def Sys2Proof.Spec.GangBarrier : Prop :=
  ∀ (s : State) (g : Hdr) (sc : Scope) (x : XReg), s.Ready g.wm → s.hart.guard g.grd = true →
    (s.gangOf s.hart.hid = none →
      (∃ v, exec (.gbarArr g sc x) s = .next (({ s with free := s.free + 1 }).setX x v).completed)
      ∧ exec (.gbarWait g sc x) s = .next s.completed)
    ∧ ∀ gg, s.gangOf s.hart.hid = some gg → gg.bar < 16 →
      let b := s.bar gg.cl gg.bar
      let i := gg.harts.idxOf s.hart.hid.toNat
      (∃ t, exec (.gbarArr g sc x) s = .next (t.setX x (b.phase.setWidth 64)).completed ∧ t.hart = s.hart ∧ SameMemory s t
        ∧ t.bar gg.cl gg.bar = (if b.arrived.getLsbD i then b
            else if b.arrived ||| BitVec.twoPow 16 i = b.members then { b with phase := b.phase + 1, arrived := 0 }
            else { b with arrived := b.arrived ||| BitVec.twoPow 16 i }))
      ∧ (b.phase ≠ (s.x x).setWidth 32 → exec (.gbarWait g sc x) s = .next s.completed)
      ∧ (b.phase = (s.x x).setWidth 32 → exec (.gbarWait g sc x) s = .next s.waiting)

/-- R126, R127: EXIT in U mode ends the hart once its work has drained, and waits until then; a PREEMPT that is pending when it begins
comes first; in S mode, while PREEMPT is being handled, EXIT parks the hart, and else it ends the hart. Memory keeps its bytes; where a reservation switches the class of cores that become idle (R112), their stores become
indeterminate. -/
def Sys2Proof.Spec.Exiting : Prop :=
  ∀ (s : State) (g : Hdr), s.Ready g.wm → s.hart.isMgmt = false → s.hart.guard g.grd = true →
    (s.hart.mode = .u → (s.hart.pend.preempt = false ∨ s.hart.exiting = true) →
      (s.hart.drained = true → ∃ t, exec (.exit g) s = .next t ∧ t.hart.run = .idle ∧ t.hart.launch = none ∧ t.hart.mgrant = 0
        ∧ t.hart.x = s.hart.x ∧ t.mem = s.mem ∧ ((∀ r ∈ s.resvs, ∀ gg, s.gangOf s.hart.hid = some gg → r.cl ≠ gg.cl) → SameMemory s t))
      ∧ (s.hart.drained = false → exec (.exit g) s = .next (s.upd (fun h => { h with exiting := true })).waiting))
    ∧ (s.hart.mode = .u → s.hart.pend.preempt = true → s.hart.exiting = false → exec (.exit g) s = .next s.takePending)
    ∧ (s.hart.mode = .s → s.hart.preempting = true → s.hart.isCompute = true →
      (s.hart.saveReady = true → exec (.exit g) s = .next s.parkHart)
      ∧ (s.hart.saveReady = false → exec (.exit g) s = .next s.waiting))
    ∧ (s.hart.mode = .s → s.hart.preempting = false →
      (s.hart.drained = true → exec (.exit g) s = .next (s.endHart s.hart.hid))
      ∧ (s.hart.drained = false → exec (.exit g) s = .next s.waiting))

/-- R128: YIELD delivers 1 where the gang gives way, or is already being pre-empted, and 0 where no launch is waiting for its place (for which
of several waiting launches it gives way is log 80). -/
def Sys2Proof.Spec.Yielding : Prop :=
  ∀ (s : State) (g : Hdr) (xd : XReg), s.Ready g.wm → s.hart.guard g.grd = true →
    (s.gangOf s.hart.hid = none → exec (.yield g xd) s = .next (s.setX xd 0).completed)
    ∧ ∀ gg l, s.gangOf s.hart.hid = some gg → s.hart.launch.bind s.launchOf = some l →
      (gg.st = .preempting → exec (.yield g xd) s = .next (s.setX xd 1).completed)
      ∧ (gg.st ≠ .preempting → s.yieldFor gg l = none → exec (.yield g xd) s = .next (s.setX xd 0).completed)
      ∧ (∀ o, gg.st = .resident → s.yieldFor gg l = some o → gg ∈ s.gangs → ∃ t, exec (.yield g xd) s = .next (t.setX xd 1).completed
        ∧ SameMemory s t ∧ SameHart s t
        ∧ ∀ x ∈ t.gangs, x.lid = gg.lid → x.num = gg.num → x.st ≠ .resident)

/-- R129: WAITM delivers the double word once it differs from the register or its time is over, and else goes on waiting. -/
def Sys2Proof.Spec.WaitingOnMemory : Prop :=
  ∀ (s s1 : State) (g : Hdr) (sc : Scope) (xd xa xb : XReg) (imm : BitVec 16) (v : Nat), s.Ready g.wm → s.hart.guard g.grd = true →
    ((s.x xa).toNat % 8 ≠ 0 → exec (.waitm g sc xd xa xb imm) s =
      .next (s.takeTrap { cause := .misaligned, epc := s.hart.pc, val := s.x xa }))
    ∧ ((s.x xa).toNat % 8 = 0 → s.load (s.req .scalar) (s.x xa) 8 = (.ok (v, false), s1) →
      let late : Prop := imm ≠ 0 ∧ s.hart.waitStart.getD s.cycle + 256 * imm.toNat ≤ s.cycle
      (BitVec.ofNat 64 v ≠ s.x xb ∨ late → exec (.waitm g sc xd xa xb imm) s = .next (s1.setX xd (BitVec.ofNat 64 v)).completed)
      ∧ (BitVec.ofNat 64 v = s.x xb → ¬late → exec (.waitm g sc xd xa xb imm) s = .next s1.waiting))

/-! ## Vector configuration and moves -/

namespace Sys2Proof.Spec

/-- An instruction that writes elements of one vector register: it completes; each listed element `e` of `vd` is then `f e`, and every
other element of `vd` and every other register keeps its bits; the flags `fl` are raised, and the generator advances when a word
was drawn. `vstart` is cleared unless the instruction leaves it alone (R88, R92, R158, R167, R169). -/
def vectorResult (i : Instr) (s : State) (vd : Nat) (es : List Nat) (f : Nat → Nat) (fl : Flags := 0) (drew : Bool := false)
    (still : Bool := false) : Prop :=
  ∃ t, Completes i s t ∧ OnlyVectors s t
    ∧ (∀ e, t.hart.elem vd e = if e ∈ es then f e % 2 ^ tagWidth (s.hart.tag vd) else s.hart.elem vd e)
    ∧ (∀ u, u < s.hart.nregs → u ≠ vd → t.hart.vstr u = s.hart.vstr u)
    ∧ t.hart.vtag = s.hart.vtag ∧ t.hart.vqin = s.hart.vqin ∧ t.hart.vqout = s.hart.vqout
    ∧ t.hart.vstart = (if still then s.hart.vstart else 0)
    ∧ (let c := s.hart.fcsr ||| fl.setWidth 64
       t.hart.fcsr = if drew then seedNext s.hart.seed ++ c.extractLsb' 0 32 else c)

/-- The vector registers other than the listed ones, all tags and the pass queue registers are as they were, and `vstart` is cleared. -/
def othersKept (s t : State) (vds : List Nat) : Prop :=
  (∀ u, u < s.hart.nregs → u ∉ vds → t.hart.vstr u = s.hart.vstr u) ∧ t.hart.vtag = s.hart.vtag ∧ t.hart.vqin = s.hart.vqin
    ∧ t.hart.vqout = s.hart.vqout ∧ t.hart.vstart = 0

/-- The elements below a number that the guard makes active, in ascending order (R158). -/
def activesOf (h : Hart) (g : Hdr) (n : Nat) : List Nat := (List.range n).filter (h.active g.grd)

/-- The checks of a move of single elements between two registers (R174, R155). -/
def movable (s : State) (g : Hdr) (vd va : VReg) : Prop :=
  s.VReady g [vd.toNat, va.toNat] ∧ s.hart.lenOk [vd.toNat, va.toNat] = true ∧ s.hart.tag vd.toNat = s.hart.tag va.toNat
    ∧ (s.hart.tag vd.toNat).isBlock = false

end Sys2Proof.Spec

/-- R166, R171, R173: VCFG delivers `vcfg` and notes what is to come into force, VTAG sets a register's tag. A VCFG that asks for another
register count while the gang has more than one hart raises ILLEGAL_OPERAND. -/
def Sys2Proof.Spec.VectorConfiguration : Prop :=
  ∀ (s : State) (wm : BitVec 8) (xd : XReg) (regs blk : BitVec 2) (vd : VReg) (t : BitVec 5),
    (s.VReady (.plain wm) [] →
      ((s.shared = false ∨ regs = s.hart.regs) → exec (.vcfg wm xd regs blk) s =
        .next ((s.setX xd (BitVec.ofNat 64 (s.hart.regs.toNat + 16 * s.hart.nxt.toNat + 1024 * s.hart.blk.toNat))).upd (fun h =>
          { h with nxt := regs, blk := blk })).completed)
      ∧ (s.shared = true → regs ≠ s.hart.regs → exec (.vcfg wm xd regs blk) s =
        .next (s.takeTrap { cause := .illegalOperand, epc := s.hart.pc, val := encode (.vcfg wm xd regs blk) })))
    ∧ (s.VReady (.plain wm) [vd.toNat] → (Tag.ofCode? t).isSome = true → exec (.vtag wm vd t) s =
        .next (s.upd (fun h => { h with vtag := h.vtag.set vd.toNat t vd.isLt, vdirty := h.vdirty ||| BitVec.twoPow 64 vd.toNat })).completed)

/-- R171, R172, R336: SETVL and SETVH grant a length under MVL of the tag, and lower the other length where it is above it. A pending
reconfiguration comes into force first, and clears the vector registers, once no earlier work of the hart uses them; the time of a
reservation of a register that it empties begins. -/
def Sys2Proof.Spec.VectorLengths : Prop :=
  ∀ (s : State) (wm : BitVec 8) (xd xa : XReg) (t : BitVec 5) (tag : Tag), s.VReady (.plain wm) [] → Tag.ofCode? t = some tag → tag ≠ .none →
    let lengths (u : State) : Prop :=
      let m := mvl tag u.hart.nregs
      let vh := min u.hart.vh m
      let vl := min u.hart.vl m
      let row := max 1 (min (s.x xa).toNat (m / vh))
      let col := max 1 (min (s.x xa).toNat (m / vl))
      exec (.setvl wm xd xa t) s = .next ((u.upd (fun h => { h with vl := row, vh := vh })).setX xd (BitVec.ofNat 64 row)).completed
      ∧ exec (.setvh wm xd xa t) s = .next ((u.upd (fun h => { h with vl := vl, vh := col })).setX xd (BitVec.ofNat 64 col)).completed
    (s.hart.nxt = s.hart.regs → lengths s)
    ∧ (s.hart.nxt ≠ s.hart.regs → s.hart.vecWork = false → lengths (s.upd (fun h => { h with
        regs := h.nxt, vtag := Vector.replicate 64 0, vst := 0, vpoi := 0, vcor := [], vdirty := 0, fm := 0, vstart := 0, vqin := 0
        vqout := 0, full := 0
        resv := h.resv.map (fun r => if h.full.getLsbD r.1 then (r.1, r.2.1, s.cycle + 2 ^ 15) else r) })))
    ∧ (s.hart.nxt ≠ s.hart.regs → s.hart.vecWork = true → exec (.setvl wm xd xa t) s = .next s.waiting
        ∧ exec (.setvh wm xd xa t) s = .next s.waiting)

/-- R160, R175, R177: VMOV and VBCAST, for element tags and, VMOV, for whole blocks; with no element active VBCAST writes nothing. -/
def Sys2Proof.Spec.MovesAndBroadcasts : Prop :=
  ∀ (s : State) (g : Hdr) (vd : VReg) (a : VSrc) (xa : XReg),
    (movable s g vd a.v → vectorResult (.vmov g vd a) s vd.toNat (activesOf s.hart g s.hart.n)
        (fun e => s.hart.elem a.v.toNat (a.rep.index e)) (still := true))
    ∧ (s.VReady g [vd.toNat, a.v.toNat] → s.hart.lenOk [vd.toNat, a.v.toNat] = true → s.hart.tag vd.toNat = s.hart.tag a.v.toNat →
        (s.hart.tag vd.toNat).isBlock = true → a.rep = .none → s.hart.n % 32 = 0 →
        ∃ t, Completes (.vmov g vd a) s t ∧ OnlyVectors s t
          ∧ (∀ b, elemAt (tagBlockBits (s.hart.tag vd.toNat)) (t.hart.vstr vd.toNat) b =
              elemAt (tagBlockBits (s.hart.tag vd.toNat))
                (s.hart.vstr (if b < s.hart.n / 32 ∧ s.hart.active g.grd (32 * b) = true then a.v.toNat else vd.toNat)) b)
          ∧ ∀ u, u < s.hart.nregs → u ≠ vd.toNat → t.hart.vstr u = s.hart.vstr u)
    ∧ (s.VReady g [vd.toNat] → s.hart.lenOk [vd.toNat] = true → (s.hart.tag vd.toNat).isBlock = false →
        vectorResult (.vbcast g vd xa) s vd.toNat (activesOf s.hart g s.hart.n) (fun _ => (s.x xa).toNat) (still := true))
    ∧ (s.Ready g.wm → s.hart.Fresh → g.pg = 0 → g.pn = true → exec (.vbcast g vd xa) s = .next s.completed)

/-- R176: VSLICE: element `j` of a row or column is moved to element `j` of the destination, or from it; an index outside the tile
extracts zeros and inserts nothing. -/
def Sys2Proof.Spec.Slices : Prop :=
  ∀ (s : State) (g : Hdr) (col : Bool) (vd va : VReg) (xb : XReg), movable s g vd va → 0 < s.hart.vl → 0 < s.hart.vh →
    let k := (s.x xb).toNat
    let vl := s.hart.vl
    let len := if col then s.hart.vh else vl
    let at_ (j : Nat) : Nat := if col then j * vl + k else k * vl + j
    let inside := k < if col then vl else s.hart.vh
    (inside → vectorResult (.vsliceExtract g col vd va xb) s vd.toNat (activesOf s.hart g len) (fun j => s.hart.elem va.toNat (at_ j))
      (still := true))
    ∧ (¬inside → vectorResult (.vsliceExtract g col vd va xb) s vd.toNat (activesOf s.hart g len) (fun _ => 0) (still := true))
    ∧ (inside → vectorResult (.vsliceInsert g col vd va xb) s vd.toNat
        (((List.range len).map at_).filter (s.hart.active g.grd))
        (fun e => s.hart.elem va.toNat (if col then e / vl else e - k * vl)) (still := true))
    ∧ (¬inside → vectorResult (.vsliceInsert g col vd va xb) s vd.toNat [] (fun _ => 0) (still := true))

/-- R178, R179: VXT delivers one element, sign-extended under a signed tag, and 0 beyond the tile; VINS writes one. Both look at the
guard of one element. -/
def Sys2Proof.Spec.ExtractAndInsert : Prop :=
  ∀ (s : State) (g : Hdr) (v : VReg) (xa xb xd : XReg),
    (s.Ready g.wm → s.hart.Fresh → g.pg = 0 → g.pn = true → exec (.vins g v xa xb) s = .next s.completed) ∧
    (s.VReady g [v.toNat] (dst := []) → s.hart.lenOk [v.toNat] = true → (s.hart.tag v.toNat).isBlock = false →
    let t := s.hart.tag v.toNat
    let e := (s.x xb).toNat
    (s.hart.active g.grd 0 = true → exec (.vxt g xd v xb) s = .next (s.setX xd (if e < s.hart.n then
        (if t.isSigned then (BitVec.ofNat (tagWidth t) (s.hart.elem v.toNat e)).signExtend 64 else BitVec.ofNat 64 (s.hart.elem v.toNat e))
        else 0)).completed)
    ∧ (s.hart.active g.grd 0 = false → exec (.vxt g xd v xb) s = .next s.completed)
    ∧ (s.hart.mxReads v.toNat = false → vectorResult (.vins g v xa xb) s v.toNat (if e < s.hart.n ∧ s.hart.active g.grd e = true then [e] else [])
        (fun _ => (s.x xa).toNat) (still := true)))

/-! ## Element-wise instructions -/

namespace Sys2Proof.Spec

/-- The bits of the sources of element `e`: A and B replicated as the instruction says, C never (R160). -/
def sources (h : Hart) (p : V3Op) (e : Nat) : Nat × Nat × Nat :=
  let w := tagWidth (p.srcTag h)
  (elemAt w (h.vstr p.o.a.v.toNat) (p.o.a.rep.index e), elemAt w (h.vstr p.o.b.v.toNat) (p.o.b.rep.index e),
   elemAt w (h.vstr ((p.c.map (·.toNat)).getD 0)) e)

/-- The conditions of an element-wise instruction on registers, lengths and tags (R155, R157). -/
def elementsReady (s : State) (g : Hdr) (p : V3Op) (ok : Tag → Tag → Bool) : Prop :=
  s.VReady g p.regs ∧ s.hart.lenOk p.regs = true ∧ p.tagsOk s.hart = true ∧ ok (p.srcTag s.hart) (s.hart.tag p.vd.toNat) = true

/-- The result of an element-wise instruction: with register sources each active element is the operation on its sources; in the
pass-queue form each active element takes the result before it as its first source, the first one `vqin`, and the last result
becomes `vqin` and `vqout` (R158, R161, R181). -/
def elementwise (i : Instr) (s : State) (g : Hdr) (p : V3Op) (ok : Tag → Tag → Bool) : Prop :=
  elementsReady s g p ok →
    let h := s.hart
    let es := activesOf h g h.n
    (p.o.q = false → vectorResult i s p.vd.toNat es (fun e => (p.f e (sources h p e).1 (sources h p e).2.1 (sources h p e).2.2).1)
      (es.foldl (fun a e => a ||| (p.f e (sources h p e).1 (sources h p e).2.1 (sources h p e).2.2).2) 0) (p.draws && !es.isEmpty))
    ∧ (p.o.q = true → ∃ (t : State) (carry : Nat → Nat), Completes i s t ∧ OnlyVectors s t
      ∧ carry 0 = h.vqin.toNat % 2 ^ tagWidth (h.tag p.vd.toNat)
      ∧ (∀ (k : Nat) (hk : k < es.length),
          carry (k + 1) = (p.f es[k] (carry k) (sources h p es[k]).2.1 (sources h p es[k]).2.2).1
          ∧ t.hart.elem p.vd.toNat es[k] = carry (k + 1) % 2 ^ tagWidth (h.tag p.vd.toNat))
      ∧ (∀ e, e ∉ es → t.hart.elem p.vd.toNat e = h.elem p.vd.toNat e)
      ∧ (∀ u, u < h.nregs → u ≠ p.vd.toNat → t.hart.vstr u = h.vstr u)
      ∧ t.hart.vqin = BitVec.ofNat 64 (carry es.length) ∧ t.hart.vqout = t.hart.vqin ∧ t.hart.vstart = 0 ∧ t.hart.vtag = h.vtag)

/-- The instructions on two sources that round and saturate as they say (R186, R189), with the exact operation and the tag rule. -/
def roundedOps : List ((Hdr → VReg → VBin → Bool → BitVec 2 → Instr) × ArithFn) :=
  [(.vadd, vAdd), (.vsub, vSub), (.vmin, vMinMax false), (.vmax, vMinMax true), (.vmul, vMul), (.vdiv, vDiv)]

/-- The instructions on one source (R187, R191). -/
def unaryOps : List ((Hdr → VReg → VSrc → Bool → BitVec 2 → Instr) × ArithFn × (Tag → Tag → Bool)) :=
  [(.vabs, vAbs, arithTags), (.vneg, vNeg, arithTags), (.vsqrt, vMath Exact.sqrt, floatTags), (.vrcp, vMath Exact.rcp, floatTags),
   (.vrsq, vMath Exact.rsqrt, floatTags), (.vexp2, vMath (fun x => (x.exp2, 0)), floatTags), (.vlog2, vMath Exact.log2, floatTags)]

/-- The fused instructions (R190). -/
def fusedOps : List ((Hdr → VReg → VBin → VReg → Bool → BitVec 2 → Instr) × ArithFn) :=
  [(.vfma, vFma), (.vfms, vFms), (.vfnma, vFnma)]

/-- The logic and shift instructions on patterns of one width (R192): the count of a shift is taken modulo the width. -/
def patternOps (w : Nat) : List ((Hdr → VReg → VBin → Instr) × (BitVec w → BitVec w → BitVec w)) :=
  [(.vand, fun a b => a &&& b), (.vor, fun a b => a ||| b), (.vxor, fun a b => a ^^^ b),
   (.vshl, fun a b => a <<< (b.toNat % w)), (.vshr, fun a b => a >>> (b.toNat % w)),
   (.vsha, fun a b => a.sshiftRight (b.toNat % w)), (.vrot, fun a b => a.rotateLeft (b.toNat % w))]

/-- The bit operations on one pattern (R192, R193). -/
def patternUnary (w : Nat) : List ((Hdr → VReg → VSrc → Instr) × (BitVec w → Nat)) :=
  [(.vnot, fun a => (~~~a).toNat), (.vclz, fun a => if a = 0 then w else w - 1 - a.toNat.log2),
   (.vpopc, fun a => ((List.range w).filter (fun i => a.getLsbD i)).length),
   (.vbrev, fun a => ((List.range w).map (fun i => if a.getLsbD i then 2 ^ (w - 1 - i) else 0)).sum)]

/-- An operation on the raw bits of two sources, which raises no flag. -/
def plainOp (vd : VReg) (o : VBin) (c : Option VReg) (f : Nat → Nat → Nat → Nat → Nat) : V3Op :=
  { vd := vd, o := o, c := c, draws := false, f := fun e a b x => (f e a b x, 0) }

end Sys2Proof.Spec

/-- R180, R181, R185 to R191: the arithmetic instructions, in their register and pass-queue forms: the exact result of each active
element, delivered once under the destination's tag. -/
def Sys2Proof.Spec.VectorArithmetic : Prop :=
  ∀ (s : State) (g : Hdr) (vd vc : VReg) (o : VBin) (a : VSrc) (sat : Bool) (rnd : BitVec 2),
    (∀ p ∈ roundedOps, elementwise (p.1 g vd o sat rnd) s g (arith p.2 vd o none sat rnd s) arithTags)
    ∧ (∀ p ∈ unaryOps, elementwise (p.1 g vd a sat rnd) s g (arith p.2.1 vd (oneSrc a) none sat rnd s) p.2.2)
    ∧ (∀ p ∈ fusedOps, elementwise (p.1 g vd o vc sat rnd) s g (arith p.2 vd o (some vc) sat rnd s) arithTags)
    ∧ elementwise (.vmulh g vd o) s g (arith vMulh vd o none false 1 s) sameIntTags
    ∧ elementwise (.vrem g vd o sat) s g (arith vRem vd o none sat 1 s) intTags

/-- R91, R157, R186: on integer tags of one kind VADD, VSUB and VMUL wrap modulo 2 to the width, or, with SAT, deliver the nearest
value of the tag. -/
def Sys2Proof.Spec.IntegerElementsWrapOrSaturate : Prop :=
  ∀ (s : State) (g : Hdr) (vd va vb : VReg) (sat : Bool) (rnd : BitVec 2) (tag : Tag),
    s.VReady g [vd.toNat, va.toNat, vb.toNat] → s.hart.lenOk [vd.toNat, va.toNat, vb.toNat] = true →
    s.hart.tag vd.toNat = tag → s.hart.tag va.toNat = tag → s.hart.tag vb.toNat = tag → tag.isInt = true → tag.isArith = true →
    let int (b : Nat) : Int := if tag.isSigned then (BitVec.ofNat (tagWidth tag) b).toInt else b
    let out (x : Int) : Nat :=
      (BitVec.ofInt (tagWidth tag) (if sat then max tag.intMin (min tag.intMax x) else x)).toNat
    let o : VBin := ⟨false, ⟨va, .none⟩, ⟨vb, .none⟩⟩
    let result (i : Instr) (f : Int → Int → Int) : Prop := ∃ t, Completes i s t ∧ ∀ e, e < s.hart.n → s.hart.active g.grd e = true →
      t.hart.elem vd.toNat e = out (f (int (s.hart.elem va.toNat e)) (int (s.hart.elem vb.toNat e)))
    result (.vadd g vd o sat rnd) (· + ·) ∧ result (.vsub g vd o sat rnd) (· - ·) ∧ result (.vmul g vd o sat rnd) (· * ·)

/-- R192, R193: the logic, shift and bit instructions on patterns of the width of their tag. -/
def Sys2Proof.Spec.VectorBits : Prop :=
  ∀ (s : State) (g : Hdr) (vd : VReg) (o : VBin) (a : VSrc) (w : Nat), w = tagWidth (s.hart.tag vd.toNat) →
    (∀ p ∈ patternOps w, elementwise (p.1 g vd o) s g
      (plainOp vd o none (fun _ x y _ => (p.2 (BitVec.ofNat w x) (BitVec.ofNat w y)).toNat)) sameIntTags)
    ∧ (∀ p ∈ patternUnary w, elementwise (p.1 g vd a) s g
      (plainOp vd (oneSrc a) none (fun _ x _ _ => p.2 (BitVec.ofNat w x))) sameIntTags)

/-- R194, R195: VBITIL interleaves the bits of two or three sources, VBITDL takes every second or third bit of one; the results fill the
destination from bit 0 up, with zeros above. -/
def Sys2Proof.Spec.BitInterleaving : Prop :=
  ∀ (s : State) (g : Hdr) (k3 : Bool) (vd vc : VReg) (a b : VSrc) (jx : BitVec 2),
    let k := if k3 then 3 else 2
    let wd := tagWidth (s.hart.tag vd.toNat)
    let bit (n : Nat) (f : Nat → Bool) : Nat := ((List.range n).map (fun i => if f i then 2 ^ i else 0)).sum
    elementwise (.vbitil g k3 vd a b vc) s g (plainOp vd ⟨false, a, b⟩ (if k3 then some vc else none) (fun _ x y z =>
      bit (wd / k * k) (fun i => (if i % k = 0 then x else if i % k = 1 then y else z).testBit (i / k)))) intTags
    ∧ elementwise (.vbitdl g k3 vd a jx) s g (plainOp vd (oneSrc a) none (fun _ x _ _ =>
      bit (min wd (tagWidth (s.hart.tag a.v.toNat) / k)) (fun i => x.testBit (k * i + jx.toNat)))) intTags

/-- R86, R157, R196, R197: VCMP writes the condition to the predicate bits of active elements and keeps the others, and changes no vector
register; VSEL takes each active element from the source that its predicate bit names. -/
def Sys2Proof.Spec.CompareAndSelect : Prop :=
  ∀ (s : State) (g : Hdr) (c : VCond) (pd pc : PReg) (vd : VReg) (a b : VSrc),
    (let t := s.hart.tag a.v.toNat
     s.VReady g [a.v.toNat, b.v.toNat] (dst := []) → s.hart.lenOk [a.v.toNat, b.v.toNat] = true → s.hart.tag b.v.toNat = t → t.isArith = true →
      ¬(c = .un ∧ t.isInt = true) →
      let hold (e : Nat) : Bool :=
        vcondHolds c (tagValue t (s.hart.elem a.v.toNat (a.rep.index e))) (tagValue t (s.hart.elem b.v.toNat (b.rep.index e)))
      ∃ u, Completes (.vcmp g c pd a b) s u ∧ u.hart.vst = s.hart.vst ∧ u.hart.x = s.hart.x ∧ u.hart.fcsr = s.hart.fcsr ∧ SameMemory s u
        ∧ (∀ q, q ≠ pd → u.pred q = s.pred q)
        ∧ (pd ≠ 0 → ∀ e, e < 32768 → (u.pred pd).getLsbD e =
            if e < s.hart.n ∧ s.hart.active g.grd e = true then hold e else (s.pred pd).getLsbD e))
    ∧ elementwise (.vsel g vd a b pc) s g
        (plainOp vd ⟨false, a, b⟩ none (fun e x y _ => if (s.pred pc).getLsbD e then x else y)) (fun st dt => st == dt && !st.isBlock)

/-! ## Rows, permutations, conversions -/

/-- R96, R198, R199: VRED writes one element per row, the reduction tree over its active elements, and VSCAN the running result at every
active element; on integers of one tag VRED.add and VSCAN.add are sums modulo 2 to the width. -/
def Sys2Proof.Spec.ReductionsAndScans : Prop :=
  ∀ (s : State) (g : Hdr) (op : ROp) (vd va : VReg) (sat : Bool) (rnd : BitVec 2),
    s.VReady g [vd.toNat, va.toNat] → s.hart.lenOk [vd.toNat, va.toNat] = true → 0 < s.hart.vl →
    let h := s.hart
    let c := redCtx op vd va sat rnd h
    let src := h.vstr va.toNat
    let row (r : Nat) : Nat × Flags := redRow c src (h.active g.grd) h.vl r
    let scans := (List.range h.vh).map (fun r => scanRow c src (h.active g.grd) ((List.range h.vl).map (r * h.vl + ·)) (redIdent c.op c.st))
    let drew : Bool := c.m == .sr && !(c.st.isInt && c.dt.isInt)
    let es := activesOf h g h.n
    c.ok = true →
      vectorResult (.vred g op vd va sat rnd) s vd.toNat (List.range h.vh) (fun r => (row r).1)
        ((List.range h.vh).foldl (fun a r => a ||| (row r).2) 0) (drew && !es.isEmpty)
      ∧ vectorResult (.vscan g op vd va sat rnd) s vd.toNat es (fun e => ((scans.flatMap (·.1)).lookup e).getD 0)
        (scans.foldl (fun a r => a ||| r.2) 0) (drew && !es.isEmpty)
      ∧ (c.st.isInt = true → c.dt = c.st → sat = false →
          let w := tagWidth c.dt
          let sum (l : List Nat) : Nat := ((l.filter (h.active g.grd)).map (fun e => h.elem va.toNat e)).sum % 2 ^ w
          (∃ t, exec (.vred g .add vd va sat rnd) s = .next t ∧ ∀ r, r < h.vh →
            t.hart.elem vd.toNat r = sum ((List.range h.vl).map (r * h.vl + ·)))
          ∧ ∃ t, exec (.vscan g .add vd va sat rnd) s = .next t ∧ ∀ e ∈ es,
            t.hart.elem vd.toNat e = sum ((List.range (e % h.vl + 1)).map (e / h.vl * h.vl + ·)))

/-- R200: VMAXI and VMINI write the column numbers of the first values of each row in order, all ones where there are fewer, and set
the predicate bits of exactly the columns chosen. -/
def Sys2Proof.Spec.TopElements : Prop :=
  ∀ (s : State) (g : Hdr) (vd va : VReg) (xb : XReg) (pm : PReg) (mx : Bool),
    s.VReady g [vd.toNat, va.toNat] → s.hart.lenOk [vd.toNat, va.toNat] = true → (s.hart.tag va.toNat).isArith = true →
    Tag.isIndex (s.hart.tag vd.toNat) = true → (s.hart.vl : Int) - 1 ≤ (s.hart.tag vd.toNat).intMax →
    let h := s.hart
    let wd := tagWidth (h.tag vd.toNat)
    let k := min (s.x xb).toNat h.vl
    let value (e : Nat) : Exact := (tagValue (h.tag va.toNat) (h.elem va.toNat e)).exact
    let tops (r : Nat) : List Nat := (topCols mx (((List.range h.vl).filter (fun c =>
      h.active g.grd (r * h.vl + c) && !(value (r * h.vl + c)).isNan)).map (fun c => (c, value (r * h.vl + c))))).take k
    ∃ t, Completes (if mx then .vmaxi g vd va xb pm else .vmini g vd va xb pm) s t ∧ SameMemory s t ∧ t.hart.x = h.x ∧ t.hart.fcsr = h.fcsr ∧ t.rest = s.rest
      ∧ othersKept s t [vd.toNat]
      ∧ (∀ e, e < h.n → t.hart.elem vd.toNat e =
          if e % h.vl < k then (tops (e / h.vl)).getD (e % h.vl) (2 ^ wd - 1) else h.elem vd.toNat e)
      ∧ (pm ≠ 0 → ∀ e, e < 32768 → (t.pred pm).getLsbD e =
          if e < h.n then (tops (e / h.vl)).contains (e % h.vl) else (s.pred pm).getLsbD e)
      ∧ (∀ q, q ≠ pm → t.pred q = s.pred q)

/-- R201 to R206: slides, permutations, compression, expansion, counts and transposition: where each element of the destination comes from;
an element from outside its row is 0. -/
def Obligations.RowMoves : Prop :=
  ∀ (s : State) (g : Hdr) (vd va vb : VReg) (xb : XReg) (pa : PReg),
    let h := s.hart
    let vl := h.vl
    let es := activesOf h g h.n
    let rowEs (r : Nat) : List Nat := ((List.range vl).map (r * vl + ·)).filter (h.active g.grd)
    (movable s g vd va →
      vectorResult (.vslideUp g vd va xb) s vd.toNat es
        (fun e => if (s.x xb).toNat ≤ e % vl then h.elem va.toNat (e - (s.x xb).toNat) else 0)
      ∧ vectorResult (.vslideDn g vd va xb) s vd.toNat es
        (fun e => if e % vl + (s.x xb).toNat < vl then h.elem va.toNat (e + (s.x xb).toNat) else 0)
      ∧ vectorResult (.vcompr g vd va) s vd.toNat
        ((List.range h.vh).flatMap (fun r => (List.range (rowEs r).length).map (r * vl + ·)))
        (fun e => h.elem va.toNat ((rowEs (e / vl)).getD (e % vl) 0))
      ∧ vectorResult (.vexpd g vd va) s vd.toNat es
        (fun e => h.elem va.toNat (e / vl * vl + (rowEs (e / vl)).idxOf e))
      ∧ vectorResult (.vtrans g vd va) s vd.toNat es (fun d => h.elem va.toNat (d % h.vh * vl + d / h.vh)))
    ∧ (s.VReady g [vd.toNat, va.toNat, vb.toNat] → movable s g vd va → h.lenOk [vb.toNat] = true → Tag.isIndex (h.tag vb.toNat) = true →
      vectorResult (.vperm g vd va vb) s vd.toNat es (fun e =>
        let b := BitVec.ofNat (tagWidth (h.tag vb.toNat)) (h.elem vb.toNat e)
        let i : Int := if (h.tag vb.toNat).isSigned then b.toInt else b.toNat
        if 0 ≤ i ∧ i < vl then h.elem va.toNat (e / vl * vl + i.toNat) else 0))
    ∧ (s.VReady g [vd.toNat] → h.lenOk [vd.toNat] = true → Tag.isIndex (h.tag vd.toNat) = true →
      vectorResult (.viota g vd pa) s vd.toNat es
        (fun e => ((List.range (e % vl)).filter (fun c => (s.pred pa).getLsbD (e / vl * vl + c))).length))

/-- R74, R78, R82, R208: VCVT converts each active element, or, to an SX tag, each block whose first element is active. -/
def Sys2Proof.Spec.VectorConversions : Prop :=
  ∀ (s : State) (g : Hdr) (vd : VReg) (a : VSrc) (sat : Bool) (rnd : BitVec 2),
    s.VReady g [vd.toNat, a.v.toNat] → s.hart.lenOk [vd.toNat, a.v.toNat] = true →
    let h := s.hart
    let st := h.tag a.v.toNat
    let dt := h.tag vd.toNat
    let m := h.rmode rnd
    let src := h.vstr a.v.toNat
    let es := activesOf h g h.n
    let one (e : Nat) : Nat × Flags := cvtElem st dt m sat (drawWord h.seed e) src (a.rep.index e)
    ((st.isBlock = true ∨ dt.isBlock = true) → a.rep = .none) →
      (dt.isBlock = false → vectorResult (.vcvt g vd a sat rnd) s vd.toNat es (fun e => (one e).1)
        (es.foldl (fun f e => f ||| (one e).2) 0) (cvtDraws st dt m && !es.isEmpty))
      ∧ (dt.isBlock = true → h.n % 32 = 0 → ∃ t, Completes (.vcvt g vd a sat rnd) s t ∧ OnlyVectors s t
        ∧ (∀ b, elemAt (tagBlockBits dt) (t.hart.vstr vd.toNat) b =
            if b < h.n / 32 ∧ h.active g.grd (32 * b) = true then (cvtBlock st dt m h.seed src b).1 % 2 ^ tagBlockBits dt
            else elemAt (tagBlockBits dt) (h.vstr vd.toNat) b)
        ∧ othersKept s t [vd.toNat])

/-- R79, R162, R209, R210: VQNT gives every block of active elements the scale of its largest element and delivers each element divided
by it, saturating (a block with a NaN or an infinity has the scale 255); VDQNT delivers each element times its scale. -/
def Sys2Proof.Spec.Quantisation : Prop :=
  ∀ (s : State) (g : Hdr) (vd va vs : VReg) (sat : Bool) (rnd : BitVec 2),
    s.VReady g [vd.toNat, va.toNat, vs.toNat] → s.hart.lenOk [vd.toNat, va.toNat] = true → s.hart.scaleOk vs.toNat = true →
    let h := s.hart
    let dt := h.tag vd.toNat
    let m := h.rmode rnd
    let n := h.blkSize
    let x (e : Nat) : Exact := (tagValue (h.tag va.toNat) (h.elem va.toNat e)).exact
    let block (b : Nat) : List Nat := ((List.range n).map (b * n + ·)).filter (h.active g.grd)
    (∀ emax, h.mxReads vs.toNat = false → isWide (h.tag va.toNat) = true → emaxOf dt = some emax →
      ∃ t, Completes (.vqnt g vd va vs rnd) s t ∧ OnlyVectors s t ∧ othersKept s t [vd.toNat, vs.toNat]
        ∧ ∀ b, b < h.n / n →
          (block b = [] → t.hart.elem vs.toNat b = h.elem vs.toNat b)
          ∧ (block b ≠ [] → ((block b).any (fun e => (x e).isNan || (x e).isInf)) = true → t.hart.elem vs.toNat b = 255
              ∧ ∀ e ∈ block b, t.hart.elem vd.toNat e = 0)
          ∧ (block b ≠ [] → ((block b).any (fun e => (x e).isNan || (x e).isInf)) = false →
              let sc : Int := match maxIlog ((block b).map x) with
                | none => 127
                | some l => min 254 (max 0 (l - emax + 127))
              t.hart.elem vs.toNat b = sc.toNat
              ∧ ∀ e ∈ block b, t.hart.elem vd.toNat e =
                  (deliver dt m true (drawWord h.seed e) (.real ((x e).scale (127 - sc)))).1 % 2 ^ tagWidth dt)
          ∧ (∀ e, b * n ≤ e → e < b * n + n → e ∉ block b → t.hart.elem vd.toNat e = h.elem vd.toNat e))
    ∧ (dt.isArith = true → (emaxOf (h.tag va.toNat)).isSome = true →
      let one (e : Nat) : Nat × Flags := deliver dt m sat (drawWord h.seed e) (.real (scaled (x e) (h.elem vs.toNat (e / n))))
      let es := activesOf h g h.n
      vectorResult (.vdqnt g vd va vs sat rnd) s vd.toNat es (fun e => (one e).1) (es.foldl (fun f e => f ||| (one e).2) 0)
        (m == .sr && !es.isEmpty))

namespace Sys2Proof.Spec

/-- A non-blocking vector instruction enters the non-blocking queue with its elements, or waits for a place there (R295, R306). -/
def entersNb (i : Instr) (s : State) (tc : BitVec 3) (es : List NbElem) : Prop :=
  (s.hart.nbQ.length < Config.nbDepth → ∃ o, o.todo = es ∧ o.tc = tc ∧ o.halt = false ∧ o.mode = s.hart.mode ∧ o.tenant = s.hart.tenant ∧
    exec i s = .next (s.upd (fun h => { h with nbQ := h.nbQ ++ [o], vstart := 0 })).completed)
  ∧ (Config.nbDepth ≤ s.hart.nbQ.length → exec i s = .next s.waiting)

end Sys2Proof.Spec

/-- R39, R161, R167, R169, R198, R306: under the guard that is always false a vector instruction changes nothing but `vstart`, which it clears,
and the moves leave that alone too; a reduction still writes its rows, a pass-queue form still passes the carry of `vqin` on, and a
non-blocking load or store still enters its queue, with no element (R306, R307; that these three still act is log 52). -/
def Sys2Proof.Spec.AlwaysFalseGuards : Prop :=
  ∀ (s : State) (g : Hdr) (vd va vb : VReg) (sat : Bool) (rnd : BitVec 2),
    s.Ready g.wm → s.hart.Fresh → g.pg = 0 → g.pn = true →
    (let o : VBin := ⟨false, ⟨va, .none⟩, ⟨vb, .none⟩⟩
     exec (.vadd g vd o sat rnd) s = .next (s.upd (fun h => { h with vstart := 0 })).completed
     ∧ exec (.vmov g vd ⟨va, .none⟩) s = .next s.completed
     ∧ exec (.vtrans g vd va) s = .next (s.upd (fun h => { h with vstart := 0 })).completed)
    ∧ (vd.toNat < s.hart.nregs → va.toNat < s.hart.nregs → s.hart.regBusy vd.toNat = false → s.hart.regBusy va.toNat = false →
        s.hart.mxReads vd.toNat = false → s.hart.lenOk [vd.toNat, va.toNat] = true → s.hart.tag va.toNat = s.hart.tag vd.toNat → (s.hart.tag va.toNat).isInt = true →
        (s.hart.tag va.toNat).isArith = true →
        (0 < s.hart.vl → ∃ t, Completes (.vred g .add vd va sat rnd) s t ∧ ∀ r, r < s.hart.vh → t.hart.elem vd.toNat r = 0)
        ∧ (let carry : Word := BitVec.ofNat 64 (s.hart.vqin.toNat % 2 ^ tagWidth (s.hart.tag vd.toNat))
           exec (.vadd g vd ⟨true, ⟨0, .none⟩, ⟨va, .none⟩⟩ sat rnd) s =
            .next (s.upd (fun h => { h with vqin := carry, vqout := carry, vstart := 0 })).completed))
    ∧ ∀ (xa : XReg) (t : VmTail), t.nb = true → vd.toNat < s.hart.nregs → s.hart.regBusy vd.toNat = false → s.hart.mxReads vd.toNat = false →
        s.hart.unitOk vd.toNat false = true →
        entersNb (.vld g vd xa t) s t.tc [] ∧ entersNb (.vst g vd xa t) s t.tc []

/-! ## Vector memory -/

namespace Sys2Proof.Spec

/-- The place of an element: its address, and the bit in its first byte. -/
def placeOf (x : NbElem) : Nat × Word × Nat := (x.e, x.va, x.bit)

/-- One form of a vector load or store: the instruction, the registers it names, its own checks, its elements, the bits of an element, and
whether it is a cluster-spanning form (R258, R263). -/
structure VForm where
  i    : Instr
  regs : List Nat
  ok   : Prop
  es   : List NbElem
  w    : Nat
  cl   : Bool

/-- The loads (R263). -/
def loadForms (s : State) (g : Hdr) (vd vb : VReg) (xa xb : XReg) (sc : BitVec 2) (t : VmTail) : List VForm :=
  let h := s.hart
  let tag := h.tag vd.toNat
  let w := memBits tag
  let one := h.lenOk [vd.toNat] = true
  let index := h.lenOk [vd.toNat, vb.toNat] = true ∧ Tag.isByte tag = true ∧ Tag.isIndex (h.tag vb.toNat) = true
  [⟨.vld g vd xa t, [vd.toNat], one ∧ (tag.isBlock = true → h.n % 32 = 0), h.unitElems g tag (s.x xa) none, w, false⟩,
   ⟨.vldP g vd xa xb t, [vd.toNat], one ∧ (tag.isBlock = true → h.vl % 32 = 0) ∧ (tag.isBlock = false → h.vl * tagWidth tag % 8 = 0),
    h.unitElems g tag (s.x xa) (some (s.x xb)), w, false⟩,
   ⟨.vlds g vd xa xb t, [vd.toNat], one ∧ Tag.isByte tag = true, h.strideElems g (s.x xa) (s.x xb), w, false⟩,
   ⟨.vgth g vd xa vb sc t, [vd.toNat, vb.toNat], index, h.indexElems g (s.x xa) vb sc, w, false⟩,
   ⟨.vgthCl g vd xa vb sc t, [vd.toNat, vb.toNat], index, h.indexElems g (s.clBase xa) vb sc, w, true⟩]

/-- The stores (R263): the same forms, with the bits of the register as data. -/
def storeForms (s : State) (g : Hdr) (vs vb : VReg) (xa xb : XReg) (sc : BitVec 2) (t : VmTail) : List VForm :=
  let h := s.hart
  let tag := h.tag vs.toNat
  let w := memBits tag
  let one := h.lenOk [vs.toNat] = true
  let index := h.lenOk [vs.toNat, vb.toNat] = true ∧ Tag.isByte tag = true ∧ Tag.isIndex (h.tag vb.toNat) = true
  let data (es : List NbElem) := h.withData vs.toNat w es
  [⟨.vst g vs xa t, [vs.toNat], one ∧ (tag.isBlock = true → h.n % 32 = 0), data (h.unitElems g tag (s.x xa) none), w, false⟩,
   ⟨.vstP g vs xa xb t, [vs.toNat], one ∧ (tag.isBlock = true → h.vl % 32 = 0) ∧ (tag.isBlock = false → h.vl * tagWidth tag % 8 = 0),
    data (h.unitElems g tag (s.x xa) (some (s.x xb))), w, false⟩,
   ⟨.vsts g vs xa xb t, [vs.toNat], one ∧ Tag.isByte tag = true, data (h.strideElems g (s.x xa) (s.x xb)), w, false⟩,
   ⟨.vsct g vs xa vb sc t, [vs.toNat, vb.toNat], index, data (h.indexElems g (s.x xa) vb sc), w, false⟩,
   ⟨.vsctCl g vs xa vb sc t, [vs.toNat, vb.toNat], index, data (h.indexElems g (s.clBase xa) vb sc), w, true⟩]

/-- The access of one element of a form: a load, or a store. A cluster-spanning form looks at the cluster first (R245). -/
def loadAcc (evp : BitVec 2) (f : VForm) (x : NbElem) (s : State) : Except MemFault Loaded × State :=
  if f.cl then clGuard f.w x (fun s => s.loadElem (s.req .vector evp) true f.w x) s else s.loadElem (s.req .vector evp) true f.w x
def storeAcc (evp : BitVec 2) (f : VForm) (x : NbElem) (s : State) : Except MemFault Loaded × State :=
  let st (s : State) : Except MemFault Loaded × State := match s.storeElem (s.req .vector evp) f.w x with
    | (.ok _, s) => (.ok ⟨0, false, []⟩, s)
    | (.error e, s) => (.error e, s)
  if f.cl then clGuard f.w x st s else st s

/-- The bytes of this package that located spans take. -/
def heres : Except MemFault (List (Place × Nat)) × State → List (Nat × Nat)
  | (.ok ps, _) => ps.filterMap (fun p => match p.1 with
      | .here pa => some (pa, p.2)
      | .away _ => none)
  | (.error _, _) => []

/-- The bytes that a list of elements is stored to: each element's, located in the state behind the elements before it, as the
instruction locates them. -/
def storedTo (acc : NbElem → State → Except MemFault Loaded × State) (at_ : NbElem → State → List (Nat × Nat)) :
    List NbElem → State → List (Nat × Nat)
  | [], _ => []
  | x :: xs, s => at_ x s ++ storedTo acc at_ xs (acc x s).2

/-- Where one element of a store lies. -/
def elemAtOf (evp : BitVec 2) (w : Nat) (x : NbElem) (s : State) : List (Nat × Nat) :=
  heres (s.locateAll (s.req .vector evp) .write (pageSpans x.va (x.len w)))

/-- A blocking vector instruction that stores: it completes, no register of the hart changes, and no byte outside those it stores
to, none of which lies in the control space. -/
def storesOnly (i : Instr) (s s1 : State) (spans : List (Nat × Nat)) : Prop :=
  (∀ p ∈ spans, regionOf p.1 ≠ .sys) →
    ∃ u, Completes i s u ∧ u.hart.x = s.hart.x ∧ u.hart.p = s.hart.p ∧ u.hart.vst = s.hart.vst ∧ u.hart.vtag = s.hart.vtag
      ∧ u.hart.tok = s.hart.tok ∧ u.hart.vstart = 0 ∧ SameMemory s1 u ∧ ∀ a, (∀ p ∈ spans, a < p.1 ∨ p.1 + p.2 ≤ a) → u.byte a = s.byte a

end Sys2Proof.Spec

/-- R245, R263: where the elements of each form lie. -/
def Sys2Proof.Spec.VectorAddresses : Prop :=
  ∀ (s : State) (g : Hdr) (t : Tag) (vb : VReg) (b p : Word) (sc : BitVec 2), t.isBlock = false → s.hart.reissue = false →
    let h := s.hart
    let es := activesOf h g h.n
    let w := tagWidth t
    (h.unitElems g t b none).map placeOf = es.map (fun e => (e, b + BitVec.ofNat 64 (e * w / 8), e * w % 8))
    ∧ (h.unitElems g t b (some p)).map placeOf =
        es.map (fun e => (e, b + BitVec.ofNat 64 (e / h.vl) * p + BitVec.ofNat 64 (e % h.vl * w / 8), e % h.vl * w % 8))
    ∧ (h.strideElems g b p).map placeOf = es.map (fun e => (e, b + BitVec.ofNat 64 e * p, 0))
    ∧ (Tag.isIndex (h.tag vb.toNat) = true → (h.indexElems g b vb sc).map placeOf = es.map (fun e =>
        let x := BitVec.ofNat (tagWidth (h.tag vb.toNat)) (h.elem vb.toNat e)
        (e, b + (if (h.tag vb.toNat).isSigned then x.signExtend 64 else x.setWidth 64) * BitVec.ofNat 64 (2 ^ sc.toNat), 0)))

/-- R6, R258, R263: one element in memory: a load delivers its bits, a store changes its bits and no other, and an element that is not
aligned to its size raises MISALIGNED. The element lies within one line; where it straddles two, each part is accessed by itself. -/
def Sys2Proof.Spec.ElementsInMemory : Prop :=
  ∀ (s s1 : State) (r : Req) (w pa : Nat) (x : NbElem), s.MarksPast → s.NoFlips → 0 < w → w ≤ 64 → x.bit < 8 → x.data < 2 ^ w →
    (x.va.toNat % (if w % 8 = 0 then w / 8 else 1) ≠ 0 →
      s.loadElem r false w x = (.error { cause := .misaligned, addr := x.va }, s)
      ∧ s.storeElem r w x = (.error { cause := .misaligned, addr := x.va }, s))
    ∧ (x.va.toNat % (if w % 8 = 0 then w / 8 else 1) = 0 → (w % 8 = 0 → x.bit = 0) → x.va.toNat % 128 + x.len w ≤ 128 →
      regionOf pa ≠ .sys →
      (s.locate r .read x.va (x.len w) = (.ok (.here pa), s1) → ∃ l t, s.loadElem r false w x = (.ok l, t)
        ∧ l.v = s.seen.bytes pa (x.len w) / 2 ^ x.bit % 2 ^ w ∧ SameMemory s t)
      ∧ (s.locate r .write x.va (x.len w) = (.ok (.here pa), s1) → ∃ t, s.storeElem r w x = (.ok (), t)
        ∧ SameOutside s t pa (x.len w)
        ∧ let old := s.seen.bytes pa (x.len w)
          t.bytes pa (x.len w) = heldBits pa (x.len w)
            (old % 2 ^ x.bit + x.data * 2 ^ x.bit + old / 2 ^ (x.bit + w) * 2 ^ (x.bit + w))))

/-- R258, R259, R263: the blocking vector loads, when every element arrives: each loaded element is in its place of the destination, the
others keep their bits, and no other register changes; without last use no byte of memory does. -/
def Sys2Proof.Spec.VectorLoads : Prop :=
  ∀ (s s1 : State) (g : Hdr) (vd vb : VReg) (xa xb : XReg) (sc : BitVec 2) (t : VmTail) (done : List (NbElem × Loaded)),
    ∀ f ∈ loadForms s g vd vb xa xb sc t, s.VReady g f.regs (vmToken t) → f.ok → t.nb = false → s.NoFlips →
    runEach (loadAcc t.evp f) f.w f.es ⟨[], []⟩ s = (⟨done, []⟩, s1) →
    ∃ u, Completes f.i s u ∧ u.hart.x = s.hart.x ∧ u.hart.p = s.hart.p ∧ u.hart.vtag = s.hart.vtag ∧ u.hart.tok = s.hart.tok
      ∧ u.hart.fcsr = s.hart.fcsr ∧ u.hart.vstart = 0
      ∧ (∀ d ∈ done, elemAt f.w (u.hart.vstr vd.toNat) (fieldIx f.w d.1.e) = d.2.v)
      ∧ (∀ k, k ∉ f.es.map (fun x => fieldIx f.w x.e) →
          elemAt f.w (u.hart.vstr vd.toNat) k = elemAt f.w (s.hart.vstr vd.toNat) k)
      ∧ (∀ v, v < s.hart.nregs → v ≠ vd.toNat → u.hart.vstr v = s.hart.vstr v)
      ∧ (t.lu = false → SameMemory s u)

/-- R258, R259, R263: the blocking vector stores, when no element faults: the elements are stored in ascending order, and nothing else
changes. -/
def Sys2Proof.Spec.VectorStores : Prop :=
  ∀ (s s1 : State) (g : Hdr) (vs vb : VReg) (xa xb : XReg) (sc : BitVec 2) (t : VmTail) (done : List (NbElem × Loaded)),
    ∀ f ∈ storeForms s g vs vb xa xb sc t, s.VReady g f.regs (vmToken t) (dst := []) → f.ok → t.nb = false → s.NoFlips →
    runEach (storeAcc t.evp f) f.w f.es ⟨[], []⟩ s = (⟨done, []⟩, s1) →
    storesOnly f.i s s1 (storedTo (storeAcc t.evp f) (elemAtOf t.evp f.w) f.es s)

/-- R306: the non-blocking forms enter the non-blocking queue with the elements of the blocking ones, and change no memory yet. -/
def Sys2Proof.Spec.NonBlockingForms : Prop :=
  ∀ (s : State) (g : Hdr) (v vb : VReg) (xa xb : XReg) (sc : BitVec 2) (t : VmTail), t.nb = true →
    (∀ f ∈ loadForms s g v vb xa xb sc t, s.VReady g f.regs → f.ok → entersNb f.i s t.tc f.es)
    ∧ ∀ f ∈ storeForms s g v vb xa xb sc t, s.VReady g f.regs (dst := []) → f.ok → entersNb f.i s t.tc f.es

/-- R259, R352, R353: a blocking load that meets a fault on one element delivers every other element that does not overlap one not done, and
traps at the instruction with VEC set and the elements not done in `fm`. -/
def Sys2Proof.Spec.VectorFaults : Prop :=
  ∀ (s s1 : State) (g : Hdr) (vd vb : VReg) (xa xb : XReg) (sc : BitVec 2) (t : VmTail) (done : List (NbElem × Loaded))
    (x : NbElem) (e : MemFault),
    ∀ f ∈ loadForms s g vd vb xa xb sc t, s.VReady g f.regs (vmToken t) → f.ok → t.nb = false → t.lu = false → f.w ≤ 64 → e.amb = false →
    runEach (loadAcc t.evp f) f.w f.es ⟨[], []⟩ s = (⟨done, [(x, some e)]⟩, s1) → s.hart.mode = .u → s1.hart.firstPending = none →
    (s1.die (hidDie s1.hart.hid)).tdeleg.getLsbD e.cause.code.toNat = false →
    ∃ u, exec f.i s = .next u ∧ u.hart.tcause = e.cause.code ∧ u.hart.tepc = s.hart.pc ∧ u.hart.tval = e.addr
      ∧ u.hart.tstat.getLsbD 7 = true ∧ u.hart.fm = BitVec.twoPow 32768 x.e ∧ u.hart.vstart = BitVec.ofNat 15 x.e
      ∧ u.hart.mode = .s ∧ u.hart.pc = s.hart.tvec
      ∧ ∀ d ∈ done, elemAt f.w (u.hart.vstr vd.toNat) d.1.e = d.2.v

/-- R264, R265: VLDW slides the tile down by as many elements as it then loads at the end; PREF changes no register, and, without last
use, no byte. -/
def Sys2Proof.Spec.WindowLoadsAndPrefetch : Prop :=
  ∀ (s s1 : State) (g : Hdr) (vd : VReg) (xa xb : XReg) (t : VmTail) (done : List (NbElem × Loaded)), s.NoFlips →
    (let h := s.hart
     let tag := h.tag vd.toNat
     let w := tagWidth tag
     let k := min (s.x xb).toNat h.n
     let slide := (activesOf h g h.n).filter (fun e => decide (e < h.n - k))
     let es : List NbElem := ((activesOf h g h.n).filter (fun e => decide (h.n - k ≤ e))).map (fun e =>
       { e := e, va := s.x xa + BitVec.ofNat 64 ((e - (h.n - k)) * (w / 8)) })
     s.VReady g [vd.toNat] (vmToken t) → h.lenOk [vd.toNat] = true → Tag.isByte tag = true →
       runEach (fun x s => s.loadElem (s.req .vector t.evp) true w x) w es ⟨[], []⟩
         (s.upd (fun h => h.writeElems vd.toNat w (slide.map (fun e => (e, h.elem vd.toNat (e + k)))))) = (⟨done, []⟩, s1) →
       ∃ u, Completes (.vldw g vd xa xb t) s u ∧ u.hart.x = s.hart.x ∧ u.hart.p = s.hart.p
         ∧ (∀ e ∈ slide, u.hart.elem vd.toNat e = h.elem vd.toNat (e + k))
         ∧ (∀ d ∈ done, u.hart.elem vd.toNat d.1.e = d.2.v)
         ∧ (∀ e, e ∉ activesOf h g h.n → u.hart.elem vd.toNat e = h.elem vd.toNat e)
         ∧ (∀ v, v < h.nregs → v ≠ vd.toNat → u.hart.vstr v = h.vstr v) ∧ (t.lu = false → SameMemory s u))
    ∧ (s.VReady g [] → ∃ u, Completes (.pref g xa xb t) s u ∧ u.hart.x = s.hart.x ∧ u.hart.p = s.hart.p ∧ u.hart.vst = s.hart.vst
        ∧ u.hart.vtag = s.hart.vtag ∧ u.hart.vstart = 0 ∧ (t.lu = false → SameMemory s u))

/-- R326, R327, R328, R331: VAMO, VCAS and VBINC, when no element faults: each element of `vd` receives the old value at its address unless
`.nr` is given, and `fcsr` the flags of its operation; VSTM stores each element at every replica base. Nothing else changes but the
bytes stored to. A non-blocking form enters the non-blocking queue, or waits for a place there; with AQ the queue is performed at once (log 69). -/
def Sys2Proof.Spec.VectorAtomicsAndMulticast : Prop :=
  ∀ (s s1 : State) (g : Hdr) (op : AOp) (nr : Bool) (vd vb : VReg) (xa : XReg) (sc r : BitVec 2) (o : Ord) (t : VmTail)
    (done : List (NbElem × Loaded)), s.NoFlips →
    let h := s.hart
    let tag := h.tag vd.toNat
    let w := tagWidth tag
    let atom (i : Instr) (k : Nat) (two nr : Bool) : Prop :=
      let regs := [vd.toNat, vb.toNat] ++ (if two then [vd.toNat + 1] else [])
      let es := h.withData vd.toNat w (h.indexElems g (s.x xa) vb sc)
      let acc (x : NbElem) (s : State) : Except MemFault Loaded × State :=
        match s.atomElem (s.req .vector t.evp) (elemSrc s.hart.hid x.va) tag k (elemAt w (h.vstr (vd.toNat + 1)) x.e) x with
        | (.ok old, s) => (.ok ⟨old, false, []⟩, s)
        | (.error f, s) => (.error f, s)
      let spans := storedTo acc (fun x s => heres (match s.locate (s.req .vector t.evp) .atomic x.va (w / 8) with
        | (.ok p, s) => (.ok [(p, w / 8)], s)
        | (.error f, s) => (.error f, s))) es s
      s.VReady g regs (vmToken t) (if nr then [] else [vd.toNat]) → h.lenOk [vd.toNat, vb.toNat] = true → Tag.isIndex (h.tag vb.toNat) = true → vatomTag k tag = true →
        (two = true → h.tag (vd.toNat + 1) = tag) →
        (t.nb = false → runEach acc w es ⟨[], []⟩ s = (⟨done, []⟩, s1) →
          ∃ u, Completes i s u ∧ u.hart.x = h.x ∧ u.hart.p = h.p ∧ u.hart.vtag = h.vtag
            ∧ (∀ d ∈ done, u.hart.elem vd.toNat d.1.e = if nr then h.elem vd.toNat d.1.e else d.2.v % 2 ^ w)
            ∧ (∀ e, e ∉ es.map (·.e) → u.hart.elem vd.toNat e = h.elem vd.toNat e)
            ∧ (∀ v, v < h.nregs → v ≠ vd.toNat → u.hart.vstr v = h.vstr v)
            ∧ u.hart.fcsr = done.foldl (fun c d =>
                c ||| (vatomNew tag k d.1.data (elemAt w (h.vstr (vd.toNat + 1)) d.1.e) d.2.v).2.setWidth 64) h.fcsr
            ∧ ∀ a, (∀ p ∈ spans, a < p.1 ∨ p.1 + p.2 ≤ a) → u.byte a = s.byte a)
        ∧ (t.nb = true → s.hart.nbQ.length < Config.nbDepth → ∃ q, q.todo.map placeOf = es.map placeOf ∧ q.tc = t.tc
            ∧ q.aq = o.aq ∧ q.rl = o.rl ∧ let u := s.upd (fun h => { h with nbQ := h.nbQ ++ [q], vstart := 0 })
            exec i s = .next (if o.aq then u.nbDrain else u).completed)
        ∧ (t.nb = true → Config.nbDepth ≤ s.hart.nbQ.length → exec i s = .next s.waiting)
    atom (.vamo g op nr vd xa vb sc o t) (aopCode op) false nr
    ∧ atom (.vcas g vd xa vb sc o t) 8 true false
    ∧ atom (.vbinc g vd xa vb sc o t) 9 false false
    ∧ (let bases := s.replicaBases xa r
       let es := h.withData vd.toNat w (h.strideElems g 0 (BitVec.ofNat 64 (w / 8)))
       let acc (x : NbElem) (s : State) : Except MemFault Loaded × State := match s.storeReplicas (s.req .vector t.evp) w x bases with
         | (.ok _, s) => (.ok ⟨0, false, []⟩, s)
         | (.error f, s) => (.error f, s)
       let one (b : Word) (x : NbElem) (s : State) : Except MemFault Loaded × State :=
         match s.storeElem (s.req .vector t.evp) w { x with va := b + x.va } with
         | (.ok _, s) => (.ok ⟨0, false, []⟩, s)
         | (.error f, s) => (.error f, s)
       let rec_ (x : NbElem) (s : State) : List (Nat × Nat) :=
         (bases.foldl (fun (a : List (Nat × Nat) × State) b =>
           (a.1 ++ elemAtOf t.evp w { x with va := b + x.va } a.2, (one b x a.2).2)) ([], s)).1
       s.VReady g [vd.toNat] (vmToken t) (dst := []) → h.lenOk [vd.toNat] = true → Tag.isByte tag = true →
         (t.nb = false → runSpans acc (fun x => bases.map (fun b => (b + x.va, x.len w))) es ⟨[], []⟩ s = (⟨done, []⟩, s1) → storesOnly (.vstm g vd xa r t) s s1 (storedTo acc rec_ es s))
         ∧ (t.nb = true → entersNb (.vstm g vd xa r t) s t.tc es))

/-- R86, R327: the new value of one element of a vector atomic: integers wrap, VMIN and VMAX look at the sign of the tag, VCAS
compares bits, VBINC counts up to a bound; sums of reals are exact sums rounded once to nearest, with the flags of both (which
`VectorAtomicsAndMulticast` shows in `fcsr`), and their minima and maxima are those of R86. -/
def Sys2Proof.Spec.VectorAtomicValues : Prop :=
  ∀ (t : Tag) (old v v2 : Nat), old < 2 ^ tagWidth t → v < 2 ^ tagWidth t →
    (t.isInt = true → vatomTag 9 t = true →
      let w := tagWidth t
      let int (b : Nat) : Int := if t.isSigned then (BitVec.ofNat w b).toInt else b
      vatomNew t 0 v v2 old = (some ((old + v) % 2 ^ w), 0)
      ∧ vatomNew t 1 v v2 old = (some (if int old ≤ int v then old else v), 0)
      ∧ vatomNew t 2 v v2 old = (some (if int old ≤ int v then v else old), 0)
      ∧ vatomNew t 3 v v2 old = (some (old &&& v), 0) ∧ vatomNew t 4 v v2 old = (some (old ||| v), 0)
      ∧ vatomNew t 5 v v2 old = (some (old ^^^ v), 0)
      ∧ vatomNew t 9 v v2 old = (if int old < int v then some ((old + 1) % 2 ^ w) else none, 0))
    ∧ (t = .fp32 ∨ t = .fp64 →
      let f : Fp := if t = .fp32 then fp32 else fp64
      (let sum := (f.value old).add false (f.value v)
       let r := f.round .rne false 0 sum.1
       vatomNew t 0 v v2 old = (some r.1, sum.2 ||| r.2))
      ∧ (∃ r, vatomNew t 1 v v2 old = (some r, 0) ∧ minMaxOf f true old v r)
      ∧ ∃ r, vatomNew t 2 v v2 old = (some r, 0) ∧ minMaxOf f false old v r)
    ∧ vatomNew t 6 v v2 old = (some v, 0)
    ∧ vatomNew t 8 v v2 old = (if old = v then some v2 else none, 0)

/-! ## Register push -/

namespace Sys2Proof.Spec

/-- What VPUSH captures of its source register (R335). -/
def captures (s : State) (vs : VReg) (d : Word) (tc : BitVec 3) (nb : Bool) (p : Push) : Prop :=
  p.no = s.hart.pushNo ∧ p.desc = d ∧ p.tag = s.hart.tag vs.toNat ∧ p.n = s.hart.n ∧ p.tc = tc ∧ p.nb = nb ∧ p.tenant = s.hart.tenant
    ∧ p.nacks = 0 ∧ p.next = 0 ∧ p.gone = false
    ∧ (p.tag.isBlock = false → ∀ e, e < p.n → elemAt (tagWidth p.tag) p.data e = s.hart.elem vs.toNat e)
    ∧ (p.tag.isBlock = true → ∀ b, b < (p.n + 31) / 32 → elemAt (tagBlockBits p.tag) p.data b = elemAt (tagBlockBits p.tag) (s.hart.vstr vs.toNat) b)

/-- A register whose tag is NONE, or whose tag is one of R72 and under which the tile fits (R155, R338). -/
def fitsTile (h : Hart) (v : VReg) : Prop :=
  h.vtag[v.toNat]'v.isLt = 0 ∨ (h.tag v.toNat ≠ .none ∧ h.n ≤ mvl (h.tag v.toNat) h.nregs)
/-- A list of pushes, whichever of them have been given to the transport. -/
def asIssued (ps : List Push) : List Push := ps.map (fun p => { p with sent := false })
/-- None of the hart's earlier pushes is one that may be sent to another package now, and has not been. -/
def nothingToSend (s : State) : Prop :=
  ∀ q ∈ s.hart.pushes, q.no < s.hart.pushNo ∧ (q.sent = true ∨ hidPkg (pushHid q.desc) = s.pkg ∨ s.maySend s.hart q = false)

/-- The next state changes the hart in focus only, and no part of it but `t.hart` says; every byte of memory and every other hart stay. -/
def onlyHart (s t : State) : Prop := t = { s with hart := t.hart }

end Sys2Proof.Spec

/-- R306, R308, R335, R337, R384, R386: VPUSH captures its register, tag and lengths, sets its token (or enters the non-blocking queue) and goes
on (a non-blocking one holds an entry of that queue: log 50). A push to another package, on the port group of line 0 (log 74), takes the next number of its flow and the next tag of its source, unless an earlier push of the hart to
the same register is without an answer or its queue is halted: then it waits. With the queue full VPUSH waits, and a descriptor with bits
above 25 is refused. -/
def Sys2Proof.Spec.PushesStart : Prop :=
  ∀ (s : State) (wm : BitVec 8) (sc : Scope) (vs : VReg) (xa : XReg) (tc : BitVec 3) (nb : Bool),
    s.VReady (.plain wm) [vs.toNat] (if nb || tc == 0 then none else some tc) [] → s.hart.lenOk [vs.toNat] = true →
    let i : Instr := .vpush wm sc vs xa tc nb
    let d := s.x xa
    let dst : BitVec 7 := d.extractLsb' 13 7
    let n := Tab.get (fun _ => 0) s.outNo dst.toNat
    let src := pushSrc s.hart.hid nb
    let goes : Bool := dst != s.pkg && !s.hart.pushes.any (fun q => q.desc == d) && !(nb && s.hart.nbSt.halt)
    (d.toNat < 2 ^ 26 → (nb = true → s.hart.nbQ.length < Config.nbDepth) → ∃ t p, Completes i s t ∧ captures s vs d tc nb p
      ∧ asIssued t.hart.pushes = asIssued (s.hart.pushes ++ [p]) ∧ t.hart.pushNo = s.hart.pushNo + 1
      ∧ t.hart.tok = (if nb = false ∧ tc ≠ 0 then s.hart.tok ||| BitVec.twoPow 8 tc.toNat else s.hart.tok)
      ∧ (nb = false → t.hart.nbQ = s.hart.nbQ) ∧ (nb = true → t.hart.nbQ.map (·.kind) = s.hart.nbQ.map (·.kind) ++ [.push p.no])
      ∧ t.hart.x = s.hart.x ∧ t.hart.p = s.hart.p ∧ t.hart.vst = s.hart.vst ∧ t.hart.vtag = s.hart.vtag ∧ t.hart.full = s.hart.full
      ∧ t.hart.vstart = 0 ∧ t.rest = s.rest ∧ t.mem = s.mem
      ∧ (nothingToSend s → t.hart.pushes = s.hart.pushes ++ [{ p with sent := goes }]
          ∧ (goes = false → t.outbox = s.outbox ∧ t.outNo = s.outNo)
          ∧ (goes = true → t.outbox = s.outbox ++ [⟨s.hart.hid.toNat, p.no, dst.toNat, n, src,
                (s.nextTag (awayKey src dst.toNat (hidDie (pushHid d)))).1, s.time, s.time, 1, s.groupFor dst.toNat 0⟩]
              ∧ Tab.get (fun _ => 0) t.outNo dst.toNat = n + 1)))
    ∧ (d.toNat < 2 ^ 26 → nb = true → Config.nbDepth ≤ s.hart.nbQ.length → exec i s = .next s.waiting)
    ∧ (2 ^ 26 ≤ d.toNat → exec i s = .next (s.takeTrap { cause := .illegalOperand, epc := s.hart.pc, val := encode i }))

/-- R155, R336, R338: VTAKE waits for a full register, takes its string and its tag, and makes it empty: the time of a reservation of it begins.
Two names of one register, and a tile that does not fit a register when the instruction issues (and not again while it waits: the model's reading, log 51), raise ILLEGAL_OPERAND. -/
def Sys2Proof.Spec.TakesWaitForFull : Prop :=
  ∀ (s : State) (wm : BitVec 8) (sc : Scope) (vd vm : VReg),
    s.VReady (.plain wm) [vd.toNat, vm.toNat] →
    let fits : Prop := vd ≠ vm ∧ (s.hart.waitStart.isSome = true ∨ (fitsTile s.hart vd ∧ fitsTile s.hart vm))
    (¬fits → exec (.vtake wm sc vd vm) s =
      .next (s.takeTrap { cause := .illegalOperand, epc := s.hart.pc, val := encode (.vtake wm sc vd vm) }))
    ∧ (fits →
      (s.hart.full.getLsbD vm.toNat = false → exec (.vtake wm sc vd vm) s = .next s.waiting)
      ∧ (s.hart.full.getLsbD vm.toNat = true → ∃ t, Completes (.vtake wm sc vd vm) s t ∧ onlyHart s t
        ∧ t.hart.vstr vd.toNat = s.hart.vstr vm.toNat ∧ t.hart.tag vd.toNat = s.hart.tag vm.toNat
        ∧ (∀ i, t.hart.full.getLsbD i = (s.hart.full.getLsbD i && i != vm.toNat))
        ∧ t.hart.resv = s.hart.resv.map (fun r => if r.1 = vm.toNat then (r.1, r.2.1, s.cycle + 2 ^ 15) else r)
        ∧ (∀ u, u < s.hart.nregs → u ≠ vd.toNat → t.hart.vstr u = s.hart.vstr u ∧ t.hart.tag u = s.hart.tag u)
        ∧ t.hart.x = s.hart.x ∧ t.hart.p = s.hart.p ∧ t.hart.tok = s.hart.tok))

/-- R339: VFES raises ILLEGAL_OPERAND when vM is not below N (that it checks no length is the model's reading, log 51); else `.rd` delivers the full bit, `.clr` delivers it and clears it, `.set`
delivers it and sets it. No other full bit and no other register changes. -/
def Obligations.FullBitForms : Prop :=
  ∀ (s : State) (wm : BitVec 8) (vm : VReg) (xd : XReg), s.VReady (.plain wm) [] →
    (∀ i, i = .vfesRd wm xd vm ∨ i = .vfesClr wm xd vm ∨ i = .vfesSet wm xd vm → s.hart.nregs ≤ vm.toNat →
      exec i s = .next (s.takeTrap { cause := .illegalOperand, epc := s.hart.pc, val := encode i }))
    ∧ (vm.toNat < s.hart.nregs →
      let vfes (i : Instr) (new : Bool) : Prop := ∃ t, Completes i s t ∧ onlyHart s t
        ∧ (xd ≠ 0 → t.x xd = if s.hart.full.getLsbD vm.toNat then 1 else 0)
        ∧ (∀ j, t.hart.full.getLsbD j = if j = vm.toNat then new else s.hart.full.getLsbD j)
        ∧ (∀ j, j ≠ xd → t.x j = s.x j) ∧ t.hart.p = s.hart.p ∧ t.hart.vst = s.hart.vst ∧ t.hart.vtag = s.hart.vtag ∧ t.hart.tok = s.hart.tok
      vfes (.vfesRd wm xd vm) (s.hart.full.getLsbD vm.toNat) ∧ vfes (.vfesClr wm xd vm) false ∧ vfes (.vfesSet wm xd vm) true)

namespace Sys2Proof.Spec

/-- The answer of a target of this package that is not parked, in the order of R336: a cause, or whether it accepts. -/
def answerOf (s : State) (sender : BitVec 20) (p : Push) : Except Cause Bool :=
  let t : BitVec 20 := p.desc.extractLsb' 0 20
  let v := p.desc.toNat / 2 ^ 20 % 64
  let h := s.getHart t
  let bits := if p.tag.isBlock then (p.n + 31) / 32 * tagBlockBits p.tag else p.n * tagWidth p.tag
  if namesHart s.pkg s.mgmtDie t = false ∨ h.launch = none then .error .remoteFault
  else if h.tenant ≠ p.tenant then .error .accessFault
  else if h.nregs ≤ v ∨ 8 * (Config.vstBytes / h.nregs) < bits then .error .remoteFault
  else .ok (!h.full.getLsbD v && !h.resv.any (fun r => r.1 == v && r.2.1 != sender.toNat && decide (s.cycleOf (hidDie t) < r.2.2)))

/-- What an answer does (R335, R336): an accepted push lands and is done; a rejected one makes its cause pending (or halts the
non-blocking queue); one turned away is sent again 64 · 2^min(n, 8) cycles later, unchanged. -/
def answered (s u : State) (hid : BitVec 20) (p : Push) : Prop :=
  let t : BitVec 20 := p.desc.extractLsb' 0 20
  let v := p.desc.toNat / 2 ^ 20 % 64
  let h := s.getHart hid
  let h' := u.getHart hid
  let freed : Prop := p.nb = false → h'.tok = if p.tc = 0 then h.tok else h.tok &&& ~~~BitVec.twoPow 8 p.tc.toNat
  h'.x = h.x ∧ h'.pc = h.pc ∧ h'.mode = h.mode ∧ SameMemory s u ∧
  match answerOf s hid p with
  | .ok true => asIssued h'.pushes = asIssued (h.pushes.filter (fun q => q.no != p.no)) ∧ freed ∧ h'.pend = h.pend
      ∧ (u.getHart t).full.getLsbD v = true ∧ (u.getHart t).vtag.toList[v]? = some p.tag.code
      ∧ (p.tag.isBlock = false → ∀ e, e < p.n → elemAt (tagWidth p.tag) ((u.getHart t).vstr v) e = elemAt (tagWidth p.tag) p.data e)
      ∧ (∀ r ∈ (u.getHart t).resv, r.1 ≠ v)
      ∧ (∀ w, w < (s.getHart t).nregs → w ≠ v → (u.getHart t).vstr w = (s.getHart t).vstr w)
  | .ok false => asIssued h'.pushes = asIssued (h.pushes.map (fun q => if q.no = p.no then
          { q with nacks := q.nacks + 1, next := s.cycleOf (hidDie hid) + 64 * 2 ^ min (q.nacks + 1) 8 } else q))
      ∧ h'.tok = h.tok ∧ h'.pend = h.pend ∧ (u.getHart t).full = (s.getHart t).full ∧ (u.getHart t).vst = (s.getHart t).vst
  | .error c => asIssued h'.pushes = asIssued (h.pushes.filter (fun q => q.no != p.no)) ∧ freed ∧ (p.nb = false → h'.pend.push = h.pend.push ++ [(c, p.desc)]) ∧ (p.nb = true → h'.nbSt.halt = true)
      ∧ (u.getHart t).full = (s.getHart t).full ∧ (u.getHart t).vst = (s.getHart t).vst

end Sys2Proof.Spec

/-- R335, R336, R375, R385: PUSH_ARRIVAL and PUSH_RETRY carry out the answer of a target of this package that is not parked: acceptance, rejection,
or another try. A push that no path carries to its die ends with REMOTE_FAULT, bit 0 of the address clear; one whose answer no path carries back
ends with it too, bit 0 set when it was never refused. PUSH_RESERVATION_EXPIRE ends the reservations of empty registers whose time has passed. -/
def Obligations.PushesArrive : Prop :=
  ∀ (s : State) (hid : BitVec 20) (p : Push) (k : Nat),
    let t : BitVec 20 := p.desc.extractLsb' 0 20
    ((s.getHart hid).hid = hid → (s.getHart t).hid = t → hidPkg t = s.pkg → s.isParked t = false →
      (s.getHart hid).pushes.find? (fun q => q.no == p.no) = some p → s.maySend (s.getHart hid) p = true →
      (p.nb = true → ∃ o ∈ (s.getHart hid).nbQ, o.kind = .push p.no) → s.input = .work hid.toNat p.no k →
      let there := s.carries (hidDie hid) (hidDie t)
      let back := s.carries (hidDie t) (hidDie hid)
      let lost (val : Word) : Prop := ∃ u, exec .pushArrival s = .next u ∧ SameMemory s u ∧ (u.getHart hid).x = (s.getHart hid).x
        ∧ asIssued (u.getHart hid).pushes = asIssued ((s.getHart hid).pushes.filter (fun q => q.no != p.no))
        ∧ (p.nb = false → (u.getHart hid).pend.push = (s.getHart hid).pend.push ++ [(.remoteFault, val)])
        ∧ (p.nb = true → (u.getHart hid).nbSt.halt = true)
        ∧ ((u.getHart t).full.getLsbD (p.desc.toNat / 2 ^ 20 % 64) =
            ((s.getHart t).full.getLsbD (p.desc.toNat / 2 ^ 20 % 64) || (there && decide (answerOf s hid p matches .ok true))))
      (there = true → back = true → (∃ u, exec .pushArrival s = .next u ∧ answered s u hid p)
        ∧ (p.nacks ≠ 0 → ∃ u, exec .pushRetry s = .next u ∧ answered s u hid p))
      ∧ (there = false → lost (p.desc &&& ~~~1#64))
      ∧ (there = true → back = false → lost (if p.nacks = 0 then p.desc ||| 1 else p.desc &&& ~~~1#64)))
    ∧ ((s.getHart hid).hid = hid → s.input = .hart hid.toNat → ∃ u, exec .pushReservationExpire s = .next u ∧ SameMemory s u
      ∧ (u.getHart hid).resv = (s.getHart hid).resv.filter
          (fun r => (s.getHart hid).full.getLsbD r.1 || decide (s.cycleOf (hidDie hid) < r.2.2))
      ∧ (u.getHart hid).full = (s.getHart hid).full ∧ (u.getHart hid).x = (s.getHart hid).x)

/-! ## Windows and the weight store -/

/-- R249, R250 to R253, R267: WOPEN opens window `w`, WCLOSE closes it, WINV makes it read what memory holds from then on; a window open before
loses its copies on its own die. No other window and no memory changes. WFRAC_WRITE sets the share of the quay, at most 8. (An MX instruction leaves `vstart` as it is: log 76.) -/
def Sys2Proof.Spec.WindowsChange : Prop :=
  ∀ (s : State) (g : Hdr) (w : BitVec 2) (xa xb : XReg), s.VReady g [] →
    let b := s.x xa
    let n := s.x xb
    let fits := b.toNat % 128 = 0 ∧ n.toNat % 128 = 0 ∧ 128 ≤ n.toNat ∧ n.toNat ≤ 2 ^ 40 ∧ b.toNat + n.toNat ≤ 2 ^ 57
    let old := s.hart.win[w.toNat]'w.isLt
    let becomes (i : Instr) (v : Option Win) : Prop := ∃ t, Completes i s t
      ∧ t.hart.win = s.hart.win.set w.toNat v w.isLt ∧ t.hart.x = s.hart.x ∧ t.hart.p = s.hart.p ∧ t.hart.vst = s.hart.vst
      ∧ t.hart.vstart = s.hart.vstart ∧ t.rest = s.rest ∧ t.mem = s.mem
      ∧ (∀ c ∈ t.copies, c ∈ s.copies)
      ∧ (∀ c ∈ s.copies, (c.die ≠ hidDie s.hart.hid ∨ c.tenant ≠ s.hart.tenant ∨ old = none) → c ∈ t.copies)
      ∧ (∀ (x : Win) (k : Nat), old = some x → k < x.len.toNat / 128 → isDirect (x.base + BitVec.ofNat 64 (128 * k)) = true → x.base.toNat % 128 = 0 →
          x.base.toNat + x.len.toNat ≤ 2 ^ 57 → ∀ c ∈ t.copies, c.die = hidDie s.hart.hid → c.tenant = s.hart.tenant →
          c.line ≠ (x.base.toNat + 128 * k) % 2 ^ 52 / 128)
    (s.hart.guard g.grd = false → exec (.wopen g w xa xb) s = .next s.completed ∧ exec (.wclose g w) s = .next s.completed
      ∧ exec (.winv g w) s = .next s.completed)
    ∧ (s.hart.guard g.grd = true →
      (fits → becomes (.wopen g w xa xb) (some ⟨b, n, s.tick⟩))
      ∧ (¬fits → exec (.wopen g w xa xb) s = .next (s.takeTrap { cause := .illegalOperand, epc := s.hart.pc, val := encode (.wopen g w xa xb) }))
      ∧ becomes (.wclose g w) none ∧ becomes (.winv g w) (old.map (fun x => { x with since := s.tick })))
    ∧ (∀ d v k, d < 8 → s.input = .work d v k → ∃ t, exec .wfracWrite s = .next t ∧ t.hart = s.hart ∧ t.mem = s.mem
        ∧ (t.die d).wfrac = min 8 (v % 16) ∧ (∀ d', d' ≠ d → (t.die d').wfrac = (s.die d').wfrac))

/-! ## The matrix unit -/

namespace Sys2Proof.Spec

/-- The token that matrix work sets at issue. -/
def withToken (tok : BitVec 8) (tk : Option (BitVec 3)) : BitVec 8 :=
  match tk with
  | some k => tok ||| BitVec.twoPow 8 k.toNat
  | none => tok

/-- The instruction passes a piece of work to the matrix queue, with its token, and the hart goes on (R221, R222). -/
def entersMatrix (i : Instr) (s : State) (w : MxWork) (tk : Option (BitVec 3)) : Prop :=
  exec i s = .next (s.upd (fun h => { h with mq := h.mq ++ [⟨w, tk⟩], tok := withToken h.tok tk })).completed

/-- A tile region that an instruction names: the tile exists, and the region is no larger than a tile (R216, R219). -/
def tileFits (s : State) (ta : AReg) : Prop := ta.toNat < s.tiles ∧ s.hart.vl ≤ 32 ∧ s.hart.vh ≤ 64

/-- The rows of a cluster that are neither granted nor reserved (R214, R215). -/
def rowsFree (s : State) : Nat :=
  let cl := clusterKey s.hart.hid
  64 - ((List.range 16).map (fun j => (s.getHart (mkHid s.pkg cl j)).mgrant)).sum - ((s.cluster cl).wait.map (·.resv)).sum
    - ((s.gangs.filter (fun g => g.cl == cl)).map (·.rowsResv)).sum

end Sys2Proof.Spec

/-- R213, R214, R232, R233: MATT releases or attaches rows and delivers the grant, MDET releases all; both wait for an empty matrix queue.
A hart that is short of its request keeps a place in its cluster's list, which expires 4096 cycles after its last attempt or gift. The model's
readings: a hart of an I/O die is granted 0 rows (log 45), `vstart` stays as it is (log 76), and rows reserved beyond a request that is
granted whole are released (log 83). -/
def Sys2Proof.Spec.RowLanes : Prop :=
  ∀ (s : State) (g : Hdr) (xd xa : XReg), s.VReady g [] →
    let h := s.hart
    let r := min (s.x xa).toNat 64
    let resv := ((s.waiter h.hid).map (·.resv)).getD 0
    let same (t : State) : Prop := t.hart.vst = h.vst ∧ t.hart.p = h.p ∧ t.hart.tok = h.tok ∧ t.hart.vstart = h.vstart ∧ t.mem = s.mem
      ∧ t.rest = s.rest
    (h.guard g.grd = false → exec (.matt g xd xa) s = .next s.completed ∧ exec (.mdet g) s = .next s.completed)
    ∧ (h.guard g.grd = true →
      (h.mq ≠ [] → exec (.matt g xd xa) s = .next s.waiting ∧ exec (.mdet g) s = .next s.waiting)
      ∧ (h.mq = [] → h.isCompute = true →
        (∃ t, Completes (.matt g xd xa) s t ∧ same t ∧ (xd ≠ 0 → t.x xd = BitVec.ofNat 64 t.hart.mgrant) ∧ (∀ j, j ≠ xd → t.x j = s.x j)
          ∧ t.hart.mgrant = (if r ≤ h.mgrant then r else min r (h.mgrant + resv + rowsFree s))
          ∧ (if r ≤ t.hart.mgrant then t.waiter h.hid = none
             else t.waiter h.hid = some ⟨h.hid.toNat, r, resv - (t.hart.mgrant - h.mgrant), s.cycle⟩))
        ∧ ∃ t, Completes (.mdet g) s t ∧ same t ∧ t.hart.x = h.x ∧ t.hart.mgrant = 0 ∧ t.waiter h.hid = none)
      ∧ (h.mq = [] → h.isCompute = false →
        exec (.matt g xd xa) s = .next (s.setX xd (BitVec.ofNat 64 h.mgrant)).completed ∧ exec (.mdet g) s = .next s.completed))
    ∧ ∀ hid : BitVec 20, s.input = .hart hid.toNat → ∃ t, exec .matrixWaitlistExpire s = .next t ∧ t.hart = h ∧ t.rest = s.rest
      ∧ match s.waiter hid with
        | none => t = s
        | some w => if w.last + 4096 ≤ s.cycleOf (hidDie hid) then t.waiter hid = none else t = s

/-- R221, R222, R236, R238: MACC.LD and MACC.Z pass their work to the matrix queue; MACC.LD takes the register and the status at issue. A tile
that does not exist, too large a region, and a tag other than FP32 and SI32 raise ILLEGAL_OPERAND. That `vstart` stays as it is is the
model's reading (log 76). -/
def Sys2Proof.Spec.TilesAreFilled : Prop :=
  ∀ (s : State) (g : Hdr) (ta : AReg) (va : VReg) (xs : XReg) (tk : Option (BitVec 3)) (si : Bool), s.hart.guard g.grd = true →
    let tag := s.hart.tag va.toNat
    let refused (i : Instr) : Prop := exec i s = .next (s.takeTrap { cause := .illegalOperand, epc := s.hart.pc, val := encode i })
    (s.VReady g [va.toNat] tk [] → s.hart.lenOk [va.toNat] = true →
      let fits := tileFits s ta ∧ (tag = .fp32 ∨ tag = .si32)
      (fits → entersMatrix (.maccLd g ta va xs tk) s (.ld ta.toNat s.hart.vl s.hart.vh (tag == .si32)
          (BitVec.ofNat 8 ((s.x xs).toNat &&& 0x37)) (s.hart.vstr va.toNat)) tk)
      ∧ (¬fits → refused (.maccLd g ta va xs tk)))
    ∧ (s.VReady g [] tk → (ta.toNat < s.tiles → entersMatrix (.maccZ g ta tk si) s (.zero ta.toNat si) tk)
      ∧ (s.tiles ≤ ta.toNat → refused (.maccZ g ta tk si)))

/-- R86, R237, R239: MACC.ST delivers a tile region and its status word; MEPI delivers each element scaled, with its bias added, activated and
converted. Both wait for the work of the queue on the tile, and a poisoned element raises POISON, with the instruction word as its address (the model's
reading, log 44); `vstart` stays as it is (log 76). -/
def Obligations.TilesAreRead : Prop :=
  ∀ (s : State) (g : Hdr) (vd : VReg) (ta : AReg) (vb vs : VReg) (xs : XReg) (tk : Option (BitVec 3)) (sat : Bool) (rnd act : BitVec 2)
    (scl bia : Bool), s.hart.guard g.grd = true → tileFits s ta → s.errs = [] →
    let h := s.hart
    let n := h.vl * h.vh
    let raw (e : Nat) : Nat := s.bytes (s.tilePa ta.toNat (e / h.vl) (e % h.vl)) 4
    let bad : Bool := (List.range n).any (fun e => s.poisonedAt (s.tilePa ta.toNat (e / h.vl) (e % h.vl)) 4)
    let poison (i : Instr) : Prop := exec i s = .next (s.takeTrap { cause := .poison, epc := h.pc, val := encode i })
    (s.VReady g [vd.toNat] tk → h.lenOk [vd.toNat] = true → h.tag vd.toNat = (if s.tileInt ta.toNat then .si32 else .fp32) →
      let i : Instr := .maccSt g vd ta xs tk
      (h.tileBusy ta.toNat = true → exec i s = .next s.waiting)
      ∧ (h.tileBusy ta.toNat = false → bad = true → poison i)
      ∧ (h.tileBusy ta.toNat = false → bad = false → ∃ t, Completes i s t
        ∧ (∀ e, t.hart.elem vd.toNat e = if e < n then raw e else h.elem vd.toNat e)
        ∧ (∀ u, u < h.nregs → u ≠ vd.toNat → t.hart.vstr u = h.vstr u) ∧ (xs ≠ 0 → t.x xs = BitVec.ofNat 64 (s.tileStat ta.toNat))
        ∧ (∀ j, j ≠ xs → t.x j = s.x j) ∧ t.hart.p = h.p ∧ t.hart.tok = h.tok ∧ t.hart.vtag = h.vtag ∧ t.hart.fcsr = h.fcsr
        ∧ t.hart.mq = h.mq ∧ t.rest = s.rest ∧ t.mem = s.mem))
    ∧ (let regs := vd.toNat :: (if scl then [vs.toNat] else []) ++ (if bia then [vb.toNat] else [])
       s.VReady g regs tk → h.lenOk regs = true → mepiTag (h.tag vd.toNat) = true →
       (scl = true → h.tag vs.toNat = .fp32) → (bia = true → h.tag vb.toNat = .fp32) →
       let i : Instr := .mepi g vd ta vb vs tk sat rnd act scl bia
       let si : Bool := s.tileStat ta.toNat / 256 % 2 == 1
       let dt := h.tag vd.toNat
       let col (on : Bool) (v : VReg) (e : Nat) : Option Exact := if on then some (fp32.value (h.elem v.toNat (e % h.vl))) else none
       let val (e : Nat) : Val × Flags := mepiValue (h.rmode rnd == .rdn) si act (col scl vs e) (col bia vb e) (raw e)
       let out (e : Nat) : Nat × Flags := deliver dt (h.rmode rnd) sat (drawWord h.seed e) (val e).1
       (h.tileBusy ta.toNat = true → exec i s = .next s.waiting)
       ∧ (h.tileBusy ta.toNat = false → bad = true → poison i)
       ∧ (h.tileBusy ta.toNat = false → bad = false → vectorResult i s vd.toNat (List.range n) (fun e => (out e).1)
           ((List.range n).foldl (fun f e => f ||| ((val e).2 ||| (out e).2)) 0)
           (h.rmode rnd == .sr && !(si && !scl && !bia && dt.isInt)) (still := true)))

namespace Sys2Proof.Spec

/-- A limit on a length under the tag of a register, whatever the tile (R155). -/
def holds (h : Hart) (v : Nat) (t : Tag) (n : Nat) : Prop := h.tag v = t ∧ n ≤ mvl t h.nregs

/-- The conditions under which MMA does not raise ILLEGAL_OPERAND (R225 to R227, R235); `t` is the tag of A. -/
def mmaFits (s : State) (ta : AReg) (ma mb : BitVec 6) (ms : VReg) (asrc bsrc scl : Bool) (t : Tag) : Prop :=
  let h := s.hart
  (stepK t).isSome = true
  ∧ (if asrc then ∃ d, h.unf = some d ∧ (unfoldOf d).tag = t ∧ h.vl = (unfoldOf d).kr * (unfoldOf d).ks * (unfoldOf d).c
     else h.tag ma.toNat = t ∧ t ≠ .none ∧ h.vl * h.vh ≤ mvl t h.nregs)
  ∧ (bsrc = false → holds h mb.toNat t (32 * h.vl))
  ∧ h.vh ≤ 64 ∧ (t.isBlock = true → h.vl % 32 = 0)
  ∧ (scl = true → t ∈ [Tag.e2m1, .e3m2, .e2m3, .e4m3, .e5m2] ∧ h.vl % h.blkSize = 0 ∧ holds h ms.toNat .e8m0 (h.vl * h.vh / h.blkSize)
      ∧ (bsrc = false → holds h (ms.toNat + 1) .e8m0 (32 * h.vl / h.blkSize)))
  ∧ h.mgrant ≠ 0 ∧ ta.toNat < s.tiles ∧ s.tileInt ta.toNat = t.isInt

end Sys2Proof.Spec

/-- R225 to R227, R235, R254: MMA checks its operands, takes them as they stand, and enters the matrix queue; weights that the hart may not
read raise ACCESS_FAULT with the address of the first of them. The model's readings: that address is the direct one (log 46), register operands
are captured at issue (log 55), and `vstart` stays as it is (log 76). -/
def Sys2Proof.Spec.ProductsEnterTheQueue : Prop :=
  ∀ (s : State) (g : Hdr) (ta : AReg) (ma mb : BitVec 6) (ms : VReg) (tk : Option (BitVec 3)) (asrc bsrc sat scl : Bool) (t : Tag),
    s.VReady g ((if asrc then [] else [ma.toNat]) ++ (if bsrc then [] else [mb.toNat])
      ++ (if scl then ms.toNat :: (if bsrc then [] else [ms.toNat + 1]) else [])) tk [] → s.hart.guard g.grd = true →
    t = (if asrc then (s.hart.unf.map (fun d => (unfoldOf d).tag)).getD .none else s.hart.tag ma.toNat) →
    let h := s.hart
    let i : Instr := .mma g ta ma mb ms tk asrc bsrc sat scl
    let off := (s.x mb).toNat
    let fits := mmaFits s ta ma mb ms asrc bsrc scl t ∧ (bsrc = true → off % 128 = 0)
    (¬fits → exec i s = .next (s.takeTrap { cause := .illegalOperand, epc := h.pc, val := encode i }))
    ∧ (fits → bsrc = true → ∀ o, s.wsFault off (wsLen t h.vl h.blkSize scl) = some o → exec i s = .next (s.takeTrap
        { cause := .accessFault, epc := h.pc, val := BitVec.ofNat 64 (s.pkg.toNat * 2 ^ 45 + hidDie h.hid * 2 ^ 41 + 0x12000000000 + o) }))
    ∧ (fits → (bsrc = true → s.wsFault off (wsLen t h.vl h.blkSize scl) = none) → ∃ o, entersMatrix i s (.mma o) tk
        ∧ o.tile = ta.toNat ∧ o.vl = h.vl ∧ o.vh = h.vh ∧ o.tag = t ∧ o.sat = sat ∧ o.scl = scl ∧ o.blk = h.blkSize
        ∧ o.a = (match asrc, h.unf with
            | true, some d => .unf d (s.x ma)
            | _, _ => .reg (h.vstr ma.toNat) (h.vpoiStr ma.toNat))
        ∧ o.b = (if bsrc then .ws off else .reg (h.vstr mb.toNat) (h.vpoiStr mb.toNat))
        ∧ o.sa = h.vstr ms.toNat ∧ o.sb = h.vstr (ms.toNat + 1))

namespace Sys2Proof.Spec

/-- The bytes of a tile and of its status word lie in the part of the slot that R216 and R218 give them. -/
def tilePlaced (s : State) (t : Nat) : Prop :=
  s.hart.isCompute = true ∧ t < 64 ∧ (s.accRange s.hart.hid).1 % 4 = 0 ∧ (s.accRange s.hart.hid).1 + 8192 * (t + 1) ≤ 0x1C0000

/-- No byte changes but those of a region of a tile and its status word. -/
def onlyTile (s u : State) (t vl vh : Nat) : Prop :=
  ∀ a, (∀ r c, r < vh → c < vl → a < s.tilePa t r c ∨ s.tilePa t r c + 4 ≤ a) → a < s.statPa t ∨ s.statPa t + 8 ≤ a → u.byte a = s.byte a

/-- One step of an accumulator element: the bits behind the step, over the products of the positions `k` of the step (R94, R95, R228). -/
def mmaStep (o : MmaOp) (a b : Operand) (r c : Nat) (acc : Nat) (ks : List Nat) : Nat :=
  let x (k : Nat) : Exact := (a (r * o.vl + k)).1
  let y (k : Nat) : Exact := (b (c * o.vl + k)).1
  if o.tag.isInt then
    let z : Int := tagSigned acc + (ks.map (fun k => intOf (x k) * intOf (y k))).sum
    (if o.sat then BitVec.ofInt 32 (max (-2 ^ 31) (min (2 ^ 31 - 1) z)) else BitVec.ofInt 32 z).toNat
  else (matStep acc (ks.map (fun k => ((x k).mul (y k)).1))).1
where
  /-- A 32-bit pattern as a two's complement number. -/
  tagSigned (v : Nat) : Int := (BitVec.ofNat 32 v).toInt
  /-- The integer that an exact value is. -/
  intOf : Exact → Int
    | .fin n m e _ => if n then -((m * 2 ^ e.toNat : Nat) : Int) else ((m * 2 ^ e.toNat : Nat) : Int)
    | _ => 0

/-- The positions of the steps: `ks` to a step, the last one shorter. -/
def stepsOf (vl ks : Nat) : List (List Nat) :=
  (List.range ((vl + ks - 1) / ks)).map (fun st => (List.range ks).map (st * ks + ·) |>.filter (fun k => decide (k < vl)))

end Sys2Proof.Spec

/-- R94, R95, R220, R222, R228, R236, R238: MATRIX_QUEUE_EXECUTE performs the first piece of work of a hart's matrix queue, takes it out, and
clears its token (a hart that a double trap ends goes with its last work: R359). MACC.LD and MACC.Z write their region and the status word; MMA adds the products to all 32 columns of its rows, step
by step, and an element that a poisoned operand reaches is poisoned. No other byte changes. -/
def Obligations.MatrixWork : Prop :=
  ∀ (s : State) (q : MxOp) (rest : List MxOp), s.input = .hart s.hart.hid.toNat → s.hart.mq = q :: rest → s.MarksPast → s.errs = [] →
    (rest = [] → s.hart.run ≠ .ending) →
    ∃ u : State, exec .matrixQueueExecute s = .next u
      ∧ u.hart = { s.hart with mq := rest, tok := match q.tk with
                                 | some k => s.hart.tok &&& ~~~BitVec.twoPow 8 k.toNat
                                 | none => s.hart.tok }
      ∧ u.rest = s.rest
      ∧ match q.work with
        | .ld t vl vh si status bits => tilePlaced s t → vl ≤ 32 → vh ≤ 64 → 0 < vl →
            (∀ r c, r < vh → c < vl → u.bytes (u.tilePa t r c) 4 = elemAt 32 bits (r * vl + c) ∧ u.poisonedAt (u.tilePa t r c) 4 = false)
            ∧ u.tileStat t = (status.toNat &&& 0x37) + (if si then 256 else 0) ∧ onlyTile s u t vl vh
        | .zero t si => tilePlaced s t →
            (∀ r c, r < 64 → c < 32 → u.bytes (u.tilePa t r c) 4 = 0) ∧ u.tileStat t = (if si then 256 else 0) ∧ onlyTile s u t 32 64
        | .mma o => tilePlaced s o.tile → o.vh ≤ 64 → (o.scl = true → o.tag.isInt = false) →
            let a := s.operandA o
            let b := s.operandB o
            (∀ r c, r < o.vh → c < 32 →
              u.bytes (u.tilePa o.tile r c) 4 =
                (stepsOf o.vl ((stepK o.tag).getD 1)).foldl (mmaStep o a b r c) (s.bytes (s.tilePa o.tile r c) 4)
              ∧ u.poisonedAt (u.tilePa o.tile r c) 4 = (s.poisonedAt (s.tilePa o.tile r c) 4
                  || (List.range o.vl).any (fun k => (a (r * o.vl + k)).2 || (b (c * o.vl + k)).2)))
            ∧ u.tileStat o.tile / 256 % 2 = (if o.tag.isInt then 1 else 0) ∧ onlyTile s u o.tile 32 o.vh

/-- R229, R234: MUNF reads a descriptor of 32 bytes, checks its fields and that its tensor lies in the gang's scratchpad allotment of the
hart's own core, and makes it the unfolding state. That a tensor outside it is reported at its first byte outside (log 49), and that `vstart` stays
as it is (log 76), are the model's readings. -/
def Sys2Proof.Spec.UnfoldingDescriptors : Prop :=
  ∀ (s s1 : State) (g : Hdr) (xa : XReg) (v : Nat) (bad : Bool), s.VReady g [] → s.hart.guard g.grd = true →
    let i : Instr := .munf g xa
    let a := s.x xa
    let trap (s : State) (c : Cause) (v : Word) : Host.Outcome State Fault Refusal := .next (s.takeTrap { cause := c, epc := s.hart.pc, val := v })
    let d : Vector Word 4 := #v[BitVec.ofNat 64 v, BitVec.ofNat 64 (v / 2 ^ 64), BitVec.ofNat 64 (v / 2 ^ 128), BitVec.ofNat 64 (v / 2 ^ 192)]
    (a.toNat % 32 ≠ 0 → exec i s = trap s .misaligned a)
    ∧ (a.toNat % 32 = 0 → s.load (s.req .vector) a 32 = (.ok (v, bad), s1) → v < 2 ^ 256 →
      (bad = true → exec i s = trap s1 .poison a)
      ∧ (bad = false → unfoldOk d = false → exec i s = trap s1 .illegalOperand (encode i))
      ∧ (bad = false → unfoldOk d = true → ∀ x, s1.outsideSpm (unfoldOf d) = some x → exec i s = trap s1 .accessFault x)
      ∧ (bad = false → unfoldOk d = true → s1.outsideSpm (unfoldOf d) = none →
          exec i s = .next (s1.upd (fun h => { h with unf := some d })).completed))

/-! ## The weight store -/

namespace Sys2Proof.Spec

/-- A hart that may fill the weight store: a hart in S mode, or of a loader launch (R61, R268, R269). -/
def mayLoad (s : State) : Prop :=
  s.hart.mode = .s ∨ ∃ l x, s.hart.launch = some l ∧ s.launchOf l = some x ∧ pkLdr x.pk = true

/-- The berths of a die that WSBERTH.get may take, and the one that it takes: the least COUNT, ties to the lowest number (R257). -/
def taken (s : State) (d b : Nat) : Prop :=
  let may (b : Nat) : Prop := b < 32 ∧ (s.die d).wsctl.getLsbD b = true ∧ (s.berth d b).st ≠ 1
  may b ∧ ∀ c, may c → (s.berth d b).count < (s.berth d c).count ∨ ((s.berth d b).count = (s.berth d c).count ∧ b ≤ c)

end Sys2Proof.Spec

/-- R61, R257, R269: WSBERTH on a compute hart: get finds the tenant's berth of an expert or takes one and makes it FILLING, emptied of another
tenant's bytes; rdy makes it READY, drop makes it EMPTY. A hart that may not load raises PRIVILEGE. -/
def Sys2Proof.Spec.Berths : Prop :=
  ∀ (s : State) (g : Hdr) (xd xa : XReg), s.VReady g [] → s.hart.guard g.grd = true →
    let d := hidDie s.hart.hid
    let t := s.hart.tenant
    let get : Instr := .wsberthGet g xd xa
    let rdy : Instr := .wsberthRdy g xd xa
    let drop : Instr := .wsberthDrop g xd xa
    let refused (i : Instr) : Prop := exec i s = .next (s.takeTrap { cause := .privilege, epc := s.hart.pc, val := encode i })
    (¬mayLoad s → refused get ∧ refused rdy ∧ refused drop)
    ∧ (mayLoad s → s.hart.isCompute = true →
      (let e : BitVec 32 := (s.x xa).setWidth 32
       let mine (b : Nat) : Prop := b < 32 ∧ (s.berth d b).st ≠ 0 ∧ (s.berth d b).tenant = t ∧ (s.berth d b).expert = e
       (∀ b, mine b → (∀ c, c < b → ¬mine c) →
          exec get s = .next (s.setX xd (BitVec.ofNat 64 (if (s.berth d b).st = 2 then b else 0x200 + b))).completed)
       ∧ ((∀ b, ¬mine b) → (∀ b, ¬taken s d b) → exec get s = .next (s.setX xd (-1)).completed)
       ∧ ∀ b, (∀ c, ¬mine c) → taken s d b → ∃ u : State, exec get s = .next (u.setX xd (BitVec.ofNat 64 (0x100 + b))).completed ∧ u.hart = s.hart
          ∧ u.berth d b = ⟨1, t, e, 0, s.hart.launch⟩ ∧ (∀ c, c ≠ b → u.berth d c = s.berth d c)
          ∧ ((s.berth d b).tenant = t → SameMemory s u)
          ∧ ((s.berth d b).tenant ≠ t → SameOutside s u (wsBase d + b * 2 ^ 24) (2 ^ 24)
              ∧ ∀ o, o < 2 ^ 24 → u.byte (wsBase d + b * 2 ^ 24 + o) = 0))
      ∧ (let b := (s.x xa).toNat % 32
         ((s.berth d b).st = 1 → (s.berth d b).tenant = t → ∃ u : State, exec rdy s = .next (u.setX xd 0).completed ∧ u.hart = s.hart
            ∧ u.berth d b = { s.berth d b with st := 2, count := (s.die d).wsctl.toNat / 2 ^ 48, owner := none }
            ∧ (∀ c, c ≠ b → u.berth d c = s.berth d c) ∧ SameOutside s u (wsBase d + b * 2 ^ 24) (2 ^ 24)
            ∧ ∀ o, o < 2 ^ 24 → u.byte (wsBase d + b * 2 ^ 24 + o) = s.rawByte (wsBase d + b * 2 ^ 24 + o))
         ∧ ((s.berth d b).st ≠ 1 ∨ (s.berth d b).tenant ≠ t → exec rdy s = .next (s.setX xd (-1)).completed)
         ∧ ((s.berth d b).tenant = t ∨ s.hart.mode = .s → ∃ u : State, exec drop s = .next (u.setX xd 0).completed ∧ u.hart = s.hart
            ∧ (u.berth d b).st = 0 ∧ (∀ c, c ≠ b → u.berth d c = s.berth d c) ∧ u.mem = s.mem)
         ∧ ((s.berth d b).tenant ≠ t → s.hart.mode ≠ .s → exec drop s = .next (s.setX xd (-1)).completed)))

/-- R254, R268: WSLD copies pieces of 128 bytes into berths that the tenant is filling, moving its registers piece by piece; the bytes of one piece
stand in the weight store, each read as before or as written until the berth's next WSLD or WSBERTH.rdy settles them. Operands that do not fit, a misaligned source, and a berth that the tenant may not
fill trap; that ACCESS_FAULT names the direct address of the first byte that fails is the model's reading (log 46). -/
def Sys2Proof.Spec.WeightsAreLoaded : Prop :=
  ∀ (s : State) (g : Hdr) (xd xa xb : XReg) (tk : Option (BitVec 3)), s.VReady g [] tk → s.hart.guard g.grd = true →
    let i : Instr := .wsld g xd xa xb tk
    let d := hidDie s.hart.hid
    let o := (s.x xd).toNat
    let n := (s.x xb).toNat
    let s0 := s.settleBerths d o n
    let trap (s : State) (c : Cause) (v : Word) : Host.Outcome State Fault Refusal := .next (s.takeTrap { cause := c, epc := s.hart.pc, val := v })
    let wrong := o % 128 ≠ 0 ∨ n % 128 ≠ 0 ∨ 2 ^ 29 < o + n
    let mine (a : Nat) : Prop := (s.berth d (a / 2 ^ 24)).st = 1 ∧ (s.berth d (a / 2 ^ 24)).tenant = s.hart.tenant
    (¬mayLoad s → exec i s = trap s .privilege (encode i))
    ∧ (mayLoad s →
      (wrong → exec i s = trap s .illegalOperand (encode i))
      ∧ (¬wrong → (s.x xa).toNat % 8 ≠ 0 → exec i s = trap s .misaligned (s.x xa))
      ∧ (¬wrong → (s.x xa).toNat % 8 = 0 → ∀ a, o ≤ a → a < o + n → ¬mine a → (∀ b, o ≤ b → b < a → mine b) →
          exec i s = trap s .accessFault (BitVec.ofNat 64 (s.pkg.toNat * 2 ^ 45 + wsBase d + a)))
      ∧ (¬wrong → (s.x xa).toNat % 8 = 0 → (∀ a, o ≤ a → a < o + n → mine a) →
          (n = 0 → exec i s = .next s.completed)
          ∧ (∀ ps s1 v s2, n = 128 → xd ≠ 0 → xa ≠ 0 → xb ≠ 0 → xd ≠ xa → xd ≠ xb → xa ≠ xb →
              s0.locateAll (s.req .vector) .read (pageSpans (s.x xa) 128) = (.ok ps, s1) → s1.readAll (s.req .vector) ps = ((v, false), s2) →
              s1.hart = s.hart → s2.hart = s.hart →
              ∃ u, Completes i s u ∧ u.x xd = s.x xd + 128 ∧ u.x xa = s.x xa + 128 ∧ u.x xb = 0
                ∧ (∀ j, j ≠ xd → j ≠ xa → j ≠ xb → u.x j = s.x j) ∧ u.hart.vst = s.hart.vst ∧ u.hart.p = s.hart.p
                ∧ SameOutside s2 u (wsBase d + o) 128
                ∧ ∀ j, j < 128 → (u.rawByte (wsBase d + o + j)).toNat = v / 256 ^ j % 256
                  ∧ (u.byte (wsBase d + o + j) = u.rawByte (wsBase d + o + j) ∨ u.byte (wsBase d + o + j) = s2.byte (wsBase d + o + j)))
          ∧ (∀ s1, wsldPieces xd xa xb (n / 128) s0 = (none, s1) → exec i s = .next s1.completed)
          ∧ ∀ t s1, 0 < n → wsldPieces xd xa xb (n / 128) s0 = (some t, s1) → exec i s = .next (s1.takeTrap t)))

/-- R255, R257: BERTH_AGEING halves the counts of a die at every multiple of 2^AGE cycles; a refresh slot that ends lets time pass, and changes
no byte. -/
def Sys2Proof.Spec.WeightStoreEvents : Prop :=
  ∀ (s : State) (d : Nat), d < 10 →
    (s.input = .unit d → ∃ u : State, exec .berthAgeing s = .next u ∧ u.hart = s.hart ∧ SameMemory s u
      ∧ (s.cycleOf d % 2 ^ ((s.die d).wsctl.toNat / 2 ^ 32 % 64) = 0 → ∀ b, u.berth d b = { s.berth d b with count := (s.berth d b).count / 2 })
      ∧ (s.cycleOf d % 2 ^ ((s.die d).wsctl.toNat / 2 ^ 32 % 64) ≠ 0 → u = s)
      ∧ ∀ e, e ≠ d → u.die e = s.die e)
    ∧ ∃ u : State, exec .refreshSlotEnd s = .next u ∧ u.hart = s.hart ∧ SameMemory s u
      ∧ u.time = (if s.time % 2000 < 1600 then s.time + (1600 - s.time % 2000) else s.time)

/-! ## Collectives -/

namespace Sys2Proof.Spec

/-- A collective instruction: the registers that it checks and its operands (R404, R405, R407 to R409). -/
structure CollForm where
  i    : Instr
  regs : List Nat
  ask  : CollAsk

/-- The register forms, the memory forms, COLL.SRS and COLL.BAR. -/
def collForms (s : State) (wm : BitVec 8) (op : COp) (vd va : VReg) (xd xa xb : XReg) (grp : BitVec 6) (tk : Option (BitVec 3)) :
    List CollForm :=
  let v (k : CollKind) (o : COp) : CollAsk := { kind := k, rop := o, mem := false, vd := vd.toNat, va := va.toNat, rank := s.x xb }
  let m (k : CollKind) (o : COp) : CollAsk :=
    { kind := k, rop := o, mem := true, dst := s.x xd, src := s.x xa, rank := s.x xb, count := (s.x (xb + 1)).toNat
      pairs := if k = .srs then (s.x (xb + 2)).toNat else 0 }
  let two := [vd.toNat, va.toNat]
  [⟨.collArV wm op vd va xb grp tk, two, v .ar op⟩, ⟨.collRsV wm op vd va xb grp tk, two, v .rs op⟩,
   ⟨.collAgV wm vd va xb grp tk, two, v .ag .add⟩, ⟨.collBcV wm vd va xb grp tk, two, v .bc .add⟩,
   ⟨.collArM wm op xd xa xb grp tk, [], m .ar op⟩, ⟨.collRsM wm op xd xa xb grp tk, [], m .rs op⟩,
   ⟨.collAgM wm xd xa xb grp tk, [], m .ag .add⟩, ⟨.collBcM wm xd xa xb grp tk, [], m .bc .add⟩,
   ⟨.collSrs wm xd xa xb grp tk, [], m .srs .add⟩,
   ⟨.collBar wm xb grp tk, [], { kind := .bar, rop := .add, mem := false, rank := s.x xb }⟩]

/-- `tval` of COLL_FAULT (R401). -/
def collVal (reason grp k : Nat) : Word := BitVec.ofNat 64 (2 ^ 56 * (reason % 256) + 2 ^ 50 * (grp % 64) + k % 2 ^ 32)

/-- Every instance that meets a condition has ended with COLL_FAULT and a reason: it is gone, and each hart of the package that has called it
and still runs its launch has the fault pending, and no instance that it shares no name with has ended (R401). -/
def endsInstances (s u : State) (gone : CollInst → Prop) (reason : Nat) : Prop :=
  (∀ y ∈ u.insts, y ∈ s.insts ∧ ¬gone y)
  ∧ (∀ y ∈ s.insts, (∀ x ∈ s.insts, gone x → ¬(x.lid = y.lid ∧ x.grp = y.grp ∧ x.k = y.k)) → y ∈ u.insts)
  ∧ (∀ x ∈ s.insts, gone x → ∀ c ∈ x.calls, ∀ hid : BitVec 20, c.hid = hid.toNat → (s.getHart hid).hid = hid →
      (s.getHart hid).launch = some x.lid → (x.grp, x.k, collVal reason x.grp x.k) ∈ (u.getHart hid).pend.coll)
  ∧ u.mem = s.mem ∧ u.hart.x = s.hart.x ∧ u.hart.vst = s.hart.vst ∧ u.hart.pc = s.hart.pc

end Sys2Proof.Spec

/-- R391, R401, R404, R405, R407 to R409: a collective checks its group, its operands and its alignment, waits for a place in its queue,
takes the next number of the group, sets its token, and goes on. The first call of an instance makes it; a call that disagrees
with the earlier ones ends it with reason 1; a call of an instance that has ended takes its reason. That MISALIGNED names xD before xA, that a hart
without a launch gets ACCESS_FAULT, and that `vstart` stays as it is, are the model's readings (log 29). -/
def Sys2Proof.Spec.CollectivesStart : Prop :=
  ∀ (s : State) (wm : BitVec 8) (op : COp) (vd va : VReg) (xd xa xb : XReg) (grp : BitVec 6) (tk : Option (BitVec 3)),
    ∀ f ∈ collForms s wm op vd va xd xa xb grp tk, s.VReady (.plain wm) f.regs tk → s.hart.lenOk f.regs = true →
    let g := s.group grp.toNat
    let c := s.callOf f.ask g
    let trap (c : Cause) (v : Word) : Prop := exec f.i s = .next (s.takeTrap { cause := c, epc := s.hart.pc, val := v })
    let mine (l : LaunchId) : Prop := s.hart.launch = some l ∧ g.gctl.getLsbD 0 = true
      ∧ g.gctl.toNat / 2 ^ 58 = s.hart.tenant.toNat ∧ g.gctl.toNat / 2 ^ 52 % 64 = l.q
    let k := Tab.get (fun _ => 0) s.hart.collCnt grp.toNat
    let regs := if f.ask.mem = true ∨ f.ask.kind = .bar then [] else vd.toNat :: (if f.ask.rop = .blkAdd then [vd.toNat + 1] else [])
    ((∀ l, ¬mine l) → trap .accessFault (encode f.i))
    ∧ ∀ l, mine l →
      (s.collIllegal f.ask g c = true → trap .illegalOperand (encode f.i))
      ∧ (s.collIllegal f.ask g c = false →
        let moves := f.ask.mem = true
        (moves → f.ask.dst.toNat % 128 ≠ 0 → trap .misaligned f.ask.dst)
        ∧ (moves → f.ask.dst.toNat % 128 = 0 → f.ask.src.toNat % 128 ≠ 0 → trap .misaligned f.ask.src)
        ∧ ((moves → f.ask.dst.toNat % 128 = 0 ∧ f.ask.src.toNat % 128 = 0) → 8 ≤ s.hart.colls.length → exec f.i s = .next s.waiting)
        ∧ ((moves → f.ask.dst.toNat % 128 = 0 ∧ f.ask.src.toNat % 128 = 0) → s.hart.colls.length < 8 →
            (f.ask.rop = .blkAdd → f.ask.mem = false → s.hart.regBusy (va.toNat + 1) = false ∧ s.hart.regBusy (vd.toNat + 1) = false
              ∧ s.hart.mxReads (vd.toNat + 1) = false) →
          ∃ t, Completes f.i s t ∧ t.hart.x = s.hart.x ∧ t.hart.p = s.hart.p ∧ t.hart.vst = s.hart.vst
            ∧ Tab.get (fun _ => 0) t.hart.collCnt grp.toNat = k + 1
            ∧ (∀ e, s.ends.find? (fun e => e.lid == l && e.grp == grp.toNat && e.k == k) = some e →
                t.hart.pend.coll = s.hart.pend.coll ++ [(grp.toNat, k, collVal e.reason grp.toNat k)] ∧ t.hart.colls = s.hart.colls)
            ∧ (s.ends.find? (fun e => e.lid == l && e.grp == grp.toNat && e.k == k) = none →
              (s.inst l grp.toNat k = none → 1 < g.rpp → t.hart.colls = s.hart.colls ++ [⟨grp.toNat, k, tk, regs⟩]
                ∧ t.hart.tok = withToken s.hart.tok tk ∧ t.mem = s.mem
                ∧ ∃ x d, t.insts = s.insts ++ [x] ∧ x.lid = l ∧ x.grp = grp.toNat ∧ x.k = k ∧ x.first = s.time ∧ x.calls = [d]
                  ∧ d.hid = s.hart.hid.toNat ∧ d.rank = c.rank ∧ d.kind = f.ask.kind ∧ d.rop = f.ask.rop ∧ d.mem = f.ask.mem)
              ∧ ∀ x, s.inst l grp.toNat k = some x →
                ((∃ d ∈ x.calls, d.rank = c.rank ∨ c.agrees d = false) →
                  (grp.toNat, k, collVal 1 grp.toNat k) ∈ t.hart.pend.coll ∧ t.inst l grp.toNat k = none ∧ t.mem = s.mem)
                ∧ ((∀ d ∈ x.calls, d.rank ≠ c.rank ∧ c.agrees d = true) → x.calls.length + 1 < g.rpp →
                  t.hart.colls = s.hart.colls ++ [⟨grp.toNat, k, tk, regs⟩] ∧ t.hart.tok = withToken s.hart.tok tk ∧ t.mem = s.mem
                  ∧ ∃ d, t.inst l grp.toNat k = some { x with calls := x.calls ++ [d] } ∧ d.rank = c.rank))))

/-- R410, R411: COLL.WAIT delivers the collectives of a group that are still in the queue once there is none or its time is over; COLL.STAT
delivers an item of the status of the rank last named on the group, and 0 where there is none, and COLL.STAT.clr clears it. -/
def Sys2Proof.Spec.CollectiveStatus : Prop :=
  ∀ (s : State) (wm : BitVec 8) (xd xa : XReg) (grp : BitVec 6), s.Ready wm → s.hart.isMgmt = false →
    let n := (s.hart.colls.filter (fun c => c.grp == grp.toNat)).length
    let late : Prop := xa ≠ 0 ∧ s.hart.waitStart.getD s.cycle + (s.x xa).toNat ≤ s.cycle
    let r := Tab.get (fun _ => 0) s.hart.collRank grp.toNat
    (n = 0 ∨ late → exec (.collWait wm xd xa grp) s = .next (s.setX xd (BitVec.ofNat 64 n)).completed)
    ∧ (n ≠ 0 → ¬late → exec (.collWait wm xd xa grp) s = .next s.waiting)
    ∧ (s.hart.launch = none ∨ r = 0 → exec (.collStat wm xd xa grp) s = .next (s.setX xd 0).completed
        ∧ exec (.collStatClr wm xd xa grp) s = .next (s.setX xd 0).completed)
    ∧ (∀ l, s.hart.launch = some l → r ≠ 0 →
        let u := s.stat l grp.toNat (r - 1)
        let i := (s.x xa).toNat
        let v : Word :=
          if i = 0 then BitVec.ofNat 64 (u.flags.toNat + 2 ^ 24 * (u.reason % 256) + 2 ^ 32 * (u.done % 2 ^ 32))
          else BitVec.ofNat 64 (if i = 1 then u.esc else if i = 2 then u.restarts else if i = 3 then u.drop else 0)
        exec (.collStat wm xd xa grp) s = .next (s.setX xd v).completed
        ∧ ∃ t : State, exec (.collStatClr wm xd xa grp) s = .next (t.setX xd v).completed ∧ t.hart = s.hart ∧ t.mem = s.mem
          ∧ t.stat l grp.toNat (r - 1) = (if i = 0 then { u with done := 0, reason := 0, flags := 0 } else if i = 1 then { u with esc := 0 }
              else if i = 2 then { u with restarts := 0 } else if i = 3 then { u with drop := 0 } else u)
          ∧ ∀ q, q ≠ r - 1 → t.stat l grp.toNat q = s.stat l grp.toNat q)

/-- R296, R396, R399, R401, R402, R403, R408: CHUNK_MARK marks a chunk once every rank of the package has called, the trees of the chunk are
usable, and no earlier collective of a rank's hart accesses a byte of it that one of the two writes. What the ranks receive in memory is
written there; with the last chunk the instance ends and its calls leave their queues, and a result in registers reaches a hart that is
not in U mode as a result held for it. An instance without chunks reads its lists and ends. An access that fails ends the instance with
reason 3, poison at a destination of class N with reason 2, and an ending at another package with its reason. The model's choices: an instance
without chunks completes at a CHUNK_MARK (log 27), overlapping collectives of a hart run in the order of their issue (log 30), and the parts of
other packages are inputs (log 31). -/
def Sys2Proof.Spec.ChunksAreMarked : Prop :=
  ∀ (s : State) (x : CollInst) (i : Nat) (ps : List PkgPart), x ∈ s.insts → s.inst x.lid x.grp x.k = some x →
    let g := s.group x.grp
    (s.input = .rally x.lid x.grp x.k i (.parts ps) → g.rpp ≤ x.calls.length → ps.length + 1 = max 1 g.members.length →
      (s.collHeld x = true → exec .chunkMark s = .next s)
      ∧ (s.collHeld x = false →
      let left (u : State) : Prop := u.inst x.lid x.grp x.k = none
        ∧ ∀ c ∈ x.calls, ∀ hid : BitVec 20, c.hid = hid.toNat → (s.getHart hid).hid = hid → (s.getHart hid).launch = some x.lid →
          ∀ d ∈ (u.getHart hid).colls, ¬(d.grp = x.grp ∧ d.k = x.k)
      (x.chunks = 0 →
        (∀ ks s1, s.contribs x 0 x.calls = (some ks, s1) → ∃ u : State, exec .chunkMark s = .next u ∧ left u ∧ u.mem = s1.mem)
        ∧ ∀ s1, s.contribs x 0 x.calls = (none, s1) → ∃ u : State, exec .chunkMark s = .next u ∧ endsInstances s1 u (· = x) 3)
      ∧ (∀ tree c0 cs, x.chunks ≠ 0 → i < x.chunks → i ∉ x.marked → x.assign.find? (fun a => a.1 == i) = some (i, tree) →
          s.treeUsable g tree = true → x.calls.any (·.staged) = false → x.calls = c0 :: cs →
        (∀ s1, s.contribs x i x.calls = (none, s1) → ∃ u : State, exec .chunkMark s = .next u ∧ endsInstances s1 u (· = x) 3)
        ∧ (∀ ks s1 e s2, s.contribs x i x.calls = (some ks, s1) →
            (s1.ownView x).giveCalls x g.ranks (chunkPieces g (g.posOf s.pkg.toNat) c0 i tree ks ps).1 = (some e, s2) →
            ∃ u : State, exec .chunkMark s = .next u ∧ endsInstances { s2 with insts := s.insts } u (· = x) e)
        ∧ (∀ ks s1 s2, s.contribs x i x.calls = (some ks, s1) →
            let pieces := (chunkPieces g (g.posOf s.pkg.toNat) c0 i tree ks ps).1
            (s1.ownView x).giveCalls x g.ranks pieces = (none, s2) →
            ∃ u : State, exec .chunkMark s = .next u ∧ u.mem = s2.mem
              ∧ (if ∀ j, j < x.chunks → j = i ∨ j ∈ x.marked then left u
                  ∧ ∀ p ∈ pieces, p.1.mem = false → ∀ hid : BitVec 20, p.1.hid = hid.toNat → (s.getHart hid).hid = hid →
                      (s.getHart hid).launch = some x.lid → (s.getHart hid).mode ≠ .u →
                      p.1.result g.ranks p.2 ∈ (u.getHart hid).collRes
                 else ∃ y, u.inst x.lid x.grp x.k = some y ∧ y.marked = i :: x.marked ∧ y.calls = x.calls)))))
    ∧ (∀ r, s.input = .rally x.lid x.grp x.k i (.ended r) → 1 < g.members.length → 1 ≤ r → r ≤ 8 →
        ∃ u : State, exec .chunkMark s = .next u ∧ endsInstances s u (· = x) r)
    ∧ (∀ ps, s.input = .rally x.lid x.grp x.k i (.parts ps) → x.calls.length < g.rpp → exec .chunkMark s = .next s)

/-- R392, R399, R407: in a group of one package the elements of an add over integers are the sums of the ranks' elements modulo 2^w, on
every die path and whatever dies the ranks lie on. -/
def Obligations.IntegerSumsAreExact : Prop :=
  ∀ (t : Tag) (path : Nat) (ks : List (CollCall × Contrib)) (e : Nat), path < 5 → t.isInt = true →
    (∀ k ∈ ks, k.2.has = none ∧ hidDie (BitVec.ofNat 20 k.1.hid) < 10) →
    let w := tagWidth t
    (reduceElem .add t ⟨path, pathParents path (rootDie path 2), 2⟩ 0 ks [] e).1 = (ks.map (fun k => elemAt w k.2.bits e)).sum % 2 ^ w

/-- R390, R398, R401: a running instance whose trees have become unusable is assigned afresh and counts its unmarked chunks as restarts, or
ends with the reason for which there are no trees (that every unmarked chunk counts is the model's reading, log 30); an instance ends with reason 8 once its time is over, and with reason 7 when its
group is disabled. -/
def Sys2Proof.Spec.InstancesEnd : Prop :=
  ∀ (s : State),
    (let stuck (x : CollInst) : Bool := x.assign.any (fun a => decide (a.1 < x.chunks) && !x.marked.contains a.1 && !s.treeUsable (s.group x.grp) a.2)
     ((∀ x ∈ s.insts, stuck x = false) → exec .collectiveRecompute s = .next s)
     ∧ ∀ x, s.insts = [x] → stuck x = true →
        let left := (List.range x.chunks).filter (fun i => !x.marked.contains i)
        (∀ a, s.assignTrees (s.group x.grp) left = .ok a → ∃ u : State, exec .collectiveRecompute s = .next u ∧ u.insts = [{ x with assign := a }]
          ∧ u.hart = s.hart ∧ u.mem = s.mem
          ∧ ((x.calls.map (·.rank)).Nodup → ∀ c ∈ x.calls,
              (u.stat x.lid x.grp c.rank).restarts = (s.stat x.lid x.grp c.rank).restarts + left.length))
        ∧ ∀ r, s.assignTrees (s.group x.grp) left = .error r → ∃ u : State, exec .collectiveRecompute s = .next u ∧ endsInstances s u (· = x) r)
    ∧ (∃ u : State, exec .collectiveTimeout s = .next u ∧ endsInstances s u (fun x =>
        let tmo := (s.group x.grp).gctl.toNat / 2 ^ 16 % 2 ^ 16
        tmo ≠ 0 ∧ x.first + tmo * 65536 ≤ s.time) 8)
    ∧ ∀ g, g < 64 → s.input = .unit g → (s.group g).gctl.getLsbD 0 = true → ∃ u : State, exec .groupDisable s = .next u
        ∧ endsInstances s u (fun x => x.grp = g) 7
        ∧ (∀ i, (u.group g).gctl.getLsbD i = ((s.group g).gctl.getLsbD i && i != 0)) ∧ ∀ h, h ≠ g → u.group h = s.group h

/-! ## Requests of other agents, and the transport -/

namespace Sys2Proof.Spec

/-- The request is answered, and nothing else happens but what `t` says. -/
def answers (s : State) (i : Instr) (t : State) (r : OutReq) (cause : BitVec 8) (data : Nat) : Prop :=
  exec i s = .next { t with sent := .answer r.src r.tag cause data :: t.sent }

/-- The rights of a request from outside, at the place that its address names. -/
def outside (r : OutReq) : Req := ⟨.scalar, r.mode, r.tenant, none, 2048, 0⟩

/-- The reply that a home has kept for a request, among those of its source (R329). -/
def kept (s : State) (r : OutReq) : Option Reply :=
  (s.replies.filter (fun x => x.home == r.home && x.src == r.src)).find? (fun x => x.tag == r.tag)

/-- Whether a home performs a request that it has not seen: its tag is newer than some tag that the home has kept of the source, or the
home has kept none and has lost none (R330; that a tag between kept ones is performed is the model's choice, log 34). -/
def unseen (s : State) (r : OutReq) : Prop :=
  let mine := s.replies.filter (fun x => x.home == r.home && x.src == r.src)
  (mine = [] ∧ (r.home, r.src) ∉ s.lost) ∨ ∃ x ∈ mine, 0 < (r.tag - x.tag).toNat ∧ (r.tag - x.tag).toNat < 2 ^ 15

end Sys2Proof.Spec

/-- R273, R287, R329, R330, R386: HOME_ACCESS and REMOTE_ATOMIC_ARRIVAL: a read delivers the bytes, a write stores them, each answered once; a
poisoned write poisons its place, or is turned away by class N; a place that the request may not touch answers ACCESS_FAULT. An atomic access or push is performed once: a repetition is answered from
the reply cache, and one that is older than every kept one is answered REMOTE_FAULT as ambiguous; the answer of a performed one is kept, but
for a push that its target turns away for now. That a tag between kept ones is performed is the model's choice (log 34). -/
def Sys2Proof.Spec.HomesPerformRequests : Prop :=
  ∀ (s : State) (r : OutReq), s.input = .request r →
    let pa := s.redirect (r.pod % 2 ^ 45)
    let may (k : Kind) : Prop := r.pod / 2 ^ 45 = s.pkg.toNat ∧ r.n ≠ 0 ∧ s.homeCheck (outside r) k pa r.n = none
    let written := s.writeAt (outside r) (.here pa) r.n (r.data % 2 ^ (8 * r.n))
    exec .homeAccess s = .next (s.outAccess r) ∧
    (r.kind = .read → (¬may .read → answers s .homeAccess s r 6 0)
      ∧ (may .read → ∀ v bad t, s.readAt (outside r) (.here pa) r.n = ((v, bad), t) → answers s .homeAccess t r (if bad then 7 else 0) v))
    ∧ (r.kind = .write → (¬may .write → answers s .homeAccess s r 6 0)
      ∧ (may .write → r.data2 = 0 → answers s .homeAccess written r 0 0)
      ∧ (may .write → r.data2 ≠ 0 → s.placeCls (.here pa) = .n → answers s .homeAccess s r 7 0)
      ∧ (may .write → r.data2 ≠ 0 → s.placeCls (.here pa) ≠ .n → answers s .homeAccess (written.poisonAt pa r.n) r 0 0))
    ∧ ((∃ op t, r.kind = .atomic op t) ∨ (∃ d t n, r.kind = .push d t n) →
      exec .remoteAtomicArrival s = exec .homeAccess s
      ∧ (∀ x, kept s r = some x → answers s .homeAccess s r x.cause x.old.toNat)
      ∧ (kept s r = none → ¬unseen s r → answers s .homeAccess s r 0x0B 1)
      ∧ (kept s r = none → unseen s r → (∀ op t, r.kind = .atomic op t → ¬may .atomic →
            ∃ u, answers s .homeAccess u r 6 0 ∧ u.mem = s.mem ∧ kept u r = some ⟨r.home, r.src, r.tag, 6, 0⟩)
        ∧ (∀ op t, r.kind = .atomic op t → may .atomic →
            ∀ old w, s.atomStep (outside r) pa r.n (fun old => (vatomNew t op r.data r.data2 old).1) = (some old, w) →
            ∃ u, answers s .homeAccess u r 0 old ∧ u.mem = w.mem ∧ u.hart = w.hart
              ∧ kept u r = some ⟨r.home, r.src, r.tag, 0, BitVec.ofNat 64 old⟩)
        ∧ (∀ op t, r.kind = .atomic op t → may .atomic →
            ∀ w, s.atomStep (outside r) pa r.n (fun old => (vatomNew t op r.data r.data2 old).1) = (none, w) →
            ∃ u, answers s .homeAccess u r 7 0 ∧ u.mem = w.mem ∧ kept u r = some ⟨r.home, r.src, r.tag, 7, 0⟩)
        ∧ (∀ d t n, r.kind = .push d t n → ∀ ans w, s.outPush r d t n = (ans, w) → match ans with
            | .accept => ∃ u, answers s .homeAccess u r 0 0 ∧ u.mem = w.mem ∧ u.hart = w.hart ∧ kept u r = some ⟨r.home, r.src, r.tag, 0, 0⟩
            | .nack => answers s .homeAccess w r 0xFF 0
            | .reject c => ∃ u, answers s .homeAccess u r c.code 0 ∧ u.mem = w.mem ∧ kept u r = some ⟨r.home, r.src, r.tag, c.code, 0⟩)))

/-- R380, R382, R383, R384, R385: a packet that no group carries, or whose flits cannot be corrected, is discarded; one that is new and within
the window is recorded, performed as HOME_ACCESS performs its request, and acknowledged, and a write that was refused leaves its answer. Of one
that has been received, a read is performed again, a write is only answered again, and an atomic access or push gets the kept answer. A packet
beyond the window is answered REMOTE_FAULT. A push without an answer is sent again after 20 µs, and ends with
REMOTE_FAULT after 2 ms, in the non-blocking queue by halting it. That a push goes out on the group of line 0 is the model's choice (log 74), and
so is the answer 0xFF to one that its target turns away for now (log 34). -/
def Sys2Proof.Spec.Transport : Prop :=
  ∀ (s : State) (src seq errs : Nat) (r : OutReq),
    (s.input = .packet src seq errs r →
      let f := s.flow src
      let old := seq < f.base ∨ seq ∈ f.got
      let line := r.pod / 128
      let carries (g : Nat) : Prop := (if g = 0 then s.reach[0] else s.reach[1]).getLsbD src = true ∧ (s.pg g).resetting = false
        ∧ countLow (s.pg g).dead 72 ≤ 8
      (¬carries 0 → ¬carries 1 → exec .fabricPacketReceive s = .next s)
      ∧ ∀ g, g < 2 → carries g → (g ≠ line % 2 → ¬carries (1 - g)) →
      (8 < 2 * errs + countLow (s.pg g).dead 72 → exec .fabricPacketReceive s = .next s)
      ∧ (2 * errs + countLow (s.pg g).dead 72 ≤ 8 →
      (¬old → seq < f.base + 4096 → f.base ∉ f.got → ∃ u : State, exec .fabricPacketReceive s = .next u
        ∧ (∀ n, (n < (u.flow src).base ∨ n ∈ (u.flow src).got) ↔ (n < f.base ∨ n ∈ f.got ∨ n = seq))
        ∧ (∀ p, p ≠ src → u.flow p = s.flow p)
        ∧ u = { s.outAccess r with flows := u.flows, sent := .ack src (u.flow src).base :: (s.outAccess r).sent }
        ∧ (r.kind ≠ .write → (u.flow src).refused = f.refused)
        ∧ (r.kind = .write → ∃ c, (s.outAccess r).sent.head? = some (.answer r.src r.tag c 0)
            ∧ (u.flow src).refused = if c = 0 then f.refused else (seq, c) :: f.refused))
      ∧ (old → r.kind = .read → exec .fabricPacketReceive s =
          .next { s.outAccess r with sent := .ack src ((s.outAccess r).flow src).base :: (s.outAccess r).sent })
      ∧ (old → r.kind = .write → exec .fabricPacketReceive s = .next { s with
          sent := [.ack src f.base, .answer r.src r.tag (((f.refused.find? (fun x => x.1 == seq)).map (·.2)).getD 0) 0] ++ s.sent })
      ∧ (old → (∃ op t, r.kind = .atomic op t) ∨ (∃ d t n, r.kind = .push d t n) →
          let again (cause : BitVec 8) (data : Nat) : Prop :=
            exec .fabricPacketReceive s = .next { s with sent := .ack src f.base :: .answer r.src r.tag cause data :: s.sent }
          (∀ x, kept s r = some x → again x.cause x.old.toNat)
          ∧ (kept s r = none → ¬unseen s r → again 0x0B 1) ∧ (kept s r = none → unseen s r → again 0xFF 0))
      ∧ (¬old → f.base + 4096 ≤ seq → answers s .fabricPacketReceive s r 0x0B (if r.kind = .read then 0 else 1))))
    ∧ (∀ (hid : BitVec 20) (no k : Nat), s.input = .work hid.toNat no k →
      exec .transportResend s = .next { s with outbox := s.outbox.map (fun (o : OutPush) =>
        if o.hid = hid.toNat ∧ o.no = no ∧ o.last + 20000 ≤ s.time then 
            { o with last := s.time, tries := o.tries + 1, grp := s.groupFor o.dst 0 } else o) }
      ∧ ((∀ o ∈ s.outbox, o.hid = hid.toNat → o.no = no → s.time < o.first + 2000000) → exec .requestTimeout s = .next s)
      ∧ (∀ o p, o ∈ s.outbox → o.hid = hid.toNat → o.no = no → o.first + 2000000 ≤ s.time → (s.getHart hid).hid = hid →
          (s.getHart hid).pushes.find? (fun p => p.no == no) = some p →
          (p.nb = true → ∃ o ∈ (s.getHart hid).nbQ, o.kind = .push no) →
          ∃ u : State, exec .requestTimeout s = .next u
            ∧ asIssued (u.getHart hid).pushes = asIssued ((s.getHart hid).pushes.filter (fun q => q.no != no))
            ∧ (p.nb = false → (u.getHart hid).pend.push = (s.getHart hid).pend.push
                ++ [(.remoteFault, if p.nacks = 0 then p.desc ||| 1 else p.desc &&& ~~~1#64)])
            ∧ (p.nb = true → (u.getHart hid).nbSt.halt = true)
            ∧ (∀ x ∈ u.outbox, ¬(x.hid = hid.toNat ∧ x.no = no)) ∧ SameMemory s u))

/-! ## Stored errors and pages in transit -/

/-- R130, R278, R279, R420: an error that strikes a store waits for the next access and changes no byte: one that the code sees to be found then, one
in HBM of class N to show its bits when the line is next read from there. One in a scalar register stands in the register until it is read; with two bad bits it poisons the
register. One in device state is recorded, and one that cannot be corrected is a machine fault. Scrubbing poisons an uncorrectable
granule, and records it in the die's log. That an error waits for the first access, and that a record has repeat count 1, are the model's choices
(log 33). -/
def Sys2Proof.Spec.StoredErrors : Prop :=
  ∀ (s : State) (k : Nat) (hid : BitVec 20) (g mask : Nat), 0 < mask → mask < 2 ^ 512 →
    (s.input = .nums [0, hid.toNat, g, mask, 0] → regionOf (64 * g) = .hbm → (∀ e ∈ s.errs, e.at_ ≠ .hbm g) →
      exec .storedDataError s = .next { s with errs := ⟨.hbm g, mask, decide (s.lineCls (g / 2) = .n)⟩ :: s.errs })
    ∧ (s.errs = [⟨.hbm g, mask, true⟩] → ∀ i, i < 64 → (s.fetchLine none (g / 2)).rawByte (64 * g + i) =
        s.rawByte (64 * g + i) ^^^ BitVec.ofNat 8 (mask / 256 ^ i))
    ∧ (s.input = .nums [1, hid.toNat, g, mask, 0] → hasLine s.quay (g / 16) = true → s.lineCls (g / 16) ≠ .n → (∀ e ∈ s.errs, e.at_ ≠ .quay g) →
        mask < 2 ^ 64 → exec .storedDataError s = .next { s with errs := ⟨.quay g, mask, false⟩ :: s.errs })
    ∧ (s.input = .nums [2, hid.toNat, g, mask, 0] → regionOf (8 * g) = .ws → (∀ e ∈ s.errs, e.at_ ≠ .local_ g) →
        mask < 2 ^ 64 → exec .storedDataError s = .next { s with errs := ⟨.local_ g, mask, false⟩ :: s.errs })
    ∧ (s.input = .nums [3, hid.toNat, k, mask, 0] → k < 68 → mask < 2 ^ 64 → (s.getHart hid).hid = hid →
        (s.getHart hid).xcor.getLsbD k = false → (s.getHart hid).xbad.getLsbD k = false → ∃ u : State, exec .storedDataError s = .next u
          ∧ (u.getHart hid).xcor = (s.getHart hid).xcor ||| BitVec.twoPow 68 k ∧ (u.getHart hid).struckBits 3 k = mask
          ∧ (u.getHart hid).xbad = (if (List.range 64).any (fun i => mask == 2 ^ i) then (s.getHart hid).xbad else (s.getHart hid).xbad ||| BitVec.twoPow 68 k)
          ∧ (u.getHart hid).x = (s.getHart hid).x ∧ u.mem = s.mem ∧ u.errs = s.errs)
    ∧ (s.input = .nums [6, hid.toNat, k, mask, 0] → mask < 2 ^ 64 →
        let rec_ (c : BitVec 8) := s.updDie k (fun x => { x with log := x.log ++ [⟨s.time, c, 0, 0, 1⟩] })
        exec .storedDataError s = .next (if (List.range 64).any (fun i => mask == 2 ^ i) then rec_ 0 else (rec_ 0xFF).machineFault))
    ∧ (s.input = .unit g → regionOf (64 * g) = .hbm → s.lineCls (g / 2) ≠ .n → hasLine s.quay (g / 2) = true → paDie (64 * g) < 10 →
      ∃ u : State, exec .scrubError s = .next u ∧ u.hart = s.hart ∧ u.mem = s.mem
        ∧ Tab.get (fun _ => false) u.gran g = true ∧ (∀ e ∈ u.errs, e ∈ s.errs ∧ e.at_ ≠ .hbm g)
        ∧ (u.die (paDie (64 * g))).log = (s.die (paDie (64 * g))).log
            ++ [⟨s.time, 7, (s.lineCls (g / 2)).code.setWidth 8, s.pkg.toNat * 2 ^ 45 + 64 * g, 1⟩])

/-- R349: MIGRATION_START begins the copying of an idle slot whose pages lie in HBM of this package, the new one on the slot's die, in frames of one
tenant and class, and else sets ERR; each line move copies 128 bytes and advances PTR, the last one makes the slot DONE; MIGRATION_FREE frees a
DONE slot. -/
def Sys2Proof.Spec.PagesMove : Prop :=
  ∀ (s : State) (d i k : Nat) (hi : i < 16), d < 8 → s.input = .work d i k →
    let t := (s.die d).slots[i]
    let becomes (i : Instr) (t' : Transit) : Prop := ∃ u : State, exec i s = .next u ∧ u.hart = s.hart ∧ u.mem = s.mem
      ∧ (u.die d).slots = (s.die d).slots.set _ t' hi
    let page (p : BitVec 36) : Nat × Nat × Nat := (p.toNat / 2 ^ 29, p.toNat / 2 ^ 25 % 16, p.toNat % 2 ^ 25 / 2 ^ 14)
    let a := page t.old
    let b := page t.new
    let good := a.1 = s.pkg.toNat ∧ b.1 = s.pkg.toNat ∧ b.2.1 = d ∧ a.2.1 < 8
      ∧ regionOf (t.old.toNat % 2 ^ 29 * 2 ^ 16) = .hbm ∧ regionOf (t.new.toNat % 2 ^ 29 * 2 ^ 16) = .hbm
      ∧ (s.frame a.2.1 a.2.2).tenant = (s.frame b.2.1 b.2.2).tenant ∧ (s.frame a.2.1 a.2.2).cls = (s.frame b.2.1 b.2.2).cls ∧ t.old ≠ t.new
    (t.st = 0 → (good → becomes .migrationStart { t with st := 1, err := false, ptr := 0 })
      ∧ (¬good → becomes .migrationStart { t with err := true }))
    ∧ (t.st ≠ 0 → exec .migrationStart s = .next s)
    ∧ (t.st = 2 → becomes .migrationFree { t with st := 0 }) ∧ (t.st ≠ 2 → exec .migrationFree s = .next s)
    ∧ (t.st ≠ 1 → exec .migrationLineMove s = .next s)
    ∧ (t.st = 1 → s.errs = [] → s.MarksPast → t.ptr % 128 = 0 → t.ptr < 65536 → regionOf (t.old.toNat % 2 ^ 29 * 2 ^ 16) = .hbm →
        regionOf (t.new.toNat % 2 ^ 29 * 2 ^ 16) = .hbm →
        let src := t.old.toNat % 2 ^ 29 * 2 ^ 16 + t.ptr
        let dst := t.new.toNat % 2 ^ 29 * 2 ^ 16 + t.ptr
        ∃ u : State, exec .migrationLineMove s = .next u ∧ u.hart = s.hart ∧ u.bytes dst 128 = s.bytes src 128 ∧ SameOutside s u dst 128
          ∧ (u.die d).slots = (s.die d).slots.set i { t with ptr := t.ptr + 128, st := if t.ptr = 65408 then 2 else 1 } hi)

/-! ## Links -/

namespace Sys2Proof.Spec

/-- An event changes one wavelength of a die, and nothing else. -/
def waveBecomes (i : Instr) (s : State) (d k : Nat) (w : Wave) : Prop :=
  ∃ u : State, exec i s = .next u ∧ u.wave d k = w ∧ (∀ j, j ≠ k → u.wave d j = s.wave d j) ∧ (∀ e, e ≠ d → u.die e = s.die e)
    ∧ u.hart = s.hart ∧ u.rest = s.rest ∧ u.mem = s.mem ∧ u.ltab = s.ltab

/-- A wavelength that begins to train: RETRAINS grows by 1, saturating (R376, R377). -/
def trains (w : Wave) : Wave :=
  { w with st := .training, marked := false, retrains := BitVec.ofNat 16 (min (w.retrains.toNat + 1) 65535) }

/-- Whether a retrain may begin (R377): the wavelength is ACTIVE, and at most one other of the strand is LEAVING, TRAINING or JOINING. -/
def mayRetrain (s : State) (d k : Nat) : Prop :=
  (s.wave d k).st = .active ∧ ((List.range 8).filter (fun j => k / 8 * 8 + j != k
    && decide ((s.wave d (k / 8 * 8 + j)).st ∈ [WState.leaving, .training, .joining]))).length ≤ 1

end Sys2Proof.Spec

/-- R376, R377: what makes a wavelength retrain, go out of use and come back, and what a training attempt and a flit boundary make of it. That WLCTL.OFF outside
ACTIVE and OFF stores the bit only, and that a LEAVING wavelength keeps its mark, are the model's readings (log 26). -/
def Sys2Proof.Spec.Wavelengths : Prop :=
  ∀ (s : State) (d k v : Nat), d < 10 →
    let w := s.wave d k
    (s.input = .nums [d, k, v] → v < 256 →
      let w' := { w with berx := BitVec.ofNat 8 v }
      (v < w.thr.toNat → mayRetrain s d k → waveBecomes .wavelengthRetrainTrigger s d k { w' with st := .leaving, marked := false })
      ∧ (w.thr.toNat ≤ v ∨ ¬mayRetrain s d k → waveBecomes .wavelengthRetrainTrigger s d k w'))
    ∧ (s.input = .nums [d, k] →
      (w.st = .failed → waveBecomes .wlctlForce s d k { trains w with fails := 0 })
      ∧ (mayRetrain s d k → waveBecomes .wlctlForce s d k { w with st := .leaving, marked := false })
      ∧ (w.st ≠ .failed → ¬mayRetrain s d k → exec .wlctlForce s = .next s)
      ∧ waveBecomes .wlctlOffSet s d k (if w.st = .active then { w with off := true, st := .leaving, marked := true } else { w with off := true })
      ∧ waveBecomes .wlctlOffClear s d k (if w.st = .off then { trains w with off := false, fails := 0 } else { w with off := false }))
    ∧ (s.input = .nums [d, k, v] → waveBecomes .wavelengthTrainingDone s d k (if w.st = .training then
        (if v ≠ 0 then { w with st := .joining, fails := 0 }
         else if w.fails < 3 then { trains w with fails := w.fails + 1 }
         else { w with st := .failed, fails := 0 }) else w))
    ∧ (∀ peer strand, strand < 16 → s.input = .nums [d, peer, strand] →
        ∃ u : State, exec .wavelengthFlitBoundary s = .next u ∧ u.hart = s.hart ∧ u.mem = s.mem
          ∧ (∀ j, j < 8 → let k := 128 * peer + 8 * strand + j
              u.wave d k = match (s.wave d k).st with
                | .leaving => if (s.wave d k).marked then { s.wave d k with st := .off, marked := false } else trains (s.wave d k)
                | .joining => { s.wave d k with st := .active }
                | _ => s.wave d k)
          ∧ ∀ j, j / 8 ≠ 16 * peer + strand → u.wave d j = s.wave d j)

/-- R373 to R377: a flit of a packet travels on its default strand or the next one that is up, or over the relay of a pair that is down. It is
taken when it is the next one of its strand, and discarded else; its flow number is recorded where it arrives, and the sender keeps it
no longer. One that cannot be corrected is asked for again, and kept. COR counts on the wavelengths that carried a corrected bit, UNC on
those that carried the flit: the ACTIVE ones, and those that leave at its end. -/
def Sys2Proof.Spec.Flits : Prop :=
  ∀ (s : State) (d a l n seq fixed lost : Nat), d < 10 → a < 10 → s.input = .nums [d, a, l, n, seq, fixed, lost] →
    let first := (l % 16) ^^^ (l / 16 % 16) ^^^ (l / 256 % 16) ^^^ (l / 4096 % 16)
    (∀ k, k < 16 → (∀ j, j < k → s.carriers a d ((first + j) % 16) = []) → s.carriers a d ((first + k) % 16) ≠ [] →
      s.lastHop a d l = some (a, (first + k) % 16))
    ∧ ((∀ t, t < 16 → s.carriers a d t = []) → s.lastHop a d l = (s.relay a d).bind (fun c => (s.strandFor c d l).map (fun t => (c, t))))
    ∧ (s.lastHop a d l = none → exec .dieFlitReceive s = .next s)
    ∧ ∀ peer strand, s.lastHop a d l = some (peer, strand) → ∃ u : State, exec .dieFlitReceive s = .next u ∧ u.hart = s.hart ∧ u.mem = s.mem
      ∧ let x := s.strand d (16 * peer + strand)
        let ws := s.carriers peer d strand
        u.strand d (16 * peer + strand) = (if lost ≠ 0 then { x with replay := true } else if seq = x.next then ⟨seq + 1, false⟩ else x)
        ∧ (lost = 0 → seq = x.next → (d, n) ∉ (u.die a).held ∧ ∀ m, (u.flits d a).has m = ((s.flits d a).has m || m == n))
        ∧ ((lost ≠ 0 ∨ seq ≠ x.next) → u.flits d a = s.flits d a)
        ∧ (lost ≠ 0 → (d, n) ∈ (u.die a).held)
        ∧ ∀ j, j < 8 → let w := s.wave d (128 * peer + 8 * strand + j)
          (j ∈ ws ↔ w.st = .active ∨ w.st = .leaving)
          ∧ u.wave d (128 * peer + 8 * strand + j) = if j ∉ ws then w else if lost ≠ 0 then { w with unc := w.unc + 1 }
            else if (List.range 576).any (fun i => fixed.testBit i && ws[i % ws.length]? == some j) then { w with cor := w.cor + 1 } else w

/-- R387 to R389, R394: LINK_TABLE_UPDATE writes an entry for every ordered pair of dies: its state, the strands that carry something, and the
active wavelengths; the port groups' entries; what the fabric routes; and LTTREE. A change makes LINK_EVENT pending on the system hart that
LTEVT names, with the lowest offset that changed (of several, the model's reading: log 24), and a pending one stays. -/
def Sys2Proof.Spec.LinkTable : Prop :=
  ∀ (s : State) (ra rb : BitVec 128), s.input = .nums [ra.toNat, rb.toNat] → ∃ u : State, exec .linkTableUpdate s = .next u ∧ u.mem = s.mem
    ∧ u.reach = #v[ra, rb] ∧ u.dies = s.dies ∧ u.pgs = s.pgs
    ∧ (∀ a b, a < 10 → b < 10 → a ≠ b →
        let n := ((List.range 16).map (fun t => s.strandWaves a b t)).sum
        let e := u.pairEntry a b
        e.toNat % 256 = n % 256 ∧ e.toNat / 2 ^ 62 = (if n = 128 then 0 else if n = 0 then 2 else 1)
        ∧ ∀ t, t < 16 → e.getLsbD (32 + t) = decide (0 < s.strandWaves a b t))
    ∧ (∀ g : Fin 2, (u.ltpg[g]).toNat / 2 ^ 62 =
        if s.pgs[g].resetting then 2 else if 8 < countLow s.pgs[g].dead 72 then 3 else if 0 < countLow s.pgs[g].dead 72 then 1 else 0)
    ∧ (∀ t, t < 5 → u.lttree.getLsbD t = u.pathUsable t)
    ∧ u.lttree.getLsbD 5 = (List.range 5).all (fun t => !u.pathUsable t)
    ∧ (∀ (h : BitVec 20), h = s.ltevt.setWidth 20 → s.ltevt.getLsbD 63 = true → namesHart s.pkg s.mgmtDie h = true → (s.getHart h).hid = h →
        (s.getHart h).isSys = true → ∀ o, firstChange s u = some o →
        (u.getHart h).pend.link = some ((s.getHart h).pend.link.getD (BitVec.ofNat 64 o)))
    ∧ ((s.ltevt.getLsbD 63 = false ∨ firstChange s u = none) → u.hart = s.hart ∧ u.rest = s.rest)

/-- R380, R382, R383: dead lanes and divergences put a port group out of service, and the packets in flight on it are discarded; the end of its
reset brings it back; its time out of service runs on; after 1 ms it is lost, and with both groups lost the package stops. -/
def Sys2Proof.Spec.PortGroups : Prop :=
  ∀ (s : State) (g : Nat) (hg : g < 2),
    let out (x : PortGroup) : Prop := x.resetting = true ∨ 8 < countLow x.dead 72
    let becomes (i : Instr) (x : PortGroup) : Prop := ∃ u : State, exec i s = .next u ∧ u.hart = s.hart ∧ u.mem = s.mem
      ∧ (u.pgs[g]).dead = x.dead ∧ (u.pgs[g]).resetting = x.resetting ∧ (∀ h, (hh : h < 2) → h ≠ g → u.pgs[h] = s.pgs[h])
      ∧ (out x → (u.pgs[g]).outSince = some ((s.pgs[g]).outSince.getD s.time)) ∧ (¬out x → (u.pgs[g]).outSince = none ∧ (u.pgs[g]).lost = false)
    let drops (i : Instr) : Prop := ∀ u : State, exec i s = .next u → ∀ o ∈ u.outbox, o.grp ≠ some g
    (∀ dead, s.input = .nums [g, dead] → becomes .fabricLaneFailure { s.pgs[g] with dead := BitVec.ofNat 72 dead }
      ∧ (8 < countLow (BitVec.ofNat 72 dead) 72 → drops .fabricLaneFailure))
    ∧ (s.input = .nums [g, 0] → exec .grantCrcCheck s = .next s)
    ∧ (∀ n, n ≠ 0 → s.input = .nums [g, n] → becomes .grantCrcCheck { s.pgs[g] with resetting := true } ∧ drops .grantCrcCheck)
    ∧ (s.input = .unit g → becomes .portGroupResetDone { s.pgs[g] with resetting := false }
      ∧ ((s.pgs[g]).outSince = none → exec .portGroupLost s = .next s)
      ∧ ∀ t, (s.pgs[g]).outSince = some t →
        (s.time < t + 1000000 → exec .portGroupLost s = .next s)
        ∧ (t + 1000000 ≤ s.time → out (s.pgs[g]) → (s.pgs[1 - g]).lost = false → ∃ u : State, exec .portGroupLost s = .next u ∧ u.hart = s.hart
            ∧ u.mem = s.mem ∧ (u.pgs[g]).lost = true ∧ u.fault = s.fault)
        ∧ (t + 1000000 ≤ s.time → out (s.pgs[g]) → (s.pgs[1 - g]).lost = true → ∃ u : State, exec .portGroupLost s = .next u ∧ u.fault = true))

/-- R364: a machine fault stops the package: the harts of I/O dies halt, compute harts end, launches that have not retired fail, their queues
halt, gangs, what they were promised, what an undock has moved, berths, window copies, collectives and reply caches are lost; a berth keeps the
tenant whose bytes it holds. The model's choices: discarded scalar registers read 0 (log 81), and a log record has repeat count 1 (log 33). -/
def Sys2Proof.Spec.MachineFaults : Prop :=
  ∀ (s : State) (d k : Nat), d < 10 → (s.input = .nums [d, 1] ∨ s.input = .unit k) →
    ∃ u : State, exec .machineFault s = .next u ∧ u.fault = true ∧ u.gangs = [] ∧ u.resvs = [] ∧ u.insts = [] ∧ u.replies = [] ∧ u.copies = []
      ∧ u.outbox = [] ∧ u.promises = [] ∧ (∀ x, s.undock = some x → u.undock = some { x with launches := [], gangs := [] })
      ∧ u.hart.hid = s.hart.hid ∧ u.hart.tenant = s.hart.tenant ∧ u.hart.launch = none ∧ (∀ j, j < 64 → u.hart.x.toList[j]? = some 0)
      ∧ u.hart.run = (if s.hart.isCompute then .idle else .halted)
      ∧ (∀ l ∈ s.launches, l.st ≠ .failed → l.st ≠ .retired → ∃ m ∈ u.launches, m.lid = l.lid ∧ m.st = .failed ∧ m.cause = 0xFF)
      ∧ (∀ l ∈ u.launches, l.st = .failed → (u.queue l.lid.q).halted = true ∨ 64 ≤ l.lid.q)
      ∧ (∀ e b, e < 10 → b < 32 → (u.berth e b).st = 0 ∧ (u.berth e b).tenant = (s.berth e b).tenant)
      ∧ (∀ a, (∀ e, e < 10 → a < e * 2 ^ 41 + 0x10000000000 ∨ e * 2 ^ 41 + 0x12020000000 ≤ a) → u.byte a = s.byte a)
      ∧ (s.input = .nums [d, 1] → (u.die d).log = (s.die d).log ++ [⟨s.time, 0xFF, 0, 0, 1⟩])

/-! ## The scheduler -/

namespace Sys2Proof.Spec

/-- A hart at its start in a gang (R93, R102, R120, R358): what R102 lists has its value, every other register is zero. -/
def started (s : State) (l : Launch) (g : Gang) (i : Nat) (acc : Nat) (h : Hart) : Prop :=
  let pk := l.pk
  let arg (k : Nat) : Word := (pk.extractLsb' (320 + 32 * k) 32).signExtend 64
  let pod := s.pkg.toNat * 2 ^ 45 + hidDie h.hid * 2 ^ 41 + coreKey h.hid % 128 * 2 ^ 21
  h.run = .running ∧ h.mode = .u ∧ h.tenant = l.tenant ∧ h.launch = some l.lid ∧ h.kclass = pk.extractLsb' 116 2
  ∧ h.pc = (pk.extractLsb' 0 57).setWidth 64 ∧ h.tvec = (s.die (hidDie h.hid)).tvdef ∧ h.mgrant = 0 ∧ h.instret = 0 ∧ h.tok = 0
  ∧ h.x = Vector.ofFn (fun k : Fin 64 => match k.val with
      | 1 => pk.extractLsb' 192 64
      | 2 => pk.extractLsb' 256 64
      | 3 => arg 0 | 4 => arg 1 | 5 => arg 2 | 6 => arg 3 | 7 => arg 4 | 8 => arg 5
      | 9 => BitVec.ofNat 64 (pk.toNat / 2 ^ 64 % 2 ^ 40)
      | 10 => BitVec.ofNat 64 l.lid.seq
      | 11 => BitVec.ofNat 64 (pod + 0x10000000000 + g.spmOff)
      | 12 => BitVec.ofNat 64 (pod + 0x11000000000 + acc)
      | _ => 0)
  ∧ (∀ k, k < 16 → h.p.toList[k]? = some 0) ∧ h.vst = 0 ∧ h.vtag = Vector.replicate 64 0 ∧ h.vl = 1 ∧ h.vh = 1
  ∧ h.regs = pk.extractLsb' 110 2 ∧ h.fcsr.setWidth 32 = (0 : BitVec 32)
  ∧ h.gid.toNat = i + 16 * (g.harts.length - 1) % 256 + 256 * g.bar + 4096 * (g.num % 2 ^ 12) + 2 ^ 24 * (pk.extractLsb' 116 2).toNat
      + 2 ^ 26 * (l.lid.q % 64)

/-- The launch whose gang a placement places: the first in the order of service, which is not co-resident. -/
def nextUp (s : State) (l : Launch) (ls : List Launch) : Prop :=
  s.candidates = l :: ls ∧ s.launchOf l.lid = some l ∧ pkCor l.pk = false

/-- Where the next gang of a launch goes (R109, R110, R112, R116), leaving free what is promised to other launches (R114). -/
def spotOf (s : State) (l : Launch) : Option (Nat × Spot) :=
  s.choose (shapeOf l.pk) (s.gangs.filter (s.blocks l.lid (s.prio l)) ++ s.promises.filter (fun g => g.forL != some l.lid)) ((List.range 256).filter (fun cl => s.openTo cl l.lid (s.prio l)))

end Sys2Proof.Spec

/-- R102, R106, R107, R109 to R112, R114, R121, R428: GANG_PLACEMENT places the next gang of the first launch in the order of service where it fits: its
harts start, with a barrier register and its allotments; a launch that fits nowhere begins to wait. An undocking package places nothing (the
model's choice, log 38). -/
def Sys2Proof.Spec.Placement : Prop :=
  ∀ (s : State) (l : Launch) (ls : List Launch),
    (s.undocking = true → exec .gangPlacement s = .next s)
    ∧ (s.undocking = false → s.candidates = [] → exec .gangPlacement s = .next s)
    ∧ (s.undocking = false → nextUp s l ls →
      (∀ cl q, spotOf s l = some (cl, q) → cl < 256 → q.bar < 16 → (q.harts.map (·.1)).Nodup → (∀ h ∈ q.harts, h.1 < 16) →
        ∃ (u : State) (g : Gang), exec .gangPlacement s = .next u ∧ g ∈ u.gangs
          ∧ g.lid = l.lid ∧ g.num = l.placed ∧ g.cl = cl ∧ g.st = .resident ∧ g.tenant = l.tenant ∧ g.bar = q.bar
          ∧ g.harts = q.harts.map (fun h => (mkHid s.pkg cl h.1).toNat) ∧ g.live = g.harts ∧ g.accOff = q.harts.map (·.2)
          ∧ u.bar cl q.bar = { used := true, members := BitVec.ofNat 16 (2 ^ (pkGsz l.pk + 1) - 1) }
          ∧ (∀ r ∈ u.resvs, r.lid ≠ l.lid) ∧ (∀ p ∈ u.promises, p.forL ≠ some l.lid) ∧ u.rr = (l.lid.q + 1) % 64
          ∧ ∀ (i : Nat) (hi : i < q.harts.length), started s l g i q.harts[i].2 (u.getHart (mkHid s.pkg cl q.harts[i].1)))
      ∧ (spotOf s l = none → ls = [] → ∃ u : State, exec .gangPlacement s = .next u ∧ u.gangs = s.gangs ∧ u.hart = s.hart ∧ u.rest = s.rest
          ∧ u.mem = s.mem ∧ (u.launchOf l.lid).map (·.waits) = some (some (l.waits.getD (s.cycleOf 8)))))

namespace Sys2Proof.Spec

/-- The gangs that a launch of priority `p` may pre-empt (R114): resident ones of a lower priority, resident for 2^MINRES cycles, ordered by
priority and then the youngest first. -/
def isVictims (s : State) (p : Nat) (vs : List Gang) : Prop :=
  (∀ g, g ∈ vs ↔ g ∈ s.gangs ∧ g.st = .resident ∧ s.gangPrio g < p ∧ g.since + 2 ^ (s.schcfg.toNat / 64 % 32) ≤ s.cycleOf 8)
  ∧ vs.Pairwise (fun a b => s.gangPrio a < s.gangPrio b ∨ (s.gangPrio a = s.gangPrio b ∧ b.since ≤ a.since))

/-- The gangs that go with some victims: the victims, and all gangs of a co-resident launch that one of them belongs to (R114, R439). -/
def goesWith (s : State) (vs : List Gang) (g : Gang) : Bool :=
  vs.any (fun v => v.lid == g.lid && (v.num == g.num || ((s.launchOf v.lid).map (fun l => l.pk.getLsbD 121)).getD false))

/-- Whether a gang of a launch fits a cluster once some gangs are gone (R109). -/
def fits (s : State) (l : Launch) (cl : Nat) (gone : Gang → Bool) : Prop :=
  (findSpot (usageOf s cl (s.rivals l.lid (s.prio l) gone)) (shapeOf l.pk)).isSome = true
/-- Whether all gangs that a launch places together fit, one after another, once some gangs are gone (R439). -/
def fitAll (s : State) (l : Launch) (gone : Gang → Bool) : Prop :=
  s.fitMany l (shapeOf l.pk) l.placed (together l) (s.rivals l.lid (s.prio l) gone) = true

/-- `k` is the least positive number, at most `n`, that meets a condition. -/
def leastOf (n : Nat) (c : Nat → Prop) (k : Nat) : Prop := 0 < k ∧ k ≤ n ∧ c k ∧ ∀ j, 0 < j → j < k → ¬c j
/-- `cl` has the least number among the clusters that have one, ties to the lowest. -/
def leastCluster (c : Nat → Nat → Prop) (cl n : Nat) : Prop :=
  cl < 256 ∧ c cl n ∧ ∀ d m, d < 256 → c d m → n < m ∨ (n = m ∧ cl ≤ d)

/-- The first launch in the order of service that meets a condition. -/
def firstUp (s : State) (c : Launch → Prop) (l : Launch) : Prop :=
  ∃ bs as, s.candidates = bs ++ l :: as ∧ c l ∧ ∀ b ∈ bs, ¬c b

/-- The resident gangs among some are being pre-empted for a launch (R115): their harts have PREEMPT pending, and their resources are promised to
it. Nothing else changes. -/
def giveWay (s u : State) (l : Launch) (gone : Gang → Bool) : Prop :=
  u.mem = s.mem ∧ u.launches = s.launches ∧ u.resvs = s.resvs
  ∧ u.gangs = s.gangs.map (fun g => if gone g && decide (g.st = .resident)
      then { g with st := .preempting, forL := some l.lid, yielded := false } else g)
  ∧ (∀ g ∈ s.gangs, gone g = true → g.st = .resident → ∀ hid : BitVec 20, hid.toNat ∈ g.live → (s.getHart hid).hid = hid →
      (u.getHart hid).pend.preempt = true)
  ∧ (s.Named → ∀ hid : BitVec 20, (∀ g ∈ s.gangs, gone g = true → g.st = .resident → ∀ n ∈ g.live, BitVec.ofNat 20 n ≠ hid) →
      u.getHart hid = s.getHart hid)

/-- The launch that receives the next reservation is due: it wants a gang placed, has found no place for 2^HOLD cycles, and its priority has
none (R112). -/
def due (s : State) (l : Launch) : Prop :=
  l ∈ s.launches ∧ s.wantsGang l = true ∧ (∀ r ∈ s.resvs, r.prio ≠ s.prio l)
    ∧ ∃ t, l.waits = some t ∧ t + 2 ^ min (s.schcfg.toNat % 64) 40 ≤ s.cycleOf 8
/-- The smallest number of resident harts whose gangs, removed together, let a gang of the launch fit a cluster (R112). -/
def costs (s : State) (l : Launch) (cl n : Nat) : Prop :=
  let all := s.gangs.filter (fun g => g.cl == cl)
  let room (out : List Gang) : Prop := out.Sublist (all.filter (fun g => g.st != Resid.parked))
    ∧ (findSpot (usageOf s cl (all.filter (fun g => !out.any (fun o => o.lid == g.lid && o.num == g.num)) ++ s.promisedAway l.lid))
        (shapeOf l.pk)).isSome = true
  let size (out : List Gang) : Nat := (out.map (fun g => g.live.length)).sum
  (∃ out, room out ∧ size out = n) ∧ ∀ out, room out → n ≤ size out

/-- A parked gang resumed in its place (R116, R215); that it counts as placed anew is the model's choice (log 80). -/
def resumed (s : State) (g : Gang) : Gang :=
  { g with st := .resident, since := s.cycleOf 8, live := g.saved.map (fun h => h.hid.toNat), saved := [], rowsResv := 0, yielded := false
           grants := g.grants.map (fun _ => 0) }
/-- A hart resumed with its saved state and its recorded rows: open are the scalar, predicate and vector registers, and the timer and the page
batch stand in its trap block (R116, R215, R354). -/
def resumedHart (now h h' : Hart) (rows : Nat) : Prop :=
  h' = { h with run := .running, mgrant := rows, x := h'.x, p := h'.p, vst := h'.vst, tcmp := now.tcmp, fb := now.fb }

end Sys2Proof.Spec

/-- R112, R114, R115, R439: the scheduler's choices. PREEMPT_SELECTION takes the first launch that fits nowhere, and stops the shortest prefix of
the gangs that it may pre-empt in the cluster where that is shortest; CORESIDENT_PREEMPT_SELECTION takes the shortest prefix over all clusters that
makes room for a co-resident launch as a whole; SCHEDULER_RESERVATION reserves, for the launch that has waited longest, the cluster that
the fewest resident harts hold up, and gives its idle cores the launch's class. Where there is no such prefix or cluster, nothing happens. -/
def Sys2Proof.Spec.Preemption : Prop :=
  ∀ (s : State) (l : Launch) (vs : List Gang), isVictims s (s.prio l) (s.victims (s.prio l)) ∧ (vs = s.victims (s.prio l) →
    let one (x : Launch) : Prop := x.pk.getLsbD 121 = false ∧ (∀ cl, cl < 256 → ¬fits s x cl (fun _ => false)) ∧ s.promised x.lid = false
    let all (x : Launch) : Prop := x.pk.getLsbD 121 = true ∧ ¬fitAll s x (fun _ => false) ∧ s.promised x.lid = false
    let inCl (cl : Nat) : List Gang := vs.filter (fun v => v.cl == cl)
    let n (cl k : Nat) : Prop := leastOf (inCl cl).length (fun k => fits s l cl (goesWith s ((inCl cl).take k))) k
    ((∀ x ∈ s.candidates, ¬one x) → exec .preemptSelection s = .next s)
    ∧ (firstUp s one l →
      (∀ cl k, leastCluster n cl k → ∃ u : State, exec .preemptSelection s = .next u ∧ giveWay s u l (goesWith s ((inCl cl).take k)))
      ∧ ((∀ cl k, cl < 256 → ¬n cl k) → exec .preemptSelection s = .next s))
    ∧ ((∀ x ∈ s.candidates, ¬all x) → exec .coresidentPreemptSelection s = .next s)
    ∧ (firstUp s all l →
      (∀ k, leastOf vs.length (fun k => fitAll s l (goesWith s (vs.take k))) k →
        ∃ u : State, exec .coresidentPreemptSelection s = .next u ∧ giveWay s u l (goesWith s (vs.take k)))
      ∧ ((∀ k, ¬leastOf vs.length (fun k => fitAll s l (goesWith s (vs.take k))) k) → exec .coresidentPreemptSelection s = .next s))
    ∧ ((∀ x, ¬due s x) → exec .schedulerReservation s = .next s)
    ∧ (due s l → (∀ x, due s x → x ≠ l → l.waits.getD 0 < x.waits.getD 0) →
      (∀ cl k, leastCluster (costs s l) cl k → ∃ u : State, exec .schedulerReservation s = .next u ∧ u.gangs = s.gangs ∧ u.hart = s.hart
        ∧ u.rest = s.rest ∧ u.launches = s.launches ∧ u.resvs = s.resvs ++ [⟨cl, l.lid, s.prio l⟩]
        ∧ ∀ j, j < 4 → (∀ g ∈ s.gangs, g.cl = cl → j ∉ g.cores) → (u.core (4 * cl + j)).cls = (shapeOf l.pk).cls)
      ∧ ((∀ cl k, cl < 256 → ¬costs s l cl k) → exec .schedulerReservation s = .next s)))

/-- R116, R120, R215, R354, R428, R429: GANG_RESUME resumes, of the parked gangs that can resume, the one of the highest priority, of several the one
parked last: in its place, its harts with their saved state; a co-resident launch resumes as a whole. A gang that an undock of another
package has moved here resumes where it fits, under a new `hid` and this package's queue and barrier register; its launch takes the next
number of its queue (the model's choice, log 38). An undocking package resumes nothing (log 38). -/
def Sys2Proof.Spec.Resumption : Prop :=
  ∀ (s : State),
    ((∀ l gs, s.input ≠ .moved l gs) →
      (s.undocking = true ∨ (∀ g ∈ s.gangs, g.st ≠ .parked) → exec .gangResume s = .next s)
      ∧ (∀ g ∈ s.gangs, s.undocking = false → g.st = .parked → (s.gangs.map (fun x => (x.lid, x.num))).Nodup →
          (∀ x ∈ s.gangs, x.st = .parked → x ≠ g → (s.resumeWith x).isSome = true →
            s.gangPrio x < s.gangPrio g ∨ (s.gangPrio x = s.gangPrio g ∧ x.parkNo < g.parkNo)) →
        (s.isCor g = false → s.resumable g = true → (g.saved.map (·.hid)).Nodup → ∃ u : State, exec .gangResume s = .next u
          ∧ u.gangs = s.gangs.map (fun x => if x = g then resumed s g else x)
          ∧ ∀ h ∈ g.saved, resumedHart (s.getHart h.hid) h (u.getHart h.hid) (g.grants.getD (g.harts.idxOf h.hid.toNat) 0))
        ∧ (s.isCor g = true → (∀ x ∈ s.gangs, x.lid = g.lid → x.st ≠ .preempting) → (∀ x ∈ s.gangs, x.lid = g.lid → x.st = .parked → s.placeBack x = true) →
            ∀ u, State.resumeAll (s.gangs.filter (fun x => x.lid == g.lid && x.st == Resid.parked)) s = some u →
            exec .gangResume s = .next u ∧ u.gangs = s.gangs.map (fun x => if x.lid = g.lid ∧ x.st = .parked then resumed s x else x))))
    ∧ ∀ (l : Launch) (old : Gang), s.input = .moved l [old] →
      let q := l.lid.q
      let l' : Launch := { l with lid := ⟨q, (s.queue q).qseq⟩, waits := none }
      let s' : State := { s.updQueue q (fun x => { x with qseq := x.qseq + 1 }) with launches := s.launches ++ [l'] }
      let p := s'.prio l'
      let spot := s'.choose (shapeOf l.pk) (s'.rivals l'.lid p (fun _ => false)) ((List.range 256).filter (fun cl =>
        s'.openTo cl l'.lid p && decide (old.grants.sum ≤ s'.freeRows cl)))
      ((64 ≤ q ∨ (s.queue q).tenant ≠ l.tenant ∨ s.undocking = true ∨ spot = none) → exec .gangResume s = .next s)
      ∧ (∀ cl z, spot = some (cl, z) → q < 64 → (s.queue q).tenant = l.tenant → s.undocking = false → cl < 256 → z.bar < 16 →
          (z.harts.map (·.1)).Nodup → (∀ h ∈ z.harts, h.1 < 16) → z.harts.length = old.harts.length → old.harts.Nodup →
          (old.saved.map (fun h => h.hid)).Nodup → (∀ h ∈ old.saved, h.hid.toNat ∈ old.harts) →
        ∃ (u : State) (g : Gang), exec .gangResume s = .next u ∧ g ∈ u.gangs ∧ g.lid = l'.lid ∧ g.num = old.num ∧ g.cl = cl ∧ g.bar = z.bar
          ∧ g.st = .resident ∧ g.harts = z.harts.map (fun h => (mkHid s.pkg cl h.1).toNat) ∧ u.bar cl z.bar = old.barSaved
          ∧ ∀ h ∈ old.saved, ∀ (hi : old.harts.idxOf h.hid.toNat < z.harts.length),
              let i := old.harts.idxOf h.hid.toNat
              let hid := mkHid s.pkg cl z.harts[i].1
              let h' := u.getHart hid
              resumedHart (s.getHart hid) { h with hid := hid, launch := some l'.lid, gid := h'.gid } h' (old.grants.getD i 0)
              ∧ h'.gid.toNat = i + 16 * (g.harts.length - 1) % 256 + 256 * z.bar + 4096 * (g.num % 2 ^ 12) + 2 ^ 24 * (l.pk.extractLsb' 116 2).toNat
                  + 2 ^ 26 * q)

/-- R104, R105, R108, R119, R257, R310: QABORT ends a queued launch at once and aborts a running one, and the berths that it was filling are empty;
clearing HALTED lets a queue go on; a lane group chooses, among the harts at whose vector queue's head an instruction stands with its WM
tokens clear, its registers free of earlier work, and its unit free (an input: the model's choice, log 73), the one that has been the head longest, of
those of 256 cycles; else the one whose instruction entered the queue first, ties to the first behind the last one chosen. -/
def Sys2Proof.Spec.AbortsAndIssue : Prop :=
  ∀ (s : State) (q seq k : Nat) (l : Launch),
    (s.input = .work q seq k →
      (s.launchOf ⟨q, seq⟩ = none → exec .qabort s = .next s)
      ∧ (s.launchOf ⟨q, seq⟩ = some l → l.st ∈ [LState.aborting, .failed, .complete, .retired] → exec .qabort s = .next s)
      ∧ (s.launchOf ⟨q, seq⟩ = some l → l.st = .queued → ∃ u : State, exec .qabort s = .next u ∧ u.hart = s.hart ∧ u.rest = s.rest ∧ u.mem = s.mem
          ∧ (∀ m ∈ u.launches, m.lid = ⟨q, seq⟩ → m.st = .complete)
          ∧ (q < 64 → (∀ m ∈ s.launches, m.st ≠ .aborting) → (u.queue q).qfail = BitVec.ofNat 56 seq ++ 0x13#8))
      ∧ (s.launchOf ⟨q, seq⟩ = some l → (l.st = .placing ∨ l.st = .draining) → ∃ u : State, exec .qabort s = .next u ∧ u.mem = s.mem
          ∧ (∀ m ∈ u.launches, m.lid = ⟨q, seq⟩ → m.st = .aborting ∨ m.st = .complete)
          ∧ (∀ d b, d < 8 → b < 32 → (s.berth d b).st = 1 → (s.berth d b).owner = some ⟨q, seq⟩ → (u.berth d b).st = 0)
          ∧ ∀ g ∈ s.gangs, g.lid = ⟨q, seq⟩ → g.st ≠ .parked → ∀ hid : BitVec 20, hid.toNat ∈ g.live → (s.getHart hid).hid = hid →
            let h := u.getHart hid
            h.pend.abort = some seq ∧ h.copyQ = [] ∧ h.nbQ = [] ∧ h.pushes = [] ∧ h.x = (s.getHart hid).x ∧ h.pc = (s.getHart hid).pc))
    ∧ (q < 64 → s.input = .unit q →
      ((s.queue q).halted = false → exec .qctlHaltedClear s = .next s)
      ∧ ((s.queue q).halted = true → ∃ u : State, exec .qctlHaltedClear s = .next u ∧ u.hart = s.hart ∧ u.mem = s.mem
          ∧ (u.queue q).halted = false ∧ ∀ m ∈ u.launches, m.lid.q = q → m.st ≠ .failed))
    ∧ ∀ core lane ready, s.input = .work core lane ready → lane < 4 →
      let hid (j : Nat) : BitVec 20 := mkHid s.pkg (core / 4) (4 * (core % 4) + j)
      let since (j : Nat) : Nat := (s.getHart (hid j)).headSince
      let entered (j : Nat) : Nat := match (s.getHart (hid j)).ahead with
        | .queued t :: _ => t
        | _ => since j
      let behind (j : Nat) : Nat := (j + 4 - (((s.core core).rr.toList[lane]?).getD 0).toNat) % 4
      let is (j : Nat) : Prop := j < 4 ∧ ready / 2 ^ j % 2 = 1 ∧ s.headReady (hid j) = true
      let old (j : Nat) : Prop := is j ∧ since j + 256 ≤ s.cycleOf (core / 128)
      ((∀ j, ¬is j) → exec .laneGroupIssue s = .next s)
      ∧ ((∃ j, is j) → ∃ (u : State) (j : Nat), exec .laneGroupIssue s = .next u ∧ u.hart = s.hart ∧ u.mem = s.mem
          ∧ u.agenda = .hart (hid j).toNat :: s.agenda ∧ is j
          ∧ ((∃ i, old i) → old j ∧ ∀ i, old i → since j < since i ∨ (since j = since i ∧ behind j ≤ behind i))
          ∧ ((∀ i, ¬old i) → ∀ i, is i → entered j < entered i ∨ (entered j = entered i ∧ behind j ≤ behind i))
          ∧ (u.core core).rr.toList[lane]? = some (BitVec.ofNat 2 (j + 1)))

/-! ## The host -/

namespace Sys2Proof.Spec

/-- The byte of a mailbox at an offset of BAR 2 (R418): the two control registers and the two buffers. -/
def mailboxByte (m : Mailbox) (o : Nat) : Nat :=
  let word (v : Nat) : Nat := v / 256 ^ (o % 8) % 256
  if o / 8 = 0x20 then word (65536 * m.len.toNat + if m.go then 1 else 0)
  else if o / 8 = 0x21 then word (65536 * m.rlen.toNat + if m.ready then 1 else 0)
  else if 0x1000 ≤ o ∧ o < 0x2000 then (Tab.get (fun _ => 0) m.req (o - 0x1000)).toNat
  else if 0x2000 ≤ o ∧ o < 0x3000 then (Tab.get (fun _ => 0) m.resp (o - 0x2000)).toNat
  else 0

/-- The byte of BAR 2 of a function at an offset: LPSTAT, the views of its queue's registers, NOTE, and for function 0 the mailbox; 0 where
nothing is listed (R415, R417, R418). -/
def bar2Byte (s : State) (fn o : Nat) : Nat :=
  let f := s.func fn
  let q := s.queue f.queue.toNat
  let word (v : Nat) : Nat := v / 256 ^ (o % 8) % 256
  match o / 8 with
  | 0 => word (f.code.toNat + (if f.ref then 256 else 0) + (if f.badwr then 512 else 0) + 65536 * f.nref.toNat + 2 ^ 40 * f.lastSeq.toNat)
  | 1 => word q.qseq
  | 2 => word q.qcnt
  | 3 => word q.qfail.toNat
  | 4 => word (if q.halted then 1 else 0)
  | 5 => word (f.noteAt.toNat + if f.noteEn then 2 ^ 63 else 0)
  | _ => if fn = 0 then mailboxByte s.hmb o else 0

end Sys2Proof.Spec

/-- R9, R101, R242, R413 to R419: the host's writes and reads: the launch port, NOTE, the mailboxes, the change of port, the registers of its
BARs, and writes of registers of the system control space. A read through the window delivers the bytes of its place, and Completer Abort where the
place may not be read, is poisoned, or has no route. A function that is not present, and a package without power, do nothing. That a packet for a
queue of another tenant is refused with CODE unchanged is the model's reading (log 36). -/
def Obligations.HostAccesses : Prop :=
  ∀ (s : State) (fn : Nat), fn < 64 →
    let f := s.func fn
    let q := s.queue f.queue.toNat
    let there := f.v = true ∧ s.pilot.power = true
    (∀ off len pk, s.input = .nums [fn, off, len, pk] → pk < 2 ^ 512 →
      (¬there → exec .launchPortWrite s = .next s)
      ∧ (there → (len ≠ 64 ∨ off % 64 ≠ 0 ∨ 65536 ≤ off) → exec .launchPortWrite s = .next (s.updFunc fn (fun u => { u with badwr := true })))
      ∧ (there → len = 64 → off % 64 = 0 → off < 65536 →
        (q.tenant ≠ f.tenant → exec .launchPortWrite s = .next (s.updFunc fn (fun u =>
          { u with ref := true, nref := BitVec.ofNat 16 (min (u.nref.toNat + 1) 65535) })))
        ∧ (q.tenant = f.tenant → ∀ c, s.refusal (BitVec.ofNat 512 pk) f.queue.toNat false = some c →
            exec .launchPortWrite s = .next (s.updFunc fn (fun u =>
              { u with ref := true, code := BitVec.ofInt 8 c, nref := BitVec.ofNat 16 (min (u.nref.toNat + 1) 65535) })))
        ∧ (q.tenant = f.tenant → s.refusal (BitVec.ofNat 512 pk) f.queue.toNat false = none → ∃ u l, exec .launchPortWrite s = .next u
            ∧ u.hart = s.hart ∧ u.mem = s.mem
            ∧ (let m := { s.updQueue f.queue.toNat (fun x => { x with qseq := x.qseq + 1 }) with launches := s.launches ++ [l] }
               u.launches = m.launches.map (fun x => if x.st = .queued ∧ m.eligible x = true then { x with st := .placing } else x)) ∧ l.lid = ⟨f.queue.toNat, q.qseq⟩ ∧ l.pk = BitVec.ofNat 512 pk
            ∧ l.st = .queued ∧ (u.queue f.queue.toNat).qseq = q.qseq + 1 ∧ (u.func fn).lastSeq = BitVec.ofNat 24 q.qseq)))
    ∧ (∀ v : Word, s.input = .nums [fn, v.toNat] →
      (¬there → exec .noteWrite s = .next s)
      ∧ (there → ∃ u : State, exec .noteWrite s = .next u ∧ u.hart = s.hart ∧ u.mem = s.mem ∧ (u.func fn).noteAt = v.setWidth 24
        ∧ (let reached := (q.qcnt % 2 ^ 24 + 2 ^ 24 - v.toNat % 2 ^ 24) % 2 ^ 24 < 2 ^ 23
           (u.func fn).noteEn = (v.getLsbD 63 && !decide reached)
           ∧ u.sent = if v.getLsbD 63 = true ∧ reached then .msi fn 0 :: s.sent else s.sent)))
    ∧ (∀ bar off n data, there →
      (s.input = .nums [fn, bar, 0, off, n, data] →
        let ends (t : State) (abort : Bool) (v : Nat) : Prop := exec .hostWindowAccess s = .next { t with sent := .completion fn abort v :: t.sent }
        let r := s.windowReq fn off n data
        let pa := s.redirect (r.pod % 2 ^ 45)
        let host : Req := { r.req with agent := .host }
        (bar = 2 → ∃ v, ends s false v ∧ v < 256 ^ n ∧ ∀ i, i < n → v / 256 ^ i % 256 = bar2Byte s fn (off + i))
        ∧ (bar = 0 → exec .hostWindowAccess s = .next { s with sent := .completion fn false 0 :: s.sent })
        ∧ (bar = 4 → r.pod = f.hw.toNat * 2 ^ 36 + off ∧ r.tenant = f.tenant ∧ r.mode = .s)
        ∧ (bar = 4 → (2 ^ 36 < off + n ∨ n = 0) → ends s true 0)
        ∧ (bar = 4 → off + n ≤ 2 ^ 36 → 0 < n → r.pod / 2 ^ 45 = s.pkg.toNat →
          let may : Prop := (regionOf pa = .spm ∨ (regionOf pa = .hbm ∧ pa / 2 ^ 41 < 8)) ∧ s.homeCheck host .read pa n = none
          (¬may → ends s true 0)
          ∧ (may → s.NoFlips → ∃ t bad, ends t bad (if bad then 0 else s.seen.bytes pa n) ∧ SameMemory s t ∧ t.hart = s.hart ∧ t.sent = s.sent
              ∧ bad = t.poisonedAt pa n ∧ (regionOf pa = .spm → s.errs = [] → bad = s.poisonedAt pa n)))
        ∧ (bar = 4 → off + n ≤ 2 ^ 36 → 0 < n → r.pod / 2 ^ 45 ≠ s.pkg.toNat →
          let a := r.pod % 2 ^ 45
          (s.routed (r.pod / 2 ^ 45) = false ∨ (regionOf a ≠ .spm ∧ regionOf a ≠ .hbm) → ends s true 0)
          ∧ ∃ t abort v, ends t abort v ∧ SameMemory s t ∧ t.hart = s.hart ∧ (abort = true → v = 0)))
      ∧ (s.input = .nums [fn, bar, 1, off, n, data] →
        (bar = 4 → (2 ^ 36 < off + n ∨ n = 0) → exec .hostWindowAccess s = .next s)
        ∧ (bar = 2 → (n ≠ 8 ∨ off % 8 ≠ 0) → exec .hostWindowAccess s = .next s)
        ∧ (bar = 4 → off + n ≤ 2 ^ 36 → 0 < n → (f.hw.toNat * 2 ^ 36 + off) / 2 ^ 45 = s.pkg.toNat →
          let r := s.windowReq fn off n data
          let pa := s.redirect (r.pod % 2 ^ 45)
          (regionOf pa = .spm ∨ (regionOf pa = .hbm ∧ pa / 2 ^ 41 < 8)) → s.homeCheck { r.req with agent := .host } .write pa n = none →
          exec .hostWindowAccess s = .next (s.writeAt { r.req with agent := .host } (.here pa) n (data % 2 ^ (8 * n))))))
    ∧ (∀ len, len < 2 ^ 16 → s.input = .nums [0, len] → ∃ u : State, exec .mailboxGo s = .next u ∧ u.mem = s.mem
        ∧ u.hmb = (if s.hmb.go then s.hmb else { s.hmb with len := BitVec.ofNat 16 len, go := true }))
    ∧ (∀ len, len < 2 ^ 16 → s.input = .nums [2, len] → ∃ u : State, exec .mailboxGo s = .next u ∧ u.mem = s.mem
        ∧ u.smb = (if s.smb.go then s.smb else { s.smb with len := BitVec.ofNat 16 len, go := true }))
    ∧ (s.input = .unit 0 → exec .mailboxReadyClear s = .next { s with hmb := { s.hmb with ready := false } })
    ∧ (s.input = .unit 2 → ∃ u : State, exec .mailboxReadyClear s = .next u ∧ u.smb = { s.smb with ready := false } ∧ u.mem = s.mem)
    ∧ (if s.mgmtDie = 9 ∨ s.pilot.power = false then exec .pciePortFailover s = .next s
       else ∃ u : State, exec .pciePortFailover s = .next u ∧ u.port1 = !s.port1 ∧ u.hart = s.hart ∧ u.mem = s.mem
         ∧ ∀ k, k < 64 → (.msi k 1 ∈ u.sent ↔ .msi k 1 ∈ s.sent ∨ (s.func k).v = true))
    ∧ (∀ d off v, s.input = .nums [d, off, v] →
      (off % 8 ≠ 0 → exec .registerWrite s = .next s)
      ∧ (off % 8 = 0 → d < 10 → exec .registerWrite s = .next ((s.sysWrite d off (BitVec.ofNat 64 v)).getD s))
      ∧ (off % 8 = 0 → d = 64 + fn → there → exec .registerWrite s = .next (s.bar2Write fn off (BitVec.ofNat 64 v)))
      ∧ (d < 10 → off = 0x6020000 → ∃ u : State, exec .registerWrite s = .next u ∧ (u.die d).tdeleg = BitVec.ofNat 64 v &&& 0x1FFE ∧ u.hart = s.hart)
      ∧ (d < 10 → off = 0x6020008 → ∃ u : State, exec .registerWrite s = .next u ∧ (u.die d).tvdef = BitVec.ofNat 64 (v / 8 * 8) ∧ u.hart = s.hart))

/-! ## Service messages -/

namespace Sys2Proof.Spec

/-- A service message of a type, as its bytes stand (R420). -/
def message (ty : Nat) (id body : List Byte) : List Byte :=
  [BitVec.ofNat 8 ty, 1, BitVec.ofNat 8 body.length, BitVec.ofNat 8 (body.length / 256)] ++ id ++ body

/-- The response to a message (R420). -/
def response (ty : Nat) (id : List Byte) (status : Nat) (more : List Byte) : List Byte :=
  [BitVec.ofNat 8 (ty + 128), 1, BitVec.ofNat 8 (more.length + 4), BitVec.ofNat 8 ((more.length + 4) / 256)] ++ id
    ++ [BitVec.ofNat 8 status, 0, 0, 0] ++ more

/-- A message of a type waits on a path on which Pilot answers: in the package's mailbox to Pilot (path 2), or on I3C (path 1); `s'` is the state behind
its arrival. -/
def arrives (s s' : State) (path ty : Nat) (body : List Byte) : Prop :=
  (s.fault = false ∨ (path = 1 ∧ s.pilot.alive = true)) ∧ ∃ i0 i1 i2 i3 : Byte, body.length ≤ 4088 ∧
    ((path = 1 ∧ s.input = .message 1 (message ty [i0, i1, i2, i3] body) ∧ s' = s.wakeMgmt)
     ∨ (path = 2 ∧ (∃ b, s.input = .message 2 b) ∧ s.smb.go = true ∧ s.smb.ready = false
        ∧ Tab.getRange (fun _ => 0) s.smb.req 0 s.smb.len.toNat = message ty [i0, i1, i2, i3] body
        ∧ s' = { s with smb := { s.smb with go := false } }))

/-- The system harts run a new Crew image from its entries, in S mode (R424). -/
def crewStarts (u : State) (im : Tab Byte) (hs : List (BitVec 20)) : Prop :=
  u.pilot.crew = im ∧ u.pilot.handover = none
    ∧ ∀ h ∈ hs, (u.getHart h).run = .running ∧ (u.getHart h).pc = (Config.entryOf im (hartI h) &&& ~~~7#64) ∧ (u.getHart h).mode = .s

/-- The management hart of `u` runs the image of its active bank from its entry, where that passes the boot ROM's check, and is stopped
where it does not (R422, R425). -/
def pilotStarts (s u : State) : Prop :=
  u.pkg = s.pkg ∧ u.mgmtDie = s.mgmtDie ∧ u.mem = s.mem ∧ ((s.getHart s.mgmtHart).hid = s.mgmtHart → namesHart s.pkg s.mgmtDie s.mgmtHart = true →
    if Config.imageOk 0 (u.pilot.bank false) then (u.getHart s.mgmtHart).run = .running
      ∧ (u.getHart s.mgmtHart).pc = (Config.entryOf (u.pilot.bank false) 496 &&& ~~~7#64)
    else (u.getHart s.mgmtHart).run = .halted)

/-- Pilot answers a message with a status and more, and leaves the state `u` (R420). -/
def served (s : State) (i : Instr) (path ty status : Nat) (more : List Byte) (u : State) : Prop :=
  ∃ id : List Byte, id.length = 4 ∧ exec i s = .next (if path = 2 then
      { u with smb := { u.smb with ready := true, rlen := BitVec.ofNat 16 (12 + more.length)
                                   resp := Tab.setRange (fun _ => 0) u.smb.resp 0 (response ty id status more) } }
    else { u with sent := .response (response ty id status more) :: u.sent })

end Sys2Proof.Spec

/-- R276, R289, R291, R417, R420, R421: the binding messages on the package's mailbox: what each changes and answers. An armed NOTE of a function
that is bound looks at the count of its new queue. -/
def Sys2Proof.Spec.Bindings : Prop :=
  ∀ (s s' : State) (a b c d e : Byte),
    (arrives s s' 2 0x01 [a, b, c, d] →
      (7 < a.toNat ∨ 127 < b.toNat ∨ 2 < c.toNat ∨ 63 < d.toNat → served s .frameSet 2 0x01 4 [] s')
      ∧ (a.toNat ≤ 7 → b.toNat ≤ 127 → c.toNat ≤ 2 → d.toNat ≤ 63 →
        ((s.frame a.toNat b.toNat).change.isSome = true → served s .frameSet 2 0x01 3 [] s')
        ∧ ((s.frame a.toNat b.toNat).change = none → ∃ u, served s .frameSet 2 0x01 0 [0, 0, 0, 0] u ∧ u.mem = s.mem
          ∧ (u.frame a.toNat b.toNat).change = some (clsOf (c.setWidth 2), d.setWidth 6, 1))))
    ∧ (arrives s s' 2 0x02 [a, b] →
      let bad := 63 < a.toNat ∨ 63 < b.toNat ∨ (s.queue a.toNat).en = true ∨ ∃ l ∈ s.launches, l.lid.q = a.toNat
      (bad → served s .queueBind 2 0x02 4 [] s')
      ∧ (¬bad → served s .queueBind 2 0x02 0 [] (s'.updQueue a.toNat (fun u => { u with tenant := b.setWidth 6 }))))
    ∧ (arrives s s' 2 0x03 [a, b, c, d, e] →
      (a = 0 ∨ 63 < a.toNat ∨ (b ≠ 0xFF ∧ (63 < b.toNat ∨ 63 < c.toNat)) → served s .funcBind 2 0x03 4 [] s')
      ∧ (a ≠ 0 → a.toNat ≤ 63 → b = 0xFF →
          served s .funcBind 2 0x03 0 [] (s'.updFunc a.toNat (fun u => { u with v := false, tenant := 0, queue := 0, hw := 0 })))
      ∧ (a ≠ 0 → a.toNat ≤ 63 → b.toNat ≤ 63 → c.toNat ≤ 63 → served s .funcBind 2 0x03 0 []
          ((s'.updFunc a.toNat (fun u => { u with v := true, tenant := b.setWidth 6, queue := c.setWidth 6, hw := e ++ d })).noteFunc a.toNat)))
    ∧ (arrives s s' 2 0x04 [a, b, c, d, e] →
      let id : BitVec 20 := BitVec.ofNat 20 (a.toNat + 256 * b.toNat + 65536 * c.toNat)
      (63 < e.toNat → served s .hartBind 2 0x04 4 [] s')
      ∧ (e.toNat ≤ 63 → d = 0 → c.toNat < 16 → namesHart s.pkg s.mgmtDie id = true → 8 ≤ hidDie id → hidCluster id ≠ 31 →
          served s .hartBind 2 0x04 0 [(s.getHart id).tenant.setWidth 8, 0, 0, 0] (s'.updHart id (fun h => { h with tenant := e.setWidth 6 }))))
    ∧ ∀ path, arrives s s' path 0x05 [a, b] → served s .partRead path 0x05 0
        ((s.partImage.drop (a.toNat + 256 * b.toNat)).take 4000) s'

/-- R418, R420, R422, R424, R425, R428, R429: the images, the undock handshake, and the error log: what each message changes and answers; what ends a
step of an undock within its budget, and the whole of it: step 1 all gangs parked and the groups that run a collective disabled, step 3 the launches
and gangs moved, step 4 no request outstanding and no package routed. UNDOCK_STATUS answers the step, the state and the time. A new Crew
image takes over, and CREW_START is answered, when no system hart runs a handler any more; an answer that finds READY set waits until it is
clear. A new Pilot image is on trial until Pilot reports ready, and gives way to the old one when it fails. The model's choices: the status of a
body that is malformed or out of range (log 37), the reports that end the steps and the withheld scheduler (log 38), and when a system hart is
in no handler (log 78). -/
def Sys2Proof.Spec.ImagesUndockAndLogs : Prop :=
  ∀ (s s' : State) (a b c d e : Byte) (data : List Byte),
    let o := a.toNat + 256 * b.toNat + 65536 * c.toNat + 2 ^ 24 * d.toNat
    (arrives s s' 2 0x10 ([a, b, c, d] ++ data) → served s .crewLoad 2 0x10 0 []
      { s' with pilot := { s'.pilot with crewNew := Tab.setRange (fun _ => 0) s'.pilot.crewNew o data } })
    ∧ (arrives s s' 2 0x11 [a, b, c, d] →
      let im := imageOf s.pilot.crewNew o
      (s.pilot.handover.isSome = true → served s .crewStart 2 0x11 3 [] s')
      ∧ (s.pilot.handover = none → Config.imageOk 1 im = false → served s .crewStart 2 0x11 5 [] s')
      ∧ (s.pilot.handover = none → Config.imageOk 1 im = true → (∀ h ∈ s.systemHarts, (s.getHart h).hid = h) →
        ((∀ h ∈ s.systemHarts, (s.getHart h).run = .running → (s.getHart h).depth = 0) →
          ∃ u, served s .crewStart 2 0x11 0 [] u ∧ crewStarts u im s.systemHarts)
        ∧ ((∃ h ∈ s.systemHarts, (s.getHart h).run = .running ∧ (s.getHart h).depth ≠ 0) →
          ∃ u id, exec .crewStart s = .next u ∧ u.pilot = { s'.pilot with handover := some ⟨im, 2, id⟩ } ∧ u.smb = s'.smb ∧ u.mem = s.mem
            ∧ ∀ h ∈ s.systemHarts, u.getHart h = (if (s.getHart h).run = .running ∧ (s.getHart h).depth = 0 then { s.getHart h with run := .idle }
                else s.getHart h))))
    ∧ (∀ path bytes, s.input = .none → s.fault = false → s.pilot.owed = [(path, bytes)] → (path = 0 ∧ s.hmb.ready = false) ∨ (path = 2 ∧ s.smb.ready = false) →
        let put (m : Mailbox) : Mailbox := { m with ready := true, rlen := BitVec.ofNat 16 bytes.length, resp := Tab.setRange (fun _ => 0) m.resp 0 bytes }
        exec .crewStart s = .next { s with pilot := { s.pilot with owed := [] }, hmb := if path = 0 then put s.hmb else s.hmb
                                           smb := if path = 0 then s.smb else put s.smb })
    ∧ (∀ h, s.input = .none → s.fault = false → s.pilot.owed = [] → s.pilot.handover = some h → (∀ k ∈ s.systemHarts, (s.getHart k).hid = k) →
        (∀ k ∈ s.systemHarts, (s.getHart k).run = .running → (s.getHart k).depth = 0) →
        ∃ u, exec .crewStart s = .next u ∧ crewStarts u h.image s.systemHarts)
    ∧ (arrives s s' 1 0x12 ([a, b, c, d] ++ data) → ∃ u, served s .pilotLoad 1 0x12 0 [] u ∧ u.pilot.staged = none
        ∧ u.pilot.bank true = Tab.setRange (fun _ => 0) (s'.pilot.bank true) o data ∧ u.pilot.bank false = s'.pilot.bank false)
    ∧ (arrives s s' 1 0x13 [a, b, c, d] →
      let im := imageOf (s'.pilot.bank true) o
      (Config.imageOk 0 im = false → served s .pilotStage 1 0x13 5 [] s')
      ∧ (Config.imageOk 0 im = true → ∃ u, served s .pilotStage 1 0x13 0 [] u ∧ u.pilot.staged = some o ∧ u.pilot.bank true = im))
    ∧ (s.input = .unit 1 →
      (s.pilot.staged = none ∨ s.gangs ≠ [] ∨ s.fault = true → exec .pilotBankActivate s = .next s)
      ∧ (s.pilot.staged.isSome = true → s.gangs = [] → s.fault = false → ∃ u : State, exec .pilotBankActivate s = .next u
        ∧ u.pilot.active = (if Config.imageOk 0 (s.pilot.bank true) then !s.pilot.active else s.pilot.active) ∧ u.pilot.staged = none
        ∧ (Config.imageOk 0 (s.pilot.bank true) = true → u.pilot.trial = true) ∧ pilotStarts s u))
    ∧ (s.input = .unit 0 →
      (s.pilot.trial = false ∨ s.fault = true → exec .pilotBankActivate s = .next s)
      ∧ (s.pilot.trial = true → s.fault = false → ∃ u : State, exec .pilotBankActivate s = .next u
        ∧ u.pilot.active = (!s.pilot.active) ∧ u.pilot.trial = false ∧ pilotStarts s u))
    ∧ (s.input = .unit 2 → exec .pilotBankActivate s = .next { s with pilot := { s.pilot with trial := false } })
    ∧ (arrives s s' 1 0x20 [a] →
      (s.undocking = true → served s .undock 1 0x20 3 [] s')
      ∧ (s.undocking = false → s'.undockOk a.toNat = false → served s .undock 1 0x20 4 [] s')
      ∧ (s.undocking = false → s'.undockOk a.toNat = true → ∃ u, served s .undock 1 0x20 0 [] u ∧ (∀ q, (u.queue q).en = false)
        ∧ (∀ g ∈ u.gangs, g.st ≠ .resident) ∧ u.undock.map (fun x => (x.nb, x.step, x.st)) = some (a.toNat, 1, .running)))
    ∧ (∀ n u0, s.input = .unit n → s.undock = some u0 → u0.st = .running → u0.step = n →
      let budget := if n = 1 then 3000000000 else if n = 2 then 22000000000 else if n = 3 ∨ n = 4 then 2000000000 else 500000000
      let next : Undock := { u0 with step := n + 1, stepAt := s.time }
      (u0.stepAt + budget < s.time → exec .undock s = .next s)
      ∧ (s.time ≤ u0.stepAt + budget →
        (n = 1 → (∃ g ∈ s.gangs, g.st ≠ .parked) → exec .undock s = .next s)
        ∧ (n = 1 → (∀ g ∈ s.gangs, g.st = .parked) → ∃ u : State, exec .undock s = .next u ∧ u.undock = some next ∧ u.mem = s.mem
            ∧ ∀ x ∈ s.insts, x.grp < 64 → (s.group x.grp).gctl.getLsbD 0 = true → x ∉ u.insts ∧ (u.group x.grp).gctl.getLsbD 0 = false)
        ∧ (n = 2 → exec .undock s = .next { s with undock := some next })
        ∧ (n = 3 → exec .undock s = .next { s with launches := [], gangs := [], resvs := [], promises := []
                                                   undock := some { next with launches := s.launches, gangs := s.gangs } })
        ∧ (n = 4 → s.outbox ≠ [] → exec .undock s = .next s)
        ∧ (n = 4 → s.outbox = [] → ∃ u : State, exec .undock s = .next u ∧ u.undock = some next ∧ (∀ p, u.routed p = false)
            ∧ u.launches = s.launches ∧ u.gangs = s.gangs ∧ u.mem = s.mem)
        ∧ (n = 5 → exec .undock s = .next { s with undock := some { u0 with st := .released, ended := s.time }, sent := .release :: s.sent })))
    ∧ (arrives s s' 1 0x21 [] →
      (s.undock = none → served s .undockStatus 1 0x21 0 [0, 3, 0, 0, 0, 0] s')
      ∧ ∀ u0, s.undock = some u0 →
        let ms := ((if u0.st = .running then s.time else u0.ended) - u0.began) / 1000000
        served s .undockStatus 1 0x21 0 ([BitVec.ofNat 8 u0.step, match u0.st with | .running => 0 | .released => 1 | .failed => 2]
          ++ (List.range 4).map (fun i => BitVec.ofNat 8 (ms / 256 ^ i))) s')
    ∧ (∀ path, arrives s s' path 0x30 [e, a, b, c, d] →
      (9 < e.toNat → served s .logRead path 0x30 4 [] s')
      ∧ (e.toNat ≤ 9 → served s .logRead path 0x30 0 ((((s.die e.toNat).log.drop o).take 125).flatMap (LogRec.bytes e.toNat)) s'))
    ∧ (∀ u0, s.undock = some u0 → u0.st = .running →
      let budget := if u0.step = 1 then 3000000000 else if u0.step = 2 then 22000000000 else if u0.step = 3 ∨ u0.step = 4 then 2000000000
        else 500000000
      (s.time ≤ u0.stepAt + budget → exec .undockBudgetExpire s = .next s)
      ∧ (u0.stepAt + budget < s.time → ∃ u : State, exec .undockBudgetExpire s = .next u ∧ u.undock = some { u0 with st := .failed, ended := s.time, launches := [], gangs := [] }
          ∧ u.launches = u0.launches ++ s.launches ∧ u.gangs = u0.gangs ++ s.gangs
          ∧ (∀ q, q < 64 → (u.queue q).en = ((s.queue q).en || u0.queues.getLsbD q)) ∧ u.hart = s.hart ∧ u.mem = s.mem))
    ∧ (s.undock.map (·.st) = some .released → exec .latchForcedOpen s = .next s)
    ∧ (s.undock.map (·.st) ≠ some .released → ∃ u : State, exec .latchForcedOpen s = .next u ∧ u.fault = true
        ∧ u.pgs[0].dead = BitVec.allOnes 72 ∧ u.pgs[1].dead = BitVec.allOnes 72)

/-! ## Attestation, power, bring-up -/

namespace Sys2Proof.Spec

/-- A request of SPDM waits on the host's path, in its mailbox, or arrives on I3C; `s0` is the state behind its arrival (R418, R423). -/
def asks (s s0 : State) (path : Nat) (bytes : List Byte) : Prop :=
  (path = 1 ∧ s.input = .message 1 bytes ∧ (s.fault = false ∨ s.pilot.alive = true) ∧ s0 = s.wakeMgmt)
    ∨ (path = 0 ∧ (∃ b, s.input = .message 0 b) ∧ s.fault = false ∧ s.hmb.go = true ∧ s.hmb.ready = false
       ∧ Tab.getRange (fun _ => 0) s.hmb.req 0 s.hmb.len.toNat = bytes ∧ s0 = { s with hmb := { s.hmb with go := false } })

/-- Pilot answers a request with `x`, signed, and its record becomes `p`; out of its place the request is answered with an error, and nothing
changes (R423). The response to the host stands in its mailbox too (R418). -/
def spdm (s s0 : State) (path : Nat) (i : Instr) (ready : Bool) (p : Pilot) (x : SpdmRsp) : Prop :=
  ∃ u g, exec i s = .next u ∧ u.sent = .spdm (if ready then x else .error) g :: s0.sent ∧ u.mem = s0.mem ∧ u.hart = s0.hart ∧ u.rest = s0.rest
    ∧ u.pilot = (if ready then p else s.pilot)
    ∧ (if path = 0 then u.hmb.ready = true ∧ u.hmb.go = false else u.hmb = s0.hmb)

/-- The message offers algorithm `a` of registry 0x04 among the extended ones (R423). -/
def offers (bytes : List Byte) (a : Byte) : Prop := ∃ k y t, bytes.drop (2 + 4 * k) = 4 :: y :: a :: 0 :: t

end Sys2Proof.Spec

/-- R418, R423, R432: the sequence of SPDM: each request needs the ones before it, and what Pilot answers; I3C goes on after a removal of power. The
order of the requests and the error out of order are PRESUMED (log 35). That a message that offers neither of the
two algorithms is answered with an error is the model's choice (log 9). -/
def Sys2Proof.Spec.Attestation : Prop :=
  ∀ (s s0 : State) (path : Nat) (bytes : List Byte), asks s s0 path bytes →
    let p := s.pilot
    let agreed : Prop := (∀ b ∈ bytes.take 2, b = 0) ∧ offers bytes 1 ∧ offers bytes 2
    spdm s s0 path .getVersion true { p with version := true, caps := false, algs := false, keyEx := false, session := false } .version
    ∧ spdm s s0 path .getCapabilities p.version { p with caps := true } .capabilities
    ∧ (agreed → spdm s s0 path .negotiateAlgorithms p.caps { p with algs := true } (.algorithms 4 1 2))
    ∧ (¬agreed → spdm s s0 path .negotiateAlgorithms p.caps p .error)
    ∧ spdm s s0 path .getDigests p.algs p (.digests Config.certDigest)
    ∧ spdm s s0 path .getCertificate p.algs p (.certificate Config.certificate)
    ∧ spdm s s0 path .challenge p.algs p .challengeAuth
    ∧ spdm s s0 path .getMeasurements p.algs p (.measurements [(1, Config.romDigest, 0),
        (2, Config.imageDigest (p.bank false), Config.imageVersion (p.bank false)), (3, Config.imageDigest p.crew, Config.imageVersion p.crew),
        (4, Config.shake256 s.partImage, 0), (5, Config.shake256 s.frameImage, 0)])
    ∧ spdm s s0 path .keyExchange p.algs { p with keyEx := true } .keyExchange
    ∧ spdm s s0 path .finish p.keyEx { p with keyEx := false, session := true } .finish

/-- R26, R27, R330, R414, R422, R426, R427, R430 to R432: the power cap, the clock steps, over-temperature, the identity store; bring-up, which loses the
reply caches, and the takeover of the management by die 9, which runs the Pilot bank that was active last and has no light from die 8. Pilot runs only
when its image passes the boot ROM's check. PLDM reads a die's clock step and its count of log records, and sets the cap (log 40: what other sensors
read is left out). What POWER_ON and the takeover keep beside what the rules name, time among it, is the model's reading (log 39). -/
def Sys2Proof.Spec.PowerAndBringUp : Prop :=
  ∀ (s : State) (d w t : Nat),
    (let capped (s : State) : State := if 2000 ≤ w ∧ w ≤ 7500 then { s with pilot := { s.pilot with cap := w } } else s
     (s.input = .unit w → exec .powerCapSet s = .next (capped s))
     ∧ (s.fault = false ∨ s.pilot.alive = true → s.input = .nums [1, w] → exec .powerCapSet s = .next (capped s.wakeMgmt))
     ∧ (s.fault = false ∨ s.pilot.alive = true → d < 10 → (s.input = .nums [1, 0, d] → exec .powerCapSet s = .next
            { s.wakeMgmt with sent := .sensor 0 d (s.die d).clk.toNat :: s.sent })
        ∧ (s.input = .nums [1, 1, d] → exec .powerCapSet s = .next { s.wakeMgmt with sent := .sensor 1 d (s.die d).log.length :: s.sent }))
     ∧ (s.fault = false → s.hmb.go = true → s.hmb.ready = false → s.input = .nums [0, 0, d] → d < 10 → ∃ u : State, exec .powerCapSet s = .next u
          ∧ u.sent = .sensor 0 d (s.die d).clk.toNat :: s.sent ∧ u.hmb.ready = true ∧ u.hmb.go = false ∧ u.hart = s.hart ∧ u.mem = s.mem))
    ∧ (s.input = .nums [d, w, t] →
      (let due := d < 10 ∧ (s.die d).clk.toNat < 8 ∧ (s.pilot.cap < w ∨ 95 < t)
       (¬due → exec .clockStepRaise s = .next s)
       ∧ (due → ∃ u : State, exec .clockStepRaise s = .next u ∧ (u.die d).clk = (s.die d).clk + 1 ∧ u.sent = .clock d ((s.die d).clk + 1) :: s.sent
          ∧ u.hart = s.hart ∧ u.mem = s.mem))
      ∧ (let due := d < 10 ∧ 0 < (s.die d).clk.toNat ∧ 100 * w ≤ 95 * s.pilot.cap ∧ 10000000 ≤ t
         (¬due → exec .clockStepLower s = .next s)
         ∧ (due → ∃ u : State, exec .clockStepLower s = .next u ∧ (u.die d).clk = (s.die d).clk - 1
            ∧ u.sent = .clock d ((s.die d).clk - 1) :: s.sent ∧ u.hart = s.hart ∧ u.mem = s.mem)))
    ∧ (s.input = .unit t → (t ≤ 110 → exec .overTemperature s = .next s)
      ∧ (110 < t → ∃ u : State, exec .overTemperature s = .next u ∧ u.fault = true ∧ u.pilot.power = false ∧ u.pilot.alive = true))
    ∧ (s.input = .nums [d, w] → exec .identityStoreRead s =
        .next { s with sent := .bus ((List.range w).map (fun i => s.pilot.idByte (d + i))) :: s.sent })
    ∧ (∃ u : State, exec .powerOn s = .next u ∧ u.time = 0 ∧ u.mem = [] ∧ u.fault = false ∧ u.launches = [] ∧ u.gangs = [] ∧ u.pkg = s.pkg
        ∧ ((∀ e, ((s.die e).frames.map (·.1)).Nodup) → ∀ e f, (u.frame e f).cls = (s.frame e f).cls ∧ (u.frame e f).tenant = (s.frame e f).tenant)
        ∧ (∀ q, (u.queue q).tenant = (s.queue q).tenant ∧ (u.queue q).en = false)
        ∧ (∀ x ∈ s.lost, x ∈ u.lost) ∧ (∀ r ∈ s.replies, (r.home, r.src) ∈ u.lost) ∧ u.replies = []
        ∧ (s.mgmtDie = 8 ∨ s.mgmtDie = 9 → Config.imageOk 0 (u.pilot.bank false) = true → (u.getHart u.mgmtHart).run = .running
            ∧ (u.getHart u.mgmtHart).mode = .p ∧ (u.getHart u.mgmtHart).pc = (Config.entryOf (u.pilot.bank false) 496 &&& ~~~7#64))
        ∧ (s.mgmtDie = 8 ∨ s.mgmtDie = 9 → Config.imageOk 0 (u.pilot.bank false) = false → (u.getHart u.mgmtHart).run = .halted))
    ∧ (s.mgmtDie ≠ 9 → ∃ u : State, exec .managementTakeover s = .next u ∧ u.mgmtDie = 9 ∧ u.port1 = true ∧ u.fault = false ∧ u.time = s.time
        ∧ u.gangs = [] ∧ u.pgs[0].dead = BitVec.allOnes 72 ∧ (∀ q, q < 64 → (u.queue q).halted = true)
        ∧ (u.getHart u.mgmtHart).run = (if Config.imageOk 0 (u.pilot.bank false) then .running else .halted)
        ∧ u.pilot.active = (if Config.imageOk 0 (s.pilot.bank false) then s.pilot.active else !s.pilot.active)
        ∧ (∀ k, k < 1280 → (u.wave 8 k).st = .failed) ∧ (∀ e k, e < 10 → k < 128 → (u.wave e (1024 + k)).st = .failed)
        ∧ (s.port1 = false → ∀ k, k < 64 → (s.func k).v = true → .msi k 1 ∈ u.sent))
    ∧ (s.mgmtDie = 9 → ∃ u : State, exec .managementTakeover s = .next u ∧ u.fault = true ∧ u.pilot.power = false)

/-! ## The whole machine -/

/-- R93, R103, R106, R113, R134, R165 to R168, R213, R249, R256, R276, R283, R343, R349, R354, R360, R361, R376, R387, R388, R390, R417, R421: what the registers hold
after reset, as the reset columns of the register maps say, and that the invariant holds there. (The values of the registers that have no
reset value are the model's choice, log 3, and no part of this statement; that memory lists nothing is the choice of log 4.) -/
def Obligations.ResetState : Prop :=
  let s := State.reset
  let h := s.hart
  s.Inv ∧ s.rest = []
  ∧ h.vl = 1 ∧ h.vh = 1 ∧ h.blk = 0 ∧ h.vstart = 0 ∧ h.vdirty = 0 ∧ h.vqin = 0 ∧ h.vqout = 0 ∧ h.mgrant = 0 ∧ h.instret = 0
  ∧ h.fcsr.extractLsb' 0 32 = 0 ∧ h.tcause = 0 ∧ h.tepc = 0 ∧ h.tval = 0 ∧ h.tvec = (s.die 0).tvdef ∧ h.tstatWord = 0 ∧ h.tcmp = 0
  ∧ (∀ n, n < 8 → h.fb.toList.getD n 1 = 0) ∧ h.run = .idle ∧ h.mode = .u
  ∧ s.schcfg = 14 * 64 + 16 ∧ s.ebdef = BitVec.allOnes 64 ∧ (∀ t, t < 64 → s.asroot.toList.getD t 1 = 0) ∧ s.trqh = 0 ∧ s.trqt = 0
  ∧ s.time = 0 ∧ s.mgmtDie = 8 ∧ s.ltevt = 0 ∧ s.lttree = 0 ∧ s.ltpg[0] = 0 ∧ s.ltpg[1] = 0 ∧ s.reach[0] = 0 ∧ s.reach[1] = 0
  ∧ (∀ d, d < 10 → (s.die d).tdeleg = 0 ∧ (s.die d).tvdef = 0 ∧ (s.die d).sxdef = 0 ∧ (s.die d).wfrac = 0 ∧ (s.die d).cyc = 0
      ∧ (s.die d).wsctl = 256#16 ++ 20#16 ++ 0xFFFFFFFF#32
      ∧ (∀ f, f < 128 → (s.frame d f).tenant = 0 ∧ (s.frame d f).cls = .f ∧ (s.frame d f).gen = 0 ∧ (s.frame d f).change = none))
  ∧ (∀ q, q < 64 → (s.queue q).en = false ∧ (s.queue q).tenant = 0 ∧ (s.queue q).pceil = 0 ∧ (s.queue q).halted = false ∧ (s.queue q).ldok = false)
  ∧ s.launches = [] ∧ s.gangs = []

/-- R37, R39, R60, R62, R346, R357: a step of a running hart fetches the word at its `pc`, runs the instruction that the word stands for, and takes
a pending trap of orders 6 to 8 behind it; a word that is no instruction runs NON_INSTRUCTION_WORD, a failed fetch INSTRUCTION_FETCH_FAULT, and
a pending trap of orders 1 to 4 comes before the fetch (that place, and that of orders 6 to 8, is the model's reading of R357: log 11). A word that is
fetched from memory holds the eight bytes there. What an atomic with AQ has left in the non-blocking queue comes first (log 69). -/
def Sys2Proof.Spec.RunningHartSteps : Prop :=
  ∀ (s : State), s.agenda = [] →
    let s0 := s.begin
    let andThen (o : Host.Outcome State Fault Refusal) : Host.Outcome State Fault Refusal := match o with
      | .next t => .next t.afterExec
      | o => o
    (s.hart.run ≠ .running ∨ s.hart.acquires = false → s0 = s.upd (fun h => { h with trapped := false }))
    ∧ (s0.hart.run = .running →
      (∀ t, s0.beforeFetch = some t → step s = .next t)
      ∧ (s0.beforeFetch = none →
          (∀ w s1 i, s0.fetch = (.ok w, s1) → decode w = .ok i → step s = andThen (exec i s1))
          ∧ (∀ w s1 e, s0.fetch = (.ok w, s1) → decode w = .error e → step s = andThen (exec (.nonInstructionWord w) s1))
          ∧ (∀ f s1, s0.fetch = (.error f, s1) → step s = andThen (exec .instructionFetchFault s0))))
    ∧ (s0.NoFlips → ∀ w s1 s2 pa, s0.fetch = (.ok w, s1) → s0.locate (s0.req .fetch) .fetch s0.hart.pc 8 = (.ok (.here pa), s2) →
        w = BitVec.ofNat 64 (s0.seen.bytes pa 8))
    ∧ (s0.hart.run = .held → step s = .next s0.heldAbort)
    ∧ (s0.hart.run ≠ .running → s0.hart.run ≠ .held → step s = .next s0)

/-- What the agenda names happens in its order (the model's own device, log 1): another hart's step, an event, time that passes, or what the scalar
unit of a hart does ahead of its vector queue, which changes only what the hart remembers of it: the value that a load has read (log 88). -/
def Sys2Proof.Spec.AgendaInOrder : Prop :=
  ∀ (s : State) (l : List Turn),
    (∀ i d, i.isEvent = true → s.agenda = .event i d :: l → step s = exec i { s with agenda := l, input := d })
    ∧ (∀ ns, s.agenda = .elapse ns :: l → ∃ u, step s = .next u ∧ u.time = s.time + ns ∧ u.agenda = l ∧ u.hart = s.hart ∧ u.mem = s.mem
        ∧ ∀ d, d < 10 → (u.die d).cyc = (s.die d).cyc + 3 * (16 - (s.die d).clk.toNat) * ns)
    ∧ (∀ h, s.agenda = .hart h :: l → namesHart s.pkg s.mgmtDie (BitVec.ofNat 20 h) = true → l = [] →
        step s = step { (s.focus (BitVec.ofNat 20 h)) with agenda := [] })
    ∧ (∀ h n, s.agenda = .ahead h n :: l → namesHart s.pkg s.mgmtDie (BitVec.ofNat 20 h) = true →
        let f := { s with agenda := l }.focus (BitVec.ofNat 20 h)
        (∃ as k, step s = .next { f with hart := { f.hart with ahead := as }, free := k })
        ∧ ∀ w f1 g xd m sz zx t, n = 1 → f.hart.run = .running → f.hart.isMgmt = false → f.hart.acquires = false → f.hart.ahead = [] →
            (f.upd (fun h => { h with trapped := false })).fetch = (.ok w, f1) → decode w = .ok (.ld g xd m sz zx) → w.extractLsb' 56 8 = 0x28 →
            f1.hart.waits (w.extractLsb' 43 8) = false → exec (.ld g xd m sz zx) f1 = .next t → t.hart.trapped = false →
            t.hart.waitStart = none →
            step s = .next { f with hart := { f.hart with ahead := [.load (t.x xd)] }, free := t.free })

namespace Sys2Proof.Spec

/-- Words that the examples of spec/ write out, with the instructions that they stand for. -/
def sampleWords : List (Word × Instr) :=
  let g : Hdr := ⟨0, false, 0⟩
  [(0x0100000000000000, .add g 0 0 0), (0x0400006188000001, .subImm g 3 3 1), (0x1000006000000005, .li g 3 5),
   (0x180000428C100000, .cmp g .lt 2 5 6), (0x200000600FFFFFFE, .br g .ne 3 0 (BitVec.ofInt 27 (-2))),
   (0x280000E2D0C00002, .ld g 7 (.indexed 5 6 2) 2 false), (0x2A0000E200AE8000, .amo g .add 7 4 5 ⟨.pkg, true, false⟩ true),
   (0x3300012200000B03, .fcvt g .si32 .fp64 2 9 4), (0x3800006000000001, .csrr g 3 1), (0x39000000001C0000, .fenceA 0 .pod),
   (0x3C00028A80080000, .claim g 20 21), (0x3D00006200080702, .clset 0 2 7 3 4), (0x4000002A00080003, .setvl 0 1 20 3),
   (0x4100006103800802, .vsliceExtract g true 3 2 28), (0x4230288280C80500, .vadd ⟨3, false, 5⟩ 4 ⟨false, ⟨5, .none⟩, ⟨6, .e⟩⟩ true 1),
   (0x5000008586000082, .vgth g 4 11 3 2 ⟨0, false, 0, false⟩), (0x5100002580000000, .vst g 1 11 ⟨0, false, 0, false⟩),
   (0x520000CA0A00300A, .vamo g .add false 6 20 5 2 ⟨.pkg, false, true⟩ ⟨0, false, 0, false⟩), (0x5400006480003000, .vpush 0 .pkg 3 9 0 false),
   (0x610003A000000004, .waitK ⟨0, false⟩ false 4 29 0), (0x600002A5AC000009, .strm g 21 11 22 false 0 true 1),
   (0x6A00000084000000, .mma g 0 1 2 0 none false false false false), (0x6B00006010080000, .maccSt g 3 0 8 none),
   (0x7000028AAC006320, .collArM 0 .add 20 21 22 3 (some 1))]

end Sys2Proof.Spec

/-- R38 to R59: words that the examples write out stand for the instructions that they name. -/
def Obligations.SampleWords : Prop :=
  ∀ p ∈ sampleWords, decode p.1 = .ok p.2 ∧ encode p.2 = p.1

/-- R37 to R60: decoding the word of a well-formed instruction gives the instruction back, with every operand at every value that its
encoding admits. -/
def Obligations.DecodeOfEncode : Prop :=
  ∀ i : Instr, i.isEvent = false → i.wf = true → decode (encode i) = .ok i

/-- R37 to R60: a word that decodes is the word of the one, well-formed, instruction that it decodes to: no bit of it is ignored. -/
def Obligations.EncodeOfDecode : Prop :=
  ∀ (w : Word) (i : Instr), decode w = .ok i → i.isEvent = false ∧ i.wf = true ∧ encode i = w

/-- Every step keeps the invariant: the canonical form of memory, the marks of indeterminate bytes, the listing of harts. -/
def Obligations.EveryStepKeepsInv : Prop :=
  ∀ s t : State, s.Inv → step s = .next t → t.Inv

/-! ## The statements -/

/-- Results of the integer instructions, for every guard. The parts: `RegisterResults`, `ImmediateResults`, `ConstantsAndCounts`. -/
def Obligations.IntegerResults : Prop :=
  Spec.RegisterResults ∧ Spec.ImmediateResults ∧ Spec.ConstantsAndCounts

/-- Where branches and jumps go, and what a false guard leaves. The parts: `BranchesAndJumps`, `FalseGuardBranches`. -/
def Obligations.BranchesAndJumpsGo : Prop :=
  Spec.BranchesAndJumps ∧ Spec.FalseGuardBranches

/-- Direct addresses, and where LD and ST trap. The parts: `DirectAddresses`, `ScalarAccessTraps`. -/
def Obligations.AddressesAndTraps : Prop :=
  Spec.DirectAddresses ∧ Spec.ScalarAccessTraps

/-- LD and ST complete: the value, the bytes, and the frame. The parts: `LoadsComplete`, `StoresComplete`. -/
def Obligations.LoadsAndStoresComplete : Prop :=
  Spec.LoadsComplete ∧ Spec.StoresComplete

/-- AMO, CAS, BINC, CCLEAN and CFLUSH complete: results and frame. The parts: `AtomicsComplete`, `CacheMaintenance`. -/
def Obligations.AtomicsAndCacheMaintenance : Prop :=
  Spec.AtomicsComplete ∧ Spec.CacheMaintenance

/-- Scalar floating point: exact results rounded once; minimum and maximum. The parts: `FloatingPointArithmetic`, `MinimumAndMaximum`. -/
def Obligations.FloatingPointResults : Prop :=
  Spec.FloatingPointArithmetic ∧ Spec.MinimumAndMaximum

/-- CSR reads, writes and traps. The parts: `CsrReads`, `CsrWrites`, `CsrTraps`. -/
def Obligations.CsrAccesses : Prop :=
  Spec.CsrReads ∧ Spec.CsrWrites ∧ Spec.CsrTraps

/-- Fences, token waits and completion counters. The parts: `FencesComplete`, `TokensAndCounters`. -/
def Obligations.FencesTokensAndCounters : Prop :=
  Spec.FencesComplete ∧ Spec.TokensAndCounters

/-- Streams enter the copy queue, are dispatched, and copy bytes. The parts: `StreamsEnterTheQueue`, `StreamEvents`, `StreamsCopyBytes`. -/
def Obligations.StreamsRun : Prop :=
  Spec.StreamsEnterTheQueue ∧ Spec.StreamEvents ∧ Spec.StreamsCopyBytes

/-- The non-blocking queue, and the actions on halted engine queues. The parts: `NonBlockingQueue`, `EngineActions`. -/
def Obligations.NonBlockingWorkAndActions : Prop :=
  Spec.NonBlockingQueue ∧ Spec.EngineActions

/-- Taking a trap: order, handler, page batch, report, double trap. The parts: `TrapsEnterTheHandler`, `EarlierTrapsComeFirst`, `PageBatchChangesWithPageFaults`, `ReportedAndDoubleTraps`. -/
def Obligations.TrapsAreTaken : Prop :=
  Spec.TrapsEnterTheHandler ∧ Spec.EarlierTrapsComeFirst ∧ Spec.PageBatchChangesWithPageFaults ∧ Spec.ReportedAndDoubleTraps

/-- ECALL, EBREAK and TRET. The parts: `CallsAndBreakpoints`, `ReturnsFromTraps`. -/
def Obligations.CallsAndReturns : Prop :=
  Spec.CallsAndBreakpoints ∧ Spec.ReturnsFromTraps

/-- Privileged instructions, and words that are no instructions. The parts: `PrivilegedInstructions`, `WordsThatAreNoInstructions`. -/
def Obligations.PrivilegeAndIllegalWords : Prop :=
  Spec.PrivilegedInstructions ∧ Spec.WordsThatAreNoInstructions

/-- Traps from outside, reports of held harts, timers. The parts: `TrapEvents`, `HeldHarts`, `Timers`. -/
def Obligations.TrapEventsHeldHartsTimers : Prop :=
  Spec.TrapEvents ∧ Spec.HeldHarts ∧ Spec.Timers

/-- When WAIT and WAITM end, and with what. The parts: `Waiting`, `WaitingOnMemory`. -/
def Obligations.WaitsEnd : Prop :=
  Spec.Waiting ∧ Spec.WaitingOnMemory

/-- TINV, CLSET, BIND, and the change of a frame. The parts: `SystemInstructions`, `FrameChanges`. -/
def Obligations.SystemInstructionsAct : Prop :=
  Spec.SystemInstructions ∧ Spec.FrameChanges

/-- VSAVE and VREST. The parts: `ContextsAreSaved`, `ContextsAreRestored`, `AreaPiecesAreWritten`, `AreaPiecesAreRead`. -/
def Obligations.ContextsAreSavedAndRestored : Prop :=
  Spec.ContextsAreSaved ∧ Spec.ContextsAreRestored ∧ Spec.AreaPiecesAreWritten ∧ Spec.AreaPiecesAreRead

/-- LNCH: acceptance, refusals in their order, traps. The parts: `Launching`, `RefusalsInOrder`. -/
def Obligations.LaunchesEnterTheirQueues : Prop :=
  Spec.Launching ∧ Spec.RefusalsInOrder

/-- CLAIM, the gang barrier, YIELD and EXIT. The parts: `Claiming`, `GangBarrier`, `Yielding`, `Exiting`. -/
def Obligations.GangInstructions : Prop :=
  Spec.Claiming ∧ Spec.GangBarrier ∧ Spec.Yielding ∧ Spec.Exiting

/-- VCFG, VTAG, SETVL and SETVH. The parts: `VectorConfiguration`, `VectorLengths`. -/
def Obligations.VectorConfigurationAndLengths : Prop :=
  Spec.VectorConfiguration ∧ Spec.VectorLengths

/-- VMOV, VBCAST, VSLICE, VXT and VINS. The parts: `MovesAndBroadcasts`, `Slices`, `ExtractAndInsert`. -/
def Obligations.VectorMoves : Prop :=
  Spec.MovesAndBroadcasts ∧ Spec.Slices ∧ Spec.ExtractAndInsert

/-- Vector arithmetic, in its register and pass-queue forms. The parts: `VectorArithmetic`, `IntegerElementsWrapOrSaturate`. -/
def Obligations.VectorArithmeticResults : Prop :=
  Spec.VectorArithmetic ∧ Spec.IntegerElementsWrapOrSaturate

/-- Vector logic, shifts, bit counts and interleaving. The parts: `VectorBits`, `BitInterleaving`. -/
def Obligations.VectorBitResults : Prop :=
  Spec.VectorBits ∧ Spec.BitInterleaving

/-- VCMP, VSEL, and vector instructions under an always-false guard. The parts: `CompareAndSelect`, `AlwaysFalseGuards`. -/
def Obligations.CompareSelectAndFalseGuards : Prop :=
  Spec.CompareAndSelect ∧ Spec.AlwaysFalseGuards

/-- VRED, VSCAN, VMAXI and VMINI. The parts: `ReductionsAndScans`, `TopElements`. -/
def Obligations.ReductionsScansAndTopElements : Prop :=
  Spec.ReductionsAndScans ∧ Spec.TopElements

/-- VCVT, VQNT and VDQNT. The parts: `VectorConversions`, `Quantisation`. -/
def Obligations.ConversionsAndQuantisation : Prop :=
  Spec.VectorConversions ∧ Spec.Quantisation

/-- Where vector elements lie in memory, one element in memory, and faults. The parts: `VectorAddresses`, `ElementsInMemory`, `VectorFaults`. -/
def Obligations.VectorElementsInMemory : Prop :=
  Spec.VectorAddresses ∧ Spec.ElementsInMemory ∧ Spec.VectorFaults

/-- Blocking vector loads and stores complete: results and frame. The parts: `VectorLoads`, `VectorStores`. -/
def Obligations.VectorLoadsAndStores : Prop :=
  Spec.VectorLoads ∧ Spec.VectorStores

/-- Non-blocking forms, VLDW and PREF. The parts: `NonBlockingForms`, `WindowLoadsAndPrefetch`. -/
def Obligations.NonBlockingWindowAndPrefetchForms : Prop :=
  Spec.NonBlockingForms ∧ Spec.WindowLoadsAndPrefetch

/-- Vector atomics and multicast stores: results and frame. The parts: `VectorAtomicsAndMulticast`, `VectorAtomicValues`. -/
def Obligations.VectorAtomicsComplete : Prop :=
  Spec.VectorAtomicsAndMulticast ∧ Spec.VectorAtomicValues

/-- VPUSH starts a push, VTAKE waits for a full register. The parts: `PushesStart`, `TakesWaitForFull`. -/
def Obligations.PushesStartAndAreTaken : Prop :=
  Spec.PushesStart ∧ Spec.TakesWaitForFull

/-- Windows, and the row lanes of the matrix unit. The parts: `WindowsChange`, `RowLanes`. -/
def Obligations.WindowsAndRowLanes : Prop :=
  Spec.WindowsChange ∧ Spec.RowLanes

/-- MACC.LD, MACC.Z, MMA and MUNF at issue. The parts: `TilesAreFilled`, `ProductsEnterTheQueue`, `UnfoldingDescriptors`. -/
def Obligations.MatrixInstructionsIssue : Prop :=
  Spec.TilesAreFilled ∧ Spec.ProductsEnterTheQueue ∧ Spec.UnfoldingDescriptors

/-- Berths, weight loads, ageing and refresh. The parts: `Berths`, `WeightsAreLoaded`, `WeightStoreEvents`. -/
def Obligations.WeightStore : Prop :=
  Spec.Berths ∧ Spec.WeightsAreLoaded ∧ Spec.WeightStoreEvents

/-- Collectives start; COLL.WAIT and COLL.STAT. The parts: `CollectivesStart`, `CollectiveStatus`. -/
def Obligations.CollectivesStartAndStatus : Prop :=
  Spec.CollectivesStart ∧ Spec.CollectiveStatus

/-- Chunks are marked; how an instance ends. The parts: `ChunksAreMarked`, `InstancesEnd`. -/
def Obligations.CollectivesEnd : Prop :=
  Spec.ChunksAreMarked ∧ Spec.InstancesEnd

/-- Requests at their home, reply caches, the fabric transport. The parts: `HomesPerformRequests`, `Transport`. -/
def Obligations.HomesAndTransport : Prop :=
  Spec.HomesPerformRequests ∧ Spec.Transport

/-- Stored errors, scrubbing, and page migration. The parts: `StoredErrors`, `PagesMove`. -/
def Obligations.StoredErrorsAndMigration : Prop :=
  Spec.StoredErrors ∧ Spec.PagesMove

/-- Wavelength states, and flits on a strand. The parts: `Wavelengths`, `Flits`. -/
def Obligations.WavelengthsAndFlits : Prop :=
  Spec.Wavelengths ∧ Spec.Flits

/-- The live link table, port groups, and the machine fault. The parts: `LinkTable`, `PortGroups`, `MachineFaults`. -/
def Obligations.LinkTableAndPortGroups : Prop :=
  Spec.LinkTable ∧ Spec.PortGroups ∧ Spec.MachineFaults

/-- Placement, pre-emption, resumption, aborts, issue. The parts: `Placement`, `Preemption`, `Resumption`, `AbortsAndIssue`. -/
def Obligations.SchedulerDecides : Prop :=
  Spec.Placement ∧ Spec.Preemption ∧ Spec.Resumption ∧ Spec.AbortsAndIssue

/-- Binding, image, undock and log messages. The parts: `Bindings`, `ImagesUndockAndLogs`. -/
def Obligations.ServiceMessages : Prop :=
  Spec.Bindings ∧ Spec.ImagesUndockAndLogs

/-- SPDM, power, bring-up and takeover. The parts: `Attestation`, `PowerAndBringUp`. -/
def Obligations.AttestationAndPower : Prop :=
  Spec.Attestation ∧ Spec.PowerAndBringUp

/-- A step runs the decoded instruction; the agenda happens in order. The parts: `RunningHartSteps`, `AgendaInOrder`. -/
def Obligations.StepRunsTheInstruction : Prop :=
  Spec.RunningHartSteps ∧ Spec.AgendaInOrder
end

