-- ==== Sys2Proof/Laws/State.lean ====
section
/-! SUPPORT. What each update of the state leaves alone: one lemma for each field of each update, so that no later proof
unfolds a record update. -/

namespace Sys2Proof.Machine
open Sys2Proof

/-! ### State.upd -/

@[simp] theorem State.upd_rest (s : State) (f : Hart → Hart) : (s.upd f).rest = s.rest := rfl
@[simp] theorem State.upd_agenda (s : State) (f : Hart → Hart) : (s.upd f).agenda = s.agenda := rfl
@[simp] theorem State.upd_input (s : State) (f : Hart → Hart) : (s.upd f).input = s.input := rfl
@[simp] theorem State.upd_pkg (s : State) (f : Hart → Hart) : (s.upd f).pkg = s.pkg := rfl
@[simp] theorem State.upd_time (s : State) (f : Hart → Hart) : (s.upd f).time = s.time := rfl
@[simp] theorem State.upd_mem (s : State) (f : Hart → Hart) : (s.upd f).mem = s.mem := rfl
@[simp] theorem State.upd_written (s : State) (f : Hart → Hart) : (s.upd f).written = s.written := rfl
@[simp] theorem State.upd_zeroed (s : State) (f : Hart → Hart) : (s.upd f).zeroed = s.zeroed := rfl
@[simp] theorem State.upd_wno (s : State) (f : Hart → Hart) : (s.upd f).wno = s.wno := rfl
@[simp] theorem State.upd_indet (s : State) (f : Hart → Hart) : (s.upd f).indet = s.indet := rfl
@[simp] theorem State.upd_poison (s : State) (f : Hart → Hart) : (s.upd f).poison = s.poison := rfl
@[simp] theorem State.upd_gran (s : State) (f : Hart → Hart) : (s.upd f).gran = s.gran := rfl
@[simp] theorem State.upd_errs (s : State) (f : Hart → Hart) : (s.upd f).errs = s.errs := rfl
@[simp] theorem State.upd_quay (s : State) (f : Hart → Hart) : (s.upd f).quay = s.quay := rfl
@[simp] theorem State.upd_msc (s : State) (f : Hart → Hart) : (s.upd f).msc = s.msc := rfl
@[simp] theorem State.upd_pack (s : State) (f : Hart → Hart) : (s.upd f).pack = s.pack := rfl
@[simp] theorem State.upd_copies (s : State) (f : Hart → Hart) : (s.upd f).copies = s.copies := rfl
@[simp] theorem State.upd_tlb (s : State) (f : Hart → Hart) : (s.upd f).tlb = s.tlb := rfl
@[simp] theorem State.upd_tick (s : State) (f : Hart → Hart) : (s.upd f).tick = s.tick := rfl
@[simp] theorem State.upd_dies (s : State) (f : Hart → Hart) : (s.upd f).dies = s.dies := rfl
@[simp] theorem State.upd_clusters (s : State) (f : Hart → Hart) : (s.upd f).clusters = s.clusters := rfl
@[simp] theorem State.upd_cores (s : State) (f : Hart → Hart) : (s.upd f).cores = s.cores := rfl
@[simp] theorem State.upd_queues (s : State) (f : Hart → Hart) : (s.upd f).queues = s.queues := rfl
@[simp] theorem State.upd_launches (s : State) (f : Hart → Hart) : (s.upd f).launches = s.launches := rfl
@[simp] theorem State.upd_gangs (s : State) (f : Hart → Hart) : (s.upd f).gangs = s.gangs := rfl
@[simp] theorem State.upd_promises (s : State) (f : Hart → Hart) : (s.upd f).promises = s.promises := rfl
@[simp] theorem State.upd_resvs (s : State) (f : Hart → Hart) : (s.upd f).resvs = s.resvs := rfl
@[simp] theorem State.upd_rr (s : State) (f : Hart → Hart) : (s.upd f).rr = s.rr := rfl
@[simp] theorem State.upd_schcfg (s : State) (f : Hart → Hart) : (s.upd f).schcfg = s.schcfg := rfl
@[simp] theorem State.upd_ebdef (s : State) (f : Hart → Hart) : (s.upd f).ebdef = s.ebdef := rfl
@[simp] theorem State.upd_asroot (s : State) (f : Hart → Hart) : (s.upd f).asroot = s.asroot := rfl
@[simp] theorem State.upd_parks (s : State) (f : Hart → Hart) : (s.upd f).parks = s.parks := rfl
@[simp] theorem State.upd_ring (s : State) (f : Hart → Hart) : (s.upd f).ring = s.ring := rfl
@[simp] theorem State.upd_trqh (s : State) (f : Hart → Hart) : (s.upd f).trqh = s.trqh := rfl
@[simp] theorem State.upd_trqt (s : State) (f : Hart → Hart) : (s.upd f).trqt = s.trqt := rfl
@[simp] theorem State.upd_fault (s : State) (f : Hart → Hart) : (s.upd f).fault = s.fault := rfl
@[simp] theorem State.upd_mgmtDie (s : State) (f : Hart → Hart) : (s.upd f).mgmtDie = s.mgmtDie := rfl
@[simp] theorem State.upd_atags (s : State) (f : Hart → Hart) : (s.upd f).atags = s.atags := rfl
@[simp] theorem State.upd_replies (s : State) (f : Hart → Hart) : (s.upd f).replies = s.replies := rfl
@[simp] theorem State.upd_lost (s : State) (f : Hart → Hart) : (s.upd f).lost = s.lost := rfl
@[simp] theorem State.upd_sent (s : State) (f : Hart → Hart) : (s.upd f).sent = s.sent := rfl
@[simp] theorem State.upd_ltab (s : State) (f : Hart → Hart) : (s.upd f).ltab = s.ltab := rfl
@[simp] theorem State.upd_ltpg (s : State) (f : Hart → Hart) : (s.upd f).ltpg = s.ltpg := rfl
@[simp] theorem State.upd_reach (s : State) (f : Hart → Hart) : (s.upd f).reach = s.reach := rfl
@[simp] theorem State.upd_lttree (s : State) (f : Hart → Hart) : (s.upd f).lttree = s.lttree := rfl
@[simp] theorem State.upd_ltevt (s : State) (f : Hart → Hart) : (s.upd f).ltevt = s.ltevt := rfl
@[simp] theorem State.upd_pgs (s : State) (f : Hart → Hart) : (s.upd f).pgs = s.pgs := rfl
@[simp] theorem State.upd_flows (s : State) (f : Hart → Hart) : (s.upd f).flows = s.flows := rfl
@[simp] theorem State.upd_outNo (s : State) (f : Hart → Hart) : (s.upd f).outNo = s.outNo := rfl
@[simp] theorem State.upd_outbox (s : State) (f : Hart → Hart) : (s.upd f).outbox = s.outbox := rfl
@[simp] theorem State.upd_groups (s : State) (f : Hart → Hart) : (s.upd f).groups = s.groups := rfl
@[simp] theorem State.upd_insts (s : State) (f : Hart → Hart) : (s.upd f).insts = s.insts := rfl
@[simp] theorem State.upd_ends (s : State) (f : Hart → Hart) : (s.upd f).ends = s.ends := rfl
@[simp] theorem State.upd_stats (s : State) (f : Hart → Hart) : (s.upd f).stats = s.stats := rfl
@[simp] theorem State.upd_funcs (s : State) (f : Hart → Hart) : (s.upd f).funcs = s.funcs := rfl
@[simp] theorem State.upd_hmb (s : State) (f : Hart → Hart) : (s.upd f).hmb = s.hmb := rfl
@[simp] theorem State.upd_smb (s : State) (f : Hart → Hart) : (s.upd f).smb = s.smb := rfl
@[simp] theorem State.upd_port1 (s : State) (f : Hart → Hart) : (s.upd f).port1 = s.port1 := rfl
@[simp] theorem State.upd_pilot (s : State) (f : Hart → Hart) : (s.upd f).pilot = s.pilot := rfl
@[simp] theorem State.upd_undock (s : State) (f : Hart → Hart) : (s.upd f).undock = s.undock := rfl
@[simp] theorem State.upd_free (s : State) (f : Hart → Hart) : (s.upd f).free = s.free := rfl
@[simp] theorem State.upd_hart (s : State) (f : Hart → Hart) : (s.upd f).hart = f s.hart := rfl

/-! ### State.setX -/

@[simp] theorem State.setX_rest (s : State) (i : XReg) (v : Word) : (s.setX i v).rest = s.rest := rfl
@[simp] theorem State.setX_agenda (s : State) (i : XReg) (v : Word) : (s.setX i v).agenda = s.agenda := rfl
@[simp] theorem State.setX_input (s : State) (i : XReg) (v : Word) : (s.setX i v).input = s.input := rfl
@[simp] theorem State.setX_pkg (s : State) (i : XReg) (v : Word) : (s.setX i v).pkg = s.pkg := rfl
@[simp] theorem State.setX_time (s : State) (i : XReg) (v : Word) : (s.setX i v).time = s.time := rfl
@[simp] theorem State.setX_mem (s : State) (i : XReg) (v : Word) : (s.setX i v).mem = s.mem := rfl
@[simp] theorem State.setX_written (s : State) (i : XReg) (v : Word) : (s.setX i v).written = s.written := rfl
@[simp] theorem State.setX_zeroed (s : State) (i : XReg) (v : Word) : (s.setX i v).zeroed = s.zeroed := rfl
@[simp] theorem State.setX_wno (s : State) (i : XReg) (v : Word) : (s.setX i v).wno = s.wno := rfl
@[simp] theorem State.setX_indet (s : State) (i : XReg) (v : Word) : (s.setX i v).indet = s.indet := rfl
@[simp] theorem State.setX_poison (s : State) (i : XReg) (v : Word) : (s.setX i v).poison = s.poison := rfl
@[simp] theorem State.setX_gran (s : State) (i : XReg) (v : Word) : (s.setX i v).gran = s.gran := rfl
@[simp] theorem State.setX_errs (s : State) (i : XReg) (v : Word) : (s.setX i v).errs = s.errs := rfl
@[simp] theorem State.setX_quay (s : State) (i : XReg) (v : Word) : (s.setX i v).quay = s.quay := rfl
@[simp] theorem State.setX_msc (s : State) (i : XReg) (v : Word) : (s.setX i v).msc = s.msc := rfl
@[simp] theorem State.setX_pack (s : State) (i : XReg) (v : Word) : (s.setX i v).pack = s.pack := rfl
@[simp] theorem State.setX_copies (s : State) (i : XReg) (v : Word) : (s.setX i v).copies = s.copies := rfl
@[simp] theorem State.setX_tlb (s : State) (i : XReg) (v : Word) : (s.setX i v).tlb = s.tlb := rfl
@[simp] theorem State.setX_tick (s : State) (i : XReg) (v : Word) : (s.setX i v).tick = s.tick := rfl
@[simp] theorem State.setX_dies (s : State) (i : XReg) (v : Word) : (s.setX i v).dies = s.dies := rfl
@[simp] theorem State.setX_clusters (s : State) (i : XReg) (v : Word) : (s.setX i v).clusters = s.clusters := rfl
@[simp] theorem State.setX_cores (s : State) (i : XReg) (v : Word) : (s.setX i v).cores = s.cores := rfl
@[simp] theorem State.setX_queues (s : State) (i : XReg) (v : Word) : (s.setX i v).queues = s.queues := rfl
@[simp] theorem State.setX_launches (s : State) (i : XReg) (v : Word) : (s.setX i v).launches = s.launches := rfl
@[simp] theorem State.setX_gangs (s : State) (i : XReg) (v : Word) : (s.setX i v).gangs = s.gangs := rfl
@[simp] theorem State.setX_promises (s : State) (i : XReg) (v : Word) : (s.setX i v).promises = s.promises := rfl
@[simp] theorem State.setX_resvs (s : State) (i : XReg) (v : Word) : (s.setX i v).resvs = s.resvs := rfl
@[simp] theorem State.setX_rr (s : State) (i : XReg) (v : Word) : (s.setX i v).rr = s.rr := rfl
@[simp] theorem State.setX_schcfg (s : State) (i : XReg) (v : Word) : (s.setX i v).schcfg = s.schcfg := rfl
@[simp] theorem State.setX_ebdef (s : State) (i : XReg) (v : Word) : (s.setX i v).ebdef = s.ebdef := rfl
@[simp] theorem State.setX_asroot (s : State) (i : XReg) (v : Word) : (s.setX i v).asroot = s.asroot := rfl
@[simp] theorem State.setX_parks (s : State) (i : XReg) (v : Word) : (s.setX i v).parks = s.parks := rfl
@[simp] theorem State.setX_ring (s : State) (i : XReg) (v : Word) : (s.setX i v).ring = s.ring := rfl
@[simp] theorem State.setX_trqh (s : State) (i : XReg) (v : Word) : (s.setX i v).trqh = s.trqh := rfl
@[simp] theorem State.setX_trqt (s : State) (i : XReg) (v : Word) : (s.setX i v).trqt = s.trqt := rfl
@[simp] theorem State.setX_fault (s : State) (i : XReg) (v : Word) : (s.setX i v).fault = s.fault := rfl
@[simp] theorem State.setX_mgmtDie (s : State) (i : XReg) (v : Word) : (s.setX i v).mgmtDie = s.mgmtDie := rfl
@[simp] theorem State.setX_atags (s : State) (i : XReg) (v : Word) : (s.setX i v).atags = s.atags := rfl
@[simp] theorem State.setX_replies (s : State) (i : XReg) (v : Word) : (s.setX i v).replies = s.replies := rfl
@[simp] theorem State.setX_lost (s : State) (i : XReg) (v : Word) : (s.setX i v).lost = s.lost := rfl
@[simp] theorem State.setX_sent (s : State) (i : XReg) (v : Word) : (s.setX i v).sent = s.sent := rfl
@[simp] theorem State.setX_ltab (s : State) (i : XReg) (v : Word) : (s.setX i v).ltab = s.ltab := rfl
@[simp] theorem State.setX_ltpg (s : State) (i : XReg) (v : Word) : (s.setX i v).ltpg = s.ltpg := rfl
@[simp] theorem State.setX_reach (s : State) (i : XReg) (v : Word) : (s.setX i v).reach = s.reach := rfl
@[simp] theorem State.setX_lttree (s : State) (i : XReg) (v : Word) : (s.setX i v).lttree = s.lttree := rfl
@[simp] theorem State.setX_ltevt (s : State) (i : XReg) (v : Word) : (s.setX i v).ltevt = s.ltevt := rfl
@[simp] theorem State.setX_pgs (s : State) (i : XReg) (v : Word) : (s.setX i v).pgs = s.pgs := rfl
@[simp] theorem State.setX_flows (s : State) (i : XReg) (v : Word) : (s.setX i v).flows = s.flows := rfl
@[simp] theorem State.setX_outNo (s : State) (i : XReg) (v : Word) : (s.setX i v).outNo = s.outNo := rfl
@[simp] theorem State.setX_outbox (s : State) (i : XReg) (v : Word) : (s.setX i v).outbox = s.outbox := rfl
@[simp] theorem State.setX_groups (s : State) (i : XReg) (v : Word) : (s.setX i v).groups = s.groups := rfl
@[simp] theorem State.setX_insts (s : State) (i : XReg) (v : Word) : (s.setX i v).insts = s.insts := rfl
@[simp] theorem State.setX_ends (s : State) (i : XReg) (v : Word) : (s.setX i v).ends = s.ends := rfl
@[simp] theorem State.setX_stats (s : State) (i : XReg) (v : Word) : (s.setX i v).stats = s.stats := rfl
@[simp] theorem State.setX_funcs (s : State) (i : XReg) (v : Word) : (s.setX i v).funcs = s.funcs := rfl
@[simp] theorem State.setX_hmb (s : State) (i : XReg) (v : Word) : (s.setX i v).hmb = s.hmb := rfl
@[simp] theorem State.setX_smb (s : State) (i : XReg) (v : Word) : (s.setX i v).smb = s.smb := rfl
@[simp] theorem State.setX_port1 (s : State) (i : XReg) (v : Word) : (s.setX i v).port1 = s.port1 := rfl
@[simp] theorem State.setX_pilot (s : State) (i : XReg) (v : Word) : (s.setX i v).pilot = s.pilot := rfl
@[simp] theorem State.setX_undock (s : State) (i : XReg) (v : Word) : (s.setX i v).undock = s.undock := rfl
@[simp] theorem State.setX_free (s : State) (i : XReg) (v : Word) : (s.setX i v).free = s.free := rfl
@[simp] theorem State.setX_hart (s : State) (i : XReg) (v : Word) : (s.setX i v).hart = s.hart.setX i v := rfl

/-! ### State.setP -/

@[simp] theorem State.setP_rest (s : State) (i : PReg) (v : BitVec 32768) : (s.setP i v).rest = s.rest := rfl
@[simp] theorem State.setP_agenda (s : State) (i : PReg) (v : BitVec 32768) : (s.setP i v).agenda = s.agenda := rfl
@[simp] theorem State.setP_input (s : State) (i : PReg) (v : BitVec 32768) : (s.setP i v).input = s.input := rfl
@[simp] theorem State.setP_pkg (s : State) (i : PReg) (v : BitVec 32768) : (s.setP i v).pkg = s.pkg := rfl
@[simp] theorem State.setP_time (s : State) (i : PReg) (v : BitVec 32768) : (s.setP i v).time = s.time := rfl
@[simp] theorem State.setP_mem (s : State) (i : PReg) (v : BitVec 32768) : (s.setP i v).mem = s.mem := rfl
@[simp] theorem State.setP_written (s : State) (i : PReg) (v : BitVec 32768) : (s.setP i v).written = s.written := rfl
@[simp] theorem State.setP_zeroed (s : State) (i : PReg) (v : BitVec 32768) : (s.setP i v).zeroed = s.zeroed := rfl
@[simp] theorem State.setP_wno (s : State) (i : PReg) (v : BitVec 32768) : (s.setP i v).wno = s.wno := rfl
@[simp] theorem State.setP_indet (s : State) (i : PReg) (v : BitVec 32768) : (s.setP i v).indet = s.indet := rfl
@[simp] theorem State.setP_poison (s : State) (i : PReg) (v : BitVec 32768) : (s.setP i v).poison = s.poison := rfl
@[simp] theorem State.setP_gran (s : State) (i : PReg) (v : BitVec 32768) : (s.setP i v).gran = s.gran := rfl
@[simp] theorem State.setP_errs (s : State) (i : PReg) (v : BitVec 32768) : (s.setP i v).errs = s.errs := rfl
@[simp] theorem State.setP_quay (s : State) (i : PReg) (v : BitVec 32768) : (s.setP i v).quay = s.quay := rfl
@[simp] theorem State.setP_msc (s : State) (i : PReg) (v : BitVec 32768) : (s.setP i v).msc = s.msc := rfl
@[simp] theorem State.setP_pack (s : State) (i : PReg) (v : BitVec 32768) : (s.setP i v).pack = s.pack := rfl
@[simp] theorem State.setP_copies (s : State) (i : PReg) (v : BitVec 32768) : (s.setP i v).copies = s.copies := rfl
@[simp] theorem State.setP_tlb (s : State) (i : PReg) (v : BitVec 32768) : (s.setP i v).tlb = s.tlb := rfl
@[simp] theorem State.setP_tick (s : State) (i : PReg) (v : BitVec 32768) : (s.setP i v).tick = s.tick := rfl
@[simp] theorem State.setP_dies (s : State) (i : PReg) (v : BitVec 32768) : (s.setP i v).dies = s.dies := rfl
@[simp] theorem State.setP_clusters (s : State) (i : PReg) (v : BitVec 32768) : (s.setP i v).clusters = s.clusters := rfl
@[simp] theorem State.setP_cores (s : State) (i : PReg) (v : BitVec 32768) : (s.setP i v).cores = s.cores := rfl
@[simp] theorem State.setP_queues (s : State) (i : PReg) (v : BitVec 32768) : (s.setP i v).queues = s.queues := rfl
@[simp] theorem State.setP_launches (s : State) (i : PReg) (v : BitVec 32768) : (s.setP i v).launches = s.launches := rfl
@[simp] theorem State.setP_gangs (s : State) (i : PReg) (v : BitVec 32768) : (s.setP i v).gangs = s.gangs := rfl
@[simp] theorem State.setP_promises (s : State) (i : PReg) (v : BitVec 32768) : (s.setP i v).promises = s.promises := rfl
@[simp] theorem State.setP_resvs (s : State) (i : PReg) (v : BitVec 32768) : (s.setP i v).resvs = s.resvs := rfl
@[simp] theorem State.setP_rr (s : State) (i : PReg) (v : BitVec 32768) : (s.setP i v).rr = s.rr := rfl
@[simp] theorem State.setP_schcfg (s : State) (i : PReg) (v : BitVec 32768) : (s.setP i v).schcfg = s.schcfg := rfl
@[simp] theorem State.setP_ebdef (s : State) (i : PReg) (v : BitVec 32768) : (s.setP i v).ebdef = s.ebdef := rfl
@[simp] theorem State.setP_asroot (s : State) (i : PReg) (v : BitVec 32768) : (s.setP i v).asroot = s.asroot := rfl
@[simp] theorem State.setP_parks (s : State) (i : PReg) (v : BitVec 32768) : (s.setP i v).parks = s.parks := rfl
@[simp] theorem State.setP_ring (s : State) (i : PReg) (v : BitVec 32768) : (s.setP i v).ring = s.ring := rfl
@[simp] theorem State.setP_trqh (s : State) (i : PReg) (v : BitVec 32768) : (s.setP i v).trqh = s.trqh := rfl
@[simp] theorem State.setP_trqt (s : State) (i : PReg) (v : BitVec 32768) : (s.setP i v).trqt = s.trqt := rfl
@[simp] theorem State.setP_fault (s : State) (i : PReg) (v : BitVec 32768) : (s.setP i v).fault = s.fault := rfl
@[simp] theorem State.setP_mgmtDie (s : State) (i : PReg) (v : BitVec 32768) : (s.setP i v).mgmtDie = s.mgmtDie := rfl
@[simp] theorem State.setP_atags (s : State) (i : PReg) (v : BitVec 32768) : (s.setP i v).atags = s.atags := rfl
@[simp] theorem State.setP_replies (s : State) (i : PReg) (v : BitVec 32768) : (s.setP i v).replies = s.replies := rfl
@[simp] theorem State.setP_lost (s : State) (i : PReg) (v : BitVec 32768) : (s.setP i v).lost = s.lost := rfl
@[simp] theorem State.setP_sent (s : State) (i : PReg) (v : BitVec 32768) : (s.setP i v).sent = s.sent := rfl
@[simp] theorem State.setP_ltab (s : State) (i : PReg) (v : BitVec 32768) : (s.setP i v).ltab = s.ltab := rfl
@[simp] theorem State.setP_ltpg (s : State) (i : PReg) (v : BitVec 32768) : (s.setP i v).ltpg = s.ltpg := rfl
@[simp] theorem State.setP_reach (s : State) (i : PReg) (v : BitVec 32768) : (s.setP i v).reach = s.reach := rfl
@[simp] theorem State.setP_lttree (s : State) (i : PReg) (v : BitVec 32768) : (s.setP i v).lttree = s.lttree := rfl
@[simp] theorem State.setP_ltevt (s : State) (i : PReg) (v : BitVec 32768) : (s.setP i v).ltevt = s.ltevt := rfl
@[simp] theorem State.setP_pgs (s : State) (i : PReg) (v : BitVec 32768) : (s.setP i v).pgs = s.pgs := rfl
@[simp] theorem State.setP_flows (s : State) (i : PReg) (v : BitVec 32768) : (s.setP i v).flows = s.flows := rfl
@[simp] theorem State.setP_outNo (s : State) (i : PReg) (v : BitVec 32768) : (s.setP i v).outNo = s.outNo := rfl
@[simp] theorem State.setP_outbox (s : State) (i : PReg) (v : BitVec 32768) : (s.setP i v).outbox = s.outbox := rfl
@[simp] theorem State.setP_groups (s : State) (i : PReg) (v : BitVec 32768) : (s.setP i v).groups = s.groups := rfl
@[simp] theorem State.setP_insts (s : State) (i : PReg) (v : BitVec 32768) : (s.setP i v).insts = s.insts := rfl
@[simp] theorem State.setP_ends (s : State) (i : PReg) (v : BitVec 32768) : (s.setP i v).ends = s.ends := rfl
@[simp] theorem State.setP_stats (s : State) (i : PReg) (v : BitVec 32768) : (s.setP i v).stats = s.stats := rfl
@[simp] theorem State.setP_funcs (s : State) (i : PReg) (v : BitVec 32768) : (s.setP i v).funcs = s.funcs := rfl
@[simp] theorem State.setP_hmb (s : State) (i : PReg) (v : BitVec 32768) : (s.setP i v).hmb = s.hmb := rfl
@[simp] theorem State.setP_smb (s : State) (i : PReg) (v : BitVec 32768) : (s.setP i v).smb = s.smb := rfl
@[simp] theorem State.setP_port1 (s : State) (i : PReg) (v : BitVec 32768) : (s.setP i v).port1 = s.port1 := rfl
@[simp] theorem State.setP_pilot (s : State) (i : PReg) (v : BitVec 32768) : (s.setP i v).pilot = s.pilot := rfl
@[simp] theorem State.setP_undock (s : State) (i : PReg) (v : BitVec 32768) : (s.setP i v).undock = s.undock := rfl
@[simp] theorem State.setP_free (s : State) (i : PReg) (v : BitVec 32768) : (s.setP i v).free = s.free := rfl
@[simp] theorem State.setP_hart (s : State) (i : PReg) (v : BitVec 32768) : (s.setP i v).hart = s.hart.setP i v := rfl

/-! ### State.raise -/

@[simp] theorem State.raise_rest (s : State) (f : Flags) : (s.raise f).rest = s.rest := rfl
@[simp] theorem State.raise_agenda (s : State) (f : Flags) : (s.raise f).agenda = s.agenda := rfl
@[simp] theorem State.raise_input (s : State) (f : Flags) : (s.raise f).input = s.input := rfl
@[simp] theorem State.raise_pkg (s : State) (f : Flags) : (s.raise f).pkg = s.pkg := rfl
@[simp] theorem State.raise_time (s : State) (f : Flags) : (s.raise f).time = s.time := rfl
@[simp] theorem State.raise_mem (s : State) (f : Flags) : (s.raise f).mem = s.mem := rfl
@[simp] theorem State.raise_written (s : State) (f : Flags) : (s.raise f).written = s.written := rfl
@[simp] theorem State.raise_zeroed (s : State) (f : Flags) : (s.raise f).zeroed = s.zeroed := rfl
@[simp] theorem State.raise_wno (s : State) (f : Flags) : (s.raise f).wno = s.wno := rfl
@[simp] theorem State.raise_indet (s : State) (f : Flags) : (s.raise f).indet = s.indet := rfl
@[simp] theorem State.raise_poison (s : State) (f : Flags) : (s.raise f).poison = s.poison := rfl
@[simp] theorem State.raise_gran (s : State) (f : Flags) : (s.raise f).gran = s.gran := rfl
@[simp] theorem State.raise_errs (s : State) (f : Flags) : (s.raise f).errs = s.errs := rfl
@[simp] theorem State.raise_quay (s : State) (f : Flags) : (s.raise f).quay = s.quay := rfl
@[simp] theorem State.raise_msc (s : State) (f : Flags) : (s.raise f).msc = s.msc := rfl
@[simp] theorem State.raise_pack (s : State) (f : Flags) : (s.raise f).pack = s.pack := rfl
@[simp] theorem State.raise_copies (s : State) (f : Flags) : (s.raise f).copies = s.copies := rfl
@[simp] theorem State.raise_tlb (s : State) (f : Flags) : (s.raise f).tlb = s.tlb := rfl
@[simp] theorem State.raise_tick (s : State) (f : Flags) : (s.raise f).tick = s.tick := rfl
@[simp] theorem State.raise_dies (s : State) (f : Flags) : (s.raise f).dies = s.dies := rfl
@[simp] theorem State.raise_clusters (s : State) (f : Flags) : (s.raise f).clusters = s.clusters := rfl
@[simp] theorem State.raise_cores (s : State) (f : Flags) : (s.raise f).cores = s.cores := rfl
@[simp] theorem State.raise_queues (s : State) (f : Flags) : (s.raise f).queues = s.queues := rfl
@[simp] theorem State.raise_launches (s : State) (f : Flags) : (s.raise f).launches = s.launches := rfl
@[simp] theorem State.raise_gangs (s : State) (f : Flags) : (s.raise f).gangs = s.gangs := rfl
@[simp] theorem State.raise_promises (s : State) (f : Flags) : (s.raise f).promises = s.promises := rfl
@[simp] theorem State.raise_resvs (s : State) (f : Flags) : (s.raise f).resvs = s.resvs := rfl
@[simp] theorem State.raise_rr (s : State) (f : Flags) : (s.raise f).rr = s.rr := rfl
@[simp] theorem State.raise_schcfg (s : State) (f : Flags) : (s.raise f).schcfg = s.schcfg := rfl
@[simp] theorem State.raise_ebdef (s : State) (f : Flags) : (s.raise f).ebdef = s.ebdef := rfl
@[simp] theorem State.raise_asroot (s : State) (f : Flags) : (s.raise f).asroot = s.asroot := rfl
@[simp] theorem State.raise_parks (s : State) (f : Flags) : (s.raise f).parks = s.parks := rfl
@[simp] theorem State.raise_ring (s : State) (f : Flags) : (s.raise f).ring = s.ring := rfl
@[simp] theorem State.raise_trqh (s : State) (f : Flags) : (s.raise f).trqh = s.trqh := rfl
@[simp] theorem State.raise_trqt (s : State) (f : Flags) : (s.raise f).trqt = s.trqt := rfl
@[simp] theorem State.raise_fault (s : State) (f : Flags) : (s.raise f).fault = s.fault := rfl
@[simp] theorem State.raise_mgmtDie (s : State) (f : Flags) : (s.raise f).mgmtDie = s.mgmtDie := rfl
@[simp] theorem State.raise_atags (s : State) (f : Flags) : (s.raise f).atags = s.atags := rfl
@[simp] theorem State.raise_replies (s : State) (f : Flags) : (s.raise f).replies = s.replies := rfl
@[simp] theorem State.raise_lost (s : State) (f : Flags) : (s.raise f).lost = s.lost := rfl
@[simp] theorem State.raise_sent (s : State) (f : Flags) : (s.raise f).sent = s.sent := rfl
@[simp] theorem State.raise_ltab (s : State) (f : Flags) : (s.raise f).ltab = s.ltab := rfl
@[simp] theorem State.raise_ltpg (s : State) (f : Flags) : (s.raise f).ltpg = s.ltpg := rfl
@[simp] theorem State.raise_reach (s : State) (f : Flags) : (s.raise f).reach = s.reach := rfl
@[simp] theorem State.raise_lttree (s : State) (f : Flags) : (s.raise f).lttree = s.lttree := rfl
@[simp] theorem State.raise_ltevt (s : State) (f : Flags) : (s.raise f).ltevt = s.ltevt := rfl
@[simp] theorem State.raise_pgs (s : State) (f : Flags) : (s.raise f).pgs = s.pgs := rfl
@[simp] theorem State.raise_flows (s : State) (f : Flags) : (s.raise f).flows = s.flows := rfl
@[simp] theorem State.raise_outNo (s : State) (f : Flags) : (s.raise f).outNo = s.outNo := rfl
@[simp] theorem State.raise_outbox (s : State) (f : Flags) : (s.raise f).outbox = s.outbox := rfl
@[simp] theorem State.raise_groups (s : State) (f : Flags) : (s.raise f).groups = s.groups := rfl
@[simp] theorem State.raise_insts (s : State) (f : Flags) : (s.raise f).insts = s.insts := rfl
@[simp] theorem State.raise_ends (s : State) (f : Flags) : (s.raise f).ends = s.ends := rfl
@[simp] theorem State.raise_stats (s : State) (f : Flags) : (s.raise f).stats = s.stats := rfl
@[simp] theorem State.raise_funcs (s : State) (f : Flags) : (s.raise f).funcs = s.funcs := rfl
@[simp] theorem State.raise_hmb (s : State) (f : Flags) : (s.raise f).hmb = s.hmb := rfl
@[simp] theorem State.raise_smb (s : State) (f : Flags) : (s.raise f).smb = s.smb := rfl
@[simp] theorem State.raise_port1 (s : State) (f : Flags) : (s.raise f).port1 = s.port1 := rfl
@[simp] theorem State.raise_pilot (s : State) (f : Flags) : (s.raise f).pilot = s.pilot := rfl
@[simp] theorem State.raise_undock (s : State) (f : Flags) : (s.raise f).undock = s.undock := rfl
@[simp] theorem State.raise_free (s : State) (f : Flags) : (s.raise f).free = s.free := rfl
@[simp] theorem State.raise_hart (s : State) (f : Flags) :
    (s.raise f).hart = { s.hart with fcsr := s.hart.fcsr ||| f.setWidth 64 } := rfl

/-! ### State.completedAt -/

@[simp] theorem State.completedAt_rest (s : State) (pc : Word) : (s.completedAt pc).rest = s.rest := rfl
@[simp] theorem State.completedAt_agenda (s : State) (pc : Word) : (s.completedAt pc).agenda = s.agenda := rfl
@[simp] theorem State.completedAt_input (s : State) (pc : Word) : (s.completedAt pc).input = s.input := rfl
@[simp] theorem State.completedAt_pkg (s : State) (pc : Word) : (s.completedAt pc).pkg = s.pkg := rfl
@[simp] theorem State.completedAt_time (s : State) (pc : Word) : (s.completedAt pc).time = s.time := rfl
@[simp] theorem State.completedAt_mem (s : State) (pc : Word) : (s.completedAt pc).mem = s.mem := rfl
@[simp] theorem State.completedAt_written (s : State) (pc : Word) : (s.completedAt pc).written = s.written := rfl
@[simp] theorem State.completedAt_zeroed (s : State) (pc : Word) : (s.completedAt pc).zeroed = s.zeroed := rfl
@[simp] theorem State.completedAt_wno (s : State) (pc : Word) : (s.completedAt pc).wno = s.wno := rfl
@[simp] theorem State.completedAt_indet (s : State) (pc : Word) : (s.completedAt pc).indet = s.indet := rfl
@[simp] theorem State.completedAt_poison (s : State) (pc : Word) : (s.completedAt pc).poison = s.poison := rfl
@[simp] theorem State.completedAt_gran (s : State) (pc : Word) : (s.completedAt pc).gran = s.gran := rfl
@[simp] theorem State.completedAt_errs (s : State) (pc : Word) : (s.completedAt pc).errs = s.errs := rfl
@[simp] theorem State.completedAt_quay (s : State) (pc : Word) : (s.completedAt pc).quay = s.quay := rfl
@[simp] theorem State.completedAt_msc (s : State) (pc : Word) : (s.completedAt pc).msc = s.msc := rfl
@[simp] theorem State.completedAt_pack (s : State) (pc : Word) : (s.completedAt pc).pack = s.pack := rfl
@[simp] theorem State.completedAt_copies (s : State) (pc : Word) : (s.completedAt pc).copies = s.copies := rfl
@[simp] theorem State.completedAt_tlb (s : State) (pc : Word) : (s.completedAt pc).tlb = s.tlb := rfl
@[simp] theorem State.completedAt_tick (s : State) (pc : Word) : (s.completedAt pc).tick = s.tick := rfl
@[simp] theorem State.completedAt_dies (s : State) (pc : Word) : (s.completedAt pc).dies = s.dies := rfl
@[simp] theorem State.completedAt_clusters (s : State) (pc : Word) : (s.completedAt pc).clusters = s.clusters := rfl
@[simp] theorem State.completedAt_cores (s : State) (pc : Word) : (s.completedAt pc).cores = s.cores := rfl
@[simp] theorem State.completedAt_queues (s : State) (pc : Word) : (s.completedAt pc).queues = s.queues := rfl
@[simp] theorem State.completedAt_launches (s : State) (pc : Word) : (s.completedAt pc).launches = s.launches := rfl
@[simp] theorem State.completedAt_gangs (s : State) (pc : Word) : (s.completedAt pc).gangs = s.gangs := rfl
@[simp] theorem State.completedAt_promises (s : State) (pc : Word) : (s.completedAt pc).promises = s.promises := rfl
@[simp] theorem State.completedAt_resvs (s : State) (pc : Word) : (s.completedAt pc).resvs = s.resvs := rfl
@[simp] theorem State.completedAt_rr (s : State) (pc : Word) : (s.completedAt pc).rr = s.rr := rfl
@[simp] theorem State.completedAt_schcfg (s : State) (pc : Word) : (s.completedAt pc).schcfg = s.schcfg := rfl
@[simp] theorem State.completedAt_ebdef (s : State) (pc : Word) : (s.completedAt pc).ebdef = s.ebdef := rfl
@[simp] theorem State.completedAt_asroot (s : State) (pc : Word) : (s.completedAt pc).asroot = s.asroot := rfl
@[simp] theorem State.completedAt_parks (s : State) (pc : Word) : (s.completedAt pc).parks = s.parks := rfl
@[simp] theorem State.completedAt_ring (s : State) (pc : Word) : (s.completedAt pc).ring = s.ring := rfl
@[simp] theorem State.completedAt_trqh (s : State) (pc : Word) : (s.completedAt pc).trqh = s.trqh := rfl
@[simp] theorem State.completedAt_trqt (s : State) (pc : Word) : (s.completedAt pc).trqt = s.trqt := rfl
@[simp] theorem State.completedAt_fault (s : State) (pc : Word) : (s.completedAt pc).fault = s.fault := rfl
@[simp] theorem State.completedAt_mgmtDie (s : State) (pc : Word) : (s.completedAt pc).mgmtDie = s.mgmtDie := rfl
@[simp] theorem State.completedAt_atags (s : State) (pc : Word) : (s.completedAt pc).atags = s.atags := rfl
@[simp] theorem State.completedAt_replies (s : State) (pc : Word) : (s.completedAt pc).replies = s.replies := rfl
@[simp] theorem State.completedAt_lost (s : State) (pc : Word) : (s.completedAt pc).lost = s.lost := rfl
@[simp] theorem State.completedAt_sent (s : State) (pc : Word) : (s.completedAt pc).sent = s.sent := rfl
@[simp] theorem State.completedAt_ltab (s : State) (pc : Word) : (s.completedAt pc).ltab = s.ltab := rfl
@[simp] theorem State.completedAt_ltpg (s : State) (pc : Word) : (s.completedAt pc).ltpg = s.ltpg := rfl
@[simp] theorem State.completedAt_reach (s : State) (pc : Word) : (s.completedAt pc).reach = s.reach := rfl
@[simp] theorem State.completedAt_lttree (s : State) (pc : Word) : (s.completedAt pc).lttree = s.lttree := rfl
@[simp] theorem State.completedAt_ltevt (s : State) (pc : Word) : (s.completedAt pc).ltevt = s.ltevt := rfl
@[simp] theorem State.completedAt_pgs (s : State) (pc : Word) : (s.completedAt pc).pgs = s.pgs := rfl
@[simp] theorem State.completedAt_flows (s : State) (pc : Word) : (s.completedAt pc).flows = s.flows := rfl
@[simp] theorem State.completedAt_outNo (s : State) (pc : Word) : (s.completedAt pc).outNo = s.outNo := rfl
@[simp] theorem State.completedAt_outbox (s : State) (pc : Word) : (s.completedAt pc).outbox = s.outbox := rfl
@[simp] theorem State.completedAt_groups (s : State) (pc : Word) : (s.completedAt pc).groups = s.groups := rfl
@[simp] theorem State.completedAt_insts (s : State) (pc : Word) : (s.completedAt pc).insts = s.insts := rfl
@[simp] theorem State.completedAt_ends (s : State) (pc : Word) : (s.completedAt pc).ends = s.ends := rfl
@[simp] theorem State.completedAt_stats (s : State) (pc : Word) : (s.completedAt pc).stats = s.stats := rfl
@[simp] theorem State.completedAt_funcs (s : State) (pc : Word) : (s.completedAt pc).funcs = s.funcs := rfl
@[simp] theorem State.completedAt_hmb (s : State) (pc : Word) : (s.completedAt pc).hmb = s.hmb := rfl
@[simp] theorem State.completedAt_smb (s : State) (pc : Word) : (s.completedAt pc).smb = s.smb := rfl
@[simp] theorem State.completedAt_port1 (s : State) (pc : Word) : (s.completedAt pc).port1 = s.port1 := rfl
@[simp] theorem State.completedAt_pilot (s : State) (pc : Word) : (s.completedAt pc).pilot = s.pilot := rfl
@[simp] theorem State.completedAt_undock (s : State) (pc : Word) : (s.completedAt pc).undock = s.undock := rfl
@[simp] theorem State.completedAt_free (s : State) (pc : Word) : (s.completedAt pc).free = s.free := rfl
@[simp] theorem State.completedAt_hart (s : State) (pc : Word) :
    (s.completedAt pc).hart = { s.hart.retire pc with headSince := s.cycle } := rfl

/-! ### State.completed -/

@[simp] theorem State.completed_rest (s : State) : (s.completed).rest = s.rest := rfl
@[simp] theorem State.completed_agenda (s : State) : (s.completed).agenda = s.agenda := rfl
@[simp] theorem State.completed_input (s : State) : (s.completed).input = s.input := rfl
@[simp] theorem State.completed_pkg (s : State) : (s.completed).pkg = s.pkg := rfl
@[simp] theorem State.completed_time (s : State) : (s.completed).time = s.time := rfl
@[simp] theorem State.completed_mem (s : State) : (s.completed).mem = s.mem := rfl
@[simp] theorem State.completed_written (s : State) : (s.completed).written = s.written := rfl
@[simp] theorem State.completed_zeroed (s : State) : (s.completed).zeroed = s.zeroed := rfl
@[simp] theorem State.completed_wno (s : State) : (s.completed).wno = s.wno := rfl
@[simp] theorem State.completed_indet (s : State) : (s.completed).indet = s.indet := rfl
@[simp] theorem State.completed_poison (s : State) : (s.completed).poison = s.poison := rfl
@[simp] theorem State.completed_gran (s : State) : (s.completed).gran = s.gran := rfl
@[simp] theorem State.completed_errs (s : State) : (s.completed).errs = s.errs := rfl
@[simp] theorem State.completed_quay (s : State) : (s.completed).quay = s.quay := rfl
@[simp] theorem State.completed_msc (s : State) : (s.completed).msc = s.msc := rfl
@[simp] theorem State.completed_pack (s : State) : (s.completed).pack = s.pack := rfl
@[simp] theorem State.completed_copies (s : State) : (s.completed).copies = s.copies := rfl
@[simp] theorem State.completed_tlb (s : State) : (s.completed).tlb = s.tlb := rfl
@[simp] theorem State.completed_tick (s : State) : (s.completed).tick = s.tick := rfl
@[simp] theorem State.completed_dies (s : State) : (s.completed).dies = s.dies := rfl
@[simp] theorem State.completed_clusters (s : State) : (s.completed).clusters = s.clusters := rfl
@[simp] theorem State.completed_cores (s : State) : (s.completed).cores = s.cores := rfl
@[simp] theorem State.completed_queues (s : State) : (s.completed).queues = s.queues := rfl
@[simp] theorem State.completed_launches (s : State) : (s.completed).launches = s.launches := rfl
@[simp] theorem State.completed_gangs (s : State) : (s.completed).gangs = s.gangs := rfl
@[simp] theorem State.completed_promises (s : State) : (s.completed).promises = s.promises := rfl
@[simp] theorem State.completed_resvs (s : State) : (s.completed).resvs = s.resvs := rfl
@[simp] theorem State.completed_rr (s : State) : (s.completed).rr = s.rr := rfl
@[simp] theorem State.completed_schcfg (s : State) : (s.completed).schcfg = s.schcfg := rfl
@[simp] theorem State.completed_ebdef (s : State) : (s.completed).ebdef = s.ebdef := rfl
@[simp] theorem State.completed_asroot (s : State) : (s.completed).asroot = s.asroot := rfl
@[simp] theorem State.completed_parks (s : State) : (s.completed).parks = s.parks := rfl
@[simp] theorem State.completed_ring (s : State) : (s.completed).ring = s.ring := rfl
@[simp] theorem State.completed_trqh (s : State) : (s.completed).trqh = s.trqh := rfl
@[simp] theorem State.completed_trqt (s : State) : (s.completed).trqt = s.trqt := rfl
@[simp] theorem State.completed_fault (s : State) : (s.completed).fault = s.fault := rfl
@[simp] theorem State.completed_mgmtDie (s : State) : (s.completed).mgmtDie = s.mgmtDie := rfl
@[simp] theorem State.completed_atags (s : State) : (s.completed).atags = s.atags := rfl
@[simp] theorem State.completed_replies (s : State) : (s.completed).replies = s.replies := rfl
@[simp] theorem State.completed_lost (s : State) : (s.completed).lost = s.lost := rfl
@[simp] theorem State.completed_sent (s : State) : (s.completed).sent = s.sent := rfl
@[simp] theorem State.completed_ltab (s : State) : (s.completed).ltab = s.ltab := rfl
@[simp] theorem State.completed_ltpg (s : State) : (s.completed).ltpg = s.ltpg := rfl
@[simp] theorem State.completed_reach (s : State) : (s.completed).reach = s.reach := rfl
@[simp] theorem State.completed_lttree (s : State) : (s.completed).lttree = s.lttree := rfl
@[simp] theorem State.completed_ltevt (s : State) : (s.completed).ltevt = s.ltevt := rfl
@[simp] theorem State.completed_pgs (s : State) : (s.completed).pgs = s.pgs := rfl
@[simp] theorem State.completed_flows (s : State) : (s.completed).flows = s.flows := rfl
@[simp] theorem State.completed_outNo (s : State) : (s.completed).outNo = s.outNo := rfl
@[simp] theorem State.completed_outbox (s : State) : (s.completed).outbox = s.outbox := rfl
@[simp] theorem State.completed_groups (s : State) : (s.completed).groups = s.groups := rfl
@[simp] theorem State.completed_insts (s : State) : (s.completed).insts = s.insts := rfl
@[simp] theorem State.completed_ends (s : State) : (s.completed).ends = s.ends := rfl
@[simp] theorem State.completed_stats (s : State) : (s.completed).stats = s.stats := rfl
@[simp] theorem State.completed_funcs (s : State) : (s.completed).funcs = s.funcs := rfl
@[simp] theorem State.completed_hmb (s : State) : (s.completed).hmb = s.hmb := rfl
@[simp] theorem State.completed_smb (s : State) : (s.completed).smb = s.smb := rfl
@[simp] theorem State.completed_port1 (s : State) : (s.completed).port1 = s.port1 := rfl
@[simp] theorem State.completed_pilot (s : State) : (s.completed).pilot = s.pilot := rfl
@[simp] theorem State.completed_undock (s : State) : (s.completed).undock = s.undock := rfl
@[simp] theorem State.completed_free (s : State) : (s.completed).free = s.free := rfl
@[simp] theorem State.completed_hart (s : State) :
    s.completed.hart = { s.hart.retire (s.hart.pc + 8) with headSince := s.cycle } := rfl

/-! ### State.updCore -/

@[simp] theorem State.updCore_hart (s : State) (k : Nat) (f : Core → Core) : (s.updCore k f).hart = s.hart := rfl
@[simp] theorem State.updCore_rest (s : State) (k : Nat) (f : Core → Core) : (s.updCore k f).rest = s.rest := rfl
@[simp] theorem State.updCore_agenda (s : State) (k : Nat) (f : Core → Core) : (s.updCore k f).agenda = s.agenda := rfl
@[simp] theorem State.updCore_input (s : State) (k : Nat) (f : Core → Core) : (s.updCore k f).input = s.input := rfl
@[simp] theorem State.updCore_pkg (s : State) (k : Nat) (f : Core → Core) : (s.updCore k f).pkg = s.pkg := rfl
@[simp] theorem State.updCore_time (s : State) (k : Nat) (f : Core → Core) : (s.updCore k f).time = s.time := rfl
@[simp] theorem State.updCore_mem (s : State) (k : Nat) (f : Core → Core) : (s.updCore k f).mem = s.mem := rfl
@[simp] theorem State.updCore_written (s : State) (k : Nat) (f : Core → Core) : (s.updCore k f).written = s.written := rfl
@[simp] theorem State.updCore_zeroed (s : State) (k : Nat) (f : Core → Core) : (s.updCore k f).zeroed = s.zeroed := rfl
@[simp] theorem State.updCore_wno (s : State) (k : Nat) (f : Core → Core) : (s.updCore k f).wno = s.wno := rfl
@[simp] theorem State.updCore_indet (s : State) (k : Nat) (f : Core → Core) : (s.updCore k f).indet = s.indet := rfl
@[simp] theorem State.updCore_poison (s : State) (k : Nat) (f : Core → Core) : (s.updCore k f).poison = s.poison := rfl
@[simp] theorem State.updCore_gran (s : State) (k : Nat) (f : Core → Core) : (s.updCore k f).gran = s.gran := rfl
@[simp] theorem State.updCore_errs (s : State) (k : Nat) (f : Core → Core) : (s.updCore k f).errs = s.errs := rfl
@[simp] theorem State.updCore_quay (s : State) (k : Nat) (f : Core → Core) : (s.updCore k f).quay = s.quay := rfl
@[simp] theorem State.updCore_msc (s : State) (k : Nat) (f : Core → Core) : (s.updCore k f).msc = s.msc := rfl
@[simp] theorem State.updCore_pack (s : State) (k : Nat) (f : Core → Core) : (s.updCore k f).pack = s.pack := rfl
@[simp] theorem State.updCore_copies (s : State) (k : Nat) (f : Core → Core) : (s.updCore k f).copies = s.copies := rfl
@[simp] theorem State.updCore_tlb (s : State) (k : Nat) (f : Core → Core) : (s.updCore k f).tlb = s.tlb := rfl
@[simp] theorem State.updCore_tick (s : State) (k : Nat) (f : Core → Core) : (s.updCore k f).tick = s.tick := rfl
@[simp] theorem State.updCore_dies (s : State) (k : Nat) (f : Core → Core) : (s.updCore k f).dies = s.dies := rfl
@[simp] theorem State.updCore_clusters (s : State) (k : Nat) (f : Core → Core) : (s.updCore k f).clusters = s.clusters := rfl
@[simp] theorem State.updCore_queues (s : State) (k : Nat) (f : Core → Core) : (s.updCore k f).queues = s.queues := rfl
@[simp] theorem State.updCore_launches (s : State) (k : Nat) (f : Core → Core) : (s.updCore k f).launches = s.launches := rfl
@[simp] theorem State.updCore_gangs (s : State) (k : Nat) (f : Core → Core) : (s.updCore k f).gangs = s.gangs := rfl
@[simp] theorem State.updCore_promises (s : State) (k : Nat) (f : Core → Core) : (s.updCore k f).promises = s.promises := rfl
@[simp] theorem State.updCore_resvs (s : State) (k : Nat) (f : Core → Core) : (s.updCore k f).resvs = s.resvs := rfl
@[simp] theorem State.updCore_rr (s : State) (k : Nat) (f : Core → Core) : (s.updCore k f).rr = s.rr := rfl
@[simp] theorem State.updCore_schcfg (s : State) (k : Nat) (f : Core → Core) : (s.updCore k f).schcfg = s.schcfg := rfl
@[simp] theorem State.updCore_ebdef (s : State) (k : Nat) (f : Core → Core) : (s.updCore k f).ebdef = s.ebdef := rfl
@[simp] theorem State.updCore_asroot (s : State) (k : Nat) (f : Core → Core) : (s.updCore k f).asroot = s.asroot := rfl
@[simp] theorem State.updCore_parks (s : State) (k : Nat) (f : Core → Core) : (s.updCore k f).parks = s.parks := rfl
@[simp] theorem State.updCore_ring (s : State) (k : Nat) (f : Core → Core) : (s.updCore k f).ring = s.ring := rfl
@[simp] theorem State.updCore_trqh (s : State) (k : Nat) (f : Core → Core) : (s.updCore k f).trqh = s.trqh := rfl
@[simp] theorem State.updCore_trqt (s : State) (k : Nat) (f : Core → Core) : (s.updCore k f).trqt = s.trqt := rfl
@[simp] theorem State.updCore_fault (s : State) (k : Nat) (f : Core → Core) : (s.updCore k f).fault = s.fault := rfl
@[simp] theorem State.updCore_mgmtDie (s : State) (k : Nat) (f : Core → Core) : (s.updCore k f).mgmtDie = s.mgmtDie := rfl
@[simp] theorem State.updCore_atags (s : State) (k : Nat) (f : Core → Core) : (s.updCore k f).atags = s.atags := rfl
@[simp] theorem State.updCore_replies (s : State) (k : Nat) (f : Core → Core) : (s.updCore k f).replies = s.replies := rfl
@[simp] theorem State.updCore_lost (s : State) (k : Nat) (f : Core → Core) : (s.updCore k f).lost = s.lost := rfl
@[simp] theorem State.updCore_sent (s : State) (k : Nat) (f : Core → Core) : (s.updCore k f).sent = s.sent := rfl
@[simp] theorem State.updCore_ltab (s : State) (k : Nat) (f : Core → Core) : (s.updCore k f).ltab = s.ltab := rfl
@[simp] theorem State.updCore_ltpg (s : State) (k : Nat) (f : Core → Core) : (s.updCore k f).ltpg = s.ltpg := rfl
@[simp] theorem State.updCore_reach (s : State) (k : Nat) (f : Core → Core) : (s.updCore k f).reach = s.reach := rfl
@[simp] theorem State.updCore_lttree (s : State) (k : Nat) (f : Core → Core) : (s.updCore k f).lttree = s.lttree := rfl
@[simp] theorem State.updCore_ltevt (s : State) (k : Nat) (f : Core → Core) : (s.updCore k f).ltevt = s.ltevt := rfl
@[simp] theorem State.updCore_pgs (s : State) (k : Nat) (f : Core → Core) : (s.updCore k f).pgs = s.pgs := rfl
@[simp] theorem State.updCore_flows (s : State) (k : Nat) (f : Core → Core) : (s.updCore k f).flows = s.flows := rfl
@[simp] theorem State.updCore_outNo (s : State) (k : Nat) (f : Core → Core) : (s.updCore k f).outNo = s.outNo := rfl
@[simp] theorem State.updCore_outbox (s : State) (k : Nat) (f : Core → Core) : (s.updCore k f).outbox = s.outbox := rfl
@[simp] theorem State.updCore_groups (s : State) (k : Nat) (f : Core → Core) : (s.updCore k f).groups = s.groups := rfl
@[simp] theorem State.updCore_insts (s : State) (k : Nat) (f : Core → Core) : (s.updCore k f).insts = s.insts := rfl
@[simp] theorem State.updCore_ends (s : State) (k : Nat) (f : Core → Core) : (s.updCore k f).ends = s.ends := rfl
@[simp] theorem State.updCore_stats (s : State) (k : Nat) (f : Core → Core) : (s.updCore k f).stats = s.stats := rfl
@[simp] theorem State.updCore_funcs (s : State) (k : Nat) (f : Core → Core) : (s.updCore k f).funcs = s.funcs := rfl
@[simp] theorem State.updCore_hmb (s : State) (k : Nat) (f : Core → Core) : (s.updCore k f).hmb = s.hmb := rfl
@[simp] theorem State.updCore_smb (s : State) (k : Nat) (f : Core → Core) : (s.updCore k f).smb = s.smb := rfl
@[simp] theorem State.updCore_port1 (s : State) (k : Nat) (f : Core → Core) : (s.updCore k f).port1 = s.port1 := rfl
@[simp] theorem State.updCore_pilot (s : State) (k : Nat) (f : Core → Core) : (s.updCore k f).pilot = s.pilot := rfl
@[simp] theorem State.updCore_undock (s : State) (k : Nat) (f : Core → Core) : (s.updCore k f).undock = s.undock := rfl
@[simp] theorem State.updCore_free (s : State) (k : Nat) (f : Core → Core) : (s.updCore k f).free = s.free := rfl

/-! ### State.updCluster -/

@[simp] theorem State.updCluster_hart (s : State) (k : Nat) (f : Cluster → Cluster) : (s.updCluster k f).hart = s.hart := rfl
@[simp] theorem State.updCluster_rest (s : State) (k : Nat) (f : Cluster → Cluster) : (s.updCluster k f).rest = s.rest := rfl
@[simp] theorem State.updCluster_agenda (s : State) (k : Nat) (f : Cluster → Cluster) : (s.updCluster k f).agenda = s.agenda := rfl
@[simp] theorem State.updCluster_input (s : State) (k : Nat) (f : Cluster → Cluster) : (s.updCluster k f).input = s.input := rfl
@[simp] theorem State.updCluster_pkg (s : State) (k : Nat) (f : Cluster → Cluster) : (s.updCluster k f).pkg = s.pkg := rfl
@[simp] theorem State.updCluster_time (s : State) (k : Nat) (f : Cluster → Cluster) : (s.updCluster k f).time = s.time := rfl
@[simp] theorem State.updCluster_mem (s : State) (k : Nat) (f : Cluster → Cluster) : (s.updCluster k f).mem = s.mem := rfl
@[simp] theorem State.updCluster_written (s : State) (k : Nat) (f : Cluster → Cluster) : (s.updCluster k f).written = s.written := rfl
@[simp] theorem State.updCluster_zeroed (s : State) (k : Nat) (f : Cluster → Cluster) : (s.updCluster k f).zeroed = s.zeroed := rfl
@[simp] theorem State.updCluster_wno (s : State) (k : Nat) (f : Cluster → Cluster) : (s.updCluster k f).wno = s.wno := rfl
@[simp] theorem State.updCluster_indet (s : State) (k : Nat) (f : Cluster → Cluster) : (s.updCluster k f).indet = s.indet := rfl
@[simp] theorem State.updCluster_poison (s : State) (k : Nat) (f : Cluster → Cluster) : (s.updCluster k f).poison = s.poison := rfl
@[simp] theorem State.updCluster_gran (s : State) (k : Nat) (f : Cluster → Cluster) : (s.updCluster k f).gran = s.gran := rfl
@[simp] theorem State.updCluster_errs (s : State) (k : Nat) (f : Cluster → Cluster) : (s.updCluster k f).errs = s.errs := rfl
@[simp] theorem State.updCluster_quay (s : State) (k : Nat) (f : Cluster → Cluster) : (s.updCluster k f).quay = s.quay := rfl
@[simp] theorem State.updCluster_msc (s : State) (k : Nat) (f : Cluster → Cluster) : (s.updCluster k f).msc = s.msc := rfl
@[simp] theorem State.updCluster_pack (s : State) (k : Nat) (f : Cluster → Cluster) : (s.updCluster k f).pack = s.pack := rfl
@[simp] theorem State.updCluster_copies (s : State) (k : Nat) (f : Cluster → Cluster) : (s.updCluster k f).copies = s.copies := rfl
@[simp] theorem State.updCluster_tlb (s : State) (k : Nat) (f : Cluster → Cluster) : (s.updCluster k f).tlb = s.tlb := rfl
@[simp] theorem State.updCluster_tick (s : State) (k : Nat) (f : Cluster → Cluster) : (s.updCluster k f).tick = s.tick := rfl
@[simp] theorem State.updCluster_dies (s : State) (k : Nat) (f : Cluster → Cluster) : (s.updCluster k f).dies = s.dies := rfl
@[simp] theorem State.updCluster_cores (s : State) (k : Nat) (f : Cluster → Cluster) : (s.updCluster k f).cores = s.cores := rfl
@[simp] theorem State.updCluster_queues (s : State) (k : Nat) (f : Cluster → Cluster) : (s.updCluster k f).queues = s.queues := rfl
@[simp] theorem State.updCluster_launches (s : State) (k : Nat) (f : Cluster → Cluster) : (s.updCluster k f).launches = s.launches := rfl
@[simp] theorem State.updCluster_gangs (s : State) (k : Nat) (f : Cluster → Cluster) : (s.updCluster k f).gangs = s.gangs := rfl
@[simp] theorem State.updCluster_promises (s : State) (k : Nat) (f : Cluster → Cluster) : (s.updCluster k f).promises = s.promises := rfl
@[simp] theorem State.updCluster_resvs (s : State) (k : Nat) (f : Cluster → Cluster) : (s.updCluster k f).resvs = s.resvs := rfl
@[simp] theorem State.updCluster_rr (s : State) (k : Nat) (f : Cluster → Cluster) : (s.updCluster k f).rr = s.rr := rfl
@[simp] theorem State.updCluster_schcfg (s : State) (k : Nat) (f : Cluster → Cluster) : (s.updCluster k f).schcfg = s.schcfg := rfl
@[simp] theorem State.updCluster_ebdef (s : State) (k : Nat) (f : Cluster → Cluster) : (s.updCluster k f).ebdef = s.ebdef := rfl
@[simp] theorem State.updCluster_asroot (s : State) (k : Nat) (f : Cluster → Cluster) : (s.updCluster k f).asroot = s.asroot := rfl
@[simp] theorem State.updCluster_parks (s : State) (k : Nat) (f : Cluster → Cluster) : (s.updCluster k f).parks = s.parks := rfl
@[simp] theorem State.updCluster_ring (s : State) (k : Nat) (f : Cluster → Cluster) : (s.updCluster k f).ring = s.ring := rfl
@[simp] theorem State.updCluster_trqh (s : State) (k : Nat) (f : Cluster → Cluster) : (s.updCluster k f).trqh = s.trqh := rfl
@[simp] theorem State.updCluster_trqt (s : State) (k : Nat) (f : Cluster → Cluster) : (s.updCluster k f).trqt = s.trqt := rfl
@[simp] theorem State.updCluster_fault (s : State) (k : Nat) (f : Cluster → Cluster) : (s.updCluster k f).fault = s.fault := rfl
@[simp] theorem State.updCluster_mgmtDie (s : State) (k : Nat) (f : Cluster → Cluster) : (s.updCluster k f).mgmtDie = s.mgmtDie := rfl
@[simp] theorem State.updCluster_atags (s : State) (k : Nat) (f : Cluster → Cluster) : (s.updCluster k f).atags = s.atags := rfl
@[simp] theorem State.updCluster_replies (s : State) (k : Nat) (f : Cluster → Cluster) : (s.updCluster k f).replies = s.replies := rfl
@[simp] theorem State.updCluster_lost (s : State) (k : Nat) (f : Cluster → Cluster) : (s.updCluster k f).lost = s.lost := rfl
@[simp] theorem State.updCluster_sent (s : State) (k : Nat) (f : Cluster → Cluster) : (s.updCluster k f).sent = s.sent := rfl
@[simp] theorem State.updCluster_ltab (s : State) (k : Nat) (f : Cluster → Cluster) : (s.updCluster k f).ltab = s.ltab := rfl
@[simp] theorem State.updCluster_ltpg (s : State) (k : Nat) (f : Cluster → Cluster) : (s.updCluster k f).ltpg = s.ltpg := rfl
@[simp] theorem State.updCluster_reach (s : State) (k : Nat) (f : Cluster → Cluster) : (s.updCluster k f).reach = s.reach := rfl
@[simp] theorem State.updCluster_lttree (s : State) (k : Nat) (f : Cluster → Cluster) : (s.updCluster k f).lttree = s.lttree := rfl
@[simp] theorem State.updCluster_ltevt (s : State) (k : Nat) (f : Cluster → Cluster) : (s.updCluster k f).ltevt = s.ltevt := rfl
@[simp] theorem State.updCluster_pgs (s : State) (k : Nat) (f : Cluster → Cluster) : (s.updCluster k f).pgs = s.pgs := rfl
@[simp] theorem State.updCluster_flows (s : State) (k : Nat) (f : Cluster → Cluster) : (s.updCluster k f).flows = s.flows := rfl
@[simp] theorem State.updCluster_outNo (s : State) (k : Nat) (f : Cluster → Cluster) : (s.updCluster k f).outNo = s.outNo := rfl
@[simp] theorem State.updCluster_outbox (s : State) (k : Nat) (f : Cluster → Cluster) : (s.updCluster k f).outbox = s.outbox := rfl
@[simp] theorem State.updCluster_groups (s : State) (k : Nat) (f : Cluster → Cluster) : (s.updCluster k f).groups = s.groups := rfl
@[simp] theorem State.updCluster_insts (s : State) (k : Nat) (f : Cluster → Cluster) : (s.updCluster k f).insts = s.insts := rfl
@[simp] theorem State.updCluster_ends (s : State) (k : Nat) (f : Cluster → Cluster) : (s.updCluster k f).ends = s.ends := rfl
@[simp] theorem State.updCluster_stats (s : State) (k : Nat) (f : Cluster → Cluster) : (s.updCluster k f).stats = s.stats := rfl
@[simp] theorem State.updCluster_funcs (s : State) (k : Nat) (f : Cluster → Cluster) : (s.updCluster k f).funcs = s.funcs := rfl
@[simp] theorem State.updCluster_hmb (s : State) (k : Nat) (f : Cluster → Cluster) : (s.updCluster k f).hmb = s.hmb := rfl
@[simp] theorem State.updCluster_smb (s : State) (k : Nat) (f : Cluster → Cluster) : (s.updCluster k f).smb = s.smb := rfl
@[simp] theorem State.updCluster_port1 (s : State) (k : Nat) (f : Cluster → Cluster) : (s.updCluster k f).port1 = s.port1 := rfl
@[simp] theorem State.updCluster_pilot (s : State) (k : Nat) (f : Cluster → Cluster) : (s.updCluster k f).pilot = s.pilot := rfl
@[simp] theorem State.updCluster_undock (s : State) (k : Nat) (f : Cluster → Cluster) : (s.updCluster k f).undock = s.undock := rfl
@[simp] theorem State.updCluster_free (s : State) (k : Nat) (f : Cluster → Cluster) : (s.updCluster k f).free = s.free := rfl

/-! ### State.updLaunch -/

@[simp] theorem State.updLaunch_hart (s : State) (l : LaunchId) (f : Launch → Launch) : (s.updLaunch l f).hart = s.hart := rfl
@[simp] theorem State.updLaunch_rest (s : State) (l : LaunchId) (f : Launch → Launch) : (s.updLaunch l f).rest = s.rest := rfl
@[simp] theorem State.updLaunch_agenda (s : State) (l : LaunchId) (f : Launch → Launch) : (s.updLaunch l f).agenda = s.agenda := rfl
@[simp] theorem State.updLaunch_input (s : State) (l : LaunchId) (f : Launch → Launch) : (s.updLaunch l f).input = s.input := rfl
@[simp] theorem State.updLaunch_pkg (s : State) (l : LaunchId) (f : Launch → Launch) : (s.updLaunch l f).pkg = s.pkg := rfl
@[simp] theorem State.updLaunch_time (s : State) (l : LaunchId) (f : Launch → Launch) : (s.updLaunch l f).time = s.time := rfl
@[simp] theorem State.updLaunch_mem (s : State) (l : LaunchId) (f : Launch → Launch) : (s.updLaunch l f).mem = s.mem := rfl
@[simp] theorem State.updLaunch_written (s : State) (l : LaunchId) (f : Launch → Launch) : (s.updLaunch l f).written = s.written := rfl
@[simp] theorem State.updLaunch_zeroed (s : State) (l : LaunchId) (f : Launch → Launch) : (s.updLaunch l f).zeroed = s.zeroed := rfl
@[simp] theorem State.updLaunch_wno (s : State) (l : LaunchId) (f : Launch → Launch) : (s.updLaunch l f).wno = s.wno := rfl
@[simp] theorem State.updLaunch_indet (s : State) (l : LaunchId) (f : Launch → Launch) : (s.updLaunch l f).indet = s.indet := rfl
@[simp] theorem State.updLaunch_poison (s : State) (l : LaunchId) (f : Launch → Launch) : (s.updLaunch l f).poison = s.poison := rfl
@[simp] theorem State.updLaunch_gran (s : State) (l : LaunchId) (f : Launch → Launch) : (s.updLaunch l f).gran = s.gran := rfl
@[simp] theorem State.updLaunch_errs (s : State) (l : LaunchId) (f : Launch → Launch) : (s.updLaunch l f).errs = s.errs := rfl
@[simp] theorem State.updLaunch_quay (s : State) (l : LaunchId) (f : Launch → Launch) : (s.updLaunch l f).quay = s.quay := rfl
@[simp] theorem State.updLaunch_msc (s : State) (l : LaunchId) (f : Launch → Launch) : (s.updLaunch l f).msc = s.msc := rfl
@[simp] theorem State.updLaunch_pack (s : State) (l : LaunchId) (f : Launch → Launch) : (s.updLaunch l f).pack = s.pack := rfl
@[simp] theorem State.updLaunch_copies (s : State) (l : LaunchId) (f : Launch → Launch) : (s.updLaunch l f).copies = s.copies := rfl
@[simp] theorem State.updLaunch_tlb (s : State) (l : LaunchId) (f : Launch → Launch) : (s.updLaunch l f).tlb = s.tlb := rfl
@[simp] theorem State.updLaunch_tick (s : State) (l : LaunchId) (f : Launch → Launch) : (s.updLaunch l f).tick = s.tick := rfl
@[simp] theorem State.updLaunch_dies (s : State) (l : LaunchId) (f : Launch → Launch) : (s.updLaunch l f).dies = s.dies := rfl
@[simp] theorem State.updLaunch_clusters (s : State) (l : LaunchId) (f : Launch → Launch) : (s.updLaunch l f).clusters = s.clusters := rfl
@[simp] theorem State.updLaunch_cores (s : State) (l : LaunchId) (f : Launch → Launch) : (s.updLaunch l f).cores = s.cores := rfl
@[simp] theorem State.updLaunch_queues (s : State) (l : LaunchId) (f : Launch → Launch) : (s.updLaunch l f).queues = s.queues := rfl
@[simp] theorem State.updLaunch_gangs (s : State) (l : LaunchId) (f : Launch → Launch) : (s.updLaunch l f).gangs = s.gangs := rfl
@[simp] theorem State.updLaunch_promises (s : State) (l : LaunchId) (f : Launch → Launch) : (s.updLaunch l f).promises = s.promises := rfl
@[simp] theorem State.updLaunch_resvs (s : State) (l : LaunchId) (f : Launch → Launch) : (s.updLaunch l f).resvs = s.resvs := rfl
@[simp] theorem State.updLaunch_rr (s : State) (l : LaunchId) (f : Launch → Launch) : (s.updLaunch l f).rr = s.rr := rfl
@[simp] theorem State.updLaunch_schcfg (s : State) (l : LaunchId) (f : Launch → Launch) : (s.updLaunch l f).schcfg = s.schcfg := rfl
@[simp] theorem State.updLaunch_ebdef (s : State) (l : LaunchId) (f : Launch → Launch) : (s.updLaunch l f).ebdef = s.ebdef := rfl
@[simp] theorem State.updLaunch_asroot (s : State) (l : LaunchId) (f : Launch → Launch) : (s.updLaunch l f).asroot = s.asroot := rfl
@[simp] theorem State.updLaunch_parks (s : State) (l : LaunchId) (f : Launch → Launch) : (s.updLaunch l f).parks = s.parks := rfl
@[simp] theorem State.updLaunch_ring (s : State) (l : LaunchId) (f : Launch → Launch) : (s.updLaunch l f).ring = s.ring := rfl
@[simp] theorem State.updLaunch_trqh (s : State) (l : LaunchId) (f : Launch → Launch) : (s.updLaunch l f).trqh = s.trqh := rfl
@[simp] theorem State.updLaunch_trqt (s : State) (l : LaunchId) (f : Launch → Launch) : (s.updLaunch l f).trqt = s.trqt := rfl
@[simp] theorem State.updLaunch_fault (s : State) (l : LaunchId) (f : Launch → Launch) : (s.updLaunch l f).fault = s.fault := rfl
@[simp] theorem State.updLaunch_mgmtDie (s : State) (l : LaunchId) (f : Launch → Launch) : (s.updLaunch l f).mgmtDie = s.mgmtDie := rfl
@[simp] theorem State.updLaunch_atags (s : State) (l : LaunchId) (f : Launch → Launch) : (s.updLaunch l f).atags = s.atags := rfl
@[simp] theorem State.updLaunch_replies (s : State) (l : LaunchId) (f : Launch → Launch) : (s.updLaunch l f).replies = s.replies := rfl
@[simp] theorem State.updLaunch_lost (s : State) (l : LaunchId) (f : Launch → Launch) : (s.updLaunch l f).lost = s.lost := rfl
@[simp] theorem State.updLaunch_sent (s : State) (l : LaunchId) (f : Launch → Launch) : (s.updLaunch l f).sent = s.sent := rfl
@[simp] theorem State.updLaunch_ltab (s : State) (l : LaunchId) (f : Launch → Launch) : (s.updLaunch l f).ltab = s.ltab := rfl
@[simp] theorem State.updLaunch_ltpg (s : State) (l : LaunchId) (f : Launch → Launch) : (s.updLaunch l f).ltpg = s.ltpg := rfl
@[simp] theorem State.updLaunch_reach (s : State) (l : LaunchId) (f : Launch → Launch) : (s.updLaunch l f).reach = s.reach := rfl
@[simp] theorem State.updLaunch_lttree (s : State) (l : LaunchId) (f : Launch → Launch) : (s.updLaunch l f).lttree = s.lttree := rfl
@[simp] theorem State.updLaunch_ltevt (s : State) (l : LaunchId) (f : Launch → Launch) : (s.updLaunch l f).ltevt = s.ltevt := rfl
@[simp] theorem State.updLaunch_pgs (s : State) (l : LaunchId) (f : Launch → Launch) : (s.updLaunch l f).pgs = s.pgs := rfl
@[simp] theorem State.updLaunch_flows (s : State) (l : LaunchId) (f : Launch → Launch) : (s.updLaunch l f).flows = s.flows := rfl
@[simp] theorem State.updLaunch_outNo (s : State) (l : LaunchId) (f : Launch → Launch) : (s.updLaunch l f).outNo = s.outNo := rfl
@[simp] theorem State.updLaunch_outbox (s : State) (l : LaunchId) (f : Launch → Launch) : (s.updLaunch l f).outbox = s.outbox := rfl
@[simp] theorem State.updLaunch_groups (s : State) (l : LaunchId) (f : Launch → Launch) : (s.updLaunch l f).groups = s.groups := rfl
@[simp] theorem State.updLaunch_insts (s : State) (l : LaunchId) (f : Launch → Launch) : (s.updLaunch l f).insts = s.insts := rfl
@[simp] theorem State.updLaunch_ends (s : State) (l : LaunchId) (f : Launch → Launch) : (s.updLaunch l f).ends = s.ends := rfl
@[simp] theorem State.updLaunch_stats (s : State) (l : LaunchId) (f : Launch → Launch) : (s.updLaunch l f).stats = s.stats := rfl
@[simp] theorem State.updLaunch_funcs (s : State) (l : LaunchId) (f : Launch → Launch) : (s.updLaunch l f).funcs = s.funcs := rfl
@[simp] theorem State.updLaunch_hmb (s : State) (l : LaunchId) (f : Launch → Launch) : (s.updLaunch l f).hmb = s.hmb := rfl
@[simp] theorem State.updLaunch_smb (s : State) (l : LaunchId) (f : Launch → Launch) : (s.updLaunch l f).smb = s.smb := rfl
@[simp] theorem State.updLaunch_port1 (s : State) (l : LaunchId) (f : Launch → Launch) : (s.updLaunch l f).port1 = s.port1 := rfl
@[simp] theorem State.updLaunch_pilot (s : State) (l : LaunchId) (f : Launch → Launch) : (s.updLaunch l f).pilot = s.pilot := rfl
@[simp] theorem State.updLaunch_undock (s : State) (l : LaunchId) (f : Launch → Launch) : (s.updLaunch l f).undock = s.undock := rfl
@[simp] theorem State.updLaunch_free (s : State) (l : LaunchId) (f : Launch → Launch) : (s.updLaunch l f).free = s.free := rfl

/-! ### State.updGangs -/

@[simp] theorem State.updGangs_hart (s : State) (c : Gang → Bool) (f : Gang → Gang) : (s.updGangs c f).hart = s.hart := rfl
@[simp] theorem State.updGangs_rest (s : State) (c : Gang → Bool) (f : Gang → Gang) : (s.updGangs c f).rest = s.rest := rfl
@[simp] theorem State.updGangs_agenda (s : State) (c : Gang → Bool) (f : Gang → Gang) : (s.updGangs c f).agenda = s.agenda := rfl
@[simp] theorem State.updGangs_input (s : State) (c : Gang → Bool) (f : Gang → Gang) : (s.updGangs c f).input = s.input := rfl
@[simp] theorem State.updGangs_pkg (s : State) (c : Gang → Bool) (f : Gang → Gang) : (s.updGangs c f).pkg = s.pkg := rfl
@[simp] theorem State.updGangs_time (s : State) (c : Gang → Bool) (f : Gang → Gang) : (s.updGangs c f).time = s.time := rfl
@[simp] theorem State.updGangs_mem (s : State) (c : Gang → Bool) (f : Gang → Gang) : (s.updGangs c f).mem = s.mem := rfl
@[simp] theorem State.updGangs_written (s : State) (c : Gang → Bool) (f : Gang → Gang) : (s.updGangs c f).written = s.written := rfl
@[simp] theorem State.updGangs_zeroed (s : State) (c : Gang → Bool) (f : Gang → Gang) : (s.updGangs c f).zeroed = s.zeroed := rfl
@[simp] theorem State.updGangs_wno (s : State) (c : Gang → Bool) (f : Gang → Gang) : (s.updGangs c f).wno = s.wno := rfl
@[simp] theorem State.updGangs_indet (s : State) (c : Gang → Bool) (f : Gang → Gang) : (s.updGangs c f).indet = s.indet := rfl
@[simp] theorem State.updGangs_poison (s : State) (c : Gang → Bool) (f : Gang → Gang) : (s.updGangs c f).poison = s.poison := rfl
@[simp] theorem State.updGangs_gran (s : State) (c : Gang → Bool) (f : Gang → Gang) : (s.updGangs c f).gran = s.gran := rfl
@[simp] theorem State.updGangs_errs (s : State) (c : Gang → Bool) (f : Gang → Gang) : (s.updGangs c f).errs = s.errs := rfl
@[simp] theorem State.updGangs_quay (s : State) (c : Gang → Bool) (f : Gang → Gang) : (s.updGangs c f).quay = s.quay := rfl
@[simp] theorem State.updGangs_msc (s : State) (c : Gang → Bool) (f : Gang → Gang) : (s.updGangs c f).msc = s.msc := rfl
@[simp] theorem State.updGangs_pack (s : State) (c : Gang → Bool) (f : Gang → Gang) : (s.updGangs c f).pack = s.pack := rfl
@[simp] theorem State.updGangs_copies (s : State) (c : Gang → Bool) (f : Gang → Gang) : (s.updGangs c f).copies = s.copies := rfl
@[simp] theorem State.updGangs_tlb (s : State) (c : Gang → Bool) (f : Gang → Gang) : (s.updGangs c f).tlb = s.tlb := rfl
@[simp] theorem State.updGangs_tick (s : State) (c : Gang → Bool) (f : Gang → Gang) : (s.updGangs c f).tick = s.tick := rfl
@[simp] theorem State.updGangs_dies (s : State) (c : Gang → Bool) (f : Gang → Gang) : (s.updGangs c f).dies = s.dies := rfl
@[simp] theorem State.updGangs_clusters (s : State) (c : Gang → Bool) (f : Gang → Gang) : (s.updGangs c f).clusters = s.clusters := rfl
@[simp] theorem State.updGangs_cores (s : State) (c : Gang → Bool) (f : Gang → Gang) : (s.updGangs c f).cores = s.cores := rfl
@[simp] theorem State.updGangs_queues (s : State) (c : Gang → Bool) (f : Gang → Gang) : (s.updGangs c f).queues = s.queues := rfl
@[simp] theorem State.updGangs_launches (s : State) (c : Gang → Bool) (f : Gang → Gang) : (s.updGangs c f).launches = s.launches := rfl
@[simp] theorem State.updGangs_promises (s : State) (c : Gang → Bool) (f : Gang → Gang) : (s.updGangs c f).promises = s.promises := rfl
@[simp] theorem State.updGangs_resvs (s : State) (c : Gang → Bool) (f : Gang → Gang) : (s.updGangs c f).resvs = s.resvs := rfl
@[simp] theorem State.updGangs_rr (s : State) (c : Gang → Bool) (f : Gang → Gang) : (s.updGangs c f).rr = s.rr := rfl
@[simp] theorem State.updGangs_schcfg (s : State) (c : Gang → Bool) (f : Gang → Gang) : (s.updGangs c f).schcfg = s.schcfg := rfl
@[simp] theorem State.updGangs_ebdef (s : State) (c : Gang → Bool) (f : Gang → Gang) : (s.updGangs c f).ebdef = s.ebdef := rfl
@[simp] theorem State.updGangs_asroot (s : State) (c : Gang → Bool) (f : Gang → Gang) : (s.updGangs c f).asroot = s.asroot := rfl
@[simp] theorem State.updGangs_parks (s : State) (c : Gang → Bool) (f : Gang → Gang) : (s.updGangs c f).parks = s.parks := rfl
@[simp] theorem State.updGangs_ring (s : State) (c : Gang → Bool) (f : Gang → Gang) : (s.updGangs c f).ring = s.ring := rfl
@[simp] theorem State.updGangs_trqh (s : State) (c : Gang → Bool) (f : Gang → Gang) : (s.updGangs c f).trqh = s.trqh := rfl
@[simp] theorem State.updGangs_trqt (s : State) (c : Gang → Bool) (f : Gang → Gang) : (s.updGangs c f).trqt = s.trqt := rfl
@[simp] theorem State.updGangs_fault (s : State) (c : Gang → Bool) (f : Gang → Gang) : (s.updGangs c f).fault = s.fault := rfl
@[simp] theorem State.updGangs_mgmtDie (s : State) (c : Gang → Bool) (f : Gang → Gang) : (s.updGangs c f).mgmtDie = s.mgmtDie := rfl
@[simp] theorem State.updGangs_atags (s : State) (c : Gang → Bool) (f : Gang → Gang) : (s.updGangs c f).atags = s.atags := rfl
@[simp] theorem State.updGangs_replies (s : State) (c : Gang → Bool) (f : Gang → Gang) : (s.updGangs c f).replies = s.replies := rfl
@[simp] theorem State.updGangs_lost (s : State) (c : Gang → Bool) (f : Gang → Gang) : (s.updGangs c f).lost = s.lost := rfl
@[simp] theorem State.updGangs_sent (s : State) (c : Gang → Bool) (f : Gang → Gang) : (s.updGangs c f).sent = s.sent := rfl
@[simp] theorem State.updGangs_ltab (s : State) (c : Gang → Bool) (f : Gang → Gang) : (s.updGangs c f).ltab = s.ltab := rfl
@[simp] theorem State.updGangs_ltpg (s : State) (c : Gang → Bool) (f : Gang → Gang) : (s.updGangs c f).ltpg = s.ltpg := rfl
@[simp] theorem State.updGangs_reach (s : State) (c : Gang → Bool) (f : Gang → Gang) : (s.updGangs c f).reach = s.reach := rfl
@[simp] theorem State.updGangs_lttree (s : State) (c : Gang → Bool) (f : Gang → Gang) : (s.updGangs c f).lttree = s.lttree := rfl
@[simp] theorem State.updGangs_ltevt (s : State) (c : Gang → Bool) (f : Gang → Gang) : (s.updGangs c f).ltevt = s.ltevt := rfl
@[simp] theorem State.updGangs_pgs (s : State) (c : Gang → Bool) (f : Gang → Gang) : (s.updGangs c f).pgs = s.pgs := rfl
@[simp] theorem State.updGangs_flows (s : State) (c : Gang → Bool) (f : Gang → Gang) : (s.updGangs c f).flows = s.flows := rfl
@[simp] theorem State.updGangs_outNo (s : State) (c : Gang → Bool) (f : Gang → Gang) : (s.updGangs c f).outNo = s.outNo := rfl
@[simp] theorem State.updGangs_outbox (s : State) (c : Gang → Bool) (f : Gang → Gang) : (s.updGangs c f).outbox = s.outbox := rfl
@[simp] theorem State.updGangs_groups (s : State) (c : Gang → Bool) (f : Gang → Gang) : (s.updGangs c f).groups = s.groups := rfl
@[simp] theorem State.updGangs_insts (s : State) (c : Gang → Bool) (f : Gang → Gang) : (s.updGangs c f).insts = s.insts := rfl
@[simp] theorem State.updGangs_ends (s : State) (c : Gang → Bool) (f : Gang → Gang) : (s.updGangs c f).ends = s.ends := rfl
@[simp] theorem State.updGangs_stats (s : State) (c : Gang → Bool) (f : Gang → Gang) : (s.updGangs c f).stats = s.stats := rfl
@[simp] theorem State.updGangs_funcs (s : State) (c : Gang → Bool) (f : Gang → Gang) : (s.updGangs c f).funcs = s.funcs := rfl
@[simp] theorem State.updGangs_hmb (s : State) (c : Gang → Bool) (f : Gang → Gang) : (s.updGangs c f).hmb = s.hmb := rfl
@[simp] theorem State.updGangs_smb (s : State) (c : Gang → Bool) (f : Gang → Gang) : (s.updGangs c f).smb = s.smb := rfl
@[simp] theorem State.updGangs_port1 (s : State) (c : Gang → Bool) (f : Gang → Gang) : (s.updGangs c f).port1 = s.port1 := rfl
@[simp] theorem State.updGangs_pilot (s : State) (c : Gang → Bool) (f : Gang → Gang) : (s.updGangs c f).pilot = s.pilot := rfl
@[simp] theorem State.updGangs_undock (s : State) (c : Gang → Bool) (f : Gang → Gang) : (s.updGangs c f).undock = s.undock := rfl
@[simp] theorem State.updGangs_free (s : State) (c : Gang → Bool) (f : Gang → Gang) : (s.updGangs c f).free = s.free := rfl

/-! ### State.putByte -/

@[simp] theorem State.putByte_hart (s : State) (a : Nat) (v : Byte) : (s.putByte a v).hart = s.hart := rfl
@[simp] theorem State.putByte_rest (s : State) (a : Nat) (v : Byte) : (s.putByte a v).rest = s.rest := rfl
@[simp] theorem State.putByte_agenda (s : State) (a : Nat) (v : Byte) : (s.putByte a v).agenda = s.agenda := rfl
@[simp] theorem State.putByte_input (s : State) (a : Nat) (v : Byte) : (s.putByte a v).input = s.input := rfl
@[simp] theorem State.putByte_pkg (s : State) (a : Nat) (v : Byte) : (s.putByte a v).pkg = s.pkg := rfl
@[simp] theorem State.putByte_time (s : State) (a : Nat) (v : Byte) : (s.putByte a v).time = s.time := rfl
@[simp] theorem State.putByte_zeroed (s : State) (a : Nat) (v : Byte) : (s.putByte a v).zeroed = s.zeroed := rfl
@[simp] theorem State.putByte_indet (s : State) (a : Nat) (v : Byte) : (s.putByte a v).indet = s.indet := rfl
@[simp] theorem State.putByte_poison (s : State) (a : Nat) (v : Byte) : (s.putByte a v).poison = s.poison := rfl
@[simp] theorem State.putByte_gran (s : State) (a : Nat) (v : Byte) : (s.putByte a v).gran = s.gran := rfl
@[simp] theorem State.putByte_errs (s : State) (a : Nat) (v : Byte) : (s.putByte a v).errs = s.errs := rfl
@[simp] theorem State.putByte_quay (s : State) (a : Nat) (v : Byte) : (s.putByte a v).quay = s.quay := rfl
@[simp] theorem State.putByte_msc (s : State) (a : Nat) (v : Byte) : (s.putByte a v).msc = s.msc := rfl
@[simp] theorem State.putByte_pack (s : State) (a : Nat) (v : Byte) : (s.putByte a v).pack = s.pack := rfl
@[simp] theorem State.putByte_copies (s : State) (a : Nat) (v : Byte) : (s.putByte a v).copies = s.copies := rfl
@[simp] theorem State.putByte_tlb (s : State) (a : Nat) (v : Byte) : (s.putByte a v).tlb = s.tlb := rfl
@[simp] theorem State.putByte_tick (s : State) (a : Nat) (v : Byte) : (s.putByte a v).tick = s.tick := rfl
@[simp] theorem State.putByte_dies (s : State) (a : Nat) (v : Byte) : (s.putByte a v).dies = s.dies := rfl
@[simp] theorem State.putByte_clusters (s : State) (a : Nat) (v : Byte) : (s.putByte a v).clusters = s.clusters := rfl
@[simp] theorem State.putByte_cores (s : State) (a : Nat) (v : Byte) : (s.putByte a v).cores = s.cores := rfl
@[simp] theorem State.putByte_queues (s : State) (a : Nat) (v : Byte) : (s.putByte a v).queues = s.queues := rfl
@[simp] theorem State.putByte_launches (s : State) (a : Nat) (v : Byte) : (s.putByte a v).launches = s.launches := rfl
@[simp] theorem State.putByte_gangs (s : State) (a : Nat) (v : Byte) : (s.putByte a v).gangs = s.gangs := rfl
@[simp] theorem State.putByte_promises (s : State) (a : Nat) (v : Byte) : (s.putByte a v).promises = s.promises := rfl
@[simp] theorem State.putByte_resvs (s : State) (a : Nat) (v : Byte) : (s.putByte a v).resvs = s.resvs := rfl
@[simp] theorem State.putByte_rr (s : State) (a : Nat) (v : Byte) : (s.putByte a v).rr = s.rr := rfl
@[simp] theorem State.putByte_schcfg (s : State) (a : Nat) (v : Byte) : (s.putByte a v).schcfg = s.schcfg := rfl
@[simp] theorem State.putByte_ebdef (s : State) (a : Nat) (v : Byte) : (s.putByte a v).ebdef = s.ebdef := rfl
@[simp] theorem State.putByte_asroot (s : State) (a : Nat) (v : Byte) : (s.putByte a v).asroot = s.asroot := rfl
@[simp] theorem State.putByte_parks (s : State) (a : Nat) (v : Byte) : (s.putByte a v).parks = s.parks := rfl
@[simp] theorem State.putByte_ring (s : State) (a : Nat) (v : Byte) : (s.putByte a v).ring = s.ring := rfl
@[simp] theorem State.putByte_trqh (s : State) (a : Nat) (v : Byte) : (s.putByte a v).trqh = s.trqh := rfl
@[simp] theorem State.putByte_trqt (s : State) (a : Nat) (v : Byte) : (s.putByte a v).trqt = s.trqt := rfl
@[simp] theorem State.putByte_fault (s : State) (a : Nat) (v : Byte) : (s.putByte a v).fault = s.fault := rfl
@[simp] theorem State.putByte_mgmtDie (s : State) (a : Nat) (v : Byte) : (s.putByte a v).mgmtDie = s.mgmtDie := rfl
@[simp] theorem State.putByte_atags (s : State) (a : Nat) (v : Byte) : (s.putByte a v).atags = s.atags := rfl
@[simp] theorem State.putByte_replies (s : State) (a : Nat) (v : Byte) : (s.putByte a v).replies = s.replies := rfl
@[simp] theorem State.putByte_lost (s : State) (a : Nat) (v : Byte) : (s.putByte a v).lost = s.lost := rfl
@[simp] theorem State.putByte_sent (s : State) (a : Nat) (v : Byte) : (s.putByte a v).sent = s.sent := rfl
@[simp] theorem State.putByte_ltab (s : State) (a : Nat) (v : Byte) : (s.putByte a v).ltab = s.ltab := rfl
@[simp] theorem State.putByte_ltpg (s : State) (a : Nat) (v : Byte) : (s.putByte a v).ltpg = s.ltpg := rfl
@[simp] theorem State.putByte_reach (s : State) (a : Nat) (v : Byte) : (s.putByte a v).reach = s.reach := rfl
@[simp] theorem State.putByte_lttree (s : State) (a : Nat) (v : Byte) : (s.putByte a v).lttree = s.lttree := rfl
@[simp] theorem State.putByte_ltevt (s : State) (a : Nat) (v : Byte) : (s.putByte a v).ltevt = s.ltevt := rfl
@[simp] theorem State.putByte_pgs (s : State) (a : Nat) (v : Byte) : (s.putByte a v).pgs = s.pgs := rfl
@[simp] theorem State.putByte_flows (s : State) (a : Nat) (v : Byte) : (s.putByte a v).flows = s.flows := rfl
@[simp] theorem State.putByte_outNo (s : State) (a : Nat) (v : Byte) : (s.putByte a v).outNo = s.outNo := rfl
@[simp] theorem State.putByte_outbox (s : State) (a : Nat) (v : Byte) : (s.putByte a v).outbox = s.outbox := rfl
@[simp] theorem State.putByte_groups (s : State) (a : Nat) (v : Byte) : (s.putByte a v).groups = s.groups := rfl
@[simp] theorem State.putByte_insts (s : State) (a : Nat) (v : Byte) : (s.putByte a v).insts = s.insts := rfl
@[simp] theorem State.putByte_ends (s : State) (a : Nat) (v : Byte) : (s.putByte a v).ends = s.ends := rfl
@[simp] theorem State.putByte_stats (s : State) (a : Nat) (v : Byte) : (s.putByte a v).stats = s.stats := rfl
@[simp] theorem State.putByte_funcs (s : State) (a : Nat) (v : Byte) : (s.putByte a v).funcs = s.funcs := rfl
@[simp] theorem State.putByte_hmb (s : State) (a : Nat) (v : Byte) : (s.putByte a v).hmb = s.hmb := rfl
@[simp] theorem State.putByte_smb (s : State) (a : Nat) (v : Byte) : (s.putByte a v).smb = s.smb := rfl
@[simp] theorem State.putByte_port1 (s : State) (a : Nat) (v : Byte) : (s.putByte a v).port1 = s.port1 := rfl
@[simp] theorem State.putByte_pilot (s : State) (a : Nat) (v : Byte) : (s.putByte a v).pilot = s.pilot := rfl
@[simp] theorem State.putByte_undock (s : State) (a : Nat) (v : Byte) : (s.putByte a v).undock = s.undock := rfl
@[simp] theorem State.putByte_free (s : State) (a : Nat) (v : Byte) : (s.putByte a v).free = s.free := rfl

/-! ### State.zeroRange -/

@[simp] theorem State.zeroRange_hart (s : State) (lo hi : Nat) : (s.zeroRange lo hi).hart = s.hart := rfl
@[simp] theorem State.zeroRange_rest (s : State) (lo hi : Nat) : (s.zeroRange lo hi).rest = s.rest := rfl
@[simp] theorem State.zeroRange_agenda (s : State) (lo hi : Nat) : (s.zeroRange lo hi).agenda = s.agenda := rfl
@[simp] theorem State.zeroRange_input (s : State) (lo hi : Nat) : (s.zeroRange lo hi).input = s.input := rfl
@[simp] theorem State.zeroRange_pkg (s : State) (lo hi : Nat) : (s.zeroRange lo hi).pkg = s.pkg := rfl
@[simp] theorem State.zeroRange_time (s : State) (lo hi : Nat) : (s.zeroRange lo hi).time = s.time := rfl
@[simp] theorem State.zeroRange_wno (s : State) (lo hi : Nat) : (s.zeroRange lo hi).wno = s.wno := rfl
@[simp] theorem State.zeroRange_gran (s : State) (lo hi : Nat) : (s.zeroRange lo hi).gran = s.gran := rfl
@[simp] theorem State.zeroRange_errs (s : State) (lo hi : Nat) : (s.zeroRange lo hi).errs = s.errs := rfl
@[simp] theorem State.zeroRange_quay (s : State) (lo hi : Nat) : (s.zeroRange lo hi).quay = s.quay := rfl
@[simp] theorem State.zeroRange_msc (s : State) (lo hi : Nat) : (s.zeroRange lo hi).msc = s.msc := rfl
@[simp] theorem State.zeroRange_pack (s : State) (lo hi : Nat) : (s.zeroRange lo hi).pack = s.pack := rfl
@[simp] theorem State.zeroRange_copies (s : State) (lo hi : Nat) : (s.zeroRange lo hi).copies = s.copies := rfl
@[simp] theorem State.zeroRange_tlb (s : State) (lo hi : Nat) : (s.zeroRange lo hi).tlb = s.tlb := rfl
@[simp] theorem State.zeroRange_tick (s : State) (lo hi : Nat) : (s.zeroRange lo hi).tick = s.tick := rfl
@[simp] theorem State.zeroRange_dies (s : State) (lo hi : Nat) : (s.zeroRange lo hi).dies = s.dies := rfl
@[simp] theorem State.zeroRange_clusters (s : State) (lo hi : Nat) : (s.zeroRange lo hi).clusters = s.clusters := rfl
@[simp] theorem State.zeroRange_cores (s : State) (lo hi : Nat) : (s.zeroRange lo hi).cores = s.cores := rfl
@[simp] theorem State.zeroRange_queues (s : State) (lo hi : Nat) : (s.zeroRange lo hi).queues = s.queues := rfl
@[simp] theorem State.zeroRange_launches (s : State) (lo hi : Nat) : (s.zeroRange lo hi).launches = s.launches := rfl
@[simp] theorem State.zeroRange_gangs (s : State) (lo hi : Nat) : (s.zeroRange lo hi).gangs = s.gangs := rfl
@[simp] theorem State.zeroRange_promises (s : State) (lo hi : Nat) : (s.zeroRange lo hi).promises = s.promises := rfl
@[simp] theorem State.zeroRange_resvs (s : State) (lo hi : Nat) : (s.zeroRange lo hi).resvs = s.resvs := rfl
@[simp] theorem State.zeroRange_rr (s : State) (lo hi : Nat) : (s.zeroRange lo hi).rr = s.rr := rfl
@[simp] theorem State.zeroRange_schcfg (s : State) (lo hi : Nat) : (s.zeroRange lo hi).schcfg = s.schcfg := rfl
@[simp] theorem State.zeroRange_ebdef (s : State) (lo hi : Nat) : (s.zeroRange lo hi).ebdef = s.ebdef := rfl
@[simp] theorem State.zeroRange_asroot (s : State) (lo hi : Nat) : (s.zeroRange lo hi).asroot = s.asroot := rfl
@[simp] theorem State.zeroRange_parks (s : State) (lo hi : Nat) : (s.zeroRange lo hi).parks = s.parks := rfl
@[simp] theorem State.zeroRange_ring (s : State) (lo hi : Nat) : (s.zeroRange lo hi).ring = s.ring := rfl
@[simp] theorem State.zeroRange_trqh (s : State) (lo hi : Nat) : (s.zeroRange lo hi).trqh = s.trqh := rfl
@[simp] theorem State.zeroRange_trqt (s : State) (lo hi : Nat) : (s.zeroRange lo hi).trqt = s.trqt := rfl
@[simp] theorem State.zeroRange_fault (s : State) (lo hi : Nat) : (s.zeroRange lo hi).fault = s.fault := rfl
@[simp] theorem State.zeroRange_mgmtDie (s : State) (lo hi : Nat) : (s.zeroRange lo hi).mgmtDie = s.mgmtDie := rfl
@[simp] theorem State.zeroRange_atags (s : State) (lo hi : Nat) : (s.zeroRange lo hi).atags = s.atags := rfl
@[simp] theorem State.zeroRange_replies (s : State) (lo hi : Nat) : (s.zeroRange lo hi).replies = s.replies := rfl
@[simp] theorem State.zeroRange_lost (s : State) (lo hi : Nat) : (s.zeroRange lo hi).lost = s.lost := rfl
@[simp] theorem State.zeroRange_sent (s : State) (lo hi : Nat) : (s.zeroRange lo hi).sent = s.sent := rfl
@[simp] theorem State.zeroRange_ltab (s : State) (lo hi : Nat) : (s.zeroRange lo hi).ltab = s.ltab := rfl
@[simp] theorem State.zeroRange_ltpg (s : State) (lo hi : Nat) : (s.zeroRange lo hi).ltpg = s.ltpg := rfl
@[simp] theorem State.zeroRange_reach (s : State) (lo hi : Nat) : (s.zeroRange lo hi).reach = s.reach := rfl
@[simp] theorem State.zeroRange_lttree (s : State) (lo hi : Nat) : (s.zeroRange lo hi).lttree = s.lttree := rfl
@[simp] theorem State.zeroRange_ltevt (s : State) (lo hi : Nat) : (s.zeroRange lo hi).ltevt = s.ltevt := rfl
@[simp] theorem State.zeroRange_pgs (s : State) (lo hi : Nat) : (s.zeroRange lo hi).pgs = s.pgs := rfl
@[simp] theorem State.zeroRange_flows (s : State) (lo hi : Nat) : (s.zeroRange lo hi).flows = s.flows := rfl
@[simp] theorem State.zeroRange_outNo (s : State) (lo hi : Nat) : (s.zeroRange lo hi).outNo = s.outNo := rfl
@[simp] theorem State.zeroRange_outbox (s : State) (lo hi : Nat) : (s.zeroRange lo hi).outbox = s.outbox := rfl
@[simp] theorem State.zeroRange_groups (s : State) (lo hi : Nat) : (s.zeroRange lo hi).groups = s.groups := rfl
@[simp] theorem State.zeroRange_insts (s : State) (lo hi : Nat) : (s.zeroRange lo hi).insts = s.insts := rfl
@[simp] theorem State.zeroRange_ends (s : State) (lo hi : Nat) : (s.zeroRange lo hi).ends = s.ends := rfl
@[simp] theorem State.zeroRange_stats (s : State) (lo hi : Nat) : (s.zeroRange lo hi).stats = s.stats := rfl
@[simp] theorem State.zeroRange_funcs (s : State) (lo hi : Nat) : (s.zeroRange lo hi).funcs = s.funcs := rfl
@[simp] theorem State.zeroRange_hmb (s : State) (lo hi : Nat) : (s.zeroRange lo hi).hmb = s.hmb := rfl
@[simp] theorem State.zeroRange_smb (s : State) (lo hi : Nat) : (s.zeroRange lo hi).smb = s.smb := rfl
@[simp] theorem State.zeroRange_port1 (s : State) (lo hi : Nat) : (s.zeroRange lo hi).port1 = s.port1 := rfl
@[simp] theorem State.zeroRange_pilot (s : State) (lo hi : Nat) : (s.zeroRange lo hi).pilot = s.pilot := rfl
@[simp] theorem State.zeroRange_undock (s : State) (lo hi : Nat) : (s.zeroRange lo hi).undock = s.undock := rfl
@[simp] theorem State.zeroRange_free (s : State) (lo hi : Nat) : (s.zeroRange lo hi).free = s.free := rfl

/-! ### Hart.retire -/

@[simp] theorem Hart.retire_hid (h : Hart) (pc : Word) : (h.retire pc).hid = h.hid := rfl
@[simp] theorem Hart.retire_run (h : Hart) (pc : Word) : (h.retire pc).run = h.run := rfl
@[simp] theorem Hart.retire_mode (h : Hart) (pc : Word) : (h.retire pc).mode = h.mode := rfl
@[simp] theorem Hart.retire_tenant (h : Hart) (pc : Word) : (h.retire pc).tenant = h.tenant := rfl
@[simp] theorem Hart.retire_launch (h : Hart) (pc : Word) : (h.retire pc).launch = h.launch := rfl
@[simp] theorem Hart.retire_gid (h : Hart) (pc : Word) : (h.retire pc).gid = h.gid := rfl
@[simp] theorem Hart.retire_kclass (h : Hart) (pc : Word) : (h.retire pc).kclass = h.kclass := rfl
@[simp] theorem Hart.retire_x (h : Hart) (pc : Word) : (h.retire pc).x = h.x := rfl
@[simp] theorem Hart.retire_sb (h : Hart) (pc : Word) : (h.retire pc).sb = h.sb := rfl
@[simp] theorem Hart.retire_xcor (h : Hart) (pc : Word) : (h.retire pc).xcor = h.xcor := rfl
@[simp] theorem Hart.retire_xbad (h : Hart) (pc : Word) : (h.retire pc).xbad = h.xbad := rfl
@[simp] theorem Hart.retire_p (h : Hart) (pc : Word) : (h.retire pc).p = h.p := rfl
@[simp] theorem Hart.retire_pcor (h : Hart) (pc : Word) : (h.retire pc).pcor = h.pcor := rfl
@[simp] theorem Hart.retire_pbad (h : Hart) (pc : Word) : (h.retire pc).pbad = h.pbad := rfl
@[simp] theorem Hart.retire_vl (h : Hart) (pc : Word) : (h.retire pc).vl = h.vl := rfl
@[simp] theorem Hart.retire_vh (h : Hart) (pc : Word) : (h.retire pc).vh = h.vh := rfl
@[simp] theorem Hart.retire_regs (h : Hart) (pc : Word) : (h.retire pc).regs = h.regs := rfl
@[simp] theorem Hart.retire_nxt (h : Hart) (pc : Word) : (h.retire pc).nxt = h.nxt := rfl
@[simp] theorem Hart.retire_blk (h : Hart) (pc : Word) : (h.retire pc).blk = h.blk := rfl
@[simp] theorem Hart.retire_vstart (h : Hart) (pc : Word) : (h.retire pc).vstart = h.vstart := rfl
@[simp] theorem Hart.retire_vdirty (h : Hart) (pc : Word) : (h.retire pc).vdirty = h.vdirty := rfl
@[simp] theorem Hart.retire_vqin (h : Hart) (pc : Word) : (h.retire pc).vqin = h.vqin := rfl
@[simp] theorem Hart.retire_vqout (h : Hart) (pc : Word) : (h.retire pc).vqout = h.vqout := rfl
@[simp] theorem Hart.retire_fm (h : Hart) (pc : Word) : (h.retire pc).fm = h.fm := rfl
@[simp] theorem Hart.retire_vst (h : Hart) (pc : Word) : (h.retire pc).vst = h.vst := rfl
@[simp] theorem Hart.retire_vpoi (h : Hart) (pc : Word) : (h.retire pc).vpoi = h.vpoi := rfl
@[simp] theorem Hart.retire_vcor (h : Hart) (pc : Word) : (h.retire pc).vcor = h.vcor := rfl
@[simp] theorem Hart.retire_struck (h : Hart) (pc : Word) : (h.retire pc).struck = h.struck := rfl
@[simp] theorem Hart.retire_vtag (h : Hart) (pc : Word) : (h.retire pc).vtag = h.vtag := rfl
@[simp] theorem Hart.retire_full (h : Hart) (pc : Word) : (h.retire pc).full = h.full := rfl
@[simp] theorem Hart.retire_resv (h : Hart) (pc : Word) : (h.retire pc).resv = h.resv := rfl
@[simp] theorem Hart.retire_fcsr (h : Hart) (pc : Word) : (h.retire pc).fcsr = h.fcsr := rfl
@[simp] theorem Hart.retire_mgrant (h : Hart) (pc : Word) : (h.retire pc).mgrant = h.mgrant := rfl
@[simp] theorem Hart.retire_tcause (h : Hart) (pc : Word) : (h.retire pc).tcause = h.tcause := rfl
@[simp] theorem Hart.retire_tepc (h : Hart) (pc : Word) : (h.retire pc).tepc = h.tepc := rfl
@[simp] theorem Hart.retire_tval (h : Hart) (pc : Word) : (h.retire pc).tval = h.tval := rfl
@[simp] theorem Hart.retire_tvec (h : Hart) (pc : Word) : (h.retire pc).tvec = h.tvec := rfl
@[simp] theorem Hart.retire_fb (h : Hart) (pc : Word) : (h.retire pc).fb = h.fb := rfl
@[simp] theorem Hart.retire_tcmp (h : Hart) (pc : Word) : (h.retire pc).tcmp = h.tcmp := rfl
@[simp] theorem Hart.retire_report (h : Hart) (pc : Word) : (h.retire pc).report = h.report := rfl
@[simp] theorem Hart.retire_posted (h : Hart) (pc : Word) : (h.retire pc).posted = h.posted := rfl
@[simp] theorem Hart.retire_pend (h : Hart) (pc : Word) : (h.retire pc).pend = h.pend := rfl
@[simp] theorem Hart.retire_tok (h : Hart) (pc : Word) : (h.retire pc).tok = h.tok := rfl
@[simp] theorem Hart.retire_cc (h : Hart) (pc : Word) : (h.retire pc).cc = h.cc := rfl
@[simp] theorem Hart.retire_win (h : Hart) (pc : Word) : (h.retire pc).win = h.win := rfl
@[simp] theorem Hart.retire_unf (h : Hart) (pc : Word) : (h.retire pc).unf = h.unf := rfl
@[simp] theorem Hart.retire_copyQ (h : Hart) (pc : Word) : (h.retire pc).copyQ = h.copyQ := rfl
@[simp] theorem Hart.retire_copySt (h : Hart) (pc : Word) : (h.retire pc).copySt = h.copySt := rfl
@[simp] theorem Hart.retire_nbQ (h : Hart) (pc : Word) : (h.retire pc).nbQ = h.nbQ := rfl
@[simp] theorem Hart.retire_nbSt (h : Hart) (pc : Word) : (h.retire pc).nbSt = h.nbSt := rfl
@[simp] theorem Hart.retire_woken (h : Hart) (pc : Word) : (h.retire pc).woken = h.woken := rfl
@[simp] theorem Hart.retire_mq (h : Hart) (pc : Word) : (h.retire pc).mq = h.mq := rfl
@[simp] theorem Hart.retire_pushes (h : Hart) (pc : Word) : (h.retire pc).pushes = h.pushes := rfl
@[simp] theorem Hart.retire_pushNo (h : Hart) (pc : Word) : (h.retire pc).pushNo = h.pushNo := rfl
@[simp] theorem Hart.retire_colls (h : Hart) (pc : Word) : (h.retire pc).colls = h.colls := rfl
@[simp] theorem Hart.retire_collCnt (h : Hart) (pc : Word) : (h.retire pc).collCnt = h.collCnt := rfl
@[simp] theorem Hart.retire_collRank (h : Hart) (pc : Word) : (h.retire pc).collRank = h.collRank := rfl
@[simp] theorem Hart.retire_collRes (h : Hart) (pc : Word) : (h.retire pc).collRes = h.collRes := rfl
@[simp] theorem Hart.retire_preempting (h : Hart) (pc : Word) : (h.retire pc).preempting = h.preempting := rfl
@[simp] theorem Hart.retire_depth (h : Hart) (pc : Word) : (h.retire pc).depth = h.depth := rfl
@[simp] theorem Hart.retire_headSince (h : Hart) (pc : Word) : (h.retire pc).headSince = h.headSince := rfl
@[simp] theorem Hart.retire_ahead (h : Hart) (pc : Word) : (h.retire pc).ahead = h.ahead.drop 1 := rfl
@[simp] theorem Hart.retire_trapped (h : Hart) (pc : Word) : (h.retire pc).trapped = h.trapped := rfl

@[simp] theorem Hart.retire_pc (h : Hart) (pc : Word) : (h.retire pc).pc = pc := rfl

/-! ### Hart.setX -/

@[simp] theorem Hart.setX_hid (h : Hart) (i : XReg) (v : Word) : (h.setX i v).hid = h.hid := by
  unfold Hart.setX; split
  · rfl
  · dsimp only; split <;> rfl
@[simp] theorem Hart.setX_run (h : Hart) (i : XReg) (v : Word) : (h.setX i v).run = h.run := by
  unfold Hart.setX; split
  · rfl
  · dsimp only; split <;> rfl
@[simp] theorem Hart.setX_mode (h : Hart) (i : XReg) (v : Word) : (h.setX i v).mode = h.mode := by
  unfold Hart.setX; split
  · rfl
  · dsimp only; split <;> rfl
@[simp] theorem Hart.setX_tenant (h : Hart) (i : XReg) (v : Word) : (h.setX i v).tenant = h.tenant := by
  unfold Hart.setX; split
  · rfl
  · dsimp only; split <;> rfl
@[simp] theorem Hart.setX_launch (h : Hart) (i : XReg) (v : Word) : (h.setX i v).launch = h.launch := by
  unfold Hart.setX; split
  · rfl
  · dsimp only; split <;> rfl
@[simp] theorem Hart.setX_gid (h : Hart) (i : XReg) (v : Word) : (h.setX i v).gid = h.gid := by
  unfold Hart.setX; split
  · rfl
  · dsimp only; split <;> rfl
@[simp] theorem Hart.setX_kclass (h : Hart) (i : XReg) (v : Word) : (h.setX i v).kclass = h.kclass := by
  unfold Hart.setX; split
  · rfl
  · dsimp only; split <;> rfl
@[simp] theorem Hart.setX_pc (h : Hart) (i : XReg) (v : Word) : (h.setX i v).pc = h.pc := by
  unfold Hart.setX; split
  · rfl
  · dsimp only; split <;> rfl
@[simp] theorem Hart.setX_p (h : Hart) (i : XReg) (v : Word) : (h.setX i v).p = h.p := by
  unfold Hart.setX; split
  · rfl
  · dsimp only; split <;> rfl
@[simp] theorem Hart.setX_pcor (h : Hart) (i : XReg) (v : Word) : (h.setX i v).pcor = h.pcor := by
  unfold Hart.setX; split
  · rfl
  · dsimp only; split <;> rfl
@[simp] theorem Hart.setX_pbad (h : Hart) (i : XReg) (v : Word) : (h.setX i v).pbad = h.pbad := by
  unfold Hart.setX; split
  · rfl
  · dsimp only; split <;> rfl
@[simp] theorem Hart.setX_vl (h : Hart) (i : XReg) (v : Word) : (h.setX i v).vl = h.vl := by
  unfold Hart.setX; split
  · rfl
  · dsimp only; split <;> rfl
@[simp] theorem Hart.setX_vh (h : Hart) (i : XReg) (v : Word) : (h.setX i v).vh = h.vh := by
  unfold Hart.setX; split
  · rfl
  · dsimp only; split <;> rfl
@[simp] theorem Hart.setX_regs (h : Hart) (i : XReg) (v : Word) : (h.setX i v).regs = h.regs := by
  unfold Hart.setX; split
  · rfl
  · dsimp only; split <;> rfl
@[simp] theorem Hart.setX_nxt (h : Hart) (i : XReg) (v : Word) : (h.setX i v).nxt = h.nxt := by
  unfold Hart.setX; split
  · rfl
  · dsimp only; split <;> rfl
@[simp] theorem Hart.setX_blk (h : Hart) (i : XReg) (v : Word) : (h.setX i v).blk = h.blk := by
  unfold Hart.setX; split
  · rfl
  · dsimp only; split <;> rfl
@[simp] theorem Hart.setX_vstart (h : Hart) (i : XReg) (v : Word) : (h.setX i v).vstart = h.vstart := by
  unfold Hart.setX; split
  · rfl
  · dsimp only; split <;> rfl
@[simp] theorem Hart.setX_vdirty (h : Hart) (i : XReg) (v : Word) : (h.setX i v).vdirty = h.vdirty := by
  unfold Hart.setX; split
  · rfl
  · dsimp only; split <;> rfl
@[simp] theorem Hart.setX_vqin (h : Hart) (i : XReg) (v : Word) : (h.setX i v).vqin = h.vqin := by
  unfold Hart.setX; split
  · rfl
  · dsimp only; split <;> rfl
@[simp] theorem Hart.setX_vqout (h : Hart) (i : XReg) (v : Word) : (h.setX i v).vqout = h.vqout := by
  unfold Hart.setX; split
  · rfl
  · dsimp only; split <;> rfl
@[simp] theorem Hart.setX_fm (h : Hart) (i : XReg) (v : Word) : (h.setX i v).fm = h.fm := by
  unfold Hart.setX; split
  · rfl
  · dsimp only; split <;> rfl
@[simp] theorem Hart.setX_vst (h : Hart) (i : XReg) (v : Word) : (h.setX i v).vst = h.vst := by
  unfold Hart.setX; split
  · rfl
  · dsimp only; split <;> rfl
@[simp] theorem Hart.setX_vpoi (h : Hart) (i : XReg) (v : Word) : (h.setX i v).vpoi = h.vpoi := by
  unfold Hart.setX; split
  · rfl
  · dsimp only; split <;> rfl
@[simp] theorem Hart.setX_vcor (h : Hart) (i : XReg) (v : Word) : (h.setX i v).vcor = h.vcor := by
  unfold Hart.setX; split
  · rfl
  · dsimp only; split <;> rfl
@[simp] theorem Hart.setX_struck (h : Hart) (i : XReg) (v : Word) : (h.setX i v).struck = h.struck := by
  unfold Hart.setX; split
  · rfl
  · dsimp only; split <;> rfl
@[simp] theorem Hart.setX_vtag (h : Hart) (i : XReg) (v : Word) : (h.setX i v).vtag = h.vtag := by
  unfold Hart.setX; split
  · rfl
  · dsimp only; split <;> rfl
@[simp] theorem Hart.setX_full (h : Hart) (i : XReg) (v : Word) : (h.setX i v).full = h.full := by
  unfold Hart.setX; split
  · rfl
  · dsimp only; split <;> rfl
@[simp] theorem Hart.setX_resv (h : Hart) (i : XReg) (v : Word) : (h.setX i v).resv = h.resv := by
  unfold Hart.setX; split
  · rfl
  · dsimp only; split <;> rfl
@[simp] theorem Hart.setX_fcsr (h : Hart) (i : XReg) (v : Word) : (h.setX i v).fcsr = h.fcsr := by
  unfold Hart.setX; split
  · rfl
  · dsimp only; split <;> rfl
@[simp] theorem Hart.setX_instret (h : Hart) (i : XReg) (v : Word) : (h.setX i v).instret = h.instret := by
  unfold Hart.setX; split
  · rfl
  · dsimp only; split <;> rfl
@[simp] theorem Hart.setX_mgrant (h : Hart) (i : XReg) (v : Word) : (h.setX i v).mgrant = h.mgrant := by
  unfold Hart.setX; split
  · rfl
  · dsimp only; split <;> rfl
@[simp] theorem Hart.setX_tcause (h : Hart) (i : XReg) (v : Word) : (h.setX i v).tcause = h.tcause := by
  unfold Hart.setX; split
  · rfl
  · dsimp only; split <;> rfl
@[simp] theorem Hart.setX_tepc (h : Hart) (i : XReg) (v : Word) : (h.setX i v).tepc = h.tepc := by
  unfold Hart.setX; split
  · rfl
  · dsimp only; split <;> rfl
@[simp] theorem Hart.setX_tval (h : Hart) (i : XReg) (v : Word) : (h.setX i v).tval = h.tval := by
  unfold Hart.setX; split
  · rfl
  · dsimp only; split <;> rfl
@[simp] theorem Hart.setX_tvec (h : Hart) (i : XReg) (v : Word) : (h.setX i v).tvec = h.tvec := by
  unfold Hart.setX; split
  · rfl
  · dsimp only; split <;> rfl
@[simp] theorem Hart.setX_tstat (h : Hart) (i : XReg) (v : Word) : (h.setX i v).tstat = h.tstat := by
  unfold Hart.setX; split
  · rfl
  · dsimp only; split <;> rfl
@[simp] theorem Hart.setX_fb (h : Hart) (i : XReg) (v : Word) : (h.setX i v).fb = h.fb := by
  unfold Hart.setX; split
  · rfl
  · dsimp only; split <;> rfl
@[simp] theorem Hart.setX_tcmp (h : Hart) (i : XReg) (v : Word) : (h.setX i v).tcmp = h.tcmp := by
  unfold Hart.setX; split
  · rfl
  · dsimp only; split <;> rfl
@[simp] theorem Hart.setX_report (h : Hart) (i : XReg) (v : Word) : (h.setX i v).report = h.report := by
  unfold Hart.setX; split
  · rfl
  · dsimp only; split <;> rfl
@[simp] theorem Hart.setX_posted (h : Hart) (i : XReg) (v : Word) : (h.setX i v).posted = h.posted := by
  unfold Hart.setX; split
  · rfl
  · dsimp only; split <;> rfl
@[simp] theorem Hart.setX_pend (h : Hart) (i : XReg) (v : Word) : (h.setX i v).pend = h.pend := by
  unfold Hart.setX; split
  · rfl
  · dsimp only; split <;> rfl
@[simp] theorem Hart.setX_tok (h : Hart) (i : XReg) (v : Word) : (h.setX i v).tok = h.tok := by
  unfold Hart.setX; split
  · rfl
  · dsimp only; split <;> rfl
@[simp] theorem Hart.setX_cc (h : Hart) (i : XReg) (v : Word) : (h.setX i v).cc = h.cc := by
  unfold Hart.setX; split
  · rfl
  · dsimp only; split <;> rfl
@[simp] theorem Hart.setX_win (h : Hart) (i : XReg) (v : Word) : (h.setX i v).win = h.win := by
  unfold Hart.setX; split
  · rfl
  · dsimp only; split <;> rfl
@[simp] theorem Hart.setX_unf (h : Hart) (i : XReg) (v : Word) : (h.setX i v).unf = h.unf := by
  unfold Hart.setX; split
  · rfl
  · dsimp only; split <;> rfl
@[simp] theorem Hart.setX_copyQ (h : Hart) (i : XReg) (v : Word) : (h.setX i v).copyQ = h.copyQ := by
  unfold Hart.setX; split
  · rfl
  · dsimp only; split <;> rfl
@[simp] theorem Hart.setX_copySt (h : Hart) (i : XReg) (v : Word) : (h.setX i v).copySt = h.copySt := by
  unfold Hart.setX; split
  · rfl
  · dsimp only; split <;> rfl
@[simp] theorem Hart.setX_nbQ (h : Hart) (i : XReg) (v : Word) : (h.setX i v).nbQ = h.nbQ := by
  unfold Hart.setX; split
  · rfl
  · dsimp only; split <;> rfl
@[simp] theorem Hart.setX_nbSt (h : Hart) (i : XReg) (v : Word) : (h.setX i v).nbSt = h.nbSt := by
  unfold Hart.setX; split
  · rfl
  · dsimp only; split <;> rfl
@[simp] theorem Hart.setX_inWait (h : Hart) (i : XReg) (v : Word) : (h.setX i v).inWait = h.inWait := by
  unfold Hart.setX; split
  · rfl
  · dsimp only; split <;> rfl
@[simp] theorem Hart.setX_woken (h : Hart) (i : XReg) (v : Word) : (h.setX i v).woken = h.woken := by
  unfold Hart.setX; split
  · rfl
  · dsimp only; split <;> rfl
@[simp] theorem Hart.setX_mq (h : Hart) (i : XReg) (v : Word) : (h.setX i v).mq = h.mq := by
  unfold Hart.setX; split
  · rfl
  · dsimp only; split <;> rfl
@[simp] theorem Hart.setX_pushes (h : Hart) (i : XReg) (v : Word) : (h.setX i v).pushes = h.pushes := by
  unfold Hart.setX; split
  · rfl
  · dsimp only; split <;> rfl
@[simp] theorem Hart.setX_pushNo (h : Hart) (i : XReg) (v : Word) : (h.setX i v).pushNo = h.pushNo := by
  unfold Hart.setX; split
  · rfl
  · dsimp only; split <;> rfl
@[simp] theorem Hart.setX_colls (h : Hart) (i : XReg) (v : Word) : (h.setX i v).colls = h.colls := by
  unfold Hart.setX; split
  · rfl
  · dsimp only; split <;> rfl
@[simp] theorem Hart.setX_collCnt (h : Hart) (i : XReg) (v : Word) : (h.setX i v).collCnt = h.collCnt := by
  unfold Hart.setX; split
  · rfl
  · dsimp only; split <;> rfl
@[simp] theorem Hart.setX_collRank (h : Hart) (i : XReg) (v : Word) : (h.setX i v).collRank = h.collRank := by
  unfold Hart.setX; split
  · rfl
  · dsimp only; split <;> rfl
@[simp] theorem Hart.setX_collRes (h : Hart) (i : XReg) (v : Word) : (h.setX i v).collRes = h.collRes := by
  unfold Hart.setX; split
  · rfl
  · dsimp only; split <;> rfl
@[simp] theorem Hart.setX_stopAt (h : Hart) (i : XReg) (v : Word) : (h.setX i v).stopAt = h.stopAt := by
  unfold Hart.setX; split
  · rfl
  · dsimp only; split <;> rfl
@[simp] theorem Hart.setX_preempting (h : Hart) (i : XReg) (v : Word) : (h.setX i v).preempting = h.preempting := by
  unfold Hart.setX; split
  · rfl
  · dsimp only; split <;> rfl
@[simp] theorem Hart.setX_depth (h : Hart) (i : XReg) (v : Word) : (h.setX i v).depth = h.depth := by
  unfold Hart.setX; split
  · rfl
  · dsimp only; split <;> rfl
@[simp] theorem Hart.setX_exiting (h : Hart) (i : XReg) (v : Word) : (h.setX i v).exiting = h.exiting := by
  unfold Hart.setX; split
  · rfl
  · dsimp only; split <;> rfl
@[simp] theorem Hart.setX_reissue (h : Hart) (i : XReg) (v : Word) : (h.setX i v).reissue = h.reissue := by
  unfold Hart.setX; split
  · rfl
  · dsimp only; split <;> rfl
@[simp] theorem Hart.setX_waitStart (h : Hart) (i : XReg) (v : Word) : (h.setX i v).waitStart = h.waitStart := by
  unfold Hart.setX; split
  · rfl
  · dsimp only; split <;> rfl
@[simp] theorem Hart.setX_headSince (h : Hart) (i : XReg) (v : Word) : (h.setX i v).headSince = h.headSince := by
  unfold Hart.setX; split
  · rfl
  · dsimp only; split <;> rfl
@[simp] theorem Hart.setX_ahead (h : Hart) (i : XReg) (v : Word) : (h.setX i v).ahead = h.ahead := by
  unfold Hart.setX; split
  · rfl
  · dsimp only; split <;> rfl
@[simp] theorem Hart.setX_trapped (h : Hart) (i : XReg) (v : Word) : (h.setX i v).trapped = h.trapped := by
  unfold Hart.setX; split
  · rfl
  · dsimp only; split <;> rfl

/-! ### Hart.setP -/

@[simp] theorem Hart.setP_hid (h : Hart) (i : PReg) (v : BitVec 32768) : (h.setP i v).hid = h.hid := by
  unfold Hart.setP; split <;> rfl
@[simp] theorem Hart.setP_run (h : Hart) (i : PReg) (v : BitVec 32768) : (h.setP i v).run = h.run := by
  unfold Hart.setP; split <;> rfl
@[simp] theorem Hart.setP_mode (h : Hart) (i : PReg) (v : BitVec 32768) : (h.setP i v).mode = h.mode := by
  unfold Hart.setP; split <;> rfl
@[simp] theorem Hart.setP_tenant (h : Hart) (i : PReg) (v : BitVec 32768) : (h.setP i v).tenant = h.tenant := by
  unfold Hart.setP; split <;> rfl
@[simp] theorem Hart.setP_launch (h : Hart) (i : PReg) (v : BitVec 32768) : (h.setP i v).launch = h.launch := by
  unfold Hart.setP; split <;> rfl
@[simp] theorem Hart.setP_gid (h : Hart) (i : PReg) (v : BitVec 32768) : (h.setP i v).gid = h.gid := by
  unfold Hart.setP; split <;> rfl
@[simp] theorem Hart.setP_kclass (h : Hart) (i : PReg) (v : BitVec 32768) : (h.setP i v).kclass = h.kclass := by
  unfold Hart.setP; split <;> rfl
@[simp] theorem Hart.setP_pc (h : Hart) (i : PReg) (v : BitVec 32768) : (h.setP i v).pc = h.pc := by
  unfold Hart.setP; split <;> rfl
@[simp] theorem Hart.setP_x (h : Hart) (i : PReg) (v : BitVec 32768) : (h.setP i v).x = h.x := by
  unfold Hart.setP; split <;> rfl
@[simp] theorem Hart.setP_sb (h : Hart) (i : PReg) (v : BitVec 32768) : (h.setP i v).sb = h.sb := by
  unfold Hart.setP; split <;> rfl
@[simp] theorem Hart.setP_xcor (h : Hart) (i : PReg) (v : BitVec 32768) : (h.setP i v).xcor = h.xcor := by
  unfold Hart.setP; split <;> rfl
@[simp] theorem Hart.setP_xbad (h : Hart) (i : PReg) (v : BitVec 32768) : (h.setP i v).xbad = h.xbad := by
  unfold Hart.setP; split <;> rfl
@[simp] theorem Hart.setP_vl (h : Hart) (i : PReg) (v : BitVec 32768) : (h.setP i v).vl = h.vl := by
  unfold Hart.setP; split <;> rfl
@[simp] theorem Hart.setP_vh (h : Hart) (i : PReg) (v : BitVec 32768) : (h.setP i v).vh = h.vh := by
  unfold Hart.setP; split <;> rfl
@[simp] theorem Hart.setP_regs (h : Hart) (i : PReg) (v : BitVec 32768) : (h.setP i v).regs = h.regs := by
  unfold Hart.setP; split <;> rfl
@[simp] theorem Hart.setP_nxt (h : Hart) (i : PReg) (v : BitVec 32768) : (h.setP i v).nxt = h.nxt := by
  unfold Hart.setP; split <;> rfl
@[simp] theorem Hart.setP_blk (h : Hart) (i : PReg) (v : BitVec 32768) : (h.setP i v).blk = h.blk := by
  unfold Hart.setP; split <;> rfl
@[simp] theorem Hart.setP_vstart (h : Hart) (i : PReg) (v : BitVec 32768) : (h.setP i v).vstart = h.vstart := by
  unfold Hart.setP; split <;> rfl
@[simp] theorem Hart.setP_vdirty (h : Hart) (i : PReg) (v : BitVec 32768) : (h.setP i v).vdirty = h.vdirty := by
  unfold Hart.setP; split <;> rfl
@[simp] theorem Hart.setP_vqin (h : Hart) (i : PReg) (v : BitVec 32768) : (h.setP i v).vqin = h.vqin := by
  unfold Hart.setP; split <;> rfl
@[simp] theorem Hart.setP_vqout (h : Hart) (i : PReg) (v : BitVec 32768) : (h.setP i v).vqout = h.vqout := by
  unfold Hart.setP; split <;> rfl
@[simp] theorem Hart.setP_fm (h : Hart) (i : PReg) (v : BitVec 32768) : (h.setP i v).fm = h.fm := by
  unfold Hart.setP; split <;> rfl
@[simp] theorem Hart.setP_vst (h : Hart) (i : PReg) (v : BitVec 32768) : (h.setP i v).vst = h.vst := by
  unfold Hart.setP; split <;> rfl
@[simp] theorem Hart.setP_vpoi (h : Hart) (i : PReg) (v : BitVec 32768) : (h.setP i v).vpoi = h.vpoi := by
  unfold Hart.setP; split <;> rfl
@[simp] theorem Hart.setP_vcor (h : Hart) (i : PReg) (v : BitVec 32768) : (h.setP i v).vcor = h.vcor := by
  unfold Hart.setP; split <;> rfl
@[simp] theorem Hart.setP_struck (h : Hart) (i : PReg) (v : BitVec 32768) : (h.setP i v).struck = h.struck := by
  unfold Hart.setP; split <;> rfl
@[simp] theorem Hart.setP_vtag (h : Hart) (i : PReg) (v : BitVec 32768) : (h.setP i v).vtag = h.vtag := by
  unfold Hart.setP; split <;> rfl
@[simp] theorem Hart.setP_full (h : Hart) (i : PReg) (v : BitVec 32768) : (h.setP i v).full = h.full := by
  unfold Hart.setP; split <;> rfl
@[simp] theorem Hart.setP_resv (h : Hart) (i : PReg) (v : BitVec 32768) : (h.setP i v).resv = h.resv := by
  unfold Hart.setP; split <;> rfl
@[simp] theorem Hart.setP_fcsr (h : Hart) (i : PReg) (v : BitVec 32768) : (h.setP i v).fcsr = h.fcsr := by
  unfold Hart.setP; split <;> rfl
@[simp] theorem Hart.setP_instret (h : Hart) (i : PReg) (v : BitVec 32768) : (h.setP i v).instret = h.instret := by
  unfold Hart.setP; split <;> rfl
@[simp] theorem Hart.setP_mgrant (h : Hart) (i : PReg) (v : BitVec 32768) : (h.setP i v).mgrant = h.mgrant := by
  unfold Hart.setP; split <;> rfl
@[simp] theorem Hart.setP_tcause (h : Hart) (i : PReg) (v : BitVec 32768) : (h.setP i v).tcause = h.tcause := by
  unfold Hart.setP; split <;> rfl
@[simp] theorem Hart.setP_tepc (h : Hart) (i : PReg) (v : BitVec 32768) : (h.setP i v).tepc = h.tepc := by
  unfold Hart.setP; split <;> rfl
@[simp] theorem Hart.setP_tval (h : Hart) (i : PReg) (v : BitVec 32768) : (h.setP i v).tval = h.tval := by
  unfold Hart.setP; split <;> rfl
@[simp] theorem Hart.setP_tvec (h : Hart) (i : PReg) (v : BitVec 32768) : (h.setP i v).tvec = h.tvec := by
  unfold Hart.setP; split <;> rfl
@[simp] theorem Hart.setP_tstat (h : Hart) (i : PReg) (v : BitVec 32768) : (h.setP i v).tstat = h.tstat := by
  unfold Hart.setP; split <;> rfl
@[simp] theorem Hart.setP_fb (h : Hart) (i : PReg) (v : BitVec 32768) : (h.setP i v).fb = h.fb := by
  unfold Hart.setP; split <;> rfl
@[simp] theorem Hart.setP_tcmp (h : Hart) (i : PReg) (v : BitVec 32768) : (h.setP i v).tcmp = h.tcmp := by
  unfold Hart.setP; split <;> rfl
@[simp] theorem Hart.setP_report (h : Hart) (i : PReg) (v : BitVec 32768) : (h.setP i v).report = h.report := by
  unfold Hart.setP; split <;> rfl
@[simp] theorem Hart.setP_posted (h : Hart) (i : PReg) (v : BitVec 32768) : (h.setP i v).posted = h.posted := by
  unfold Hart.setP; split <;> rfl
@[simp] theorem Hart.setP_pend (h : Hart) (i : PReg) (v : BitVec 32768) : (h.setP i v).pend = h.pend := by
  unfold Hart.setP; split <;> rfl
@[simp] theorem Hart.setP_tok (h : Hart) (i : PReg) (v : BitVec 32768) : (h.setP i v).tok = h.tok := by
  unfold Hart.setP; split <;> rfl
@[simp] theorem Hart.setP_cc (h : Hart) (i : PReg) (v : BitVec 32768) : (h.setP i v).cc = h.cc := by
  unfold Hart.setP; split <;> rfl
@[simp] theorem Hart.setP_win (h : Hart) (i : PReg) (v : BitVec 32768) : (h.setP i v).win = h.win := by
  unfold Hart.setP; split <;> rfl
@[simp] theorem Hart.setP_unf (h : Hart) (i : PReg) (v : BitVec 32768) : (h.setP i v).unf = h.unf := by
  unfold Hart.setP; split <;> rfl
@[simp] theorem Hart.setP_copyQ (h : Hart) (i : PReg) (v : BitVec 32768) : (h.setP i v).copyQ = h.copyQ := by
  unfold Hart.setP; split <;> rfl
@[simp] theorem Hart.setP_copySt (h : Hart) (i : PReg) (v : BitVec 32768) : (h.setP i v).copySt = h.copySt := by
  unfold Hart.setP; split <;> rfl
@[simp] theorem Hart.setP_nbQ (h : Hart) (i : PReg) (v : BitVec 32768) : (h.setP i v).nbQ = h.nbQ := by
  unfold Hart.setP; split <;> rfl
@[simp] theorem Hart.setP_nbSt (h : Hart) (i : PReg) (v : BitVec 32768) : (h.setP i v).nbSt = h.nbSt := by
  unfold Hart.setP; split <;> rfl
@[simp] theorem Hart.setP_inWait (h : Hart) (i : PReg) (v : BitVec 32768) : (h.setP i v).inWait = h.inWait := by
  unfold Hart.setP; split <;> rfl
@[simp] theorem Hart.setP_woken (h : Hart) (i : PReg) (v : BitVec 32768) : (h.setP i v).woken = h.woken := by
  unfold Hart.setP; split <;> rfl
@[simp] theorem Hart.setP_mq (h : Hart) (i : PReg) (v : BitVec 32768) : (h.setP i v).mq = h.mq := by
  unfold Hart.setP; split <;> rfl
@[simp] theorem Hart.setP_pushes (h : Hart) (i : PReg) (v : BitVec 32768) : (h.setP i v).pushes = h.pushes := by
  unfold Hart.setP; split <;> rfl
@[simp] theorem Hart.setP_pushNo (h : Hart) (i : PReg) (v : BitVec 32768) : (h.setP i v).pushNo = h.pushNo := by
  unfold Hart.setP; split <;> rfl
@[simp] theorem Hart.setP_colls (h : Hart) (i : PReg) (v : BitVec 32768) : (h.setP i v).colls = h.colls := by
  unfold Hart.setP; split <;> rfl
@[simp] theorem Hart.setP_collCnt (h : Hart) (i : PReg) (v : BitVec 32768) : (h.setP i v).collCnt = h.collCnt := by
  unfold Hart.setP; split <;> rfl
@[simp] theorem Hart.setP_collRank (h : Hart) (i : PReg) (v : BitVec 32768) : (h.setP i v).collRank = h.collRank := by
  unfold Hart.setP; split <;> rfl
@[simp] theorem Hart.setP_collRes (h : Hart) (i : PReg) (v : BitVec 32768) : (h.setP i v).collRes = h.collRes := by
  unfold Hart.setP; split <;> rfl
@[simp] theorem Hart.setP_stopAt (h : Hart) (i : PReg) (v : BitVec 32768) : (h.setP i v).stopAt = h.stopAt := by
  unfold Hart.setP; split <;> rfl
@[simp] theorem Hart.setP_preempting (h : Hart) (i : PReg) (v : BitVec 32768) : (h.setP i v).preempting = h.preempting := by
  unfold Hart.setP; split <;> rfl
@[simp] theorem Hart.setP_depth (h : Hart) (i : PReg) (v : BitVec 32768) : (h.setP i v).depth = h.depth := by
  unfold Hart.setP; split <;> rfl
@[simp] theorem Hart.setP_exiting (h : Hart) (i : PReg) (v : BitVec 32768) : (h.setP i v).exiting = h.exiting := by
  unfold Hart.setP; split <;> rfl
@[simp] theorem Hart.setP_reissue (h : Hart) (i : PReg) (v : BitVec 32768) : (h.setP i v).reissue = h.reissue := by
  unfold Hart.setP; split <;> rfl
@[simp] theorem Hart.setP_waitStart (h : Hart) (i : PReg) (v : BitVec 32768) : (h.setP i v).waitStart = h.waitStart := by
  unfold Hart.setP; split <;> rfl
@[simp] theorem Hart.setP_headSince (h : Hart) (i : PReg) (v : BitVec 32768) : (h.setP i v).headSince = h.headSince := by
  unfold Hart.setP; split <;> rfl
@[simp] theorem Hart.setP_ahead (h : Hart) (i : PReg) (v : BitVec 32768) : (h.setP i v).ahead = h.ahead := by
  unfold Hart.setP; split <;> rfl
@[simp] theorem Hart.setP_trapped (h : Hart) (i : PReg) (v : BitVec 32768) : (h.setP i v).trapped = h.trapped := by
  unfold Hart.setP; split <;> rfl

/-! ### Hart.putStr -/

@[simp] theorem Hart.putStr_hid (h : Hart) (v bits poi : Nat) : (h.putStr v bits poi).hid = h.hid := rfl
@[simp] theorem Hart.putStr_run (h : Hart) (v bits poi : Nat) : (h.putStr v bits poi).run = h.run := rfl
@[simp] theorem Hart.putStr_mode (h : Hart) (v bits poi : Nat) : (h.putStr v bits poi).mode = h.mode := rfl
@[simp] theorem Hart.putStr_tenant (h : Hart) (v bits poi : Nat) : (h.putStr v bits poi).tenant = h.tenant := rfl
@[simp] theorem Hart.putStr_launch (h : Hart) (v bits poi : Nat) : (h.putStr v bits poi).launch = h.launch := rfl
@[simp] theorem Hart.putStr_gid (h : Hart) (v bits poi : Nat) : (h.putStr v bits poi).gid = h.gid := rfl
@[simp] theorem Hart.putStr_kclass (h : Hart) (v bits poi : Nat) : (h.putStr v bits poi).kclass = h.kclass := rfl
@[simp] theorem Hart.putStr_pc (h : Hart) (v bits poi : Nat) : (h.putStr v bits poi).pc = h.pc := rfl
@[simp] theorem Hart.putStr_x (h : Hart) (v bits poi : Nat) : (h.putStr v bits poi).x = h.x := rfl
@[simp] theorem Hart.putStr_sb (h : Hart) (v bits poi : Nat) : (h.putStr v bits poi).sb = h.sb := rfl
@[simp] theorem Hart.putStr_xcor (h : Hart) (v bits poi : Nat) : (h.putStr v bits poi).xcor = h.xcor := rfl
@[simp] theorem Hart.putStr_xbad (h : Hart) (v bits poi : Nat) : (h.putStr v bits poi).xbad = h.xbad := rfl
@[simp] theorem Hart.putStr_p (h : Hart) (v bits poi : Nat) : (h.putStr v bits poi).p = h.p := rfl
@[simp] theorem Hart.putStr_pcor (h : Hart) (v bits poi : Nat) : (h.putStr v bits poi).pcor = h.pcor := rfl
@[simp] theorem Hart.putStr_pbad (h : Hart) (v bits poi : Nat) : (h.putStr v bits poi).pbad = h.pbad := rfl
@[simp] theorem Hart.putStr_vl (h : Hart) (v bits poi : Nat) : (h.putStr v bits poi).vl = h.vl := rfl
@[simp] theorem Hart.putStr_vh (h : Hart) (v bits poi : Nat) : (h.putStr v bits poi).vh = h.vh := rfl
@[simp] theorem Hart.putStr_regs (h : Hart) (v bits poi : Nat) : (h.putStr v bits poi).regs = h.regs := rfl
@[simp] theorem Hart.putStr_nxt (h : Hart) (v bits poi : Nat) : (h.putStr v bits poi).nxt = h.nxt := rfl
@[simp] theorem Hart.putStr_blk (h : Hart) (v bits poi : Nat) : (h.putStr v bits poi).blk = h.blk := rfl
@[simp] theorem Hart.putStr_vstart (h : Hart) (v bits poi : Nat) : (h.putStr v bits poi).vstart = h.vstart := rfl
@[simp] theorem Hart.putStr_vqin (h : Hart) (v bits poi : Nat) : (h.putStr v bits poi).vqin = h.vqin := rfl
@[simp] theorem Hart.putStr_vqout (h : Hart) (v bits poi : Nat) : (h.putStr v bits poi).vqout = h.vqout := rfl
@[simp] theorem Hart.putStr_fm (h : Hart) (v bits poi : Nat) : (h.putStr v bits poi).fm = h.fm := rfl
@[simp] theorem Hart.putStr_vcor (h : Hart) (v bits poi : Nat) : (h.putStr v bits poi).vcor = h.vcor := rfl
@[simp] theorem Hart.putStr_struck (h : Hart) (v bits poi : Nat) : (h.putStr v bits poi).struck = h.struck := rfl
@[simp] theorem Hart.putStr_vtag (h : Hart) (v bits poi : Nat) : (h.putStr v bits poi).vtag = h.vtag := rfl
@[simp] theorem Hart.putStr_full (h : Hart) (v bits poi : Nat) : (h.putStr v bits poi).full = h.full := rfl
@[simp] theorem Hart.putStr_resv (h : Hart) (v bits poi : Nat) : (h.putStr v bits poi).resv = h.resv := rfl
@[simp] theorem Hart.putStr_fcsr (h : Hart) (v bits poi : Nat) : (h.putStr v bits poi).fcsr = h.fcsr := rfl
@[simp] theorem Hart.putStr_instret (h : Hart) (v bits poi : Nat) : (h.putStr v bits poi).instret = h.instret := rfl
@[simp] theorem Hart.putStr_mgrant (h : Hart) (v bits poi : Nat) : (h.putStr v bits poi).mgrant = h.mgrant := rfl
@[simp] theorem Hart.putStr_tcause (h : Hart) (v bits poi : Nat) : (h.putStr v bits poi).tcause = h.tcause := rfl
@[simp] theorem Hart.putStr_tepc (h : Hart) (v bits poi : Nat) : (h.putStr v bits poi).tepc = h.tepc := rfl
@[simp] theorem Hart.putStr_tval (h : Hart) (v bits poi : Nat) : (h.putStr v bits poi).tval = h.tval := rfl
@[simp] theorem Hart.putStr_tvec (h : Hart) (v bits poi : Nat) : (h.putStr v bits poi).tvec = h.tvec := rfl
@[simp] theorem Hart.putStr_tstat (h : Hart) (v bits poi : Nat) : (h.putStr v bits poi).tstat = h.tstat := rfl
@[simp] theorem Hart.putStr_fb (h : Hart) (v bits poi : Nat) : (h.putStr v bits poi).fb = h.fb := rfl
@[simp] theorem Hart.putStr_tcmp (h : Hart) (v bits poi : Nat) : (h.putStr v bits poi).tcmp = h.tcmp := rfl
@[simp] theorem Hart.putStr_report (h : Hart) (v bits poi : Nat) : (h.putStr v bits poi).report = h.report := rfl
@[simp] theorem Hart.putStr_posted (h : Hart) (v bits poi : Nat) : (h.putStr v bits poi).posted = h.posted := rfl
@[simp] theorem Hart.putStr_pend (h : Hart) (v bits poi : Nat) : (h.putStr v bits poi).pend = h.pend := rfl
@[simp] theorem Hart.putStr_tok (h : Hart) (v bits poi : Nat) : (h.putStr v bits poi).tok = h.tok := rfl
@[simp] theorem Hart.putStr_cc (h : Hart) (v bits poi : Nat) : (h.putStr v bits poi).cc = h.cc := rfl
@[simp] theorem Hart.putStr_win (h : Hart) (v bits poi : Nat) : (h.putStr v bits poi).win = h.win := rfl
@[simp] theorem Hart.putStr_unf (h : Hart) (v bits poi : Nat) : (h.putStr v bits poi).unf = h.unf := rfl
@[simp] theorem Hart.putStr_copyQ (h : Hart) (v bits poi : Nat) : (h.putStr v bits poi).copyQ = h.copyQ := rfl
@[simp] theorem Hart.putStr_copySt (h : Hart) (v bits poi : Nat) : (h.putStr v bits poi).copySt = h.copySt := rfl
@[simp] theorem Hart.putStr_nbQ (h : Hart) (v bits poi : Nat) : (h.putStr v bits poi).nbQ = h.nbQ := rfl
@[simp] theorem Hart.putStr_nbSt (h : Hart) (v bits poi : Nat) : (h.putStr v bits poi).nbSt = h.nbSt := rfl
@[simp] theorem Hart.putStr_inWait (h : Hart) (v bits poi : Nat) : (h.putStr v bits poi).inWait = h.inWait := rfl
@[simp] theorem Hart.putStr_woken (h : Hart) (v bits poi : Nat) : (h.putStr v bits poi).woken = h.woken := rfl
@[simp] theorem Hart.putStr_mq (h : Hart) (v bits poi : Nat) : (h.putStr v bits poi).mq = h.mq := rfl
@[simp] theorem Hart.putStr_pushes (h : Hart) (v bits poi : Nat) : (h.putStr v bits poi).pushes = h.pushes := rfl
@[simp] theorem Hart.putStr_pushNo (h : Hart) (v bits poi : Nat) : (h.putStr v bits poi).pushNo = h.pushNo := rfl
@[simp] theorem Hart.putStr_colls (h : Hart) (v bits poi : Nat) : (h.putStr v bits poi).colls = h.colls := rfl
@[simp] theorem Hart.putStr_collCnt (h : Hart) (v bits poi : Nat) : (h.putStr v bits poi).collCnt = h.collCnt := rfl
@[simp] theorem Hart.putStr_collRank (h : Hart) (v bits poi : Nat) : (h.putStr v bits poi).collRank = h.collRank := rfl
@[simp] theorem Hart.putStr_collRes (h : Hart) (v bits poi : Nat) : (h.putStr v bits poi).collRes = h.collRes := rfl
@[simp] theorem Hart.putStr_stopAt (h : Hart) (v bits poi : Nat) : (h.putStr v bits poi).stopAt = h.stopAt := rfl
@[simp] theorem Hart.putStr_preempting (h : Hart) (v bits poi : Nat) : (h.putStr v bits poi).preempting = h.preempting := rfl
@[simp] theorem Hart.putStr_depth (h : Hart) (v bits poi : Nat) : (h.putStr v bits poi).depth = h.depth := rfl
@[simp] theorem Hart.putStr_exiting (h : Hart) (v bits poi : Nat) : (h.putStr v bits poi).exiting = h.exiting := rfl
@[simp] theorem Hart.putStr_reissue (h : Hart) (v bits poi : Nat) : (h.putStr v bits poi).reissue = h.reissue := rfl
@[simp] theorem Hart.putStr_waitStart (h : Hart) (v bits poi : Nat) : (h.putStr v bits poi).waitStart = h.waitStart := rfl
@[simp] theorem Hart.putStr_headSince (h : Hart) (v bits poi : Nat) : (h.putStr v bits poi).headSince = h.headSince := rfl
@[simp] theorem Hart.putStr_ahead (h : Hart) (v bits poi : Nat) : (h.putStr v bits poi).ahead = h.ahead := rfl
@[simp] theorem Hart.putStr_trapped (h : Hart) (v bits poi : Nat) : (h.putStr v bits poi).trapped = h.trapped := rfl

/-! ### Hart.writeElems -/

@[simp] theorem Hart.writeElems_hid (h : Hart) (v w : Nat) (ws : Writes) : (h.writeElems v w ws).hid = h.hid := by
  unfold Hart.writeElems Hart.freshen; split
  · rfl
  · split <;> rfl
@[simp] theorem Hart.writeElems_run (h : Hart) (v w : Nat) (ws : Writes) : (h.writeElems v w ws).run = h.run := by
  unfold Hart.writeElems Hart.freshen; split
  · rfl
  · split <;> rfl
@[simp] theorem Hart.writeElems_mode (h : Hart) (v w : Nat) (ws : Writes) : (h.writeElems v w ws).mode = h.mode := by
  unfold Hart.writeElems Hart.freshen; split
  · rfl
  · split <;> rfl
@[simp] theorem Hart.writeElems_tenant (h : Hart) (v w : Nat) (ws : Writes) : (h.writeElems v w ws).tenant = h.tenant := by
  unfold Hart.writeElems Hart.freshen; split
  · rfl
  · split <;> rfl
@[simp] theorem Hart.writeElems_launch (h : Hart) (v w : Nat) (ws : Writes) : (h.writeElems v w ws).launch = h.launch := by
  unfold Hart.writeElems Hart.freshen; split
  · rfl
  · split <;> rfl
@[simp] theorem Hart.writeElems_gid (h : Hart) (v w : Nat) (ws : Writes) : (h.writeElems v w ws).gid = h.gid := by
  unfold Hart.writeElems Hart.freshen; split
  · rfl
  · split <;> rfl
@[simp] theorem Hart.writeElems_kclass (h : Hart) (v w : Nat) (ws : Writes) : (h.writeElems v w ws).kclass = h.kclass := by
  unfold Hart.writeElems Hart.freshen; split
  · rfl
  · split <;> rfl
@[simp] theorem Hart.writeElems_pc (h : Hart) (v w : Nat) (ws : Writes) : (h.writeElems v w ws).pc = h.pc := by
  unfold Hart.writeElems Hart.freshen; split
  · rfl
  · split <;> rfl
@[simp] theorem Hart.writeElems_x (h : Hart) (v w : Nat) (ws : Writes) : (h.writeElems v w ws).x = h.x := by
  unfold Hart.writeElems Hart.freshen; split
  · rfl
  · split <;> rfl
@[simp] theorem Hart.writeElems_sb (h : Hart) (v w : Nat) (ws : Writes) : (h.writeElems v w ws).sb = h.sb := by
  unfold Hart.writeElems Hart.freshen; split
  · rfl
  · split <;> rfl
@[simp] theorem Hart.writeElems_xcor (h : Hart) (v w : Nat) (ws : Writes) : (h.writeElems v w ws).xcor = h.xcor := by
  unfold Hart.writeElems Hart.freshen; split
  · rfl
  · split <;> rfl
@[simp] theorem Hart.writeElems_xbad (h : Hart) (v w : Nat) (ws : Writes) : (h.writeElems v w ws).xbad = h.xbad := by
  unfold Hart.writeElems Hart.freshen; split
  · rfl
  · split <;> rfl
@[simp] theorem Hart.writeElems_p (h : Hart) (v w : Nat) (ws : Writes) : (h.writeElems v w ws).p = h.p := by
  unfold Hart.writeElems Hart.freshen; split
  · rfl
  · split <;> rfl
@[simp] theorem Hart.writeElems_pcor (h : Hart) (v w : Nat) (ws : Writes) : (h.writeElems v w ws).pcor = h.pcor := by
  unfold Hart.writeElems Hart.freshen; split
  · rfl
  · split <;> rfl
@[simp] theorem Hart.writeElems_pbad (h : Hart) (v w : Nat) (ws : Writes) : (h.writeElems v w ws).pbad = h.pbad := by
  unfold Hart.writeElems Hart.freshen; split
  · rfl
  · split <;> rfl
@[simp] theorem Hart.writeElems_vl (h : Hart) (v w : Nat) (ws : Writes) : (h.writeElems v w ws).vl = h.vl := by
  unfold Hart.writeElems Hart.freshen; split
  · rfl
  · split <;> rfl
@[simp] theorem Hart.writeElems_vh (h : Hart) (v w : Nat) (ws : Writes) : (h.writeElems v w ws).vh = h.vh := by
  unfold Hart.writeElems Hart.freshen; split
  · rfl
  · split <;> rfl
@[simp] theorem Hart.writeElems_regs (h : Hart) (v w : Nat) (ws : Writes) : (h.writeElems v w ws).regs = h.regs := by
  unfold Hart.writeElems Hart.freshen; split
  · rfl
  · split <;> rfl
@[simp] theorem Hart.writeElems_nxt (h : Hart) (v w : Nat) (ws : Writes) : (h.writeElems v w ws).nxt = h.nxt := by
  unfold Hart.writeElems Hart.freshen; split
  · rfl
  · split <;> rfl
@[simp] theorem Hart.writeElems_blk (h : Hart) (v w : Nat) (ws : Writes) : (h.writeElems v w ws).blk = h.blk := by
  unfold Hart.writeElems Hart.freshen; split
  · rfl
  · split <;> rfl
@[simp] theorem Hart.writeElems_vstart (h : Hart) (v w : Nat) (ws : Writes) : (h.writeElems v w ws).vstart = h.vstart := by
  unfold Hart.writeElems Hart.freshen; split
  · rfl
  · split <;> rfl
@[simp] theorem Hart.writeElems_vqin (h : Hart) (v w : Nat) (ws : Writes) : (h.writeElems v w ws).vqin = h.vqin := by
  unfold Hart.writeElems Hart.freshen; split
  · rfl
  · split <;> rfl
@[simp] theorem Hart.writeElems_vqout (h : Hart) (v w : Nat) (ws : Writes) : (h.writeElems v w ws).vqout = h.vqout := by
  unfold Hart.writeElems Hart.freshen; split
  · rfl
  · split <;> rfl
@[simp] theorem Hart.writeElems_fm (h : Hart) (v w : Nat) (ws : Writes) : (h.writeElems v w ws).fm = h.fm := by
  unfold Hart.writeElems Hart.freshen; split
  · rfl
  · split <;> rfl
@[simp] theorem Hart.writeElems_struck (h : Hart) (v w : Nat) (ws : Writes) : (h.writeElems v w ws).struck = h.struck := by
  unfold Hart.writeElems Hart.freshen; split
  · rfl
  · split <;> rfl
@[simp] theorem Hart.writeElems_vtag (h : Hart) (v w : Nat) (ws : Writes) : (h.writeElems v w ws).vtag = h.vtag := by
  unfold Hart.writeElems Hart.freshen; split
  · rfl
  · split <;> rfl
@[simp] theorem Hart.writeElems_full (h : Hart) (v w : Nat) (ws : Writes) : (h.writeElems v w ws).full = h.full := by
  unfold Hart.writeElems Hart.freshen; split
  · rfl
  · split <;> rfl
@[simp] theorem Hart.writeElems_resv (h : Hart) (v w : Nat) (ws : Writes) : (h.writeElems v w ws).resv = h.resv := by
  unfold Hart.writeElems Hart.freshen; split
  · rfl
  · split <;> rfl
@[simp] theorem Hart.writeElems_fcsr (h : Hart) (v w : Nat) (ws : Writes) : (h.writeElems v w ws).fcsr = h.fcsr := by
  unfold Hart.writeElems Hart.freshen; split
  · rfl
  · split <;> rfl
@[simp] theorem Hart.writeElems_instret (h : Hart) (v w : Nat) (ws : Writes) : (h.writeElems v w ws).instret = h.instret := by
  unfold Hart.writeElems Hart.freshen; split
  · rfl
  · split <;> rfl
@[simp] theorem Hart.writeElems_mgrant (h : Hart) (v w : Nat) (ws : Writes) : (h.writeElems v w ws).mgrant = h.mgrant := by
  unfold Hart.writeElems Hart.freshen; split
  · rfl
  · split <;> rfl
@[simp] theorem Hart.writeElems_tcause (h : Hart) (v w : Nat) (ws : Writes) : (h.writeElems v w ws).tcause = h.tcause := by
  unfold Hart.writeElems Hart.freshen; split
  · rfl
  · split <;> rfl
@[simp] theorem Hart.writeElems_tepc (h : Hart) (v w : Nat) (ws : Writes) : (h.writeElems v w ws).tepc = h.tepc := by
  unfold Hart.writeElems Hart.freshen; split
  · rfl
  · split <;> rfl
@[simp] theorem Hart.writeElems_tval (h : Hart) (v w : Nat) (ws : Writes) : (h.writeElems v w ws).tval = h.tval := by
  unfold Hart.writeElems Hart.freshen; split
  · rfl
  · split <;> rfl
@[simp] theorem Hart.writeElems_tvec (h : Hart) (v w : Nat) (ws : Writes) : (h.writeElems v w ws).tvec = h.tvec := by
  unfold Hart.writeElems Hart.freshen; split
  · rfl
  · split <;> rfl
@[simp] theorem Hart.writeElems_tstat (h : Hart) (v w : Nat) (ws : Writes) : (h.writeElems v w ws).tstat = h.tstat := by
  unfold Hart.writeElems Hart.freshen; split
  · rfl
  · split <;> rfl
@[simp] theorem Hart.writeElems_fb (h : Hart) (v w : Nat) (ws : Writes) : (h.writeElems v w ws).fb = h.fb := by
  unfold Hart.writeElems Hart.freshen; split
  · rfl
  · split <;> rfl
@[simp] theorem Hart.writeElems_tcmp (h : Hart) (v w : Nat) (ws : Writes) : (h.writeElems v w ws).tcmp = h.tcmp := by
  unfold Hart.writeElems Hart.freshen; split
  · rfl
  · split <;> rfl
@[simp] theorem Hart.writeElems_report (h : Hart) (v w : Nat) (ws : Writes) : (h.writeElems v w ws).report = h.report := by
  unfold Hart.writeElems Hart.freshen; split
  · rfl
  · split <;> rfl
@[simp] theorem Hart.writeElems_posted (h : Hart) (v w : Nat) (ws : Writes) : (h.writeElems v w ws).posted = h.posted := by
  unfold Hart.writeElems Hart.freshen; split
  · rfl
  · split <;> rfl
@[simp] theorem Hart.writeElems_pend (h : Hart) (v w : Nat) (ws : Writes) : (h.writeElems v w ws).pend = h.pend := by
  unfold Hart.writeElems Hart.freshen; split
  · rfl
  · split <;> rfl
@[simp] theorem Hart.writeElems_tok (h : Hart) (v w : Nat) (ws : Writes) : (h.writeElems v w ws).tok = h.tok := by
  unfold Hart.writeElems Hart.freshen; split
  · rfl
  · split <;> rfl
@[simp] theorem Hart.writeElems_cc (h : Hart) (v w : Nat) (ws : Writes) : (h.writeElems v w ws).cc = h.cc := by
  unfold Hart.writeElems Hart.freshen; split
  · rfl
  · split <;> rfl
@[simp] theorem Hart.writeElems_win (h : Hart) (v w : Nat) (ws : Writes) : (h.writeElems v w ws).win = h.win := by
  unfold Hart.writeElems Hart.freshen; split
  · rfl
  · split <;> rfl
@[simp] theorem Hart.writeElems_unf (h : Hart) (v w : Nat) (ws : Writes) : (h.writeElems v w ws).unf = h.unf := by
  unfold Hart.writeElems Hart.freshen; split
  · rfl
  · split <;> rfl
@[simp] theorem Hart.writeElems_copyQ (h : Hart) (v w : Nat) (ws : Writes) : (h.writeElems v w ws).copyQ = h.copyQ := by
  unfold Hart.writeElems Hart.freshen; split
  · rfl
  · split <;> rfl
@[simp] theorem Hart.writeElems_copySt (h : Hart) (v w : Nat) (ws : Writes) : (h.writeElems v w ws).copySt = h.copySt := by
  unfold Hart.writeElems Hart.freshen; split
  · rfl
  · split <;> rfl
@[simp] theorem Hart.writeElems_nbQ (h : Hart) (v w : Nat) (ws : Writes) : (h.writeElems v w ws).nbQ = h.nbQ := by
  unfold Hart.writeElems Hart.freshen; split
  · rfl
  · split <;> rfl
@[simp] theorem Hart.writeElems_nbSt (h : Hart) (v w : Nat) (ws : Writes) : (h.writeElems v w ws).nbSt = h.nbSt := by
  unfold Hart.writeElems Hart.freshen; split
  · rfl
  · split <;> rfl
@[simp] theorem Hart.writeElems_inWait (h : Hart) (v w : Nat) (ws : Writes) : (h.writeElems v w ws).inWait = h.inWait := by
  unfold Hart.writeElems Hart.freshen; split
  · rfl
  · split <;> rfl
@[simp] theorem Hart.writeElems_woken (h : Hart) (v w : Nat) (ws : Writes) : (h.writeElems v w ws).woken = h.woken := by
  unfold Hart.writeElems Hart.freshen; split
  · rfl
  · split <;> rfl
@[simp] theorem Hart.writeElems_mq (h : Hart) (v w : Nat) (ws : Writes) : (h.writeElems v w ws).mq = h.mq := by
  unfold Hart.writeElems Hart.freshen; split
  · rfl
  · split <;> rfl
@[simp] theorem Hart.writeElems_pushes (h : Hart) (v w : Nat) (ws : Writes) : (h.writeElems v w ws).pushes = h.pushes := by
  unfold Hart.writeElems Hart.freshen; split
  · rfl
  · split <;> rfl
@[simp] theorem Hart.writeElems_pushNo (h : Hart) (v w : Nat) (ws : Writes) : (h.writeElems v w ws).pushNo = h.pushNo := by
  unfold Hart.writeElems Hart.freshen; split
  · rfl
  · split <;> rfl
@[simp] theorem Hart.writeElems_colls (h : Hart) (v w : Nat) (ws : Writes) : (h.writeElems v w ws).colls = h.colls := by
  unfold Hart.writeElems Hart.freshen; split
  · rfl
  · split <;> rfl
@[simp] theorem Hart.writeElems_collCnt (h : Hart) (v w : Nat) (ws : Writes) : (h.writeElems v w ws).collCnt = h.collCnt := by
  unfold Hart.writeElems Hart.freshen; split
  · rfl
  · split <;> rfl
@[simp] theorem Hart.writeElems_collRank (h : Hart) (v w : Nat) (ws : Writes) : (h.writeElems v w ws).collRank = h.collRank := by
  unfold Hart.writeElems Hart.freshen; split
  · rfl
  · split <;> rfl
@[simp] theorem Hart.writeElems_collRes (h : Hart) (v w : Nat) (ws : Writes) : (h.writeElems v w ws).collRes = h.collRes := by
  unfold Hart.writeElems Hart.freshen; split
  · rfl
  · split <;> rfl
@[simp] theorem Hart.writeElems_stopAt (h : Hart) (v w : Nat) (ws : Writes) : (h.writeElems v w ws).stopAt = h.stopAt := by
  unfold Hart.writeElems Hart.freshen; split
  · rfl
  · split <;> rfl
@[simp] theorem Hart.writeElems_preempting (h : Hart) (v w : Nat) (ws : Writes) : (h.writeElems v w ws).preempting = h.preempting := by
  unfold Hart.writeElems Hart.freshen; split
  · rfl
  · split <;> rfl
@[simp] theorem Hart.writeElems_depth (h : Hart) (v w : Nat) (ws : Writes) : (h.writeElems v w ws).depth = h.depth := by
  unfold Hart.writeElems Hart.freshen; split
  · rfl
  · split <;> rfl
@[simp] theorem Hart.writeElems_exiting (h : Hart) (v w : Nat) (ws : Writes) : (h.writeElems v w ws).exiting = h.exiting := by
  unfold Hart.writeElems Hart.freshen; split
  · rfl
  · split <;> rfl
@[simp] theorem Hart.writeElems_reissue (h : Hart) (v w : Nat) (ws : Writes) : (h.writeElems v w ws).reissue = h.reissue := by
  unfold Hart.writeElems Hart.freshen; split
  · rfl
  · split <;> rfl
@[simp] theorem Hart.writeElems_waitStart (h : Hart) (v w : Nat) (ws : Writes) : (h.writeElems v w ws).waitStart = h.waitStart := by
  unfold Hart.writeElems Hart.freshen; split
  · rfl
  · split <;> rfl
@[simp] theorem Hart.writeElems_headSince (h : Hart) (v w : Nat) (ws : Writes) : (h.writeElems v w ws).headSince = h.headSince := by
  unfold Hart.writeElems Hart.freshen; split
  · rfl
  · split <;> rfl
@[simp] theorem Hart.writeElems_ahead (h : Hart) (v w : Nat) (ws : Writes) : (h.writeElems v w ws).ahead = h.ahead := by
  unfold Hart.writeElems Hart.freshen; split
  · rfl
  · split <;> rfl
@[simp] theorem Hart.writeElems_trapped (h : Hart) (v w : Nat) (ws : Writes) : (h.writeElems v w ws).trapped = h.trapped := by
  unfold Hart.writeElems Hart.freshen; split
  · rfl
  · split <;> rfl

/-! ### Hart.enter -/

@[simp] theorem Hart.enter_hid (h : Hart) (t : Trap) : (h.enter t).hid = h.hid := rfl
@[simp] theorem Hart.enter_tenant (h : Hart) (t : Trap) : (h.enter t).tenant = h.tenant := rfl
@[simp] theorem Hart.enter_launch (h : Hart) (t : Trap) : (h.enter t).launch = h.launch := rfl
@[simp] theorem Hart.enter_gid (h : Hart) (t : Trap) : (h.enter t).gid = h.gid := rfl
@[simp] theorem Hart.enter_kclass (h : Hart) (t : Trap) : (h.enter t).kclass = h.kclass := rfl
@[simp] theorem Hart.enter_x (h : Hart) (t : Trap) : (h.enter t).x = h.x := rfl
@[simp] theorem Hart.enter_sb (h : Hart) (t : Trap) : (h.enter t).sb = h.sb := rfl
@[simp] theorem Hart.enter_xcor (h : Hart) (t : Trap) : (h.enter t).xcor = h.xcor := rfl
@[simp] theorem Hart.enter_xbad (h : Hart) (t : Trap) : (h.enter t).xbad = h.xbad := rfl
@[simp] theorem Hart.enter_p (h : Hart) (t : Trap) : (h.enter t).p = h.p := rfl
@[simp] theorem Hart.enter_pcor (h : Hart) (t : Trap) : (h.enter t).pcor = h.pcor := rfl
@[simp] theorem Hart.enter_pbad (h : Hart) (t : Trap) : (h.enter t).pbad = h.pbad := rfl
@[simp] theorem Hart.enter_vl (h : Hart) (t : Trap) : (h.enter t).vl = h.vl := rfl
@[simp] theorem Hart.enter_vh (h : Hart) (t : Trap) : (h.enter t).vh = h.vh := rfl
@[simp] theorem Hart.enter_regs (h : Hart) (t : Trap) : (h.enter t).regs = h.regs := rfl
@[simp] theorem Hart.enter_nxt (h : Hart) (t : Trap) : (h.enter t).nxt = h.nxt := rfl
@[simp] theorem Hart.enter_blk (h : Hart) (t : Trap) : (h.enter t).blk = h.blk := rfl
@[simp] theorem Hart.enter_vstart (h : Hart) (t : Trap) : (h.enter t).vstart = h.vstart := rfl
@[simp] theorem Hart.enter_vdirty (h : Hart) (t : Trap) : (h.enter t).vdirty = h.vdirty := rfl
@[simp] theorem Hart.enter_vqin (h : Hart) (t : Trap) : (h.enter t).vqin = h.vqin := rfl
@[simp] theorem Hart.enter_vqout (h : Hart) (t : Trap) : (h.enter t).vqout = h.vqout := rfl
@[simp] theorem Hart.enter_fm (h : Hart) (t : Trap) : (h.enter t).fm = h.fm := rfl
@[simp] theorem Hart.enter_vst (h : Hart) (t : Trap) : (h.enter t).vst = h.vst := rfl
@[simp] theorem Hart.enter_vpoi (h : Hart) (t : Trap) : (h.enter t).vpoi = h.vpoi := rfl
@[simp] theorem Hart.enter_vcor (h : Hart) (t : Trap) : (h.enter t).vcor = h.vcor := rfl
@[simp] theorem Hart.enter_struck (h : Hart) (t : Trap) : (h.enter t).struck = h.struck := rfl
@[simp] theorem Hart.enter_vtag (h : Hart) (t : Trap) : (h.enter t).vtag = h.vtag := rfl
@[simp] theorem Hart.enter_full (h : Hart) (t : Trap) : (h.enter t).full = h.full := rfl
@[simp] theorem Hart.enter_resv (h : Hart) (t : Trap) : (h.enter t).resv = h.resv := rfl
@[simp] theorem Hart.enter_fcsr (h : Hart) (t : Trap) : (h.enter t).fcsr = h.fcsr := rfl
@[simp] theorem Hart.enter_instret (h : Hart) (t : Trap) : (h.enter t).instret = h.instret := rfl
@[simp] theorem Hart.enter_mgrant (h : Hart) (t : Trap) : (h.enter t).mgrant = h.mgrant := rfl
@[simp] theorem Hart.enter_tvec (h : Hart) (t : Trap) : (h.enter t).tvec = h.tvec := rfl
@[simp] theorem Hart.enter_tcmp (h : Hart) (t : Trap) : (h.enter t).tcmp = h.tcmp := rfl
@[simp] theorem Hart.enter_report (h : Hart) (t : Trap) : (h.enter t).report = h.report := rfl
@[simp] theorem Hart.enter_posted (h : Hart) (t : Trap) : (h.enter t).posted = h.posted := rfl
@[simp] theorem Hart.enter_pend (h : Hart) (t : Trap) : (h.enter t).pend = h.pend := rfl
@[simp] theorem Hart.enter_tok (h : Hart) (t : Trap) : (h.enter t).tok = h.tok := rfl
@[simp] theorem Hart.enter_cc (h : Hart) (t : Trap) : (h.enter t).cc = h.cc := rfl
@[simp] theorem Hart.enter_win (h : Hart) (t : Trap) : (h.enter t).win = h.win := rfl
@[simp] theorem Hart.enter_unf (h : Hart) (t : Trap) : (h.enter t).unf = h.unf := rfl
@[simp] theorem Hart.enter_copyQ (h : Hart) (t : Trap) : (h.enter t).copyQ = h.copyQ := rfl
@[simp] theorem Hart.enter_copySt (h : Hart) (t : Trap) : (h.enter t).copySt = h.copySt := rfl
@[simp] theorem Hart.enter_nbQ (h : Hart) (t : Trap) : (h.enter t).nbQ = h.nbQ := rfl
@[simp] theorem Hart.enter_nbSt (h : Hart) (t : Trap) : (h.enter t).nbSt = h.nbSt := rfl
@[simp] theorem Hart.enter_woken (h : Hart) (t : Trap) : (h.enter t).woken = h.woken := rfl
@[simp] theorem Hart.enter_mq (h : Hart) (t : Trap) : (h.enter t).mq = h.mq := rfl
@[simp] theorem Hart.enter_pushes (h : Hart) (t : Trap) : (h.enter t).pushes = h.pushes := rfl
@[simp] theorem Hart.enter_pushNo (h : Hart) (t : Trap) : (h.enter t).pushNo = h.pushNo := rfl
@[simp] theorem Hart.enter_colls (h : Hart) (t : Trap) : (h.enter t).colls = h.colls := rfl
@[simp] theorem Hart.enter_collCnt (h : Hart) (t : Trap) : (h.enter t).collCnt = h.collCnt := rfl
@[simp] theorem Hart.enter_collRank (h : Hart) (t : Trap) : (h.enter t).collRank = h.collRank := rfl
@[simp] theorem Hart.enter_collRes (h : Hart) (t : Trap) : (h.enter t).collRes = h.collRes := rfl
@[simp] theorem Hart.enter_stopAt (h : Hart) (t : Trap) : (h.enter t).stopAt = h.stopAt := rfl
@[simp] theorem Hart.enter_exiting (h : Hart) (t : Trap) : (h.enter t).exiting = h.exiting := rfl
@[simp] theorem Hart.enter_headSince (h : Hart) (t : Trap) : (h.enter t).headSince = h.headSince := rfl
@[simp] theorem Hart.enter_ahead (h : Hart) (t : Trap) : (h.enter t).ahead = [] := rfl
@[simp] theorem Hart.enter_trapped (h : Hart) (t : Trap) : (h.enter t).trapped = h.trapped := rfl

/-! ### Hart.vdone -/

@[simp] theorem Hart.vdone_hid (h : Hart) : (h.vdone).hid = h.hid := rfl
@[simp] theorem Hart.vdone_run (h : Hart) : (h.vdone).run = h.run := rfl
@[simp] theorem Hart.vdone_mode (h : Hart) : (h.vdone).mode = h.mode := rfl
@[simp] theorem Hart.vdone_tenant (h : Hart) : (h.vdone).tenant = h.tenant := rfl
@[simp] theorem Hart.vdone_launch (h : Hart) : (h.vdone).launch = h.launch := rfl
@[simp] theorem Hart.vdone_gid (h : Hart) : (h.vdone).gid = h.gid := rfl
@[simp] theorem Hart.vdone_kclass (h : Hart) : (h.vdone).kclass = h.kclass := rfl
@[simp] theorem Hart.vdone_pc (h : Hart) : (h.vdone).pc = h.pc := rfl
@[simp] theorem Hart.vdone_x (h : Hart) : (h.vdone).x = h.x := rfl
@[simp] theorem Hart.vdone_sb (h : Hart) : (h.vdone).sb = h.sb := rfl
@[simp] theorem Hart.vdone_xcor (h : Hart) : (h.vdone).xcor = h.xcor := rfl
@[simp] theorem Hart.vdone_xbad (h : Hart) : (h.vdone).xbad = h.xbad := rfl
@[simp] theorem Hart.vdone_p (h : Hart) : (h.vdone).p = h.p := rfl
@[simp] theorem Hart.vdone_pcor (h : Hart) : (h.vdone).pcor = h.pcor := rfl
@[simp] theorem Hart.vdone_pbad (h : Hart) : (h.vdone).pbad = h.pbad := rfl
@[simp] theorem Hart.vdone_vl (h : Hart) : (h.vdone).vl = h.vl := rfl
@[simp] theorem Hart.vdone_vh (h : Hart) : (h.vdone).vh = h.vh := rfl
@[simp] theorem Hart.vdone_regs (h : Hart) : (h.vdone).regs = h.regs := rfl
@[simp] theorem Hart.vdone_nxt (h : Hart) : (h.vdone).nxt = h.nxt := rfl
@[simp] theorem Hart.vdone_blk (h : Hart) : (h.vdone).blk = h.blk := rfl
@[simp] theorem Hart.vdone_vdirty (h : Hart) : (h.vdone).vdirty = h.vdirty := rfl
@[simp] theorem Hart.vdone_vqin (h : Hart) : (h.vdone).vqin = h.vqin := rfl
@[simp] theorem Hart.vdone_vqout (h : Hart) : (h.vdone).vqout = h.vqout := rfl
@[simp] theorem Hart.vdone_vst (h : Hart) : (h.vdone).vst = h.vst := rfl
@[simp] theorem Hart.vdone_vpoi (h : Hart) : (h.vdone).vpoi = h.vpoi := rfl
@[simp] theorem Hart.vdone_vcor (h : Hart) : (h.vdone).vcor = h.vcor := rfl
@[simp] theorem Hart.vdone_struck (h : Hart) : (h.vdone).struck = h.struck := rfl
@[simp] theorem Hart.vdone_vtag (h : Hart) : (h.vdone).vtag = h.vtag := rfl
@[simp] theorem Hart.vdone_full (h : Hart) : (h.vdone).full = h.full := rfl
@[simp] theorem Hart.vdone_resv (h : Hart) : (h.vdone).resv = h.resv := rfl
@[simp] theorem Hart.vdone_fcsr (h : Hart) : (h.vdone).fcsr = h.fcsr := rfl
@[simp] theorem Hart.vdone_instret (h : Hart) : (h.vdone).instret = h.instret := rfl
@[simp] theorem Hart.vdone_mgrant (h : Hart) : (h.vdone).mgrant = h.mgrant := rfl
@[simp] theorem Hart.vdone_tcause (h : Hart) : (h.vdone).tcause = h.tcause := rfl
@[simp] theorem Hart.vdone_tepc (h : Hart) : (h.vdone).tepc = h.tepc := rfl
@[simp] theorem Hart.vdone_tval (h : Hart) : (h.vdone).tval = h.tval := rfl
@[simp] theorem Hart.vdone_tvec (h : Hart) : (h.vdone).tvec = h.tvec := rfl
@[simp] theorem Hart.vdone_tstat (h : Hart) : (h.vdone).tstat = h.tstat := rfl
@[simp] theorem Hart.vdone_fb (h : Hart) : (h.vdone).fb = h.fb := rfl
@[simp] theorem Hart.vdone_tcmp (h : Hart) : (h.vdone).tcmp = h.tcmp := rfl
@[simp] theorem Hart.vdone_report (h : Hart) : (h.vdone).report = h.report := rfl
@[simp] theorem Hart.vdone_posted (h : Hart) : (h.vdone).posted = h.posted := rfl
@[simp] theorem Hart.vdone_pend (h : Hart) : (h.vdone).pend = h.pend := rfl
@[simp] theorem Hart.vdone_tok (h : Hart) : (h.vdone).tok = h.tok := rfl
@[simp] theorem Hart.vdone_cc (h : Hart) : (h.vdone).cc = h.cc := rfl
@[simp] theorem Hart.vdone_win (h : Hart) : (h.vdone).win = h.win := rfl
@[simp] theorem Hart.vdone_unf (h : Hart) : (h.vdone).unf = h.unf := rfl
@[simp] theorem Hart.vdone_copyQ (h : Hart) : (h.vdone).copyQ = h.copyQ := rfl
@[simp] theorem Hart.vdone_copySt (h : Hart) : (h.vdone).copySt = h.copySt := rfl
@[simp] theorem Hart.vdone_nbQ (h : Hart) : (h.vdone).nbQ = h.nbQ := rfl
@[simp] theorem Hart.vdone_nbSt (h : Hart) : (h.vdone).nbSt = h.nbSt := rfl
@[simp] theorem Hart.vdone_inWait (h : Hart) : (h.vdone).inWait = h.inWait := rfl
@[simp] theorem Hart.vdone_woken (h : Hart) : (h.vdone).woken = h.woken := rfl
@[simp] theorem Hart.vdone_mq (h : Hart) : (h.vdone).mq = h.mq := rfl
@[simp] theorem Hart.vdone_pushes (h : Hart) : (h.vdone).pushes = h.pushes := rfl
@[simp] theorem Hart.vdone_pushNo (h : Hart) : (h.vdone).pushNo = h.pushNo := rfl
@[simp] theorem Hart.vdone_colls (h : Hart) : (h.vdone).colls = h.colls := rfl
@[simp] theorem Hart.vdone_collCnt (h : Hart) : (h.vdone).collCnt = h.collCnt := rfl
@[simp] theorem Hart.vdone_collRank (h : Hart) : (h.vdone).collRank = h.collRank := rfl
@[simp] theorem Hart.vdone_collRes (h : Hart) : (h.vdone).collRes = h.collRes := rfl
@[simp] theorem Hart.vdone_stopAt (h : Hart) : (h.vdone).stopAt = h.stopAt := rfl
@[simp] theorem Hart.vdone_preempting (h : Hart) : (h.vdone).preempting = h.preempting := rfl
@[simp] theorem Hart.vdone_depth (h : Hart) : (h.vdone).depth = h.depth := rfl
@[simp] theorem Hart.vdone_exiting (h : Hart) : (h.vdone).exiting = h.exiting := rfl
@[simp] theorem Hart.vdone_reissue (h : Hart) : (h.vdone).reissue = h.reissue := rfl
@[simp] theorem Hart.vdone_waitStart (h : Hart) : (h.vdone).waitStart = h.waitStart := rfl
@[simp] theorem Hart.vdone_headSince (h : Hart) : (h.vdone).headSince = h.headSince := rfl
@[simp] theorem Hart.vdone_ahead (h : Hart) : (h.vdone).ahead = h.ahead := rfl
@[simp] theorem Hart.vdone_trapped (h : Hart) : (h.vdone).trapped = h.trapped := rfl

end Sys2Proof.Machine
end

