-- ==== Sys2Proof/Laws/Issue.lean ====
section
/-! SUPPORT. The shared issue of instructions, once: what it answers when the hart may issue, and where it traps. -/

namespace Sys2Proof.Machine
open Sys2Proof

/-! ## Registers without stored errors -/

theorem touchX_sound {s : State} (h : s.hart.Sound) (i : XReg) : s.touchX i = (s, false) := by
  obtain ⟨h1, h2, -⟩ := h
  simp only [State.touchX, State.touchAt, h1, h2]
  split <;> simp

theorem touchP_sound {s : State} (h : s.hart.Sound) (i : PReg) : s.touchP i = (s, false) := by
  obtain ⟨-, -, h1, h2, -⟩ := h
  simp only [State.touchP, h1, h2]
  split <;> simp

theorem touchXs_sound {s : State} (h : s.hart.Sound) (xs : List XReg) : s.touchXs xs = (s, false) := by
  induction xs with
  | nil => rfl
  | cons i is ih => simp [State.touchXs, touchX_sound h, ih]

theorem touchPs_sound {s : State} (h : s.hart.Sound) (ps : List PReg) : s.touchPs ps = (s, false) := by
  induction ps with
  | nil => rfl
  | cons i is ih => simp [State.touchPs, touchP_sound h, ih]

/-- Reading registers without stored errors does nothing else. -/
theorem reading_sound {s : State} (h : s.hart.Sound) (i : Instr) (xs : List XReg) (ps : List PReg) (body : State → Eff) :
    reading i xs ps body s = body s := by
  simp [reading, readingOr, touchXs_sound h, touchPs_sound h]

/-- The same where a poisoned register does not trap. -/
theorem readingOr_sound {s : State} (h : s.hart.Sound) (bad : State → Eff) (xs : List XReg) (ps : List PReg) (body : State → Eff) :
    readingOr bad xs ps body s = body s := by
  simp [readingOr, touchXs_sound h, touchPs_sound h]

theorem touchBits_sound {s : State} (h : s.hart.Sound) (v : Nat) (rs : List (Nat × Nat)) : s.touchBits v rs = s := by
  obtain ⟨-, -, -, -, h, -⟩ := h
  simp [State.touchBits, h]

theorem touchV_sound {s : State} (h : s.hart.Sound) (v w : Nat) (es : List Nat) : s.touchV v w es = s :=
  touchBits_sound h v _

/-- No field of a register without stored errors is poisoned. -/
theorem vpoiStr_sound {h : Hart} (hs : h.Sound) (v : Nat) : h.vpoiStr v = 0 := by
  obtain ⟨-, -, -, -, -, hp⟩ := hs
  simp [Hart.vpoiStr, hp, elemAt]

@[simp] theorem badAt_zero (w e : Nat) : badAt w 0 e = false := rfl

/-! ## Issue -/

/-- The issue of an instruction whose guard decides the whole of it: its body, or nothing but the next word. -/
theorem issue_ready {s : State} {g : Hdr} (h : s.Ready g.wm) (i : Instr) (onMgmt : Bool) (priv : Priv) (xs : List XReg)
    (ps : List PReg) (body : State → Eff) (hm : (s.hart.isMgmt && !onMgmt) = false) (hp : priv.allows s.hart.mode = true) :
    issue i onMgmt priv g xs ps body s = if s.hart.guard g.grd then finish (body s) else .next s.completed := by
  obtain ⟨hs, hw⟩ := h
  simp only [issue, decodeChecks, hm, hp, hw, reading_sound hs]
  by_cases hg : s.hart.guard g.grd = true <;> simp [hg, finish]

/-- The same for the instructions of every mode that the management hart executes too. -/
theorem issue_all {s : State} {g : Hdr} (h : s.Ready g.wm) (i : Instr) (xs : List XReg) (ps : List PReg)
    (body : State → Eff) :
    issue i true .all g xs ps body s = if s.hart.guard g.grd then finish (body s) else .next s.completed :=
  issue_ready h i true .all xs ps body (by simp) rfl

/-- An instruction that a mode may not execute raises PRIVILEGE with its word (R28, R61). -/
theorem issue_privilege (i : Instr) (onMgmt : Bool) (priv : Priv) (g : Hdr) (xs : List XReg) (ps : List PReg)
    (body : State → Eff) (s : State) (hm : (s.hart.isMgmt && !onMgmt) = false) (hp : priv.allows s.hart.mode = false) :
    issue i onMgmt priv g xs ps body s =
      .next (s.takeTrap { cause := .privilege, epc := s.hart.pc, val := encode i }) := by
  simp [issue, decodeChecks, hm, hp, finish, wordTrap]

/-- An instruction that the management hart lacks raises ILLEGAL_INSTR there (R19). -/
theorem issue_mgmt (i : Instr) (priv : Priv) (g : Hdr) (xs : List XReg) (ps : List PReg) (body : State → Eff) (s : State)
    (hm : s.hart.isMgmt = true) :
    issue i false priv g xs ps body s =
      .next (s.takeTrap { cause := .illegalInstr, epc := s.hart.pc, val := encode i }) := by
  simp [issue, decodeChecks, hm, finish, wordTrap]

/-- An instruction without a guard of its own: PG = 0 and PN = 0 (R40) hold everywhere. -/
@[simp] theorem guard_plain (h : Hart) (wm : BitVec 8) : h.guard (Hdr.plain wm).grd = true := by
  have h0 : h.getP (Hdr.plain wm).grd.pg = BitVec.allOnes 32768 := if_pos rfl
  have hn : (Hdr.plain wm).grd.pn = false := rfl
  rw [Hart.guard, h0, hn, BitVec.getLsbD_allOnes]; rfl
@[simp] theorem active_plain (h : Hart) (wm : BitVec 8) (e : Nat) (he : e < 32768) : h.active (Hdr.plain wm).grd e = true := by
  have h0 : h.getP (Hdr.plain wm).grd.pg = BitVec.allOnes 32768 := if_pos rfl
  have hn : (Hdr.plain wm).grd.pn = false := rfl
  rw [Hart.active, h0, hn, BitVec.getLsbD_allOnes, decide_eq_true he]; rfl
@[simp] theorem plain_wm (wm : BitVec 8) : (Hdr.plain wm).wm = wm := rfl

/-- The issue of a vector instruction: the entry's own checks, and then its body. -/
theorem vecIssue_ready {s : State} {g : Hdr} {nm : Names} (h : s.VReady g nm.regs nm.tk nm.dst) (hw : nm.whole = false)
    (hp : nm.priv.allows s.hart.mode = true) (i : Instr) (ok : State → Bool) (body : State → Eff) (hok : ok s = true) :
    vecIssue i g nm ok body s = finish (body s) := by
  obtain ⟨⟨hs, hwm⟩, ⟨hm, hr, -⟩, htk, hg, hv, hd⟩ := h
  have h1 : (nm.regs.any (fun v => decide (s.hart.nregs ≤ v))) = false := by
    rw [List.any_eq_false]
    intro v hx
    have := List.all_eq_true.1 hv v hx
    simp at this ⊢
    exact this.1
  have h2 : (nm.regs.any s.hart.regBusy) = false := by
    rw [List.any_eq_false]
    intro v hx
    have := List.all_eq_true.1 hv v hx
    simp at this ⊢
    exact this.2
  simp only [vecIssue, decodeChecks, hm, hp, hwm, htk, hw, hr, h1, Hart.interlocked, h2, hd, hok, hg, readingOr_sound hs]
  simp

end Sys2Proof.Machine
end

