-- ==== Sys2Proof/Laws/Elems.lean ====
section
/-! SUPPORT. Fields of strings: a field after a write, and the elements of a vector register after its elements were written. -/

namespace Sys2Proof.Machine
open Sys2Proof

/-! ## Fields -/

theorem elemAt_def (w b e : Nat) : elemAt w b e = b / 2 ^ (e * w) % 2 ^ w := by
  rw [elemAt, Nat.shiftRight_eq_div_pow]

theorem elemAt_lt (w b e : Nat) : elemAt w b e < 2 ^ w := by
  rw [elemAt_def]; exact Nat.mod_lt _ (Nat.two_pow_pos w)

/-- A string is its part above a field, the field, and its part below. -/
theorem field_split (w b e : Nat) :
    b = b / 2 ^ (e * w) / 2 ^ w * 2 ^ w * 2 ^ (e * w) + elemAt w b e * 2 ^ (e * w) + b % 2 ^ (e * w) := by
  rw [elemAt_def, ← Nat.add_mul, Nat.mul_comm (_ / 2 ^ w), Nat.div_add_mod, Nat.mul_comm, Nat.div_add_mod]

theorem putElem_eq (w b e v : Nat) :
    putElem w b e v = b / 2 ^ (e * w) / 2 ^ w * 2 ^ w * 2 ^ (e * w) + v % 2 ^ w * 2 ^ (e * w) + b % 2 ^ (e * w) := by
  have h := field_split w b e
  rw [putElem, Nat.shiftLeft_eq, Nat.shiftLeft_eq]
  omega

theorem putElem_div (w b e v : Nat) :
    putElem w b e v / 2 ^ (e * w) = b / 2 ^ (e * w) / 2 ^ w * 2 ^ w + v % 2 ^ w := by
  rw [putElem_eq, ← Nat.add_mul, Nat.add_comm, Nat.add_mul_div_right _ _ (Nat.two_pow_pos _),
    Nat.div_eq_of_lt (Nat.mod_lt _ (Nat.two_pow_pos _)), Nat.zero_add]

/-- A field after it was written. -/
@[simp] theorem elemAt_putElem (w b e v : Nat) : elemAt w (putElem w b e v) e = v % 2 ^ w := by
  rw [elemAt_def, putElem_div, Nat.mul_add_mod_self_right, Nat.mod_mod]

/-- Every other field stays. -/
theorem elemAt_putElem_ne (w b e v j : Nat) (h : j ≠ e) : elemAt w (putElem w b e v) j = elemAt w b j := by
  rcases Nat.lt_or_gt_of_ne h with hj | hj
  · -- a lower field: both strings agree below the written field
    have hm : putElem w b e v % 2 ^ (e * w) = b % 2 ^ (e * w) := by
      rw [putElem_eq, ← Nat.add_mul, Nat.add_comm, Nat.add_mul_mod_self_right, Nat.mod_mod]
    have hs : e * w = j * w + w + (e - j - 1) * w := by
      obtain ⟨k, rfl⟩ : ∃ k, e = j + 1 + k := ⟨e - j - 1, by omega⟩
      rw [show j + 1 + k - j - 1 = k by omega]; ring
    have key (x : Nat) : elemAt w x j = elemAt w (x % 2 ^ (e * w)) j := by
      rw [elemAt_def, elemAt_def, hs, Nat.pow_add, Nat.pow_add, Nat.mul_assoc, Nat.mod_mul_right_div_self,
        Nat.mod_mul_right_mod]
    rw [key, hm, ← key]
  · -- a higher field: both strings agree above it
    have hs : j * w = e * w + w + (j - e - 1) * w := by
      obtain ⟨k, rfl⟩ : ∃ k, j = e + 1 + k := ⟨j - e - 1, by omega⟩
      rw [show e + 1 + k - e - 1 = k by omega]; ring
    have hd : putElem w b e v / 2 ^ (e * w) / 2 ^ w = b / 2 ^ (e * w) / 2 ^ w := by
      rw [putElem_div, Nat.add_comm, Nat.add_mul_div_right _ _ (Nat.two_pow_pos _),
        Nat.div_eq_of_lt (Nat.mod_lt _ (Nat.two_pow_pos _)), Nat.zero_add]
    rw [elemAt_def, elemAt_def, hs, Nat.pow_add, Nat.pow_add, ← Nat.div_div_eq_div_mul, ← Nat.div_div_eq_div_mul, hd,
      Nat.div_div_eq_div_mul b, Nat.div_div_eq_div_mul b]

theorem putElem_lt {w b e v n : Nat} (hb : b < 2 ^ n) (he : e * w + w ≤ n) : putElem w b e v < 2 ^ n := by
  have h1 : putElem w b e v / 2 ^ (e * w) < 2 ^ (n - e * w) := by
    rw [putElem_div]
    have hq : b / 2 ^ (e * w) / 2 ^ w < 2 ^ (n - e * w - w) := by
      rw [Nat.div_div_eq_div_mul, ← Nat.pow_add]
      apply Nat.div_lt_of_lt_mul
      rw [← Nat.pow_add, show e * w + w + (n - e * w - w) = n by omega]
      exact hb
    have hv := Nat.mod_lt v (Nat.two_pow_pos w)
    calc b / 2 ^ (e * w) / 2 ^ w * 2 ^ w + v % 2 ^ w < b / 2 ^ (e * w) / 2 ^ w * 2 ^ w + 2 ^ w := by omega
      _ = (b / 2 ^ (e * w) / 2 ^ w + 1) * 2 ^ w := by ring
      _ ≤ 2 ^ (n - e * w - w) * 2 ^ w := Nat.mul_le_mul_right _ hq
      _ = 2 ^ (n - e * w) := by rw [← Nat.pow_add, show n - e * w - w + w = n - e * w by omega]
  rw [Nat.div_lt_iff_lt_mul (Nat.two_pow_pos _), ← Nat.pow_add, show n - e * w + e * w = n by omega] at h1
  exact h1

/-- Writes of distinct fields computed by one function: each listed field is the new one, every other stays. -/
theorem elemAt_applyWrites (w : Nat) (es : List Nat) (f : Nat → Nat) (b e : Nat) :
    elemAt w (applyWrites w b (es.map (fun k => (k, f k)))) e = if e ∈ es then f e % 2 ^ w else elemAt w b e := by
  induction es generalizing b with
  | nil => simp [applyWrites]
  | cons k es ih =>
    simp only [List.map_cons, applyWrites, List.foldl_cons] at ih ⊢
    rw [ih]
    by_cases h : e ∈ es
    · simp [h]
    · by_cases hk : e = k
      · subst hk; simp [h]
      · simp [h, hk, elemAt_putElem_ne _ _ _ _ _ hk]

theorem applyWrites_lt {w b n : Nat} (ws : Writes) (hb : b < 2 ^ n) (h : ∀ x ∈ ws, x.1 * w + w ≤ n) :
    applyWrites w b ws < 2 ^ n := by
  induction ws generalizing b with
  | nil => exact hb
  | cons x ws ih =>
    exact ih (putElem_lt hb (h x (List.mem_cons_self ..))) (fun y hy => h y (List.mem_cons_of_mem _ hy))

/-! ## Registers -/

theorem nregs_pos (h : Hart) : 0 < h.nregs := by simp [Hart.nregs]

theorem nregs_mul_regBits (h : Hart) : h.nregs * h.regBits ≤ 1048576 := Nat.mul_div_le _ _

theorem reg_fits {h : Hart} {v : Nat} (hv : v < h.nregs) : v * h.regBits + h.regBits ≤ 1048576 := by
  calc v * h.regBits + h.regBits = (v + 1) * h.regBits := by ring
    _ ≤ h.nregs * h.regBits := Nat.mul_le_mul_right _ hv
    _ ≤ 1048576 := nregs_mul_regBits h

@[simp] theorem putStr_regBits (h : Hart) (v b q : Nat) : (h.putStr v b q).regBits = h.regBits := rfl

/-- The string of a register after it was written, and of every other register. -/
theorem vstr_putStr {h : Hart} {v : Nat} (hv : v < h.nregs) (b q u : Nat) :
    (h.putStr v b q).vstr u = if u = v then b % 2 ^ h.regBits else h.vstr u := by
  have hlt : putElem h.regBits h.vst.toNat v b < 2 ^ 1048576 := putElem_lt h.vst.isLt (reg_fits hv)
  have ht : (h.putStr v b q).vst.toNat = putElem h.regBits h.vst.toNat v b := by
    simp only [Hart.putStr, BitVec.toNat_ofNat]
    exact Nat.mod_eq_of_lt hlt
  rw [Hart.vstr, putStr_regBits, ht]
  by_cases hu : u = v
  · subst hu; rw [elemAt_putElem, if_pos rfl]
  · rw [elemAt_putElem_ne _ _ _ _ _ hu, if_neg hu, Hart.vstr]

theorem vstr_lt (h : Hart) (v : Nat) : h.vstr v < 2 ^ h.regBits := elemAt_lt _ _ _

@[simp] theorem vstr_freshen (h : Hart) (here : Nat → Bool) (u : Nat) : (h.freshen here).vstr u = h.vstr u := by
  unfold Hart.freshen; split <;> rfl

/-- The fields of a register after some were written, and the strings of the other registers. -/
theorem vstr_writeElems {h : Hart} {v : Nat} (hv : v < h.nregs) (w : Nat) (ws : Writes)
    (hf : ∀ x ∈ ws, x.1 * w + w ≤ h.regBits) (u : Nat) :
    (h.writeElems v w ws).vstr u = if u = v then applyWrites w (h.vstr v) ws else h.vstr u := by
  unfold Hart.writeElems
  split
  · rename_i he
    rw [List.isEmpty_iff] at he
    subst he
    by_cases hu : u = v <;> simp [hu, applyWrites]
  · rw [vstr_freshen, vstr_putStr hv]
    by_cases hu : u = v
    · rw [if_pos hu, if_pos hu, Nat.mod_eq_of_lt (applyWrites_lt ws (vstr_lt h v) hf)]
    · rw [if_neg hu, if_neg hu]

@[simp] theorem writeElems_tag (h : Hart) (v w : Nat) (ws : Writes) (u : Nat) : (h.writeElems v w ws).tag u = h.tag u := by
  simp [Hart.tag]

/-- The elements of a register after those of a list were written. -/
theorem elem_writeElems {h : Hart} {v : Nat} (hv : v < h.nregs) (es : List Nat) (f : Nat → Nat)
    (hf : ∀ e ∈ es, e * tagWidth (h.tag v) + tagWidth (h.tag v) ≤ h.regBits) (e : Nat) :
    (h.writeElems v (tagWidth (h.tag v)) (es.map (fun k => (k, f k)))).elem v e =
      if e ∈ es then f e % 2 ^ tagWidth (h.tag v) else h.elem v e := by
  have hf' : ∀ x ∈ es.map (fun k => (k, f k)), x.1 * tagWidth (h.tag v) + tagWidth (h.tag v) ≤ h.regBits := by
    intro x hx
    obtain ⟨k, hk, rfl⟩ := List.mem_map.1 hx
    exact hf k hk
  rw [Hart.elem, writeElems_tag, vstr_writeElems hv _ _ hf', if_pos rfl, elemAt_applyWrites, Hart.elem]

/-- The elements of a tile that passes the length check lie inside the register (R154, R155). -/
theorem fits_of_lenOk {h : Hart} {vs : List Nat} (hl : h.lenOk vs = true) {v : Nat} (hv : v ∈ vs)
    (hb : (h.tag v).isBlock = false) {e : Nat} (he : e < h.n) :
    e * tagWidth (h.tag v) + tagWidth (h.tag v) ≤ h.regBits := by
  have hx := List.all_eq_true.1 hl v hv
  simp only [Bool.and_eq_true, bne_iff_ne, ne_eq, decide_eq_true_eq] at hx
  obtain ⟨hn, hm⟩ := hx
  have hle : 8 * (Config.vstBytes / h.nregs) ≤ h.regBits :=
    (Nat.mul_div_le_mul_div_assoc 8 Config.vstBytes h.nregs).trans (le_of_eq rfl)
  have hmvl : mvl (h.tag v) h.nregs * tagWidth (h.tag v) ≤ 8 * (Config.vstBytes / h.nregs) := by
    simp only [mvl, hb, hn, if_false, Bool.false_eq_true]
    exact Nat.div_mul_le_self _ _
  calc e * tagWidth (h.tag v) + tagWidth (h.tag v) = (e + 1) * tagWidth (h.tag v) := by ring
    _ ≤ mvl (h.tag v) h.nregs * tagWidth (h.tag v) := Nat.mul_le_mul_right _ (by omega)
    _ ≤ h.regBits := hmvl.trans hle

end Sys2Proof.Machine
end

