-- ==== Sys2Proof/Laws/Table.lean ====
section
/-! SUPPORT. The laws of sparse tables: reading after writing, and that every operation keeps the canonical form; and with them
the laws of the bytes of memory. -/

namespace Sys2Proof.Machine
open Sys2Proof

variable {α : Type} [DecidableEq α] {d : Nat → α}

/-- Keys lie above a bound and rise, and no entry holds the default. -/
def Tab.wfFrom (d : Nat → α) : Nat → Tab α → Prop
  | _, [] => True
  | lo, (k, v) :: t => lo ≤ k ∧ v ≠ d k ∧ Tab.wfFrom d (k + 1) t

theorem Tab.wf_cons_iff (k : Nat) (v : α) (t : Tab α) :
    Tab.wf d ((k, v) :: t) = true ↔ v ≠ d k ∧ Tab.wfFrom d (k + 1) t := by
  induction t generalizing k v with
  | nil => simp [Tab.wf, Tab.wfFrom]
  | cons e t ih =>
    obtain ⟨j, w⟩ := e
    simp [Tab.wf, Tab.wfFrom, ih, and_assoc]

theorem Tab.wf_iff_from (t : Tab α) : Tab.wf d t = true ↔ Tab.wfFrom d 0 t := by
  cases t with
  | nil => simp [Tab.wf, Tab.wfFrom]
  | cons e t => obtain ⟨k, v⟩ := e; simp [Tab.wf_cons_iff, Tab.wfFrom]

omit [DecidableEq α] in
theorem Tab.wfFrom_mono {lo hi : Nat} (h : lo ≤ hi) {t : Tab α} (ht : Tab.wfFrom d hi t) : Tab.wfFrom d lo t := by
  cases t with
  | nil => trivial
  | cons e t => obtain ⟨k, v⟩ := e; exact ⟨h.trans ht.1, ht.2⟩

omit [DecidableEq α] in
theorem Tab.erase_from {lo k : Nat} {t : Tab α} (ht : Tab.wfFrom d lo t) : Tab.wfFrom d lo (t.erase k) := by
  induction t generalizing lo with
  | nil => trivial
  | cons e t ih =>
    obtain ⟨j, v⟩ := e
    unfold Tab.erase
    split
    · exact Tab.wfFrom_mono (Nat.le_succ_of_le ht.1) (ih ht.2.2)
    · exact ⟨ht.1, ht.2.1, ih ht.2.2⟩

omit [DecidableEq α] in
theorem Tab.erase_absent {k : Nat} : ∀ {t : Tab α}, ∀ e ∈ t.erase k, e.1 ≠ k := by
  intro t
  induction t with
  | nil => simp [Tab.erase]
  | cons e t ih =>
    obtain ⟨j, v⟩ := e
    unfold Tab.erase
    split
    · exact ih
    · rename_i hj
      intro e he
      rcases List.mem_cons.1 he with rfl | he
      · exact fun h => hj h.symm
      · exact ih e he

omit [DecidableEq α] in
theorem Tab.insert_from {lo k : Nat} {v : α} (hv : v ≠ d k) (hk : lo ≤ k) {t : Tab α} (ht : Tab.wfFrom d lo t)
    (ha : ∀ e ∈ t, e.1 ≠ k) : Tab.wfFrom d lo (t.insert k v) := by
  induction t generalizing lo with
  | nil => exact ⟨hk, hv, trivial⟩
  | cons e t ih =>
    obtain ⟨j, w⟩ := e
    have hj : j ≠ k := ha _ (List.mem_cons_self ..)
    unfold Tab.insert
    split
    · rename_i hlt
      exact ⟨hk, hv, hlt, ht.2⟩
    · rename_i hlt
      exact ⟨ht.1, ht.2.1, ih (by omega) ht.2.2 (fun e he => ha e (List.mem_cons_of_mem _ he))⟩

/-- Writing a key keeps the canonical form. -/
theorem Tab.set_wf {t : Tab α} (k : Nat) (v : α) (ht : Tab.wf d t = true) : Tab.wf d (Tab.set d t k v) = true := by
  rw [Tab.wf_iff_from] at *
  unfold Tab.set
  split
  · exact Tab.erase_from ht
  · rename_i hv
    exact Tab.insert_from hv (Nat.zero_le _) (Tab.erase_from ht) Tab.erase_absent

omit [DecidableEq α] in
theorem Tab.clearRange_from {lo a b : Nat} {t : Tab α} (ht : Tab.wfFrom d lo t) : Tab.wfFrom d lo (Tab.clearRange a b t) := by
  induction t generalizing lo with
  | nil => trivial
  | cons e t ih =>
    obtain ⟨j, v⟩ := e
    unfold Tab.clearRange
    split
    · exact Tab.wfFrom_mono (Nat.le_succ_of_le ht.1) (ih ht.2.2)
    · exact ⟨ht.1, ht.2.1, ih ht.2.2⟩

/-- Clearing a range keeps the canonical form. -/
theorem Tab.clearRange_wf {t : Tab α} (a b : Nat) (ht : Tab.wf d t = true) : Tab.wf d (Tab.clearRange a b t) = true := by
  rw [Tab.wf_iff_from] at *
  exact Tab.clearRange_from ht

/-- Writing a list of values keeps the canonical form. -/
theorem Tab.setRange_wf (vs : List α) (k : Nat) {t : Tab α} (ht : Tab.wf d t = true) :
    Tab.wf d (Tab.setRange d t k vs) = true := by
  induction vs generalizing k t with
  | nil => exact ht
  | cons v vs ih => exact ih (k + 1) (Tab.set_wf k v ht)

omit [DecidableEq α] in
theorem Tab.get_erase (t : Tab α) (k j : Nat) : Tab.get d (t.erase k) j = if j = k then d k else Tab.get d t j := by
  induction t with
  | nil => simp [Tab.erase, Tab.get]; rintro rfl; rfl
  | cons e t ih =>
    obtain ⟨i, v⟩ := e
    unfold Tab.erase
    split
    · rename_i h
      subst h
      rw [ih]
      by_cases hj : j = k <;> simp [Tab.get, hj]
    · rename_i h
      by_cases hi : j = i
      · subst hi
        have : j ≠ k := fun e => h e.symm
        simp [Tab.get, this]
      · simp [Tab.get, hi, ih]

omit [DecidableEq α] in
theorem Tab.get_insert (t : Tab α) (k j : Nat) (v : α) (ha : ∀ e ∈ t, e.1 ≠ k) :
    Tab.get d (t.insert k v) j = if j = k then v else Tab.get d t j := by
  induction t with
  | nil => rfl
  | cons e t ih =>
    obtain ⟨i, w⟩ := e
    have hi : i ≠ k := ha _ (List.mem_cons_self ..)
    have ih := ih (fun e he => ha e (List.mem_cons_of_mem _ he))
    unfold Tab.insert
    split
    · rfl
    · by_cases hj : j = i
      · subst hj; simp [Tab.get, hi]
      · simp [Tab.get, hj, ih]

/-- A read after a write: the value written, and every other key as before. -/
@[simp] theorem Tab.get_set (t : Tab α) (k j : Nat) (v : α) :
    Tab.get d (Tab.set d t k v) j = if j = k then v else Tab.get d t j := by
  unfold Tab.set
  split
  · rename_i h; rw [Tab.get_erase]; by_cases hj : j = k <;> simp [hj, h]
  · rw [Tab.get_insert _ _ _ _ Tab.erase_absent, Tab.get_erase]; by_cases hj : j = k <;> simp [hj]

omit [DecidableEq α] in
theorem Tab.get_clearRange (t : Tab α) (lo hi j : Nat) :
    Tab.get d (Tab.clearRange lo hi t) j = if lo ≤ j ∧ j < hi then d j else Tab.get d t j := by
  induction t with
  | nil => simp [Tab.clearRange, Tab.get]
  | cons e t ih =>
    obtain ⟨i, v⟩ := e
    unfold Tab.clearRange
    split
    · rename_i h
      rw [ih]
      by_cases hj : j = i
      · subst hj; simp [h]
      · simp [Tab.get, hj]
    · rename_i h
      by_cases hj : j = i
      · subst hj; simp only [Tab.get, if_pos, h, if_false]
      · simp [Tab.get, hj, ih]

theorem Tab.get_setRange (vs : List α) (t : Tab α) (k j : Nat) :
    Tab.get d (Tab.setRange d t k vs) j = if h : k ≤ j ∧ j < k + vs.length then vs[j - k] else Tab.get d t j := by
  induction vs generalizing k t with
  | nil => rw [dif_neg (by simp)]; rfl
  | cons v vs ih =>
    simp only [Tab.setRange, ih, Tab.get_set, List.length_cons]
    by_cases hj : j = k
    · subst hj; simp
    · by_cases h : k + 1 ≤ j ∧ j < k + 1 + vs.length
      · have h' : k ≤ j ∧ j < k + (vs.length + 1) := by omega
        rw [dif_pos h, dif_pos h']
        obtain ⟨n, rfl⟩ : ∃ n, j = k + 1 + n := ⟨j - (k + 1), by omega⟩
        simp [show k + 1 + n - k = n + 1 by omega]
      · have h' : ¬(k ≤ j ∧ j < k + (vs.length + 1)) := by omega
        rw [dif_neg h, dif_neg h', if_neg hj]

/-! ## Memory -/

theorem putByte_wf {s : State} (a : Nat) (v : Byte) (h : Memory.wf s.mem = true) : Memory.wf (s.putByte a v).mem = true :=
  Tab.set_wf a v h

theorem putBytes_wf (n : Nat) {s : State} (a v : Nat) (h : Memory.wf s.mem = true) :
    Memory.wf (s.putBytes a n v).mem = true := by
  induction n generalizing s a v with
  | zero => exact h
  | succ n ih => exact ih (a + 1) (v / 256) (putByte_wf a _ h)

theorem zeroRange_wf {s : State} (lo hi : Nat) (h : Memory.wf s.mem = true) : Memory.wf (s.zeroRange lo hi).mem = true :=
  Tab.clearRange_wf lo hi h

@[simp] theorem markIndet_mem (s : State) (lo hi : Nat) : (s.markIndet lo hi).mem = s.mem := by
  unfold State.markIndet; split <;> rfl

@[simp] theorem setUnits_mem (n : Nat) (s : State) (u : Nat) (b : Bool) : (s.setUnits u b n).mem = s.mem := by
  induction n generalizing s u with
  | zero => rfl
  | succ n ih => simp [State.setUnits, ih]

@[simp] theorem clearWhole_mem (s : State) (a n : Nat) : (s.clearWhole a n).mem = s.mem := by
  simp only [State.clearWhole]
  split <;> simp

@[simp] theorem poisonAt_mem (s : State) (a n : Nat) : (s.poisonAt a n).mem = s.mem := by
  unfold State.poisonAt; split <;> simp

/-- A store at its home keeps the canonical form. -/
theorem store_wf {s : State} (a n v : Nat) (h : Memory.wf s.mem = true) : Memory.wf (s.store a n v).mem = true := by
  simp [State.store, putBytes_wf n a _ h]

/-- What a byte reads as behind the write of one byte, indeterminacy apart. -/
@[simp] theorem rawByte_putByte (s : State) (a b : Nat) (v : Byte) :
    (s.putByte a v).rawByte b = if b = a then v else s.rawByte b := by
  simp [State.rawByte, State.putByte]

/-- The bytes behind the write of `n` bytes: each written one is its own byte of the value, every other is unchanged. -/
theorem rawByte_putBytes (n : Nat) (s : State) (a v b : Nat) :
    (s.putBytes a n v).rawByte b =
      if a ≤ b ∧ b < a + n then BitVec.ofNat 8 (v / 256 ^ (b - a)) else s.rawByte b := by
  induction n generalizing s a v with
  | zero => rw [if_neg (by omega)]; rfl
  | succ n ih =>
    rw [State.putBytes, ih, rawByte_putByte]
    by_cases hb : b = a
    · subst hb; simp
    · by_cases h : a + 1 ≤ b ∧ b < a + 1 + n
      · have h' : a ≤ b ∧ b < a + (n + 1) := by omega
        rw [if_pos h, if_pos h', Nat.div_div_eq_div_mul, ← Nat.pow_succ', show (b - (a + 1)).succ = b - a by omega]
      · have h' : ¬(a ≤ b ∧ b < a + (n + 1)) := by omega
        rw [if_neg h, if_neg h', if_neg hb]

@[simp] theorem setUnits_rawByte (n : Nat) (s : State) (u : Nat) (b : Bool) (a : Nat) :
    (s.setUnits u b n).rawByte a = s.rawByte a := by simp [State.rawByte]
@[simp] theorem clearWhole_rawByte (s : State) (a n b : Nat) : (s.clearWhole a n).rawByte b = s.rawByte b := by
  simp [State.rawByte]

/-- A store changes no byte outside it. -/
theorem rawByte_store_other (s : State) (a n v b : Nat) (h : b < a ∨ a + n ≤ b) : (s.store a n v).rawByte b = s.rawByte b := by
  rw [State.store, clearWhole_rawByte, rawByte_putBytes, if_neg (by omega)]

end Sys2Proof.Machine
end

