-- ==== Sys2Proof/Tests/Slice0.lean ====
section
/-! SUPPORT. Tests of the model: ill-formed instructions, words from the encoding tables, the worked examples of spec/, and a witness for
the hypotheses of every statement. Expected values are those that spec/ writes, or are worked out by hand from its rules. -/

namespace Sys2Proof.Tests
set_option Elab.async false
open Sys2Proof Sys2Proof.Machine

/-- A header without guard and wait mask, and one with both. -/
def h0 : Hdr := ⟨0, false, 0⟩
def h1 : Hdr := ⟨3, true, 9⟩

/-- Every word decodes to the instruction beside it. -/
def decodes (l : List (Nat × Instr)) : Bool := l.all (fun p => decodeTableWord 64 p.1 == some p.2)

/-! ## Ill-formed instructions (R60, R438) -/

/-- One ill-formed term for each check, each refused, and its word is no instruction. -/
theorem test_illformed_refused : ∀ i ∈ ([
    .ld h0 1 (.direct 2 0) 3 true, .amo h0 .add 1 2 3 ⟨.pkg, false, false⟩ true, .fcvt h0 .e4m3 .fp32 0 1 2, .fcvt h0 .fp32 .sx3 0 1 2,
    .qfence 0 .hart 0, .claim h0 5 5, .tinv 0 .hart true 1 2 3, .clset 0 3 1 2 3, .vadd h0 1 ⟨true, ⟨2, .none⟩, ⟨3, .none⟩⟩ false 0,
    .vmulh h0 1 ⟨true, ⟨0, .e⟩, ⟨3, .none⟩⟩, .vrem h0 1 ⟨true, ⟨1, .none⟩, ⟨3, .none⟩⟩ false,
    .vfma h0 1 ⟨true, ⟨1, .none⟩, ⟨3, .none⟩⟩ 4 false 0, .vbitil h0 false 1 ⟨2, .none⟩ ⟨3, .none⟩ 4, .vbitdl h0 true 1 ⟨2, .none⟩ 3,
    .vbitdl h0 false 1 ⟨2, .none⟩ 2, .vldw h0 1 2 3 ⟨0, false, 0, true⟩, .pref h0 1 2 ⟨0, false, 1, false⟩, .vst h0 1 2 ⟨0, true, 0, false⟩,
    .vcas h0 1 2 3 0 ⟨.hart, false, false⟩ ⟨0, true, 0, false⟩, .vstm h0 1 0 0 ⟨0, false, 0, false⟩, .vstm h0 1 62 2 ⟨0, false, 0, false⟩,
    .strm2d h0 1 2 61 false 0 false 0, .waitK ⟨0, false⟩ false 0 1 0, .waitK ⟨0, false⟩ false 1 1 2, .ccwait ⟨0, false⟩ false 0 1 2 3,
    .mma h0 0 1 2 3 none false false false false, .mepi h0 1 2 0 0 none false 0 3 false false, .mepi h0 1 2 0 4 none false 0 0 false false,
    .wsld h0 1 1 2 none, .collArM 0 .add 1 2 63 0 none, .collBcM 0 1 2 63 0 none, .collSrs 0 1 2 62 0 none] : List Instr),
    i.wf = false ∧ decodeTableWord 64 (encode i).toNat = none := by decide +kernel

/-- R60: an opcode that is not assigned, a function code that is not, and a field that must be zero. -/
theorem test_reserved_words_refused :
    [0x0000000000000000, 0x0500000000000000, 0x7F00000000000000, 0x0100000000800000, 0x0100008206000001, 0x3930000000080000,
     0x4100006103800808].map (decodeTableWord 64) = [none, none, none, none, none, none, none] := by decide +kernel

/-! ## Decoding (R37 to R60) -/

/-- OP 0x01, 0x02, 0x03, 0x13 (S3): every instruction of these opcodes, with its word composed field by field from the tables of 02_encoding.md and of its entry. -/
theorem test_decode_register_arithmetic : decodes [
    (0x010000A30E000000, .add h0 5 6 7),
    (0x010000A30E080000, .sub h0 5 6 7),
    (0x010000A30E100000, .and h0 5 6 7),
    (0x010000A30E180000, .or h0 5 6 7),
    (0x010000A30E200000, .xor h0 5 6 7),
    (0x010000A30E280000, .andn h0 5 6 7),
    (0x010000A30E300000, .shl h0 5 6 7),
    (0x010000A30E380000, .shr h0 5 6 7),
    (0x010000A30E400000, .sha h0 5 6 7),
    (0x010000A30E480000, .rotl h0 5 6 7),
    (0x010000A30E500000, .min h0 5 6 7),
    (0x010000A30E580000, .max h0 5 6 7),
    (0x010000A30E600000, .minu h0 5 6 7),
    (0x010000A30E680000, .maxu h0 5 6 7),
    (0x010000A30E700000, .slt h0 5 6 7),
    (0x010000A30E780000, .sltu h0 5 6 7),
    (0x023848A30E000000, .mul h1 5 6 7),
    (0x023848A30E080000, .mulh h1 5 6 7),
    (0x023848A30E100000, .mulhu h1 5 6 7),
    (0x023848A30E180000, .div h1 5 6 7),
    (0x023848A30E200000, .divu h1 5 6 7),
    (0x023848A30E280000, .rem h1 5 6 7),
    (0x023848A30E300000, .remu h1 5 6 7),
    (0x030000A300000000, .clz h0 5 6),
    (0x030000A300080000, .ctz h0 5 6),
    (0x030000A300100000, .popc h0 5 6),
    (0x030000A30E180000, .bext h0 5 6 7),
    (0x030000A30E200000, .bdep h0 5 6 7),
    (0x030000A300280000, .brev h0 5 6),
    (0x130000A30E000000, .pamk h0 5 6 7),
    (0x130000A300080000, .pax h0 5 6)] = true := by decide +kernel

/-- OP 0x04 (SI), 0x10, 0x11 (SL), 0x12 (SI-M): every instruction of these opcodes, with its word composed field by field from the tables of 02_encoding.md and of its entry. -/
theorem test_decode_immediates_and_addresses : decodes [
    (0x040000A307FFFFFD, .addImm h0 5 6 (-3)),
    (0x040000A30FFFFFFD, .subImm h0 5 6 (-3)),
    (0x040000A317FFFFFD, .andImm h0 5 6 (-3)),
    (0x040000A31FFFFFFD, .orImm h0 5 6 (-3)),
    (0x040000A327FFFFFD, .xorImm h0 5 6 (-3)),
    (0x040000A32FFFFFFD, .andnImm h0 5 6 (-3)),
    (0x040000A337FFFFFD, .shlImm h0 5 6 (-3)),
    (0x040000A33FFFFFFD, .shrImm h0 5 6 (-3)),
    (0x040000A347FFFFFD, .shaImm h0 5 6 (-3)),
    (0x040000A34FFFFFFD, .rotlImm h0 5 6 (-3)),
    (0x040000A357FFFFFD, .minImm h0 5 6 (-3)),
    (0x040000A35FFFFFFD, .maxImm h0 5 6 (-3)),
    (0x040000A367FFFFFD, .minuImm h0 5 6 (-3)),
    (0x040000A36FFFFFFD, .maxuImm h0 5 6 (-3)),
    (0x040000A377FFFFFD, .sltImm h0 5 6 (-3)),
    (0x040000A37FFFFFFD, .sltuImm h0 5 6 (-3)),
    (0x1000013FFFFFFFFE, .li h0 9 (-2)),
    (0x1100012000003039, .lih h0 9 12345),
    (0x1200012407FFFFFF, .lea h0 9 (.direct 8 (-1))),
    (0x1200012440E00003, .lea h0 9 (.indexed 8 7 3))] = true := by decide +kernel

/-- OP 0x18, 0x19 (S3), 0x20 to 0x24 (B, SI): every instruction of these opcodes, with its word composed field by field from the tables of 02_encoding.md and of its entry. -/
theorem test_decode_predicates_and_branches : decodes [
    (0x180000428C200000, .cmp h0 .ltu 2 5 6),
    (0x190000428C000000, .pand h0 2 5 6),
    (0x190000428C080000, .por h0 2 5 6),
    (0x190000428C100000, .pxor h0 2 5 6),
    (0x1900004280180000, .pnot h0 2 5),
    (0x1900004280200000, .pmov h0 2 5),
    (0x1900004280280000, .pfirst h0 2 5),
    (0x1900050280300000, .pcnt h0 40 5),
    (0x1900005400380000, .pset h0 2 40),
    (0x200000A31FFFFFFC, .br h0 .ge 5 6 (-4)),
    (0x210000A010000004, .brp h0 .any 5 4),
    (0x2200000000000007, .j h0 7),
    (0x230000A000000008, .jal h0 5 8),
    (0x240000A300000009, .jalr h0 5 6 9)] = true := by decide +kernel

/-- OP 0x28 to 0x2C (SI-M, SI-A, S3): every instruction of these opcodes, with its word composed field by field from the tables of 02_encoding.md and of its entry. -/
theorem test_decode_scalar_memory_and_atomics : decodes [
    (0x280000A30FFFFFF8, .ld h0 5 (.direct 6 (-8)) 1 false),
    (0x280000A370E00002, .ld h0 5 (.indexed 6 7 2) 2 true),
    (0x290000A318000010, .st h0 5 (.direct 6 16) 3),
    (0x2A0000A330EA0000, .amo h0 .swap 5 6 7 ⟨.die, true, false⟩ false),
    (0x2B0000A300F18000, .cas h0 5 6 7 ⟨.pod, false, true⟩ true),
    (0x2B0000A308E08000, .binc h0 5 6 7 ⟨.hart, false, false⟩ true),
    (0x2C0000030E000000, .cclean h0 6 7),
    (0x2C0000030E080000, .cflush h0 6 7)] = true := by decide +kernel

/-- OP 0x30 to 0x33 (S3, SY): every instruction of these opcodes, with its word composed field by field from the tables of 02_encoding.md and of its entry. -/
theorem test_decode_scalar_floating_point : decodes [
    (0x300000A30E080000, .fadd h0 false 5 6 7 1),
    (0x310000A30E500000, .fsub h0 true 5 6 7 2),
    (0x300000A30E980000, .fmul h0 false 5 6 7 3),
    (0x310000A30EC00000, .fdiv h0 true 5 6 7 0),
    (0x300000A30F000000, .fmin h0 false 5 6 7),
    (0x310000A30F400000, .fmax h0 true 5 6 7),
    (0x310000A301880000, .fsqrt h0 true 5 6 1),
    (0x320000A30E000148, .ffma h0 true 2 5 6 7 8),
    (0x330000A300000497, .fcvt h0 .fp32 .si64 1 5 6),
    (0x330000430E08000B, .fcmp h0 .le true 2 6 7)] = true := by decide +kernel

/-- OP 0x38 (SI), 0x39 to 0x3B (SY): every instruction of these opcodes, with its word composed field by field from the tables of 02_encoding.md and of its entry. -/
theorem test_decode_csrs_fences_and_traps : decodes [
    (0x380000A000000104, .csrr h0 5 0x104),
    (0x380000A308000104, .csrw h0 5 0x104 6),
    (0x380000A310000104, .csrs h0 5 0x104 6),
    (0x380000A318000104, .csrc h0 5 0x104 6),
    (0x3900000000010000, .fenceSv 0 .gang),
    (0x39000000000A0000, .fenceVs 0 .die),
    (0x3900000000130000, .fenceVv 0 .pkg),
    (0x39000000001C0000, .fenceA 0 .pod),
    (0x3A00000000020005, .qfence 0 .die 5),
    (0x3B0000000000004D, .ecall 0 77),
    (0x3B0018000008004E, .ebreak 3 78),
    (0x3B00000000100000, .tret 0),
    (0x3B0000A300180000, .wait 0 5 6)] = true := by decide +kernel

/-- OP 0x3C, 0x3D, 0x3E, 0x40 (SY): every instruction of these opcodes, with its word composed field by field from the tables of 02_encoding.md and of its entry. -/
theorem test_decode_gang_and_system : decodes [
    (0x3C0000A300000000, .lnch h0 5 6),
    (0x3C0000A300080000, .claim h0 5 6),
    (0x3C0000A000110000, .gbarArr h0 .gang 5),
    (0x3C000003001A0000, .gbarWait h0 .die 6),
    (0x3C00000000200000, .exit h0),
    (0x3C0000A000280000, .yield h0 5),
    (0x3C0000A30E330010, .waitm h0 .pkg 5 6 7 16),
    (0x3D0000028C030003, .tinv 0 .pkg false 3 5 6),
    (0x3D0000028C040040, .tinv 0 .pod true 0 5 6),
    (0x3D0000A300080701, .clset 0 1 7 5 6),
    (0x3D0000A300100009, .bind 0 9 5 6),
    (0x3E0000A30E000000, .vsave 0 5 6 7),
    (0x3E0000A300080000, .vrest 0 5 6),
    (0x400000A00000000B, .vcfg 0 5 3 2),
    (0x400000A300080003, .setvl 0 5 6 3),
    (0x400000A30010001C, .setvh 0 5 6 0x1C),
    (0x400000A000180018, .vtag 0 5 0x18)] = true := by decide +kernel

/-- OP 0x41 (V3): every instruction of these opcodes, with its word composed field by field from the tables of 02_encoding.md and of its entry. -/
theorem test_decode_vector_moves : decodes [
    (0x410000A358000000, .vmov h0 5 ⟨6, .s32⟩),
    (0x410000A300E00802, .vsliceExtract h0 true 5 6 7),
    (0x410000A300E00804, .vsliceInsert h0 false 5 6 7),
    (0x410000A300001000, .vbcast h0 5 6),
    (0x410000A300E01800, .vxt h0 5 6 7),
    (0x410000A300E02000, .vins h0 5 6 7)] = true := by decide +kernel

/-- OP 0x42 to 0x46, 0x4F (V3): every instruction of these opcodes, with its word composed field by field from the tables of 02_encoding.md and of its entry. -/
theorem test_decode_vector_arithmetic : decodes [
    (0x420000A320F20600, .vadd h0 5 ⟨false, ⟨6, .e⟩, ⟨7, .s8⟩⟩ true 2),
    (0x420000A320F20E00, .vsub h0 5 ⟨false, ⟨6, .e⟩, ⟨7, .s8⟩⟩ true 2),
    (0x420000A320F21600, .vmin h0 5 ⟨false, ⟨6, .e⟩, ⟨7, .s8⟩⟩ true 2),
    (0x420000A320F21E00, .vmax h0 5 ⟨false, ⟨6, .e⟩, ⟨7, .s8⟩⟩ true 2),
    (0x420000A350002100, .vabs h0 5 ⟨6, .s16⟩ false 1),
    (0x420000A300002C00, .vneg h0 5 ⟨6, .none⟩ true 0),
    (0x430000A000E00380, .vmul h0 5 ⟨true, ⟨0, .none⟩, ⟨7, .none⟩⟩ false 3),
    (0x430000A320F20800, .vmulh h0 5 ⟨false, ⟨6, .e⟩, ⟨7, .s8⟩⟩),
    (0x430000A320F21100, .vdiv h0 5 ⟨false, ⟨6, .e⟩, ⟨7, .s8⟩⟩ false 1),
    (0x430000A320F21C00, .vrem h0 5 ⟨false, ⟨6, .e⟩, ⟨7, .s8⟩⟩ true),
    (0x440000A300000200, .vsqrt h0 5 ⟨6, .none⟩ false 2),
    (0x440000A300000A00, .vrcp h0 5 ⟨6, .none⟩ false 2),
    (0x440000A300001200, .vrsq h0 5 ⟨6, .none⟩ false 2),
    (0x450000A320F20110, .vfma h0 5 ⟨false, ⟨6, .e⟩, ⟨7, .s8⟩⟩ 8 false 1),
    (0x450000A320F20910, .vfms h0 5 ⟨false, ⟨6, .e⟩, ⟨7, .s8⟩⟩ 8 false 1),
    (0x450000A320F21110, .vfnma h0 5 ⟨false, ⟨6, .e⟩, ⟨7, .s8⟩⟩ 8 false 1),
    (0x4600004320E02000, .vcmp h0 .le 2 ⟨6, .e⟩ ⟨7, .none⟩),
    (0x4F0000A300000300, .vexp2 h0 5 ⟨6, .none⟩ false 3),
    (0x4F0000A300000C00, .vlog2 h0 5 ⟨6, .none⟩ true 0)] = true := by decide +kernel

/-- OP 0x47, 0x48 (V3): every instruction of these opcodes, with its word composed field by field from the tables of 02_encoding.md and of its entry. -/
theorem test_decode_vector_bits : decodes [
    (0x470000A320F20000, .vand h0 5 ⟨false, ⟨6, .e⟩, ⟨7, .s8⟩⟩),
    (0x470000A320F20800, .vor h0 5 ⟨false, ⟨6, .e⟩, ⟨7, .s8⟩⟩),
    (0x470000A320F21000, .vxor h0 5 ⟨false, ⟨6, .e⟩, ⟨7, .s8⟩⟩),
    (0x470000A320F22000, .vshl h0 5 ⟨false, ⟨6, .e⟩, ⟨7, .s8⟩⟩),
    (0x470000A320F22800, .vshr h0 5 ⟨false, ⟨6, .e⟩, ⟨7, .s8⟩⟩),
    (0x470000A320F23000, .vsha h0 5 ⟨false, ⟨6, .e⟩, ⟨7, .s8⟩⟩),
    (0x470000A320F23800, .vrot h0 5 ⟨false, ⟨6, .e⟩, ⟨7, .s8⟩⟩),
    (0x470000A320001800, .vnot h0 5 ⟨6, .e⟩),
    (0x480000A300000000, .vclz h0 5 ⟨6, .none⟩),
    (0x480000A300000800, .vpopc h0 5 ⟨6, .none⟩),
    (0x480000A300E01110, .vbitil h0 true 5 ⟨6, .none⟩ ⟨7, .none⟩ 8),
    (0x480000A300001802, .vbitdl h0 false 5 ⟨6, .none⟩ 1),
    (0x480000A300002000, .vbrev h0 5 ⟨6, .none⟩)] = true := by decide +kernel

/-- OP 0x49 to 0x4E (V3): every instruction of these opcodes, with its word composed field by field from the tables of 02_encoding.md and of its entry. -/
theorem test_decode_vector_rows_and_conversions : decodes [
    (0x490000A300002D00, .vred h0 .xor 5 6 true 1),
    (0x4A0000A300000A00, .vscan h0 .min 5 6 false 2),
    (0x4B0000A300E00006, .vmaxi h0 5 6 7 3),
    (0x4B0000A300E00806, .vmini h0 5 6 7 3),
    (0x4C0000A300E00000, .vslideUp h0 5 6 7),
    (0x4C0000A300E00800, .vslideDn h0 5 6 7),
    (0x4C0000A300E01000, .vperm h0 5 6 7),
    (0x4C0000A300001800, .vcompr h0 5 6),
    (0x4C0000A300002000, .vexpd h0 5 6),
    (0x4C0000A300002800, .viota h0 5 6),
    (0x4C0000A300003000, .vtrans h0 5 6),
    (0x4D0000A300000600, .vcvt h0 5 ⟨6, .none⟩ true 2),
    (0x4D0000A300E00900, .vqnt h0 5 6 7 1),
    (0x4D0000A300E01700, .vdqnt h0 5 6 7 true 3),
    (0x4E0000A320F20006, .vsel h0 5 ⟨6, .e⟩ ⟨7, .s8⟩ 3)] = true := by decide +kernel

/-- OP 0x50 to 0x53 (VM): every instruction of these opcodes, with its word composed field by field from the tables of 02_encoding.md and of its entry. -/
theorem test_decode_vector_memory : decodes [
    (0x500000A3001B8000, .vld h0 5 6 ⟨1, true, 3, true⟩),
    (0x500000A30E5B8000, .vldP h0 5 6 7 ⟨1, true, 3, true⟩),
    (0x500000A30E1B8040, .vlds h0 5 6 7 ⟨1, true, 3, true⟩),
    (0x500000A30E1B8082, .vgth h0 5 6 7 2 ⟨1, true, 3, true⟩),
    (0x500000A30E5B8083, .vgthCl h0 5 6 7 3 ⟨1, true, 3, true⟩),
    (0x500000A30E3200C0, .vldw h0 5 6 7 ⟨3, false, 2, false⟩),
    (0x500000030E380100, .pref h0 6 7 ⟨3, true, 0, false⟩),
    (0x510000A300238000, .vst h0 5 6 ⟨2, false, 3, true⟩),
    (0x510000A30E638000, .vstP h0 5 6 7 ⟨2, false, 3, true⟩),
    (0x510000A30E238040, .vsts h0 5 6 7 ⟨2, false, 3, true⟩),
    (0x510000A30E238081, .vsct h0 5 6 7 1 ⟨2, false, 3, true⟩),
    (0x510000A30E638081, .vsctCl h0 5 6 7 1 ⟨2, false, 3, true⟩),
    (0x520000A30E23C156, .vamo h0 .xor true 5 6 7 2 ⟨.pod, true, false⟩ ⟨2, false, 3, true⟩),
    (0x520000A30E23920B, .vcas h0 5 6 7 3 ⟨.gang, false, true⟩ ⟨2, false, 3, true⟩),
    (0x520000A30E238240, .vbinc h0 5 6 7 0 ⟨.hart, false, false⟩ ⟨2, false, 3, true⟩),
    (0x530000A300238003, .vstm h0 5 6 3 ⟨2, false, 3, true⟩)] = true := by decide +kernel

/-- OP 0x54 (VM), 0x60 to 0x62 (SY), 0x63 (S3): every instruction of these opcodes, with its word composed field by field from the tables of 02_encoding.md and of its entry. -/
theorem test_decode_pushes_engines_and_windows : decodes [
    (0x540000A300029000, .vpush 0 .gang 5 6 2 true),
    (0x540000A000002049, .vtake 0 .die 5 9),
    (0x540001200A000080, .vfesRd 0 5 9),
    (0x540001200A400080, .vfesClr 0 5 9),
    (0x540001200A800080, .vfesSet 0 5 9),
    (0x600000A30E00006B, .strm h0 5 6 7 true 2 true 3),
    (0x600000A378080010, .strm2d h0 5 6 60 false 1 false 0),
    (0x613800A300000105, .waitK ⟨3, true⟩ true 5 5 6),
    (0x620000A30E00000A, .ccwait ⟨0, false⟩ true 2 5 6 7),
    (0x620000A000080002, .ccrd ⟨0, false⟩ 2 5),
    (0x620000A00008000A, .ccrdClr ⟨0, false⟩ 2 5),
    (0x630000630E000000, .wopen h0 3 6 7),
    (0x6300004000080000, .wclose h0 2),
    (0x6300002000100000, .winv h0 1)] = true := by decide +kernel

/-- OP 0x68 to 0x6D (MX): every instruction of these opcodes, with its word composed field by field from the tables of 02_encoding.md and of its entry. -/
theorem test_decode_matrix_and_weight_store : decodes [
    (0x680000A300000000, .matt h0 5 6),
    (0x6800000000080000, .mdet h0),
    (0x6900000300000000, .munf h0 6),
    (0x6A0000830E0117C1, .mma h0 4 6 7 8 (some 3) true true true true),
    (0x6B0000830E001A00, .maccLd h0 4 6 7 (some 5)),
    (0x6B0000A20E080000, .maccSt h0 5 4 7 none),
    (0x6B00008000100001, .maccZ h0 4 none true),
    (0x6C0000A20C00F47E, .mepi h0 5 4 6 7 (some 2) true 3 2 true true),
    (0x6D0000A30E001200, .wsld h0 5 6 7 (some 1)),
    (0x6D0000A300080000, .wsberthGet h0 5 6),
    (0x6D0000A300080001, .wsberthRdy h0 5 6),
    (0x6D0000A300080002, .wsberthDrop h0 5 6)] = true := by decide +kernel

/-- OP 0x70, 0x71 (CL): every instruction of these opcodes, with its word composed field by field from the tables of 02_encoding.md and of its entry. -/
theorem test_decode_collectives : decodes [
    (0x700000A30E010D40, .collArV 0 .blkAdd 5 6 7 8 (some 2)),
    (0x700000A30E010A00, .collArM 0 .max 5 6 7 8 none),
    (0x700000A30E090400, .collRsV 0 .min 5 6 7 8 none),
    (0x700000A30E0903E0, .collRsM 0 .add 5 6 7 8 (some 7)),
    (0x700000A30E110000, .collAgV 0 5 6 7 8 none),
    (0x700000A30E110200, .collAgM 0 5 6 7 8 none),
    (0x700000A30E190000, .collBcV 0 5 6 7 8 none),
    (0x700018A30E190200, .collBcM 3 5 6 7 8 none),
    (0x700000A30E210380, .collSrs 0 5 6 7 8 (some 4)),
    (0x710000000E010180, .collBar 0 7 8 (some 4)),
    (0x710000A300090000, .collWait 0 5 6 8),
    (0x710000A300110000, .collStat 0 5 6 8),
    (0x710000A300110200, .collStatClr 0 5 6 8)] = true := by decide +kernel

/-! ## States for the tests -/

/-- A compute hart in U mode that runs at 0x100, in the state after reset, and what `f` changes. -/
def U (f : Hart → Hart := id) : State :=
  { State.reset with hart := f { Hart.reset 0 with run := .running, pc := 0x100 } }
/-- The same hart with its page mapped: virtual page 0 lies at frame 0 of die 0. -/
def M (f : Hart → Hart := id) : State := (U f).withFetchWord 64 0
/-- A system hart of die 8 in S mode, and the management hart in P mode. -/
def S (f : Hart → Hart := id) : State := { State.reset with hart := f { Hart.reset 0x1000 with run := .running, pc := 0x100 } }
def P (f : Hart → Hart := id) : State := { State.reset with hart := f { Hart.reset 0x11F0 with run := .running, pc := 0x100 } }

/-- Registers of a hart: scalar registers, predicates, vector strings, tags, lengths. -/
def xs (l : List (Nat × Word)) (h : Hart) : Hart := { h with x := l.foldl (fun v p => v.setIfInBounds p.1 p.2) h.x }
def ps (l : List (Nat × BitVec 32768)) (h : Hart) : Hart := { h with p := l.foldl (fun v p => v.setIfInBounds p.1 p.2) h.p }
def tags (l : List (Nat × Tag)) (h : Hart) : Hart := { h with vtag := l.foldl (fun v p => v.setIfInBounds p.1 p.2.code) h.vtag }
def vecs (w : Nat) (l : List (Nat × List Nat)) (h : Hart) : Hart :=
  { h with vst := BitVec.ofNat _ (l.foldl (fun n p => n + packNat w p.2 * 2 ^ (p.1 * h.regBits)) 0) }
def lens (l m : Nat) (h : Hart) : Hart := { h with vl := l, vh := m }

/-- The state behind a step, and what is read of it. -/
def after (o : Host.Outcome State Fault Refusal) : State :=
  match o with
  | .next s => s
  | _ => State.reset
/-- A register behind an instruction. -/
def xAfter (i : Instr) (n : XReg) (s : State) : Word := (after (exec i s)).x n

/-- The shapes of answers that the hypotheses name. -/
def isHere (r : Except MemFault Place) (pa : Nat) : Bool := match r with | .ok (.here q) => q == pa | _ => false
def isErr {α : Type} (r : Except MemFault α) (c : Cause) : Bool := match r with | .error f => f.cause == c && !f.amb | _ => false
def isOk {α : Type} (r : Except MemFault α) : Bool := match r with | .ok _ => true | _ => false

theorem here_of {r : Except MemFault Place × State} {pa : Nat} (h : isHere r.1 pa = true) : r = (.ok (.here pa), r.2) := by
  obtain ⟨_ | (q | q), s⟩ := r <;> simp_all [isHere]
theorem err_of {α : Type} {r : Except MemFault α × State} {c : Cause} (h : isErr r.1 c = true) :
    ∃ f, r = (.error f, r.2) ∧ f.amb = false := by
  obtain ⟨f | q, s⟩ := r
  · exact ⟨f, rfl, by simp_all [isErr]⟩
  · simp [isErr] at h
theorem ok_of {α : Type} {r : Except MemFault α × State} (h : isOk r.1 = true) : ∃ v, r = (.ok v, r.2) := by
  obtain ⟨f | q, s⟩ := r
  · simp [isOk] at h
  · exact ⟨q, rfl⟩
theorem unit_of {r : Except MemFault Unit × State} (h : isOk r.1 = true) : ∃ s, r = (.ok (), s) := by
  obtain ⟨f | q, s⟩ := r
  · simp [isOk] at h
  · exact ⟨s, rfl⟩

def okWith {α : Type} (f : α → Bool) (r : Except MemFault α) : Bool := match r with | .ok v => f v | _ => false
theorem okWith_of {α : Type} {f : α → Bool} {r : Except MemFault α × State} (h : okWith f r.1 = true) :
    ∃ v s, r = (.ok v, s) ∧ r.2 = s ∧ f v = true := by
  obtain ⟨e | q, s⟩ := r
  · simp [okWith] at h
  · exact ⟨q, s, rfl, rfl, h⟩

/-- What a load gave, and whether a word of it is poisoned. -/
def loaded (r : Except MemFault (Nat × Bool)) : Option (Nat × Bool) := match r with | .ok p => some p | _ => none
theorem bad_of {r : Except MemFault (Nat × Bool) × State} {b : Bool} (h : (loaded r.1).map (fun p => p.2) = some b) :
    r = (.ok (((loaded r.1).getD (0, b)).1, b), r.2) := by
  obtain ⟨f | ⟨v, c⟩, s⟩ := r <;> simp_all [loaded]

/-! ## Witnesses: integer instructions and scalar memory -/

/-- A state that may issue, with a wait mask; a guard that is true, one that is false, and the one that is always false. -/
theorem witness_ready : (U).Ready 0 ∧ (U (fun h => { h with tok := 0xF0 })).Ready 9 ∧ (U).hart.guard h0.grd = true ∧ (U).hart.guard h1.grd = true
    ∧ (U).hart.guard ⟨3, false⟩ = false ∧ (U).hart.guard ⟨0, true⟩ = false := by decide +kernel

/-- Registers that hold 0x200, 0x203, an address beyond 57 bits, and 8. -/
def Mx : State := M (xs [(1, 0x1122334455667788), (2, 0x200), (3, 0x203), (4, 0x0200000000000000), (5, 8)])

/-- The same with a poisoned word at 0x200, in a line that the quay holds. -/
def MxBad : State := { Mx with poison := [(0x80, true)], quay := [(4, ⟨false, 0, 0, none⟩)] }

/-- DirectAddresses: an address with a bit above 56, and a direct one. -/
theorem witness_DirectAddresses : (0x0200000000000000#64).toNat / 2 ^ 57 ≠ 0 ∧ (0x10000000000#64).toNat / 2 ^ 52 = 0
    ∧ 2 ^ 40 ≤ (0x10000000000#64).toNat % 2 ^ 41 := by decide +kernel

/-- LoadsComplete: a double word of the page that memory backs; a load that the scalar unit has performed ahead. -/
theorem witness_LoadsComplete : Mx.Ready 0 ∧ Mx.hart.guard h0.grd = true ∧ Mx.NoFlips ∧ Mx.hart.readAhead = none
    ∧ (Mx.upd (fun h => { h with ahead := [.load 7] })).Ready 0 ∧ (Mx.upd (fun h => { h with ahead := [.load 7] })).NoFlips
    ∧ (Mx.upd (fun h => { h with ahead := [.load 7] })).hart.readAhead = some 7 ∧ (Mx.memAddr (.direct 2 8)).toNat % 2 ^ 3 = 0
    ∧ ∃ s1, Mx.locate (Mx.req .scalar) .read (Mx.memAddr (.direct 2 8)) 8 = (.ok (.here 0x208), s1)
      ∧ (s1.readAt (Mx.req .scalar) (.here 0x208) 8).1.2 = false ∧ regionOf 0x208 ≠ .sys :=
  by and_intros <;> first | decide +kernel | exact ⟨_, here_of (by decide +kernel), by decide +kernel, by decide +kernel⟩

/-- StoresComplete. -/
theorem witness_StoresComplete : Mx.Ready 0 ∧ Mx.MarksPast ∧ Mx.NoFlips ∧ (Mx.memAddr (.direct 2 8)).toNat % 2 ^ 3 = 0 ∧ regionOf 0x208 ≠ .sys
    ∧ ∃ s1, Mx.Reaches .write (Mx.memAddr (.direct 2 8)) 8 0x208 s1 :=
  by and_intros <;> first | decide +kernel | exact ⟨_, here_of (by decide +kernel)⟩

/-- ScalarAccessTraps: a misaligned address; accesses that fault; a poisoned word. -/
theorem witness_ScalarAccessTraps : Mx.hart.readAhead = none ∧ MxBad.hart.readAhead = none ∧ (Mx.memAddr (.direct 3 0)).toNat % 2 ^ 3 ≠ 0
    ∧ (∃ f s1, Mx.load (Mx.req .scalar) (Mx.memAddr (.direct 4 0)) 8 = (.error f, s1) ∧ (Mx.memAddr (.direct 4 0)).toNat % 2 ^ 3 = 0)
    ∧ (∃ f s1, Mx.locate (Mx.req .scalar) .write (Mx.memAddr (.direct 4 0)) 8 = (.error f, s1) ∧ f.amb = false)
    ∧ (∃ v s1, MxBad.load (MxBad.req .scalar) (MxBad.memAddr (.direct 2 0)) 8 = (.ok (v, true), s1)) :=
  ⟨by decide +kernel, by decide +kernel, by decide +kernel,
   (err_of (c := .accessFault) (by decide +kernel)).imp (fun _ h => ⟨_, h.1, by decide +kernel⟩),
   (err_of (c := .accessFault) (by decide +kernel)).imp (fun _ h => ⟨_, h⟩),
   ⟨_, _, bad_of (b := true) (by decide +kernel)⟩⟩

/-- AtomicsComplete: an aligned word of each width. -/
theorem witness_AtomicsComplete : Mx.Ready 0 ∧ Mx.MarksPast ∧ Mx.NoFlips ∧ (Mx.x 2).toNat % 8 = 0
    ∧ ∀ n ∈ [4, 8], ∃ s1, Mx.Reaches .atomic (Mx.x 2) n 0x200 s1 ∧ (s1.atHome (Mx.req .scalar) 0x200 n false).poisonedAt 0x200 n = false := by
  and_intros <;> try decide +kernel
  intro n hn
  rcases List.mem_cons.1 hn with rfl | hn
  · exact ⟨_, here_of (by decide +kernel), by decide +kernel⟩
  · obtain rfl := List.mem_singleton.1 hn
    exact ⟨_, here_of (by decide +kernel), by decide +kernel⟩

/-- CacheMaintenance: no bytes, too many bytes, and 8 bytes of a line of HBM. -/
theorem witness_CacheMaintenance : Mx.Ready 0 ∧ Mx.NoFlips ∧ Mx.x 0 = 0 ∧ 2 ^ 32 < (Mx.x 4).toNat ∧ 0 < (Mx.x 5).toNat
    ∧ (Mx.x 2).toNat % 128 + (Mx.x 5).toNat ≤ 128
    ∧ ∃ pod s1, Mx.translate (Mx.req .scalar) .clean (Mx.x 2 &&& ~~~127#64) = (.ok pod, s1) ∧ regionOf (s1.redirect (pod % 2 ^ 45)) = .hbm
      ∧ ∃ s2, s1.Reaches .clean (Mx.x 2 &&& ~~~127#64) 128 0x200 s2 := by
  and_intros <;> try decide +kernel
  refine ⟨0x200, (Mx.translate (Mx.req .scalar) .clean (Mx.x 2 &&& ~~~127#64)).2, ?_, by decide +kernel, _, here_of (by decide +kernel)⟩
  have h : (match (Mx.translate (Mx.req .scalar) .clean (Mx.x 2 &&& ~~~127#64)).1 with | .ok p => p == 0x200 | _ => false) = true := by
    decide +kernel
  generalize Mx.translate (Mx.req .scalar) .clean (Mx.x 2 &&& ~~~127#64) = r at h
  obtain ⟨_ | q, s⟩ := r
  · simp at h
  · simp only [beq_iff_eq] at h
    subst h
    rfl

/-! ## Witnesses: floating point, CSRs, fences, engine queues -/

/-- A NaN, 1, 2, −0 and +0 in FP64. -/
def Fx : State := U (xs [(1, 0x7FF8000000000000), (2, 0x3FF0000000000000), (3, 0x4000000000000000), (4, 0x8000000000000000)])

/-- MinimumAndMaximum: two NaNs, one on either side, and the three orders, equality of −0 and +0 among them. -/
theorem witness_MinimumAndMaximum : (Spec.fpIn Fx false 1).isNan = true ∧ (Spec.fpIn Fx false 2).isNan = false
    ∧ (Spec.fpIn Fx false 2).cmp? (Spec.fpIn Fx false 3) = some .lt ∧ (Spec.fpIn Fx false 3).cmp? (Spec.fpIn Fx false 2) = some .gt
    ∧ (Spec.fpIn Fx false 4).cmp? (Spec.fpIn Fx false 0) = some .eq ∧ Fx.Ready 0 := by decide +kernel

/-- ConversionsAndCompares. -/
theorem witness_ConversionsAndCompares : Tag.si32 ≠ Tag.fp32 ∧ Tag.si32.isInt = true ∧ Fx.Ready 0 := by decide +kernel

/-- CsrReads and CsrWrites: CSRs of U mode at the two ends of their range, one of S mode, and where each may be written. -/
theorem witness_CsrAccesses : (U).Ready 0 ∧ (S).Ready 0
    ∧ (∀ n ∈ [0x001, 0x032], n ∈ (Spec.csrs U).map (fun p => p.1) ∧ Spec.csrHere (U).hart n) ∧ 0x032 ∈ Spec.csrRO (U).hart.mode
    ∧ (∀ n ∈ [0x001, 0x00B, 0x103, 0x110], n ∈ (Spec.csrs S).map (fun p => p.1) ∧ n ∈ Spec.csrStores.map (fun p => p.1)
        ∧ Spec.csrHere (S).hart n ∧ n ∉ Spec.csrRO (S).hart.mode) := by
  unfold Spec.csrHere
  decide +kernel

/-- CsrTraps: a number that is no CSR, vector CSRs on the management hart at both ends of their range, an S CSR in U mode, and a
read-only CSR. -/
theorem witness_CsrTraps : (0x7FF#12).toNat ∉ (Spec.csrs U).map (fun p => p.1) ∧ (P).hart.isMgmt = true ∧ 8 ≤ (0x008#12).toNat
    ∧ (0x010#12).toNat ≤ 16 ∧ (U).hart.mode = .u ∧ (0x104#12).toNat ∈ Spec.csrRO .u ++ [0x100, 0x101, 0x102, 0x103, 0x104, 0x110]
    ∧ (0x020#12).toNat ∈ Spec.csrRO (U).hart.mode := by decide +kernel

/-- A stream of 16 bytes from 0x200 to 0x300, and a non-blocking load of one element. -/
def st0 : Stream := ⟨0x200, 0x300, 16, 1, 0, 0, 0, false, false, 1, .u, 0, none, none, 0, 0, none, 0⟩
def nb0 : NbOp :=
  { word := 0, kind := .load, vd := 1, size := 32, signed := false, ord := 0, tc := 1, evp := 0, lu := false, mode := .u, tenant := 0, launch := none
    todo := [⟨0, 0x200, 0, 0, false⟩], bad := [], halt := false }
/-- A product of FP32 tiles in the queue. -/
def mma0 : MmaOp := ⟨3, 4, 2, .e4m3, false, true, 4, .reg 0 0, .reg 0 0, 0, 0, 0, 0, []⟩

/-- FencesComplete: every queue empty, each queue that a bit names not empty; a matrix queue with and without a product. -/
theorem witness_FencesComplete : (U).Ready 0 ∧ (U).hart.isMgmt = false ∧ (U).hart.copyQ = [] ∧ (U).hart.mq = [] ∧ (U).hart.nbQ = []
    ∧ (U).hart.colls = [] ∧ (U (fun h => { h with copyQ := [st0] })).Ready 0
    ∧ (U (fun h => { h with mq := [⟨.mma mma0, none⟩] })).Ready 0 ∧ (U (fun h => { h with mq := [⟨.mma mma0, none⟩] })).hart.mq = [⟨.mma mma0, none⟩]
    ∧ ∀ h ∈ [{ (U).hart with copyQ := [st0] }, { (U).hart with mq := [⟨.zero 0 false, none⟩] }, { (U).hart with nbQ := [nb0] },
        { (U).hart with colls := [⟨0, 0, none, []⟩] }],
      (0xF#4).getLsbD 0 = true ∧ h.copyQ ≠ [] ∨ (0xF#4).getLsbD 1 = true ∧ h.mq ≠ [] ∨ (0xF#4).getLsbD 2 = true ∧ h.nbQ ≠ []
        ∨ (0xF#4).getLsbD 3 = true ∧ h.colls ≠ [] := by decide +kernel

/-- FencesComplete: the matrix queue with a product and with none. -/
theorem witness_FencesComplete_mma : (∃ q ∈ [MxOp.mk (.mma mma0) none], ∃ o, q.work = .mma o) ∧ ¬∃ q ∈ [MxOp.mk (.zero 0 false) none], ∃ o, q.work = .mma o := by
  simp

/-- Tokens set, and a completion counter at 5; registers at 5, 6 and 2^40. -/
def Tk : State := U (fun h => xs [(1, 5), (2, 6), (3, 0x10000000000)] { h with tok := 0x0F, cc := h.cc.set 1 5, waitStart := some 0 })

/-- TokensAndCounters: no token of the mask, one of it before and behind its time (at the boundary: no wait at all), a counter that has
reached its value, and one that has not. -/
theorem witness_TokensAndCounters : Tk.hart.Sound ∧ Tk.hart.isMgmt = false ∧ Tk.hart.guard ⟨0, false⟩ = true ∧ Tk.hart.tok &&& 0xF0 = 0
    ∧ Tk.hart.tok &&& 0x1F ≠ 0 ∧ Tk.hart.waitStart.getD Tk.cycle + (Tk.x 0).toNat ≤ Tk.cycle
    ∧ ¬(Tk.hart.waitStart.getD Tk.cycle + (Tk.x 3).toNat ≤ Tk.cycle)
    ∧ (Tk.hart.cc[1] - Tk.x 1).toNat < 2 ^ 63 ∧ 2 ^ 63 ≤ (Tk.hart.cc[1] - Tk.x 2).toNat := by decide +kernel

/-- Lengths and addresses of streams: 16, 2^32 and 2^32 + 8 bytes, one row of 16 bytes with pitches, two addresses apart and one
that is misaligned. -/
def Sx : State := M (xs [(1, 0x200), (2, 0x300), (3, 0x204), (4, 16), (5, 0x100000000), (6, 0x100000008), (8, 16), (9, 1), (10, -8), (11, 8)])

/-- StreamsEnterTheQueue: the four checks, each met and failed, both shapes, and a full queue. -/
theorem witness_StreamsEnterTheQueue : Sx.VReady h0 [] (some 1) ∧ Sx.VReady h0 [] none ∧ Sx.hart.guard h0.grd = true
    ∧ (Sx.x 6).toNat * 1 > 2 ^ 32 ∧ ¬(2 ^ 32 < (Sx.x 5).toNat * 1) ∧ (Sx.x 5).toNat % 8 = 0 ∧ (Sx.x 3).toNat % 8 ≠ 0
    ∧ (Sx.x 1).toNat % 8 = 0 ∧ (Sx.x 2).toNat % 8 = 0 ∧ 0 < (Sx.x 4).toNat * 1
    ∧ Spec.spansShare (Sx.x 1) 0 (Sx.x 1) 0 16 1 ∧ ¬Spec.spansShare (Sx.x 1) 0 (Sx.x 2) 0 16 1
    ∧ ¬(2 ^ 24 < (Sx.x 8).toNat ∨ 2 ^ 16 < (Sx.x 9).toNat ∨ (Sx.x 10).toInt % 8 ≠ 0 ∨ (Sx.x 11).toInt % 8 ≠ 0
        ∨ (1 < (Sx.x 9).toNat ∧ (Sx.x 11).toInt.natAbs < (Sx.x 8).toNat))
    ∧ ¬Spec.spansShare (Sx.x 1) (-8) (Sx.x 2) 8 16 1
    ∧ Sx.hart.copyQ.length < Config.copyDepth
    ∧ (M (fun h => { h with copyQ := List.replicate 8 st0 })).VReady h0 [] none ∧ Config.copyDepth ≤ (List.replicate 8 st0).length := by
  unfold Spec.spansShare
  and_intros <;> decide +kernel

/-- A hart with a stream that waits, with one that runs (16 bytes; 256 bytes; one with a bad source), and with one of no bytes. -/
def Sq (x : Stream) : State := M (fun h => { h with copyQ := [x] })
def stRun : Stream := { st0 with chan := some 0 }

/-- The result of the words of a stream's next granule. -/
def words (x : Stream) : Nat × Option EngFault × State :=
  State.streamWords 0 x ((min x.len (128 * (x.w / 128 + 1)) - x.w) / 8) x.w (Sq x)

/-- StreamEvents: a stream that is dispatched, and granules that end a stream, that do not, and that fault. -/
theorem witness_StreamEvents : (∀ x ∈ [st0, { st0 with rb := 0 }], ((Sq x).getHart 0).hid = 0 ∧ ((Sq x).getHart 0).copyQ[0]? = some x
      ∧ (Sq x).nextDispatch 0 = some (0, 0) ∧ ((Sq x).cluster 0).chans.toList.findIdx? (fun c => c.isNone) = some 0)
    ∧ (∀ x ∈ [stRun, { stRun with rb := 256 }, { stRun with src := 0x0200000000000000 }],
        x.chan.isSome = true ∧ x.stop = none ∧ ((Sq x).getHart 0).countsBefore 0 x = false
        ∧ ((words x).2.2.getHart 0).hid = 0 ∧ ((words x).2.2.getHart 0).copyQ[0]? = some x
        ∧ Spec.owesNothing ((Sq x).getHart 0) ∧ Spec.owesNothing ((words x).2.2.getHart 0))
    ∧ (let s := M (fun h => { h with copyQ := [st0, stRun] })
       Spec.owesNothing (s.getHart 0) ∧ s.granuleHeld 0 1 { stRun with src := 0x400, dst := 0x500 } 16 = false)
    ∧ ((words stRun).1 = stRun.len ∧ (words stRun).2.1 = none)
    ∧ ((words { stRun with rb := 256 }).1 = 128 ∧ (words { stRun with rb := 256 }).2.1 = none)
    ∧ (words { stRun with src := 0x0200000000000000 }).2.1.isSome = true := by
  unfold Spec.owesNothing
  decide +kernel

/-- StreamsCopyBytes: the second word of a stream. -/
theorem witness_StreamsCopyBytes : (Sq st0).MarksPast ∧ (Sq st0).NoFlips ∧ st0.lu = false ∧ regionOf 0x208 ≠ .sys ∧ regionOf 0x308 ≠ .sys
    ∧ ∃ s1, (Sq st0).locate (st0.req 0) .read (st0.srcAt 8) 8 = (.ok (.here 0x208), s1)
      ∧ (s1.readAt (st0.req 0) (.here 0x208) 8).1.2 = false
      ∧ ∃ s2, (s1.readAt (st0.req 0) (.here 0x208) 8).2.locate (st0.req 0) .write (st0.dstAt 8) 8 = (.ok (.here 0x308), s2)
        ∧ (s2.writeAt (st0.req 0) (.here 0x308) 8 (s1.readAt (st0.req 0) (.here 0x208) 8).1.1).aliased (st0.req 0)
          ((Sq st0).pkg.toNat * 2 ^ 45 + 0x308) 8 st0.srcBytes = false := by
  and_intros <;> first
    | decide +kernel
    | exact ⟨_, here_of (by decide +kernel), by decide +kernel, _, here_of (by decide +kernel), by decide +kernel⟩

/-- A hart with a non-blocking load: its element open, and with no element open. -/
def Nq (o : NbOp) : State := { M (fun h => { h with nbQ := [o] }) with input := .work 0 0 0 }

/-- NonBlockingQueue: an element that may be accessed, in a queue that runs and, once begun, in one that is halted; a poisoned operand and a poisoned
source; no element left. -/
theorem witness_NonBlockingQueue : (Nq nb0).hart.nbQ[0]? = some nb0 ∧ nb0.todo[0]? = some ⟨0, 0x200, 0, 0, false⟩ ∧ nb0.halt = false
    ∧ (Nq nb0).hart.nbSt.halt = false ∧ (Nq nb0).nbHeld 0 nb0 ⟨0, 0x200, 0, 0, false⟩ = false
    ∧ (Nq nb0).nbBehind nb0 ⟨0, 0x200, 0, 0, false⟩ = false ∧ nb0.kind = .load ∧ nb0.cl = false ∧ nb0.poison = false
    ∧ nb0.todo.find? (fun y => y.e == 0) = some ⟨0, 0x200, 0, 0, false⟩ ∧ nb0.todo.find? (fun y => y.poi) = none
    ∧ (Nq { nb0 with begun := true }).nbHeld 0 { nb0 with begun := true } ⟨0, 0x200, 0, 0, false⟩ = false
    ∧ (Nq { nb0 with kind := .store, todo := [⟨0, 0x200, 0, 0, true⟩] }).hart.nbSt.halt = false
    ∧ (∃ v s1, (Nq nb0).nbAccess nb0 ⟨0, 0x200, 0, 0, false⟩ = (.ok v, s1))
    ∧ (match ((Nq nb0).nbAccess nb0 ⟨0, 0x200, 0, 0, false⟩).1 with | .ok (some _) => true | _ => false) = true
    ∧ (Nq { nb0 with todo := [] }).hart.nbQ[0]? = some { nb0 with todo := [] } := by
  and_intros <;> first | decide +kernel | exact (ok_of (by decide +kernel)).imp (fun _ h => ⟨_, h⟩)

/-- EngineActions: either queue halted, and neither. -/
theorem witness_EngineActions : (({ U (fun h => { h with copySt := { halt := true } }) with input := .work 0 0 0 } : State).getHart 0).copySt.halt = true
    ∧ (({ U (fun h => { h with nbSt := { halt := true } }) with input := .work 0 1 0 } : State).getHart 0).nbSt.halt = true
    ∧ ((U).getHart 0).copySt.halt = false ∧ ((U).getHart 0).nbSt.halt = false ∧ Spec.owesNothing ((U).getHart 0)
    ∧ Spec.owesNothing (Sq { stRun with stop := some ⟨.poison, 0x200, []⟩ }).hart := by
  unfold Spec.owesNothing
  decide +kernel

/-! ## Witnesses: traps and system instructions -/

/-- A trap of a cause. -/
def tr (c : Cause) : Trap := { cause := c, epc := 0x100, val := 7, npg := 1, fb := [0x10000] }

/-- TrapsEnterTheHandler and PageBatchChangesWithPageFaults: a hart in U mode whose die reports nothing, and one in S mode with IE set. -/
theorem witness_TrapsEnterTheHandler : Spec.takesHere U (tr .pageFault) ∧ Spec.takesHere (S (fun h => { h with tstat := 8 })) (tr .ecall)
    ∧ (tr .pageFault).cause = .pageFault ∧ (tr .ecall).cause ≠ .pageFault := by
  unfold Spec.takesHere
  decide +kernel

/-- EarlierTrapsComeFirst: a pending abort in U mode. -/
theorem witness_EarlierTrapsComeFirst : let h := (U (fun h => { h with pend := { abort := some 5 } })).hart
    h.takesExternal = true ∧ h.firstPending.isSome = true := by decide +kernel

/-- ReportedAndDoubleTraps: a reported cause in U mode; IE = 0 on a system hart, the management hart with and without a new image, and a compute hart in
S mode with and without work of the matrix unit. -/
theorem witness_ReportedAndDoubleTraps :
    ((State.updDie U 0 (fun d => { d with tdeleg := 0x200 })).hart.mode = .u
      ∧ ((State.updDie U 0 (fun d => { d with tdeleg := 0x200 })).die 0).tdeleg.getLsbD (tr .ecall).cause.code.toNat = true)
    ∧ (S).hart.mode ≠ .u ∧ (S).hart.tstat.getLsbD 3 = false ∧ (S).hart.isSys = true ∧ (P).hart.mode ≠ .u ∧ (P).hart.isMgmt = true
    ∧ (U (fun h => { h with mode := .s })).hart.isCompute = true 
    ∧ (U).hart.firstPending = none ∧ (P).pilot.trial = false ∧ ({ P with pilot := { (P).pilot with trial := true } }).pilot.trial = true
    ∧ (U (fun h => { h with mode := .s })).hart.mq = [] ∧ (U (fun h => { h with mode := .s, mq := [⟨.zero 0 false, none⟩] })).hart.mq ≠ [] := by
  decide +kernel

/-- ReturnsFromTraps, PrivilegedInstructions: the three modes. -/
theorem witness_ReturnsFromTraps : (S).Ready 0 ∧ (S).hart.mode ≠ .u ∧ (P).Ready 0 ∧ (P).hart.mode ≠ .u ∧ (P).hart.mode ≠ .s
    ∧ (S).hart.isMgmt = false ∧ (S).hart.mode ≠ .p ∧ (U).hart.isMgmt = false ∧ (U).hart.mode = .u := by decide +kernel

/-- WordsThatAreNoInstructions: a hart that runs at an address that is not mapped. -/
theorem witness_WordsThatAreNoInstructions : (U).hart.run = .running ∧ (match (U).fetch.1 with | .error _ => true | _ => false) = true := by
  decide +kernel

/-- A hart with an abort, a link event, a timer pending; a held hart with its report. -/
def Pe : State := { U (fun h => { h with pend := { abort := some 5, link := some 1, timer := true } }) with input := .work 0 0 0 }
def Lk : State := { U (fun h => { h with pend := { link := some 1, timer := true } }) with input := .work 0 0 0 }
def He : State := { U (fun h => { h with run := .held, report := some (tr .ecall) }) with input := .hart 0 }

/-- TrapEvents: a pending abort and another pending trap, the event inside an instruction, and a report with room in the ring: empty, and with one place left. -/
theorem witness_TrapEvents : Pe.hart.run = .running ∧ Pe.hart.takesExternal = true ∧ Pe.hart.inWait = false
    ∧ Pe.hart.nextPending.isSome = true ∧ Pe.hart.nextPending.all (fun p => p.1.cause == .launchAbort && p.2.hid == Pe.hart.hid) = true
    ∧ Lk.hart.takesExternal = true ∧ Lk.hart.nextPending.any (fun p => p.1.cause != .launchAbort && p.2.hid == Lk.hart.hid) = true
    ∧ Lk.hart.firstPending = none ∧ (S).hart.takesExternal = false
    ∧ (He.getHart 0).hid = 0 ∧ (He.getHart 0).report = some (tr .ecall) ∧ (He.getHart 0).posted = false ∧ (He.trqt - He.trqh).toNat < 64
    ∧ (({ He with trqt := 63 }).trqt - ({ He with trqt := 63 }).trqh).toNat < 64 := by decide +kernel

/-- HeldHarts. -/
theorem witness_HeldHarts : He.input = .hart 0 ∧ (He.getHart 0).hid = 0 ∧ (He.getHart 0).run = .held
    ∧ (He.getHart 0).report = some (tr .ecall) := by decide +kernel

/-- Timers: a time that has come (at the boundary), on a hart without and with a launch, one that has not come, and none. -/
theorem witness_Timers : ∀ p ∈ [(5, 5, none), (5, 5, some ⟨0, 0⟩), (6, 5, none), (0, 5, none)],
    let s : State := { U (fun h => { h with tcmp := p.1, launch := p.2.2 }) with input := .hart 0, time := p.2.1 }
    s.input = .hart 0 ∧ (s.getHart 0).hid = 0
      ∧ ((s.getHart 0).tcmp ≠ 0 ∧ (s.getHart 0).tcmp.toNat ≤ s.time ↔ p.1 = 5) := by decide +kernel

/-- A hart that waits since cycle 0, at cycle 128, with a number of cycles in x1, and whether it was woken. -/
def Wt (t : Nat) (woken : Bool) : State :=
  (U (fun h => xs [(1, BitVec.ofNat 64 t)] { h with inWait := true, waitStart := some 0, woken := woken })).updDie 0 (fun d => { d with cyc := 128 })

/-- Waiting: PREEMPT first where it is taken and where it is not; nothing pending and the wait not begun, begun with no deadline, with one that has come and one that has not, woken; a trap
pending. -/
theorem witness_Waiting : (let h := (U (fun h => { h with pend := { preempt := true } })).hart
      h.nextPending.any (fun p => p.1.cause == .preempt) = true ∧ h.takesExternal = true ∧ h.anyPending = true)
    ∧ (let h := (U (fun h => { h with mode := .s, pend := { preempt := true } })).hart
      h.nextPending.any (fun p => p.1.cause == .preempt) = true ∧ h.takesExternal = false ∧ h.anyPending = true)
    ∧ Pe.hart.nextPending.all (fun p => p.1.cause != .preempt) = true
    ∧ Pe.Ready 0 ∧ Pe.hart.anyPending = true ∧ (U).Ready 0 ∧ (U).hart.anyPending = false ∧ (U).hart.inWait = false
    ∧ ∀ p ∈ ([(0, true, false), (0, false, false), (5, false, false), (4, false, true)] : List (Nat × Bool × Bool)),
      (Wt p.1 p.2.1).Ready 0 ∧ (Wt p.1 p.2.1).hart.inWait = true ∧ (Wt p.1 p.2.1).hart.anyPending = false ∧ (Wt p.1 p.2.1).hart.woken = p.2.1
        ∧ ((Wt p.1 p.2.1).x 1 ≠ 0 ∧ (Wt p.1 p.2.1).hart.waitStart.getD (Wt p.1 p.2.1).cycle + ((Wt p.1 p.2.1).x 1).toNat
          ≤ (Wt p.1 p.2.1).cycle ↔ p.2.2 = true) := by decide +kernel

/-- The last frame of the last compute die, an address beside it, and the numbers of a system hart and of a compute hart. -/
def Px (c : Option (Cls × BitVec 6 × Nat)) : State :=
  (P (xs [(1, 0x0E1FC0000000), (2, 0x100000000000), (3, 0x1000), (4, 0), (5, 0x10000), (6, 0x10001)])).updFrame 7 127 (fun f => { f with change := c })

/-- SystemInstructions: each check of TINV, CLSET and BIND met and failed. -/
theorem witness_SystemInstructions : (Px none).Ready 0 ∧ (Px none).hart.mode = .p ∧ ((Px none).x 6).toNat % 2 ^ 16 ≠ 0
    ∧ ((Px none).x 5).toNat % 2 ^ 16 = 0
    ∧ (let a := ((Px none).x 1).toNat
       a / 2 ^ 45 = (Px none).pkg.toNat ∧ a / 2 ^ 41 % 16 = 7 ∧ a / 2 ^ 30 % 128 = 127 ∧ a / 2 ^ 37 % 16 = 0 ∧ a % 2 ^ 30 = 0)
    ∧ ((Px none).x 2).toNat / 2 ^ 41 % 16 = 8 ∧ ((Px none).frame 7 127).change = none
    ∧ ((Px (some (.n, 3, 1))).frame 7 127).change.isSome = true ∧ (Px (some (.n, 3, 1))).Ready 0
    ∧ ((Px none).x 3).toNat < 2 ^ 20 ∧ namesHart 0 (Px none).mgmtDie (((Px none).x 3).setWidth 20) = true
    ∧ 8 ≤ hidDie (((Px none).x 3).setWidth 20) ∧ hidCluster (((Px none).x 3).setWidth 20) ≠ 31 ∧ hidDie (((Px none).x 4).setWidth 20) < 8 := by
  decide +kernel

/-- FrameChanges: a change of the last frame, under the same and under another tenant. -/
theorem witness_FrameChanges : ∀ t ∈ [0, 3], let s : State := { Px (some (.n, t, 1)) with input := .work 7 127 0 }
    Memory.wf s.mem = true ∧ s.MarksPast ∧ s.Named ∧ (s.frame 7 127).change = some (.n, t, 1) := by decide +kernel

/-- A hart in S mode with a save area in the scratchpad of its core, and one in a hole. -/
def Sv (f : Hart → Hart := id) : State :=
  U (fun h => f (xs [(1, 0x10000000000), (2, -1), (3, 0x10008), (4, 0x10010000000)] { h with mode := .s, regs := 3, vtag := Vector.replicate 64 0 }))

/-- The save area of the hart once it has withdrawn its pushes. -/
def svArea : List Piece := (Spec.savedArea (Sv).withdraw.hart ((Sv).x 2)).map (fun p => ⟨p.1, p.2.1, p.2.2.1, p.2.2.2⟩)

/-- ContextsAreSaved: an area that is misaligned, a queue that is not empty, a halted queue, a halted queue beside a busy one, an area that can be
written, and one that cannot. -/
theorem witness_ContextsAreSaved : (Sv).Ready 0 ∧ (Sv).hart.isMgmt = false ∧ (Sv).hart.mode = .s ∧ ((Sv).x 3).toNat % 4096 ≠ 0 ∧ ((Sv).x 4).toNat % 4096 = 0
    ∧ ((Sv).x 1).toNat % 4096 = 0
    ∧ (let quiet (h : Hart) : Bool := (h.copySt.halt || h.copyQ.isEmpty) && h.mq.isEmpty && (h.nbSt.halt || h.nbQ.all (fun o => o.pushNo.isSome))
       quiet (Sv).hart = true ∧ quiet (Sv (fun h => { h with copyQ := [st0] })).hart = false
       ∧ quiet (Sv (fun h => { h with nbQ := [nb0], nbSt := { halt := true } })).hart = true
       ∧ quiet (Sv (fun h => { h with copyQ := [st0], nbQ := [nb0], nbSt := { halt := true } })).hart = false)
    ∧ (Sv).hart.copySt.halt = false ∧ (Sv).hart.nbSt.halt = false
    ∧ (∃ s1, (Sv).withdraw.writePieces ((Sv).withdraw.req .vector) ((Sv).x 1) svArea = (.ok (), s1))
    ∧ (∃ f s1, (Sv).withdraw.writePieces ((Sv).withdraw.req .vector) ((Sv).x 4) svArea = (.error f, s1)) := by
  and_intros <;> first
    | decide +kernel
    | exact unit_of (by decide +kernel)
    | skip
  obtain ⟨f, h, -⟩ := err_of (c := .accessFault) (r := (Sv).withdraw.writePieces ((Sv).withdraw.req .vector) ((Sv).x 4) svArea) (by decide +kernel)
  exact ⟨f, _, h⟩

/-- Where a span of 64 bytes of the scratchpad lies, with a word of it poisoned. -/
def apState : State := { Sv with poison := [(0x4000000204, true)] }
def apSpans (s : State) (k : Kind) : Except MemFault (List (Place × Nat)) × State := s.locateAll (s.req .vector) k (pageSpans (s.x 1 + 0x800) 64)
/-- Whether the located spans are one span of this package's memory. -/
def oneSpan (r : Except MemFault (List (Place × Nat))) (pa n : Nat) : Bool :=
  match r with
  | .ok [(.here a, m)] => a == pa && m == n
  | _ => false
theorem oneSpan_of {r : Except MemFault (List (Place × Nat)) × State} {pa n : Nat} (h : oneSpan r.1 pa n = true) : r = (.ok [(.here pa, n)], r.2) := by
  obtain ⟨_ | l, s⟩ := r
  · simp [oneSpan] at h
  · unfold oneSpan at h
    split at h <;> simp_all

/-- AreaPiecesAreWritten, AreaPiecesAreRead: a piece in the scratchpad of the core, read with no word poisoned and with one; the record of a push without data. -/
theorem witness_AreaPieces : (Sv).MarksPast ∧ (Sv).NoFlips ∧ apState.NoFlips ∧ ((Sv).x 1 + 0x800).toNat % 8 = 0 ∧ regionOf 0x10000000800 ≠ .sys
    ∧ (∃ s0, apSpans Sv .write = (.ok [(.here 0x10000000800, 64)], s0)) ∧ (∃ s0, apSpans apState .read = (.ok [(.here 0x10000000800, 64)], s0))
    ∧ Spec.spread [(.here 0x10000000800, 64)] 0 = [(0x10000000800, 64, 0)]
    ∧ okWith (fun v => v.2 == 0) ((Sv).readPiece ((Sv).req .vector) ((Sv).x 1 + 0x800) 64 false).1 = true
    ∧ okWith (fun v => v.2 != 0) (apState.readPiece (apState.req .vector) (apState.x 1 + 0x800) 64 false).1 = true
    ∧ (∃ z s1 e s3, (Sv).readPiece ((Sv).req .vector) ((Sv).x 1 + BitVec.ofNat 64 0x800) 64 true = (.ok (0, z), s1)
        ∧ (elemsBits .none 0 + 511) / 512 * 64 = 0 ∧ s1.readPushes ((Sv).req .vector) ((Sv).x 1) (Sv).hart 0 1 0x840 = (.ok ([], e), s3)) := by
  and_intros <;> first
    | decide +kernel
    | exact ⟨_, oneSpan_of (by decide +kernel)⟩
    | skip
  obtain ⟨v, s1, h, -, hv⟩ := okWith_of (f := fun p => p.1 == 0)
    (r := (Sv).readPiece ((Sv).req .vector) ((Sv).x 1 + BitVec.ofNat 64 0x800) 64 true) (by decide +kernel)
  exact ⟨v.2, s1, 0x840, s1, by rw [h, ← beq_iff_eq.1 hv], by decide +kernel, rfl⟩

/-- The same hart with an area whose header has FORMAT 1 and SAVED = 1 and is zero otherwise, and the parts of VREST's reading of it: every field of one
that is good; a poisoned header; a poisoned predicate. -/
def Rs (po : List (Nat × Bool)) : State := { Sv with mem := [(0x10000000000, 1), (0x10000000008, 1)], poison := po }
def rsHead (po : List (Nat × Bool)) : Except MemFault (Nat × Nat) × State := (Rs po).readPiece ((Rs po).req .vector) ((Rs po).x 1) 0x800 true
def rsPieces : List (Nat × Nat × Bool) :=
  (0x800, 4096, true) :: (List.range 15).map (fun j => (0x1800 + 4096 * j, 4096, true)) ++ [0].map (fun k => (0x10800 + k * (131072 / 8), 131072 / 8, false))
def rsAll (po : List (Nat × Bool)) : Except MemFault (List (Nat × Nat)) × State :=
  (rsHead po).2.readPieces ((Rs po).req .vector) ((Rs po).x 1) rsPieces
def rsV : Nat := 1 + 2 ^ 64

/-- ContextsAreRestored: a header that is accepted, with the whole area readable, and one that is not; a poisoned header; a poisoned predicate. -/
theorem witness_ContextsAreRestored : (Rs []).Ready 0 ∧ (Rs []).hart.isMgmt = false ∧ (Rs []).hart.mode = .s ∧ ((Rs []).x 1).toNat % 4096 = 0
    ∧ (Rs []).hart.saveReady = true ∧ (Rs []).NoFlips ∧ (∃ s1, rsHead [] = (.ok (rsV, 0), s1)) ∧ (rsHead []).2.shared = false
    ∧ ((List.range 64).filter (fun k => (headWord rsV 8).getLsbD k && decide (k < 8 * 2 ^ ((headWord rsV 0x10).extractLsb' 0 2).toNat))) = [0]
    ∧ headField rsV 0 1 = 1 ∧ headField rsV 1 1 = 0 ∧ headField rsV 0x108 8 ≤ 1
    ∧ (∀ p ∈ [(2, 8), (0x112, 0x118), (0x118, 0x200), (0x340, 0x400), (0x5F8, 0x800)], rsV / 2 ^ (8 * p.1) % 2 ^ (8 * (p.2 - p.1)) = 0)
    ∧ (∃ vs s2, rsAll [] = (.ok vs, s2) ∧ (rsAll []).2 = s2 ∧ (vs.length == 17) = true)
    ∧ (∃ ps e s3, (rsAll []).2.readPushes ((Rs []).req .vector) ((Rs []).x 1) (rsAll []).2.hart 0 0 0x30800 = (.ok (ps, e), s3))
    ∧ (∃ f, rsHead [(0x4000000000, true)] = (.error f, (rsHead [(0x4000000000, true)]).2) ∧ f.amb = false)
    ∧ (∃ f, rsAll [(0x4000000600, true)] = (.error f, (rsAll [(0x4000000600, true)]).2) ∧ f.amb = false)
    ∧ headField 0 0 1 ≠ 1 ∧ (∃ s1, (Sv).readPiece ((Sv).req .vector) ((Sv).x 1) 0x800 true = (.ok (0, 0), s1)) := by
  have eq_of : ∀ {r : Except MemFault (Nat × Nat) × State} {q : Nat × Nat}, okWith (fun p => p == q) r.1 = true → ∃ s, r = (.ok q, s) := by
    intro r q h
    obtain ⟨v, s, h, -, hv⟩ := okWith_of h
    exact ⟨s, by rw [h, beq_iff_eq.1 hv]⟩
  and_intros <;> first
    | decide +kernel
    | exact eq_of (by decide +kernel)
    | exact okWith_of (by decide +kernel)
    | exact err_of (c := .poison) (by decide +kernel)
    | exact ⟨[], _, _, rfl⟩

/-! ## Witnesses: launches and gangs -/

/-- A launch of queue `q`, and a gang of queue 0 in cluster `c` with sixteen harts. -/
def ln (q : Nat) (pk : BitVec 512) (cursor : Nat) : Launch := ⟨⟨q, 0⟩, pk, 0, .queued, cursor, 0, true, false, 0, 0, false, 0, none⟩
def gn (c : Nat) : Gang :=
  { lid := ⟨0, 0⟩, num := c, cl := c, harts := List.range 16, live := if c = 0 then List.range 16 else [], ended := [], spmOff := 0, spmLen := 0
    accOff := List.replicate 16 0, accLen := 0, bar := 15, cls := .f, tenant := 0, st := .resident, since := 0, parkNo := 0, forL := none
    yielded := false, barSaved := {}, grants := [], rowsResv := 0, saved := [] }

/-- A packet of zeros at 0x240, and one at 0x280 whose reserved bit 63 is set; a queue that is enabled, one of another tenant. -/
def Lx : State := { M (xs [(1, 0x240), (2, 0x248), (3, 0x280), (4, 0x2C0)]) with
  queues := (State.reset.queues.set 0 { en := true }).set 1 { tenant := 5 }, mem := [(0x287, 0x80), (0x2CD, 1)], poison := [] }

/-- Launching: a misaligned packet, a poisoned one, one of a queue of another tenant, one that is refused and one that is accepted. -/
theorem witness_Launching : Lx.Ready 0 ∧ Lx.NoFlips ∧ Lx.hart.isMgmt = false ∧ Lx.hart.guard h0.grd = true ∧ (Lx.x 2).toNat % 64 ≠ 0
    ∧ (Lx.x 1).toNat % 64 = 0 ∧ (Lx.x 3).toNat % 64 = 0 ∧ (Lx.x 4).toNat % 64 = 0
    ∧ (∃ v s1, ({ Lx with poison := [(0x90, true)], quay := [(4, ⟨false, 0, 0, none⟩)] }).load (Lx.req .scalar) (Lx.x 1) 64 = (.ok (v, true), s1))
    ∧ (∃ v s1, Lx.load (Lx.req .scalar) (Lx.x 4) 64 = (.ok v, s1) ∧ (Lx.load (Lx.req .scalar) (Lx.x 4) 64).2 = s1
      ∧ (v.2 == false && (s1.queue (pkQueue (BitVec.ofNat 512 v.1))).tenant != s1.hart.tenant) = true)
    ∧ (∃ v s1, Lx.load (Lx.req .scalar) (Lx.x 3) 64 = (.ok v, s1) ∧ (Lx.load (Lx.req .scalar) (Lx.x 3) 64).2 = s1
      ∧ (v.2 == false && s1.refusal (BitVec.ofNat 512 v.1) 0 false == some (-3)) = true)
    ∧ (∃ v s1, Lx.load (Lx.req .scalar) (Lx.x 1) 64 = (.ok v, s1) ∧ (Lx.load (Lx.req .scalar) (Lx.x 1) 64).2 = s1
      ∧ (v.2 == false && s1.refusal (BitVec.ofNat 512 v.1) 0 false == none) = true) := by
  have load_of : ∀ {x : Word} {f : Nat × Bool → State → Bool},
      okWith (fun v => f v (Lx.load (Lx.req .scalar) x 64).2) (Lx.load (Lx.req .scalar) x 64).1 = true →
      ∃ v s1, Lx.load (Lx.req .scalar) x 64 = (.ok v, s1) ∧ (Lx.load (Lx.req .scalar) x 64).2 = s1 ∧ f v s1 = true := by
    intro x f h
    obtain ⟨v, s, e, e2, hv⟩ := okWith_of h
    exact ⟨v, s, e, e2, by rw [e2] at hv; exact hv⟩
  and_intros <;> first
    | decide +kernel
    | exact ⟨_, _, bad_of (b := true) (by decide +kernel)⟩
    | exact load_of (f := fun v s => v.2 == false && (s.queue (pkQueue (BitVec.ofNat 512 v.1))).tenant != s.hart.tenant) (by decide +kernel)
    | exact load_of (f := fun v s => v.2 == false && s.refusal (BitVec.ofNat 512 v.1) 0 false == some (-3)) (by decide +kernel)
    | exact load_of (f := fun v s => v.2 == false && s.refusal (BitVec.ofNat 512 v.1) 0 false == none) (by decide +kernel)

/-- RefusalsInOrder: a queue that is not enabled, malformed packets of every kind and one at the limit, packets that cannot fit, a full queue (256 launches,
the boundary) and one with room for one. -/
theorem witness_RefusalsInOrder : (Lx.queue 1).en = false ∧ (Lx.queue 0).en = true ∧ (1#512 <<< 63).getLsbD 63 = true
    ∧ ((3#512 <<< 116).extractLsb' 116 2).toNat = 3 ∧ ((1#512).extractLsb' 0 3).toNat ≠ 0
    ∧ (Lx.refusal (8193#512 <<< 128) 0 false = some (-3) ∧ Lx.refusal (8192#512 <<< 128) 0 false = none ∧ Lx.refusal (1#512 <<< 121) 0 false = some (-3)
      ∧ Lx.refusal (1#512 <<< 123) 0 false = some (-3) ∧ Lx.refusal (1#512 <<< 123) 0 true = none
      ∧ Lx.refusal (1#512 <<< 124 ||| 1#512 <<< 168) 0 false = some (-3) ∧ Lx.refusal (1#512 <<< 124) 0 false = none
      ∧ Lx.refusal (12289#512 <<< 142) 0 false = some (-4) ∧ Lx.refusal (12288#512 <<< 142) 0 false = none
      ∧ Lx.refusal (1#512 <<< 121 ||| 15#512 <<< 112 ||| 257#512 <<< 156) 0 false = some (-4)
      ∧ Lx.refusal (1#512 <<< 121 ||| 15#512 <<< 112 ||| 256#512 <<< 156) 0 false = none)
    ∧ (Lx.updQueue 0 (fun q => { q with qseq := 256 })).refusal 0 0 false = some (-1)
    ∧ (Lx.updQueue 0 (fun q => { q with qseq := 255 })).refusal 0 0 false = none := by decide +kernel

/-- A hart of a launch of 100 elements that has handed out some, with a tile of 10 by 4. -/
def Cx (cursor : Nat) : State :=
  { U (fun h => lens 10 4 { h with launch := some ⟨0, 0⟩ }) with launches := [ln 0 (100#512 <<< 64) cursor] }

/-- Claiming: no launch; whole tiles (at the boundary), whole rows, less than a row, nothing left. -/
theorem witness_Claiming : (U).hart.launch.bind (U).launchOf = none ∧ pkCount (100#512 <<< 64) = 100
    ∧ ∀ p ∈ [(60, 40), (61, 39), (90, 10), (91, 9), (99, 1), (100, 0)],
      (Cx p.1).Ready 0 ∧ (Cx p.1).hart.launch.bind (Cx p.1).launchOf = some (ln 0 (100#512 <<< 64) p.1) ∧ 100 - p.1 = p.2
        ∧ (Cx p.1).hart.vl * (Cx p.1).hart.vh = 40 := by decide +kernel

/-- A hart of a gang in cluster 0, whose barrier register has a phase and arrivals. -/
def Gx (arr : BitVec 16) (st : Resid) : State :=
  ({ U (fun h => xs [(1, 7)] { h with launch := some ⟨0, 0⟩ }) with gangs := [{ gn 0 with st := st }], launches := [ln 0 0 0] }).updBar 0 15
    (fun _ => ⟨true, 0xFFFF, arr, 7⟩)

/-- ReportedAndDoubleTraps, the hart of a launch: in S mode with IE = 0, its launch PLACING and DRAINING, another hart of it resident. -/
theorem witness_DoubleTrapOfALaunch : ∀ st ∈ [LState.placing, .draining],
    let g := Gx 0 .resident
    let s : State := { g with hart := { g.hart with mode := .s }, launches := [{ ln 0 0 0 with st := st }] }
    s.hart.isCompute = true ∧ s.Named ∧ s.hart.mode ≠ .u ∧ s.hart.tstat.getLsbD 3 = false ∧ s.hart.launch = some ⟨0, 0⟩
      ∧ s.launchOf ⟨0, 0⟩ = some { ln 0 0 0 with st := st }
      ∧ ∃ g ∈ s.gangs, g.lid = ⟨0, 0⟩ ∧ g.st ≠ .parked ∧ 15 ∈ g.live ∧ BitVec.ofNat 20 15 ≠ s.hart.hid := by decide +kernel

/-- GangBarrier: no gang; a hart that has arrived, one that comes last, one that comes before others, a phase that is the one named and one
that is not. -/
theorem witness_GangBarrier : (U).gangOf (U).hart.hid = none ∧ (gn 0).bar < 16 ∧ (gn 0).harts.idxOf (U).hart.hid.toNat = 0
    ∧ (Gx 1 .resident).Ready 0 ∧ (Gx 1 .resident).gangOf 0 = some (gn 0) ∧ ((Gx 1 .resident).bar 0 15).arrived.getLsbD 0 = true
    ∧ (Gx 0 .resident).gangOf 0 = some (gn 0) ∧ ((Gx 0 .resident).bar 0 15).arrived.getLsbD 0 = false
    ∧ (Gx 0xFFFE .resident).gangOf 0 = some (gn 0) ∧ ((Gx 0xFFFE .resident).bar 0 15).arrived ||| 1 = ((Gx 0xFFFE .resident).bar 0 15).members
    ∧ ((Gx 0 .resident).bar 0 15).phase = ((Gx 0 .resident).x 1).setWidth 32
    ∧ ((Gx 0 .resident).bar 0 15).phase ≠ ((Gx 0 .resident).x 0).setWidth 32 := by
  decide +kernel

/-- Exiting: U mode with and without work, with PREEMPT pending before and behind the beginning of EXIT; S mode inside and outside the
handling of PREEMPT, with and without work. -/
theorem witness_Exiting : (U).Ready 0 ∧ (U).hart.isMgmt = false ∧ (U).hart.mode = .u ∧ (U).hart.pend.preempt = false ∧ (U).hart.drained = true
    ∧ (U (fun h => { h with copyQ := [st0] })).Ready 0 ∧ (U (fun h => { h with copyQ := [st0] })).hart.drained = false
    ∧ (U (fun h => { h with pend := { preempt := true }, exiting := true })).Ready 0
    ∧ (U (fun h => { h with pend := { preempt := true } })).hart.exiting = false
    ∧ (∀ c ∈ [[], [st0]], ∀ b ∈ [true, false], let s := U (fun h => { h with mode := .s, preempting := b, copyQ := c })
      s.Ready 0 ∧ s.hart.mode = .s ∧ s.hart.preempting = b ∧ s.hart.isCompute = true ∧ s.hart.saveReady = c.isEmpty
        ∧ s.hart.drained = c.isEmpty) := by decide +kernel

/-- Yielding: no gang; a gang that is being pre-empted; one for which no launch waits. -/
theorem witness_Yielding : (U).gangOf (U).hart.hid = none ∧ (Gx 0 .preempting).Ready 0
    ∧ (Gx 0 .preempting).gangOf 0 = some { gn 0 with st := .preempting }
    ∧ (Gx 0 .preempting).hart.launch.bind (Gx 0 .preempting).launchOf = some (ln 0 0 0)
    ∧ (Gx 0 .resident).yieldFor (gn 0) (ln 0 0 0) = none := by decide +kernel

/-- A package full of gangs of one launch, for one of which another launch waits. -/
def Yx : State := { Gx 0 .resident with gangs := (List.range 256).map gn, launches := [ln 0 0 0, ln 1 0 0] }

/-- Yielding, the last clause: another launch waits for the place of the gang, and fits no cluster. -/
theorem witness_Yielding_gives_way : Yx.Ready 0 ∧ Yx.gangOf 0 = some (gn 0) ∧ Yx.hart.launch.bind Yx.launchOf = some (ln 0 0 0)
    ∧ (gn 0).st = .resident ∧ Yx.yieldFor (gn 0) (ln 0 0 0) = some (ln 1 0 0) ∧ gn 0 ∈ Yx.gangs :=
  by and_intros <;> decide +kernel

/-- WaitingOnMemory: a misaligned address; a double word that differs, one that does not, with and without a deadline that has come. -/
theorem witness_WaitingOnMemory : Mx.Ready 0 ∧ (Mx.x 3).toNat % 8 ≠ 0 ∧ (Mx.x 2).toNat % 8 = 0
    ∧ (∃ s1, Mx.load (Mx.req .scalar) (Mx.x 2) 8 = (.ok (0, false), s1)) ∧ BitVec.ofNat 64 0 ≠ Mx.x 1 ∧ BitVec.ofNat 64 0 = Mx.x 0
    ∧ (let s : State := (U (fun h => { h with waitStart := some 0 })).updDie 0 (fun d => { d with cyc := 8192 })
       s.Ready 0 ∧ (1#16 ≠ 0 ∧ s.hart.waitStart.getD s.cycle + 256 * (1#16).toNat ≤ s.cycle)
         ∧ ¬(2#16 ≠ 0 ∧ s.hart.waitStart.getD s.cycle + 256 * (2#16).toNat ≤ s.cycle)) := by
  and_intros <;> try decide +kernel
  obtain ⟨v, s, h, -, hv⟩ := okWith_of (f := fun v => v == (0, false)) (r := Mx.load (Mx.req .scalar) (Mx.x 2) 8) (by decide +kernel)
  exact ⟨s, by rw [h, beq_iff_eq.1 hv]⟩

/-! ## Witnesses: vectors -/

/-- Tiles of 8 by 4 with 64 registers: v1 to v3 FP32, v4 to v6 SI32, v7 and v8 SX5, v9 UI8, v10 SI4, v11 E8M0, v12 E4M3; predicate 3 has the
even elements; x1 to x4 hold 0, 2, 7 and 8. -/
def Vx (f : Hart → Hart := id) : State :=
  U (fun h => f (lens 8 4 (xs [(2, 2), (3, 7), (4, 8)] (ps [(3, 0x55555555)] (tags [(1, .fp32), (2, .fp32), (3, .fp32), (4, .si32), (5, .si32),
    (6, .si32), (7, .sx5), (8, .sx5), (9, .ui8), (10, .si4), (11, .e8m0), (12, .e4m3)] { h with regs := 3 })))))
/-- A header under predicate 3. -/
def h3 : Hdr := ⟨3, false, 0⟩

/-- VectorConfiguration: a hart alone in its gang, and one of two that asks for its own and for another register count. -/
theorem witness_VectorConfiguration : (U).VReady (.plain 0) [] ∧ (U).shared = false
    ∧ ({ Gx 0 .resident with gangs := [gn 0] }).VReady (.plain 0) [] ∧ (Gx 0 .resident).shared = true
    ∧ (3 : BitVec 2) ≠ (Gx 0 .resident).hart.regs ∧ (U).VReady (.plain 0) [7] ∧ ¬(U).VReady (.plain 0) [8]
    ∧ (Tag.ofCode? Tag.sx8.code).isSome = true := by decide +kernel

/-- VectorLengths: nothing to come into force, a reconfiguration, and one that has to wait. -/
theorem witness_VectorLengths : (Vx).VReady (.plain 0) [] ∧ Tag.ofCode? Tag.fp32.code = some .fp32 ∧ Tag.fp32 ≠ .none
    ∧ (Vx (fun h => { h with nxt := 3 })).hart.nxt = (Vx (fun h => { h with nxt := 3 })).hart.regs ∧ (Vx).hart.nxt ≠ (Vx).hart.regs
    ∧ (Vx).hart.vecWork = false ∧ (Vx (fun h => { h with nbQ := [nb0] })).VReady (.plain 0) []
    ∧ (Vx (fun h => { h with nbQ := [nb0] })).hart.vecWork = true := by decide +kernel

/-- MovesAndBroadcasts, Slices, ExtractAndInsert, RowMoves: element tags, blocks, indexes at both ends of the tile and beyond, guards. -/
theorem witness_moves : Spec.movable Vx h0 1 2 ∧ (Vx).VReady h3 [7, 8] ∧ (Vx).hart.lenOk [7, 8] = true
    ∧ (Vx).hart.tag 7 = (Vx).hart.tag 8 ∧ ((Vx).hart.tag 7).isBlock = true ∧ (Vx).hart.n % 32 = 0 ∧ 0 < (Vx).hart.vl ∧ 0 < (Vx).hart.vh
    ∧ ((Vx).x 3).toNat < (Vx).hart.vl ∧ ¬((Vx).x 4).toNat < (Vx).hart.vl ∧ (Vx).hart.active h3.grd 0 = true
    ∧ (Vx (ps [(3, 2)])).hart.active h3.grd 0 = false ∧ (Vx).VReady h0 [1, 2, 9] ∧ (Vx).hart.lenOk [9] = true
    ∧ Tag.isIndex ((Vx).hart.tag 9) = true ∧ ((Vx).hart.tag 9).isSigned = false ∧ Tag.isIndex ((Vx).hart.tag 4) = true := by
  unfold Spec.movable
  and_intros <;> decide +kernel

/-- The registers that a queued product reads (R222): an instruction may read them, and none that writes them is ready. -/
theorem witness_matrix_reads : (Vx).hart.mxReads 3 = false ∧ (let s := Vx (fun h => { h with mq := [⟨.mma { mma0 with regs := [3] }, none⟩] })
    s.VReady h0 [3, 2] (dst := []) ∧ s.VReady h0 [2, 3] ∧ s.hart.mxReads 3 = true) := by decide +kernel

/-- Two registers as sources, and the pass queue with one. -/
def oR (a b : VReg) : VBin := ⟨false, ⟨a, .none⟩, ⟨b, .none⟩⟩
def oQ (b : VReg) : VBin := ⟨true, ⟨0, .none⟩, ⟨b, .none⟩⟩

/-- VectorArithmetic, VectorBits, BitInterleaving, CompareAndSelect: operands of every rule for tags, register and pass-queue forms. -/
theorem witness_elementwise : Spec.elementsReady Vx h3 (arith vAdd 1 (oR 2 3) none false 1 Vx) arithTags
    ∧ Spec.elementsReady Vx h3 (arith vAdd 1 (oQ 3) none false 1 Vx) arithTags
    ∧ Spec.elementsReady Vx h3 (arith (vMath Exact.sqrt) 1 (oneSrc ⟨2, .none⟩) none false 1 Vx) floatTags
    ∧ Spec.elementsReady Vx h3 (arith vFma 1 (oQ 2) (some 3) false 1 Vx) arithTags
    ∧ Spec.elementsReady Vx h3 (arith vMulh 4 (oR 5 6) none false 1 Vx) sameIntTags
    ∧ Spec.elementsReady Vx h3 (arith vRem 4 (oQ 6) none false 1 Vx) intTags
    ∧ Spec.elementsReady Vx h3 (Spec.plainOp 4 (oR 5 6) none (fun _ a _ _ => a)) sameIntTags
    ∧ Spec.elementsReady Vx h3 (Spec.plainOp 4 (oR 5 6) (some 4) (fun _ a _ _ => a)) intTags
    ∧ Spec.elementsReady Vx h3 (Spec.plainOp 1 (oR 2 3) none (fun _ a _ _ => a)) (fun st dt => st == dt && !st.isBlock)
    ∧ (Vx).VReady h3 [2, 3] ∧ (Vx).hart.lenOk [2, 3] = true ∧ (Vx).hart.tag 3 = (Vx).hart.tag 2 ∧ ((Vx).hart.tag 2).isArith = true
    ∧ ¬(VCond.un = .un ∧ ((Vx).hart.tag 2).isInt = true) := by
  unfold Spec.elementsReady
  and_intros <;> decide +kernel

/-- IntegerElementsWrapOrSaturate. -/
theorem witness_IntegerElementsWrapOrSaturate : (Vx).VReady h3 [4, 5, 6] ∧ (Vx).hart.lenOk [4, 5, 6] = true ∧ (Vx).hart.tag 4 = .si32
    ∧ (Vx).hart.tag 5 = .si32 ∧ (Vx).hart.tag 6 = .si32 ∧ Tag.si32.isInt = true ∧ Tag.si32.isArith = true := by decide +kernel

/-- ReductionsAndScans: floating point, and integers of one tag. -/
theorem witness_ReductionsAndScans : (Vx).VReady h3 [1, 2] ∧ (Vx).hart.lenOk [1, 2] = true ∧ 0 < (Vx).hart.vl
    ∧ (redCtx .add 1 2 false 1 (Vx).hart).ok = true ∧ (Vx).VReady h3 [4, 5] ∧ (Vx).hart.lenOk [4, 5] = true
    ∧ (redCtx .add 4 5 false 1 (Vx).hart).ok = true ∧ (redCtx .add 4 5 false 1 (Vx).hart).st.isInt = true
    ∧ (redCtx .add 4 5 false 1 (Vx).hart).dt = (redCtx .add 4 5 false 1 (Vx).hart).st := by decide +kernel

/-- TopElements: rows of 8 under UI8, and the longest rows that its column numbers reach (R200). -/
theorem witness_TopElements : (Vx).VReady h3 [9, 2] ∧ (Vx).hart.lenOk [9, 2] = true ∧ ((Vx).hart.tag 2).isArith = true
    ∧ Tag.isIndex ((Vx).hart.tag 9) = true ∧ ((Vx).hart.vl : Int) - 1 ≤ ((Vx).hart.tag 9).intMax
    ∧ ((Vx (lens 256 1)).hart.vl : Int) - 1 ≤ ((Vx).hart.tag 9).intMax ∧ ¬((Vx (lens 257 1)).hart.vl : Int) - 1 ≤ ((Vx).hart.tag 9).intMax := by
  decide +kernel

/-- VectorConversions: to an element tag, to blocks, from blocks. -/
theorem witness_VectorConversions : (Vx).VReady h3 [4, 2] ∧ (Vx).hart.lenOk [4, 2] = true ∧ ((Vx).hart.tag 4).isBlock = false
    ∧ (Vx).VReady h3 [7, 2] ∧ (Vx).hart.lenOk [7, 2] = true ∧ ((Vx).hart.tag 7).isBlock = true ∧ (Vx).hart.n % 32 = 0
    ∧ (Vx).VReady h3 [2, 7] := by decide +kernel

/-- Quantisation: both instructions, blocks with active elements of either kind and one without. -/
theorem witness_Quantisation : (Vx).VReady h3 [12, 2, 11] ∧ (Vx).hart.mxReads 11 = false ∧ (Vx).hart.lenOk [12, 2] = true ∧ (Vx).hart.scaleOk 11 = true
    ∧ isWide ((Vx).hart.tag 2) = true ∧ emaxOf ((Vx).hart.tag 12) = some 8 ∧ (Vx).VReady h3 [2, 12, 11] ∧ ((Vx).hart.tag 2).isArith = true
    ∧ (emaxOf ((Vx).hart.tag 12)).isSome = true ∧ (Vx).hart.blkSize = 4 ∧ (List.range 4).filter ((Vx).hart.active h3.grd) = [0, 2]
    ∧ (List.range 4).filter ((Vx (ps [(3, 0x10)])).hart.active h3.grd) = []
    ∧ ((tagValue .fp32 0x7F800000).exact.isInf = true ∧ (tagValue .fp32 0x3F800000).exact.isInf = false) := by decide +kernel

/-- The tail of a blocking instruction with token 1, and of a non-blocking one with counter 1. -/
def tk1 : VmTail := ⟨0, false, 1, false⟩
def nb1 : VmTail := ⟨0, false, 1, true⟩

/-- AlwaysFalseGuards. -/
theorem witness_AlwaysFalseGuards : (Vx).Ready 0 ∧ (Vx).hart.Fresh ∧ 4 < (Vx).hart.nregs ∧ (Vx).hart.regBusy 4 = false
    ∧ (Vx).hart.regBusy 5 = false ∧ (Vx).hart.mxReads 4 = false ∧ 0 < (Vx).hart.vl ∧ (Vx).hart.lenOk [4, 5] = true ∧ (Vx).hart.tag 5 = (Vx).hart.tag 4
    ∧ ((Vx).hart.tag 5).isInt = true ∧ ((Vx).hart.tag 5).isArith = true
    ∧ nb1.nb = true ∧ (Vx).hart.unitOk 4 false = true := by decide +kernel

/-! ## Witnesses: vectors in memory -/

theorem ran_of {r : VRun × State} (h : r.1.left.isEmpty = true) : r = (⟨r.1.done, []⟩, r.2) := by
  obtain ⟨⟨d, l⟩, s⟩ := r
  simp at h
  simp [h]
theorem stopped_of {r : VRun × State} {c : Cause}
    (h : (match r.1.left with | [(_, some e)] => e.cause == c && !e.amb | _ => false) = true) :
    ∃ x e, r = (⟨r.1.done, [(x, some e)]⟩, r.2) ∧ e.cause = c ∧ e.amb = false := by
  obtain ⟨⟨d, l⟩, s⟩ := r
  match l, h with
  | [(x, some e)], h => exact ⟨x, e, rfl, by simpa using h⟩

/-- Tiles of 2 by 2 with 64 registers: v1 and v3 SI32, v2 UI8 with the offsets 0, 1, 255, 2; v4 SI4; x1 = 0x200 in the mapped page, x2 = 8, x3 near
the page's end, x4 misaligned, x5 in the second page, which is not mapped. -/
def Vm (f : Hart → Hart := id) : State :=
  M (fun h => f (vecs 8 [(2, [0, 1, 255, 2])] (lens 2 2 (xs [(1, 0x200), (2, 8), (3, 0xFF00), (4, 0x201), (5, 0x10000)]
    (tags [(1, .si32), (2, .ui8), (3, .si32), (4, .si4)] { h with regs := 3 })))))
/-- The same in S mode, where the scratchpads of the cluster can be reached. -/
def Vs : State := Vm (fun h => { xs [(1, 0)] h with mode := .s })

/-- VectorAddresses, NonBlockingForms, and the conditions of every form. -/
theorem witness_VectorForms : (Vm).NoFlips ∧ Vs.NoFlips ∧ (Vm).VReady h0 [1, 2] (vmToken tk1) ∧ (Vm).VReady h0 [1] (vmToken tk1) ∧ (Vm).VReady h0 [1, 2]
    ∧ (Vm).hart.lenOk [1, 2] = true ∧ ((Vm).hart.tag 1).isBlock = false ∧ Tag.isByte ((Vm).hart.tag 1) = true ∧ Tag.isIndex ((Vm).hart.tag 2) = true
    ∧ (Vm).hart.vl * tagWidth ((Vm).hart.tag 1) % 8 = 0 ∧ (Vm).hart.reissue = false ∧ ((Vx).hart.tag 7).isBlock = true ∧ (Vx).hart.n % 32 = 0
    ∧ (Vm).hart.nbQ.length < Config.nbDepth ∧ (Vm (fun h => { h with nbQ := List.replicate 16 { nb0 with vd := 9 } })).hart.nbQ.length = Config.nbDepth
    ∧ (Vm (fun h => { h with nbQ := List.replicate 16 { nb0 with vd := 9 } })).VReady h0 [1, 2] := by
  and_intros <;> decide +kernel

/-- VectorLoads and VectorStores: every form, none of its elements at fault; those that span the cluster in S mode. -/
theorem witness_VectorLoads : (∀ f ∈ Spec.loadForms Vm h0 1 2 1 2 2 tk1, f.cl = false →
      (runEach (Spec.loadAcc 0 f) f.w f.es ⟨[], []⟩ Vm).1.left.isEmpty = true)
    ∧ (∀ f ∈ Spec.loadForms Vs h0 1 2 1 2 2 tk1, f.cl = true → (runEach (Spec.loadAcc 0 f) f.w f.es ⟨[], []⟩ Vs).1.left.isEmpty = true) := by
  decide +kernel
theorem witness_VectorStores : (∀ f ∈ Spec.storeForms Vm h0 1 2 1 2 2 tk1, f.cl = false →
      (runEach (Spec.storeAcc 0 f) f.w f.es ⟨[], []⟩ Vm).1.left.isEmpty = true
        ∧ ∀ p ∈ Spec.storedTo (Spec.storeAcc 0 f) (Spec.elemAtOf 0 f.w) f.es Vm, regionOf p.1 ≠ .sys)
    ∧ (∀ f ∈ Spec.storeForms Vs h0 1 2 1 2 2 tk1, f.cl = true → (runEach (Spec.storeAcc 0 f) f.w f.es ⟨[], []⟩ Vs).1.left.isEmpty = true) := by
  decide +kernel

/-- VectorFaults: the third element of a gather lies in the page that is not mapped. -/
theorem witness_VectorFaults : ∃ f ∈ Spec.loadForms Vm h0 1 2 3 2 2 tk1, ∃ x e,
    runEach (Spec.loadAcc 0 f) f.w f.es ⟨[], []⟩ Vm = (⟨(runEach (Spec.loadAcc 0 f) f.w f.es ⟨[], []⟩ Vm).1.done, [(x, some e)]⟩,
      (runEach (Spec.loadAcc 0 f) f.w f.es ⟨[], []⟩ Vm).2) ∧ e.cause = .pageFault ∧ e.amb = false ∧ (Vm).hart.mode = .u ∧ f.w ≤ 64
      ∧ ((runEach (Spec.loadAcc 0 f) f.w f.es ⟨[], []⟩ Vm).2.die 0).tdeleg = 0
      ∧ (runEach (Spec.loadAcc 0 f) f.w f.es ⟨[], []⟩ Vm).2.hart.firstPending = none := by
  refine ⟨(Spec.loadForms Vm h0 1 2 3 2 2 tk1)[3], List.getElem_mem _, ?_⟩
  obtain ⟨x, e, h, hc, ha⟩ := stopped_of (c := .pageFault) (r := runEach (Spec.loadAcc 0 (Spec.loadForms Vm h0 1 2 3 2 2 tk1)[3])
    (Spec.loadForms Vm h0 1 2 3 2 2 tk1)[3].w
    (Spec.loadForms Vm h0 1 2 3 2 2 tk1)[3].es ⟨[], []⟩ Vm) (by decide +kernel)
  exact ⟨x, e, h, hc, ha, by and_intros <;> decide +kernel⟩

/-- ElementsInMemory: an element that is not aligned, whole bytes, and four bits from bit 4 of a byte on. -/
theorem witness_ElementsInMemory : (Vm).NoFlips ∧ ((Vm).x 4).toNat % 4 ≠ 0 ∧ (Vm).MarksPast ∧ regionOf 0x200 ≠ .sys
    ∧ (let x : NbElem := { e := 0, va := 0x200, data := 5 }
       x.va.toNat % (32 / 8) = 0 ∧ x.data < 2 ^ 32 ∧ x.va.toNat % 128 + x.len 32 ≤ 128
         ∧ isHere ((Vm).locate ((Vm).req .vector) .read x.va (x.len 32)).1 0x200 = true)
    ∧ (let x : NbElem := { e := 0, va := 0xFFFF, bit := 4, data := 5 }
       x.bit < 8 ∧ x.data < 2 ^ 4 ∧ x.va.toNat % 128 + x.len 4 ≤ 128
         ∧ isHere ((Vm).locate ((Vm).req .vector) .write x.va (x.len 4)).1 0xFFFF = true) := by decide +kernel

/-- WindowLoadsAndPrefetch: fewer elements than the tile, and as many. -/
theorem witness_WindowLoads : (Vm).VReady h0 [1] (vmToken tk1) ∧ (Vm).VReady h0 [] ∧ ∀ n ∈ [1, 4],
    (runEach (fun x s => s.loadElem (s.req .vector) true 32 x) 32 (((List.range 4).filter (fun e => decide (4 - n ≤ e))).map (fun e =>
       ({ e := e, va := (Vm).x 1 + BitVec.ofNat 64 ((e - (4 - n)) * 4) } : NbElem))) ⟨[], []⟩
      ((Vm).upd (fun h => h.writeElems 1 32 ((List.range (4 - n)).map (fun e => (e, h.elem 1 (e + n))))))).1.left.isEmpty = true := by
  decide +kernel

/-- One element of a vector atomic. -/
def atomAcc (k : Nat) (x : NbElem) (s : State) : Except MemFault Loaded × State :=
  match s.atomElem (s.req .vector) (elemSrc s.hart.hid x.va) .si32 k (elemAt 32 ((Vm).hart.vstr 2) x.e) x with
  | (.ok old, s) => (.ok ⟨old, false, []⟩, s)
  | (.error f, s) => (.error f, s)

/-- VectorAtomicsAndMulticast: add, compare and swap, and count, on mapped words; a store to two replicas. -/
theorem witness_VectorAtomics : (Vm (tags [(2, .si32)])).VReady h0 [1, 3, 2] (vmToken tk1) ∧ (Vm).VReady h0 [1, 2] (vmToken tk1)
    ∧ (Vm (tags [(2, .si32)])).hart.tag (1 + 1) = .si32
    ∧ (∀ k ∈ [0, 8, 9], vatomTag k .si32 = true
        ∧ (runEach (atomAcc k) 32 ((Vm).hart.withData 1 32 ((Vm).hart.indexElems h0 ((Vm).x 1) 2 2)) ⟨[], []⟩ Vm).1.left.isEmpty = true)
    ∧ (runSpans (fun x s => match s.storeReplicas (s.req .vector) 32 x ((Vm).replicaBases 1 1) with
        | (.ok _, s) => (.ok ⟨0, false, []⟩, s)
        | (.error f, s) => (.error f, s)) (fun x => ((Vm).replicaBases 1 1).map (fun b => (b + x.va, x.len 32))) ((Vm).hart.withData 1 32 ((Vm).hart.strideElems h0 0 4)) ⟨[], []⟩ Vm).1.left.isEmpty = true := by
  decide +kernel

/-- VectorAtomicValues: the highest and the lowest pattern of a signed and of an unsigned tag; reals of either precision: a NaN, and two that compare. -/
theorem witness_VectorAtomicValues : Tag.si32.isInt = true ∧ vatomTag 9 .si32 = true ∧ Tag.ui64.isInt = true ∧ vatomTag 9 .ui64 = true
    ∧ 2 ^ 32 - 1 < 2 ^ tagWidth .si32 ∧ 0 < 2 ^ tagWidth .ui64
    ∧ (∀ b ∈ [0x7FC00000, 0x3F800000, 0x80000000], b < 2 ^ tagWidth .fp32) ∧ (fp32.value 0x7FC00000).isNan = true ∧ (fp32.value 0x3F800000).isNan = false
    ∧ (fp32.value 0x3F800000).cmp? (fp32.value 0x80000000) = some .gt ∧ (fp32.value 0x80000000).cmp? (fp32.value 0x3F800000) = some .lt
    ∧ (fp32.value 0x80000000).cmp? (fp32.value 0) = some .eq ∧ 0x7FF8000000000000 < 2 ^ tagWidth .fp64 := by decide +kernel

/-! ## Witnesses: pushes and windows -/

/-- A push of hart 0 to register 5 of hart 1, with blocking and non-blocking issue. -/
def pu (nb : Bool) : Push := ⟨3, 1 + 5 * 2 ^ 20, .si32, 0, nb, 1, 4, 0x4000000030000000200000001, 0, 0, 1, 10, false, false⟩

/-- PushesStart: the lowest and the highest target of this package (R333: bits [25:0]), one of another package, one with a bit above; a
non-blocking push with room in the queue and without; no earlier push, and one that may not be sent yet. -/
theorem witness_PushesStart : (Vx).VReady (.plain 0) [1] (some 1) ∧ (Vx).VReady (.plain 0) [1] none ∧ (Vx).hart.lenOk [1] = true
    ∧ (0#64).toNat < 2 ^ 26 ∧ (0x3FFFFFF#64).toNat < 2 ^ 26 ∧ 2 ^ 26 ≤ (0x4000000#64).toNat
    ∧ (0#64).extractLsb' 13 7 = (Vx).pkg ∧ (0x2000#64).extractLsb' 13 7 ≠ (Vx).pkg ∧ (Vx).hart.nbQ.length < Config.nbDepth
    ∧ (Vx (fun h => { h with nbQ := List.replicate 16 { nb0 with vd := 9 } })).VReady (.plain 0) [1] none
    ∧ Config.nbDepth ≤ (Vx (fun h => { h with nbQ := List.replicate 16 { nb0 with vd := 9 } })).hart.nbQ.length
    ∧ Spec.nothingToSend Vx ∧ Spec.nothingToSend (Vx (fun h => { h with pushes := [{ (pu false) with gone := true, desc := 0x2000 }], pushNo := 4 })) := by
  unfold Spec.nothingToSend
  and_intros <;> decide +kernel

/-- TakesWaitForFull: a destination without a tag and one whose tile fits, one whose tag is reserved, a wait that has begun; a source that is empty and one
that is full. -/
theorem witness_TakesWaitForFull : (Vx).VReady (.plain 0) [13, 1] ∧ (13 : VReg) ≠ 1 ∧ Spec.fitsTile (Vx).hart 13 ∧ Spec.fitsTile (Vx).hart 1
    ∧ (Vx).hart.full.getLsbD 1 = false ∧ (Vx (fun h => { h with full := 2 })).VReady (.plain 0) [13, 1]
    ∧ (Vx (fun h => { h with full := 2 })).hart.full.getLsbD 1 = true
    ∧ ¬Spec.fitsTile (Vx (fun h => { h with vtag := h.vtag.set 13 31 })).hart 13 ∧ (Vx (fun h => { h with waitStart := some 0 })).hart.waitStart.isSome = true
    ∧ (Vx (fun h => { h with waitStart := some 0 })).VReady (.plain 0) [13, 1] := by
  unfold Spec.fitsTile
  and_intros <;> decide +kernel

/-- FullBitForms: the last register that exists and the first that does not, with 64 and with 8 registers. -/
theorem witness_FullBitForms : (U).VReady (.plain 0) [] ∧ (U).hart.nregs = 8 ∧ (U).hart.nregs ≤ (8 : VReg).toNat ∧ (7 : VReg).toNat < (U).hart.nregs
    ∧ (Vx).VReady (.plain 0) [] ∧ (63 : VReg).toNat < (Vx).hart.nregs := by decide +kernel

/-- Its sender, and a target with a launch (or none), a tenant, and full bits and reservations. -/
def Pu (nb : Bool) (f : Hart → Hart) : State :=
  { Vx (fun h => { h with pushes := [pu nb], nbQ := if nb then [{ nb0 with kind := .push 3 }] else [] }) with
    rest := [(1, f { Hart.reset 1 with run := .running, launch := some ⟨0, 0⟩, regs := 3 })], input := .work 0 3 0
    dies := State.reset.dies.set 0 { Die.reset with cyc := 320 } }

/-- The same push to a hart of die 1, with the lasers of the pairs of dies (in order) that carry something. -/
def Pv (nb : Bool) (up : List Nat) (n : Nat) : State :=
  let p : Push := { pu nb with desc := 512 + 5 * 2 ^ 20, nacks := n }
  let s := Pu nb id
  { s with hart := { s.hart with pushes := [p] }, rest := [(512, { Hart.reset 512 with run := .running, launch := some ⟨0, 0⟩, regs := 3 })]
           dies := up.foldl (fun ds d => ds.setIfInBounds d { ds.toList.getD d Die.reset with waves := [((1 - d) * 128, { st := .active })] }) s.dies }

/-- PushesArrive, between dies: a pair that carries nothing, one that carries only the push, and one that carries the answer too; never refused and refused. -/
theorem witness_PushesArrive_lost : ∀ nb ∈ [false, true], ∀ n ∈ [0, 1], ∀ q ∈ ([([], false, false), ([1], true, false), ([1, 0], true, true)] : List (List Nat × Bool × Bool)),
    let s := Pv nb q.1 n
    let p : Push := { pu nb with desc := 512 + 5 * 2 ^ 20, nacks := n }
    (s.getHart 0).hid = 0 ∧ (s.getHart 512).hid = 512 ∧ hidPkg 512 = s.pkg ∧ s.isParked 512 = false ∧ hidDie 512 = 1
      ∧ (s.getHart 0).pushes.find? (fun q => q.no == p.no) = some p ∧ s.maySend (s.getHart 0) p = true ∧ s.input = .work 0 p.no 0
      ∧ (p.nb = true → ∃ o ∈ (s.getHart 0).nbQ, o.kind = .push p.no)
      ∧ s.carries 0 1 = q.2.1 ∧ s.carries 1 0 = q.2.2 := by
  decide +kernel

/-- PushesArrive: each answer, and either way of issue. -/
theorem witness_PushesArrive : (∀ nb ∈ [false, true], ∀ s ∈ [Pu nb (fun h => { h with launch := none }), Pu nb (fun h => { h with tenant := 3 }), Pu nb id,
      Pu nb (fun h => { h with full := 0x20 }), Pu nb (fun h => { h with resv := [(5, 9, 11)] })],
      (s.getHart 0).hid = 0 ∧ (s.getHart 1).hid = 1 ∧ hidPkg 1 = s.pkg ∧ s.isParked 1 = false
        ∧ (s.getHart 0).pushes.find? (fun q => q.no == 3) = some (pu nb) ∧ s.maySend (s.getHart 0) (pu nb) = true
        ∧ ((pu nb).nb = true → ∃ o ∈ (s.getHart 0).nbQ, o.kind = .push 3) ∧ (pu nb).nacks ≠ 0)
    ∧ (Pu false id).cycleOf 0 = 10 ∧ (({ Pu false id with input := .hart 1 }).getHart 1).hid = 1 := by
  and_intros <;> decide +kernel

/-- WindowsChange: the smallest and the largest window, one that is misaligned and one that ends beyond the address space; windows open and closed, a
guard that is false; a share of the quay at its limit. -/
theorem witness_WindowsChange : (U).VReady h0 [] ∧ (U).VReady h3 [] ∧ (U).hart.guard h3.grd = false ∧ (U).hart.guard h0.grd = true
    ∧ (∀ p ∈ ([(0, 128), (0, 0x10000000000), (0x1FFFFFFFFFFFF80, 128)] : List (Nat × Nat)),
        let a := (BitVec.ofNat 64 p.1).toNat
        let n := (BitVec.ofNat 64 p.2).toNat
        a % 128 = 0 ∧ n % 128 = 0 ∧ 128 ≤ n ∧ n ≤ 2 ^ 40 ∧ a + n ≤ 2 ^ 57)
    ∧ (0x1FFFFFFFFFFFF80#64).toNat + (256#64).toNat > 2 ^ 57 ∧ (64#64).toNat % 128 ≠ 0
    ∧ (U).hart.win[2] = none ∧ (U (fun h => { h with win := h.win.set 2 (some ⟨0x10000000000, 128, 0⟩) })).VReady h0 []
    ∧ isDirect (0x10000000000 + BitVec.ofNat 64 (128 * 0)) = true := by decide +kernel

/-! ## Witnesses: the matrix unit and the weight store -/

/-- A gang with four tiles for each hart and 4 KiB of scratchpad, one of whose harts is in focus: v1 FP32, v2 SI32, v3 E4M3 (A and B), v4 and v5 E8M0,
v6 FP16; rows granted; x1 = 70, x2 = 0x200, x3 = 0x210, x4 = 0x80, x5 = 0x40. -/
def Ax (f : Hart → Hart := id) (l : Nat := 4) (m : Nat := 2) : State :=
  { M (fun h => f (lens l m (xs [(1, 70), (2, 0x200), (3, 0x210), (4, 0x80), (5, 0x40)] (tags [(1, .fp32), (2, .si32), (3, .e4m3), (4, .e8m0),
      (5, .e8m0), (6, .fp16)] { h with regs := 3, launch := some ⟨0, 0⟩, mgrant := 4 })))) with
    gangs := [{ gn 0 with accLen := 0x8000, spmLen := 0x1000 }], launches := [ln 0 (1#512 <<< 123) 0] }

/-- RowLanes: a guard that is false, a queue that is not empty, an empty one; rows given back, rows asked for, more rows than there are; a system
hart; a place in the list that expires (at the boundary), one that does not, none. -/
theorem witness_RowLanes : (Ax).VReady h0 [] ∧ (Ax).VReady h3 [] ∧ (Ax).hart.guard h3.grd = false ∧ (Ax).hart.guard h0.grd = true
    ∧ (Ax (fun h => { h with mq := [⟨.zero 0 false, none⟩] })).VReady h0 [] ∧ (Ax).hart.mq = [] ∧ (Ax).hart.isCompute = true
    ∧ (S).VReady h0 [] ∧ (S).hart.isCompute = false ∧ min ((Ax).x 0).toNat 64 ≤ (Ax).hart.mgrant ∧ min ((Ax).x 1).toNat 64 = 64
    ∧ Spec.rowsFree Ax = 60 ∧ (Ax).waiter 0 = none
    ∧ (∀ p ∈ [(4096, true), (4095, false)],
        let s : State := ((Ax).updDie 0 (fun d => { d with cyc := 32 * p.1 })).updCluster 0 (fun c => { c with wait := [⟨0, 64, 0, 0⟩] })
        (s.waiter 0).map (fun w => decide (w.last + 4096 ≤ s.cycleOf 0)) = some p.2) := by
  and_intros <;> decide +kernel

/-- TilesAreFilled and TilesAreRead: the last tile and the first that does not exist, a region of the full size and one that is too large; FP32, SI32,
and a tag that no tile takes; work of the queue on the tile; a poisoned element. -/
theorem witness_Tiles : (Ax).tiles = 4 ∧ (Ax).VReady h0 [1] (some 1) ∧ (Ax).hart.lenOk [1] = true ∧ Spec.tileFits Ax 3 ∧ ¬Spec.tileFits Ax 4
    ∧ Spec.tileFits (Ax (l := 32) (m := 64)) 0 ∧ ¬Spec.tileFits (Ax (l := 33) (m := 1)) 0 ∧ (Ax).hart.tag 2 = .si32 ∧ (Ax).hart.tag 6 = .fp16
    ∧ (Ax).VReady h0 [2] ∧ (Ax).VReady h0 [6] ∧ (Ax).VReady h0 [] none ∧ (Ax).tileInt 3 = false ∧ (Ax).hart.tileBusy 3 = false ∧ (Ax).errs = []
    ∧ (Ax (fun h => { h with mq := [⟨.zero 3 false, none⟩] })).VReady h0 [1] none ∧ (Ax (fun h => { h with mq := [⟨.zero 3 false, none⟩] })).hart.tileBusy 3 = true
    ∧ (({ Ax with poison := [((Ax).tilePa 3 1 3 / 4, true)] }).poisonedAt ((Ax).tilePa 3 1 3) 4) = true
    ∧ (Ax).poisonedAt ((Ax).tilePa 3 1 3) 4 = false ∧ (Ax).VReady h0 [1, 1, 1] none ∧ mepiTag ((Ax).hart.tag 1) = true
    ∧ (((Ax).putStat 3 0 true).tileInt 3) = true := by
  unfold Spec.tileFits
  and_intros <;> decide +kernel

/-- A descriptor of R229 that is accepted, with its tensor at the first byte of the gang's scratchpad allotment, at its last byte and behind it, and one
with a reserved bit. -/
def un (base res : Nat) : Nat :=
  base + 2 ^ 64 * (Tag.e4m3.code.toNat * 2 ^ 48 + 2 ^ 32 + 2 ^ 16 + 1 + res) + 2 ^ 128 * (2 ^ 48 + 2 ^ 28 + 2 ^ 24 + 2 ^ 20 + 2 ^ 16 + 2 ^ 8 + 1) + 2 ^ 192
def unV (base : Nat) : Vector Word 4 :=
  #v[BitVec.ofNat 64 (un base 0), BitVec.ofNat 64 (un base 0 / 2 ^ 64), BitVec.ofNat 64 (un base 0 / 2 ^ 128), BitVec.ofNat 64 (un base 0 / 2 ^ 192)]

/-- ProductsEnterTheQueue: registers with and without scales, the unfolding unit, the weight store with a berth that may be read and one that may not,
and no rows. -/
theorem witness_ProductsEnterTheQueue : (Ax).VReady h0 [3, 3] (some 1) ∧ Spec.mmaFits Ax 3 3 3 4 false false false .e4m3
    ∧ (Ax).VReady h0 [3, 3, 4, 5] none ∧ Spec.mmaFits Ax 3 3 3 4 false false true .e4m3
    ∧ ¬Spec.mmaFits (Ax (fun h => { h with mgrant := 0 })) 3 3 3 4 false false false .e4m3
    ∧ Spec.mmaFits (Ax (fun h => { h with unf := some (unV 0x10000000000) }) (l := 1)) 3 0 3 4 true false false .e4m3
    ∧ (Ax).VReady h0 [3] none ∧ Spec.mmaFits Ax 3 3 4 4 false true false .e4m3 ∧ ((Ax).x 4).toNat % 128 = 0
    ∧ (Ax).wsFault 0x80 (wsLen .e4m3 4 4 false) = some 0x80
    ∧ ((Ax).updDie 0 (fun d => { d with berths := d.berths.set 0 ⟨2, 0, 7, 0, none⟩ })).wsFault 0x80 (wsLen .e4m3 4 4 false) = none := by
  unfold Spec.mmaFits Spec.holds
  and_intros <;> first
    | exact ⟨unV 0x10000000000, by and_intros <;> decide +kernel⟩
    | decide +kernel

/-- MatrixWork: the three pieces of work, on the last tile. -/
theorem witness_MatrixWork : ∀ w ∈ [MxWork.ld 3 32 64 true 0 0, .zero 3 false,
      .mma ⟨3, 4, 2, .e4m3, false, true, 4, .reg 0 0, .reg 0 0, 0, 0, 0, 0, []⟩, .mma ⟨3, 4, 64, .si8, true, false, 4, .reg 0 0, .ws 0, 0, 0, 0, 0, []⟩],
    let s : State := { Ax (fun h => { h with mq := [⟨w, some 1⟩, ⟨.zero 0 false, none⟩] }) with input := .hart 0 }
    s.input = .hart s.hart.hid.toNat ∧ s.hart.mq = ⟨w, some 1⟩ :: [⟨.zero 0 false, none⟩] ∧ s.MarksPast ∧ s.errs = [] ∧ Spec.tilePlaced s 3
      ∧ Tag.isInt .e4m3 = false := by
  unfold Spec.tilePlaced
  decide +kernel

/-- A hart with a descriptor at 0x200. -/
def Ux (base res : Nat) : State := (Ax).putBytes 0x200 32 (un base res)

/-- UnfoldingDescriptors: a misaligned address, a poisoned descriptor, one with a reserved bit, a tensor that begins before and one that ends behind the
allotment, and one whose last byte is the allotment's last. -/
theorem witness_UnfoldingDescriptors : (Ax).VReady h0 [] ∧ (Ax).hart.guard h0.grd = true ∧ ((Ax).x 3).toNat % 32 ≠ 0 ∧ ((Ax).x 2).toNat % 32 = 0
    ∧ okWith (fun p => p == (un 0x10000000FFF 0, false)) ((Ux 0x10000000FFF 0).load ((Ax).req .vector) ((Ax).x 2) 32).1 = true
    ∧ un 0x10000000FFF 0 < 2 ^ 256
    ∧ okWith (fun p => p.2) (({ Ux 0 0 with poison := [(0x86, true)], quay := [(4, ⟨false, 0, 0, none⟩)] }).load ((Ax).req .vector) ((Ax).x 2) 32).1 = true
    ∧ unfoldOk (unV 0x10000000FFF) = true
    ∧ unfoldOk #v[0, BitVec.ofNat 64 (un 0 (2 ^ 53) / 2 ^ 64), BitVec.ofNat 64 (un 0 0 / 2 ^ 128), BitVec.ofNat 64 (un 0 0 / 2 ^ 192)] = false
    ∧ (Ax).outsideSpm (unfoldOf (unV 0x10000000FFF)) = none ∧ (Ax).outsideSpm (unfoldOf (unV 0x10000001000)) = some 0x10000001000
    ∧ (Ax).outsideSpm (unfoldOf (unV 0)) = some 0 := by decide +kernel

/-- A hart of a loader launch, with a berth in a state. -/
def Bx (b : Berth) : State := (Ax).updDie 0 (fun d => { d with berths := d.berths.set 0 b })

/-- Berths: harts that may load, by mode and by launch, and one that may not; the tenant's own berth, READY and FILLING; a berth to take, of the same
and of another tenant; no berth that can be taken. -/
theorem witness_Berths : (U).VReady h0 [] ∧ ¬((U).hart.mode = .s) ∧ (U).hart.launch = none ∧ (Bx ⟨2, 0, 70, 5, none⟩).VReady h0 []
    ∧ (Bx {}).hart.launch = some ⟨0, 0⟩ ∧ (Bx {}).launchOf ⟨0, 0⟩ = some (ln 0 (1#512 <<< 123) 0) ∧ pkLdr (1#512 <<< 123) = true
    ∧ (Bx {}).hart.isCompute = true ∧ (((Bx {}).x 1).setWidth 32 : BitVec 32) = 70
    ∧ ((Bx ⟨2, 0, 70, 5, none⟩).berth 0 0).st = 2 ∧ ((Bx ⟨1, 0, 70, 5, none⟩).berth 0 0).st = 1 ∧ ((Bx ⟨1, 0, 70, 5, none⟩).x 0).toNat % 32 = 0
    ∧ (((Bx ⟨0, 3, 9, 0, none⟩).die 0).wsctl.getLsbD 0 = true ∧ ((Bx ⟨0, 3, 9, 0, none⟩).berth 0 0).st ≠ 1
      ∧ (∀ c ∈ List.range 32, ((Bx ⟨0, 3, 9, 0, none⟩).berth 0 0).count ≤ ((Bx ⟨0, 3, 9, 0, none⟩).berth 0 c).count))
    ∧ (∀ b ∈ List.range 32, (((Ax).updDie 0 (fun d => { d with wsctl := 0 })).die 0).wsctl.getLsbD b = false) := by decide +kernel

/-- A hart of a loader launch that fills berth 0 of its tenant: x6 = 128 (destination), x7 = 0x200 (source), x8 = 128 bytes; x9 = 2^29, x10 = 0x204. -/
def Wx (tenant : BitVec 6) : State :=
  { (Ax (xs [(6, 128), (7, 0x200), (8, 128), (9, 0x20000000), (10, 0x204)])) with
    dies := State.reset.dies.set 0 { Die.reset with berths := Die.reset.berths.set 0 ⟨1, tenant, 70, 0, none⟩, frames := (Ax).dies[0].frames } }

/-- WeightsAreLoaded: operands that do not fit (one byte beyond the store) and that just fit, a misaligned source, a berth of another tenant and the
tenant's own, no bytes, one piece, and a piece whose source faults. -/
theorem witness_WeightsAreLoaded : (Wx 0).VReady h0 [] (some 1) ∧ (Wx 0).hart.guard h0.grd = true ∧ ((Wx 0).x 6).toNat % 128 = 0
    ∧ ((Wx 0).x 8).toNat % 128 = 0 ∧ 2 ^ 29 < ((Wx 0).x 9).toNat + ((Wx 0).x 8).toNat ∧ ¬(2 ^ 29 < ((Wx 0).x 9).toNat + ((Wx 0).x 0).toNat)
    ∧ ((Wx 0).x 10).toNat % 8 ≠ 0 ∧ ((Wx 0).x 7).toNat % 8 = 0
    ∧ ((Wx 3).berth 0 (128 / 2 ^ 24)).tenant ≠ (Wx 3).hart.tenant
    ∧ (∀ a ∈ [128, 255], ((Wx 0).berth 0 (a / 2 ^ 24)).st = 1 ∧ ((Wx 0).berth 0 (a / 2 ^ 24)).tenant = (Wx 0).hart.tenant)
    ∧ ((Wx 0).x 8).toNat = 128 ∧ ((Wx 0).x 0).toNat = 0
    ∧ (let s0 := (Wx 0).settleBerths 0 128 128
       let l := s0.locateAll ((Wx 0).req .vector) .read (pageSpans ((Wx 0).x 7) 128)
       let r := l.2.readAll ((Wx 0).req .vector) [(.here 0x200, 128)]
       okWith (fun ps => ps == [(.here 0x200, 128)]) l.1 = true ∧ r.1.2 = false ∧ l.2.hart.x = (Wx 0).hart.x)
    ∧ (wsldPieces 6 9 8 1 ((Wx 0).settleBerths 0 128 128)).1.isSome = true ∧ (wsldPieces 6 7 8 1 ((Wx 0).settleBerths 0 128 128)).1 = none := by
  and_intros <;> decide +kernel

/-- WeightStoreEvents: a die, and cycles that are and are not a multiple of 2^20. -/
theorem witness_WeightStoreEvents : ({ State.reset with input := .unit 9 }).input = .unit 9 ∧ (State.reset).cycleOf 9 % 2 ^ 20 = 0
    ∧ (State.reset.die 9).wsctl.toNat / 2 ^ 32 % 64 = 20 ∧ ((State.reset).updDie 9 (fun d => { d with cyc := 32 })).cycleOf 9 % 2 ^ 20 ≠ 0 := by
  decide +kernel

/-! ## Witnesses: collectives -/

/-- A group of package 0 with `n` ranks, one staging slot and a limit of 65536 ns. -/
def grp (n : Nat) : Group := { gctl := BitVec.ofNat 64 (1 + 2 ^ 16 + 2 ^ 32 + (n - 1) * 2 ^ 40), gmask0 := 1 }
/-- A hart of a launch with group 3 of three ranks: v4 and v5 SI32 with tiles of 3 by 2; x10 to x12 the rank word, the count and the pairs of register
forms, x13 to x15 those of memory forms; x1 = 0x200, x2 = 0x300, x3 = 0x308. -/
def Cl (f : Hart → Hart := id) (tg : Tag := .si32) : State :=
  { M (fun h => f (lens 3 2 (xs [(1, 0x200), (2, 0x300), (3, 0x308), (13, BitVec.ofNat 64 (tg.code.toNat * 4096)), (14, 9), (15, 2)]
      (tags [(4, .si32), (5, .si32)] { h with regs := 3, launch := some ⟨0, 0⟩ })))) with
    groups := State.reset.groups.set 3 (grp 3) }
/-- The first call of rank 1 that agrees with the hart's own all-reduce, and an instance of it. -/
def call1 (op : COp) : CollCall :=
  { (Cl).callOf { kind := .ar, rop := op, mem := false, vd := 4, va := 5, rank := 0 } (grp 3) with rank := 1, lrank := 1, hid := 1 }
def inst1 (op : COp) : CollInst := ⟨3, 0, ⟨0, 0⟩, [call1 op], 0, 1, [], [], [], []⟩

/-- CollectivesStart: every form on operands that it accepts; operands that it does not; groups that are not the hart's; misaligned operands; a full queue (at the
boundary); an instance that has ended, none, one that agrees and one that does not. -/
theorem witness_CollectivesStart :
    (∀ f ∈ Spec.collForms Cl 0 .add 4 5 2 1 10 3 (some 1), f.ask.mem = false → (Cl).VReady (.plain 0) f.regs (some 1)
      ∧ (Cl).hart.lenOk f.regs = true ∧ (Cl).collIllegal f.ask (grp 3) ((Cl).callOf f.ask (grp 3)) = false)
    ∧ (∀ f ∈ Spec.collForms Cl 0 .add 4 5 2 1 13 3 (some 1), f.ask.mem = true → f.ask.kind ≠ .srs → (Cl).VReady (.plain 0) f.regs (some 1)
      ∧ (Cl).collIllegal f.ask (grp 3) ((Cl).callOf f.ask (grp 3)) = false)
    ∧ (∀ f ∈ Spec.collForms (Cl (tg := .fp32)) 0 .add 4 5 2 1 13 3 none, f.ask.kind = .srs →
      (Cl).collIllegal f.ask (grp 3) ((Cl (tg := .fp32)).callOf f.ask (grp 3)) = false)
    ∧ (∀ f ∈ Spec.collForms Cl 0 .blkAdd 4 5 2 1 10 3 none, f.ask.rop = .blkAdd → (Cl).collIllegal f.ask (grp 3) ((Cl).callOf f.ask (grp 3)) = true)
    ∧ ((Cl).group 3 = grp 3 ∧ (grp 3).rpp = 3 ∧ (grp 3).gctl.toNat / 2 ^ 58 = (Cl).hart.tenant.toNat ∧ (grp 3).gctl.getLsbD 0 = true
      ∧ (grp 3).gctl.toNat / 2 ^ 52 % 64 = 0 ∧ ((Cl).group 4).gctl.getLsbD 0 = false)
    ∧ ((Cl).x 3).toNat % 128 ≠ 0 ∧ ((Cl).x 1).toNat % 128 = 0 ∧ ((Cl).x 2).toNat % 128 = 0
    ∧ (Cl (fun h => { h with colls := List.replicate 8 ⟨3, 0, none, []⟩ })).VReady (.plain 0) [4, 5] none
    ∧ (Cl (fun h => { h with colls := List.replicate 8 ⟨3, 0, none, []⟩ })).hart.colls.length = 8 ∧ (Cl).hart.colls.length < 8 ∧ 1 < (grp 3).rpp
    ∧ (Cl).inst ⟨0, 0⟩ 3 0 = none ∧ ({ Cl with insts := [inst1 .add] }).inst ⟨0, 0⟩ 3 0 = some (inst1 .add)
    ∧ ((Cl).callOf { kind := .ar, rop := .add, mem := false, vd := 4, va := 5, rank := 0 } (grp 3)).agrees (call1 .add) = true
    ∧ ((Cl).callOf { kind := .ar, rop := .add, mem := false, vd := 4, va := 5, rank := 0 } (grp 3)).agrees (call1 .max) = false
    ∧ ({ Cl with ends := [⟨3, 0, ⟨0, 0⟩, 5, [0]⟩] }).ends.find? (fun (e : CollEnd) => e.lid == (⟨0, 0⟩ : LaunchId) && e.grp == 3 && e.k == 0) = some ⟨3, 0, ⟨0, 0⟩, 5, [0]⟩ := by
  and_intros <;> decide +kernel

/-- The same hart with blocks of E4M3 in v4 and v6 and their scales in v5 and v7, and a matrix queue. -/
def Cb (q : List MxOp) : State := Cl (fun h => tags [(4, .e4m3), (5, .e8m0), (6, .e4m3), (7, .e8m0)] (lens 32 3 { h with mq := q }))

/-- CollectivesStart, the block-scaled add: operands that it accepts, and a scale register that a queued product reads. -/
theorem witness_CollectivesStart_blkAdd : ∀ q ∈ [[], [MxOp.mk (.mma { mma0 with regs := [5] }) none]],
    ∀ f ∈ (Spec.collForms (Cb q) 0 .blkAdd 4 6 2 1 10 3 none).take 1, f.ask.rop = .blkAdd ∧ f.ask.mem = false
      ∧ (Cb q).VReady (.plain 0) f.regs none ∧ (Cb q).hart.lenOk f.regs = true ∧ (Cb q).collIllegal f.ask (grp 3) ((Cb q).callOf f.ask (grp 3)) = false
      ∧ (Cb q).hart.regBusy 5 = false ∧ (Cb q).hart.regBusy 7 = false ∧ (Cb q).hart.mxReads 5 = !q.isEmpty := by
  decide +kernel

/-- CollectiveStatus: a group with a call in the queue and one without, a time that is over and one that is not, a rank named and none. -/
theorem witness_CollectiveStatus :
    let s := Cl (fun h => { h with colls := [⟨3, 0, none, []⟩], collRank := [(3, 2)], waitStart := none })
    s.Ready 0 ∧ s.hart.isMgmt = false ∧ (s.hart.colls.filter (fun c => c.grp == 3)).length = 1 ∧ (s.hart.colls.filter (fun c => c.grp == 4)).length = 0
      ∧ s.hart.waitStart.getD s.cycle + (s.x 4).toNat ≤ s.cycle ∧ ¬(s.hart.waitStart.getD s.cycle + (s.x 1).toNat ≤ s.cycle)
      ∧ Tab.get (fun _ => 0) s.hart.collRank 3 = 2 ∧ Tab.get (fun _ => 0) s.hart.collRank 4 = 0 ∧ s.hart.launch = some ⟨0, 0⟩ := by decide +kernel

/-- An instance of one rank in group 3, of one package: an all-reduce in memory of 9 elements from `src` to `dst`, with its tree; of several chunks in the count. -/
def callM (src dst : Word) : CollCall :=
  { (Cl).callOf { kind := .ar, rop := .add, mem := true, dst := dst, src := src, rank := 0x3000, count := 9 } (grp 1) with tag := .si32 }
def instM (src dst : Word) (n : Nat) : CollInst :=
  ⟨3, 0, ⟨0, 0⟩, [callM src dst], 0, n, [], [(0, ⟨0, pathParents 0 (rootDie 0 2), 2⟩)], [0], []⟩
def Cm (x : CollInst) (m : Word := 1) : State :=
  { Cl with groups := State.reset.groups.set 3 { grp 1 with gmask0 := m }, insts := [x], input := .rally ⟨0, 0⟩ 3 0 0 (.parts []) }

/-- The contributions of chunk 0, and the giving of its result. -/
def contribsOf (x : CollInst) : Option (List (CollCall × Contrib)) × State := (Cm x).contribs x 0 x.calls
def givenOf (x : CollInst) : Option Nat :=
  ((contribsOf x).1.map (fun ks => (((contribsOf x).2.ownView x).giveCalls x 1 (chunkPieces (grp 1) 0 (callM 0x200 0x300) 0 ⟨0, pathParents 0 (rootDie 0 2), 2⟩ ks []).1).1)).getD (some 99)

/-- ChunksAreMarked: an instance that an earlier one holds back; an instance without chunks, with lists that can be read and with lists that cannot; chunks whose source faults, whose destination faults, that are the last and that are not; a rank that
has not called; an ending at another package with the first and the last reason. -/
theorem witness_ChunksAreMarked : (∀ x ∈ [instM 0x200 0x300 0, instM 0x200 0x300 1, instM 0x200 0x300 2, instM 0x10200 0x300 1, instM 0x200 0x10300 1],
      x ∈ (Cm x).insts ∧ (Cm x).inst x.lid x.grp x.k = some x ∧ ((Cm x).group 3).rpp ≤ x.calls.length ∧ 0 + 1 = max 1 ((Cm x).group 3).members.length
        ∧ (Cm x).treeUsable ((Cm x).group 3) ⟨0, pathParents 0 (rootDie 0 2), 2⟩ = true ∧ x.calls.any (fun c => c.staged) = false
        ∧ (Cm x).collHeld x = false)
    ∧ (let x := instM 0x200 0x300 1
       let y := { instM 0x380 0x400 1 with k := 1, calls := [{ callM 0x380 0x400 with reads := [(0x300, 0x340)], ord := 1 }] }
       ({ Cm y with insts := [{ x with calls := [{ callM 0x200 0x300 with spans := [(0x300, 0x340)] }] }, y] }).collHeld y = true)
    ∧ (contribsOf (instM 0x10200 0x300 0)).1 = none ∧ (contribsOf (instM 0x200 0x300 0)).1.isSome = true
    ∧ (contribsOf (instM 0x10200 0x300 1)).1 = none ∧ givenOf (instM 0x200 0x10300 1) = some 3 ∧ givenOf (instM 0x200 0x300 1) = none
    ∧ (instM 0x200 0x300 0).chunks = 0 ∧ 0 < (instM 0x200 0x300 1).chunks
    ∧ ((Cm (instM 0x200 0x300 1) 3).group 3).members.length = 2
    ∧ ({ Cl with insts := [inst1 .add] }).inst ⟨0, 0⟩ 3 0 = some (inst1 .add) ∧ (inst1 .add).calls.length < ((Cl).group 3).rpp := by decide +kernel

/-- IntegerSumsAreExact: ranks on the first and on the last die. -/
theorem witness_IntegerSumsAreExact : Tag.si32.isInt = true ∧ ∀ k ∈ [(callM 0 0, (⟨1, 0, 0, 0, none, 0⟩ : Contrib)), ({ callM 0 0 with hid := 0x1200 }, ⟨2, 0, 0, 0, none, 0⟩)],
    k.2.has = none ∧ hidDie (BitVec.ofNat 20 k.1.hid) < 10 := by decide +kernel

/-- A package whose table shows some pairs down. -/
def Cd (ps : List Nat) : State := { Cm (instM 0x200 0x300 1) with ltab := ps.map (fun k => (k, 0x8000000000000000)) }

/-- CollectivesEnd: trees that are usable, one that is not with others left, none left; instances within their time and beyond it; a group to disable. -/
theorem witness_CollectivesEnd : (∀ x ∈ (Cd []).insts, x.assign.any (fun a => decide (a.1 < x.chunks) && !x.marked.contains a.1 && !(Cd []).treeUsable ((Cd []).group x.grp) a.2) = false)
    ∧ (Cd [1]).treeUsable (grp 1) ⟨0, pathParents 0 (rootDie 0 2), 2⟩ = false ∧ (Cd [1]).insts = [instM 0x200 0x300 1]
    ∧ (match (Cd [1]).assignTrees (grp 1) [0] with | .ok _ => true | .error _ => false) = true
    ∧ (match (Cd (List.range 100)).assignTrees (grp 1) [0] with | .ok _ => 0 | .error r => r) = 4
    ∧ ((instM 0x200 0x300 1).calls.map (fun c => c.rank)).Nodup
    ∧ (grp 1).gctl.toNat / 2 ^ 16 % 2 ^ 16 = 1 ∧ (instM 0x200 0x300 1).first + 1 * 65536 ≤ ({ Cd [] with time := 65536 }).time
    ∧ ((Cd []).group 3).gctl.getLsbD 0 = true := by decide +kernel

/-! ## Witnesses: homes, transport, stored errors, migration -/

/-- A request of a source outside, at an address of package 0. -/
def rq (k : OutKind) (n : Nat) (pod : Nat := 0x200) : OutReq := ⟨5000, 9, k, .u, 0, pod, n, 7, 0⟩
def Hr (r : OutReq) : State := { M with input := .request r }

/-- A push from outside to register 5 of a hart, as its home gets it. -/
def rp : OutReq := rq (.push (1 + 5 * 2 ^ 20) .si32 1) 4

/-- HomesPerformRequests, a poisoned write: to a place of class F, and to one of class N. -/
theorem witness_HomesPerformRequests_poisoned : ∀ c ∈ [Cls.f, Cls.n],
    let r : OutReq := { rq .write 8 with data2 := 1 }
    let s := (Hr r).updFrame 0 0 (fun f => { f with cls := c })
    s.input = .request r ∧ r.n ≠ 0 ∧ r.pod / 2 ^ 45 = s.pkg.toNat ∧ s.homeCheck (Spec.outside r) .write (s.redirect (r.pod % 2 ^ 45)) 8 = none
      ∧ s.placeCls (.here (s.redirect (r.pod % 2 ^ 45))) = c := by decide +kernel

/-- HomesPerformRequests: each kind at a place that it may touch and at one that it may not, and of no bytes; a reply that is kept, one that is not, a source whose replies
were lost; an atomic access to a poisoned word; a push that is accepted, turned away and rejected. -/
theorem witness_HomesPerformRequests : (∀ k ∈ [Kind.read, .write, .atomic], (rq .read 8).pod / 2 ^ 45 = (Hr (rq .read 8)).pkg.toNat
      ∧ (Hr (rq .read 8)).homeCheck (Spec.outside (rq .read 8)) k ((Hr (rq .read 8)).redirect ((rq .read 8).pod % 2 ^ 45)) 8 = none)
    ∧ (Hr (rq .read 8 0x2000000000)).homeCheck (Spec.outside (rq .read 8)) .read 0x2000000000 8 = some .accessFault
    ∧ (match (Hr (rq .read 8)).readAt (Spec.outside (rq .read 8)) (.here 0x200) 8 with | ((v, b), _) => v == 0 && !b) = true
    ∧ Spec.kept (Hr (rq (.atomic 0 .si64) 8)) (rq (.atomic 0 .si64) 8) = none ∧ Spec.unseen (Hr (rq (.atomic 0 .si64) 8)) (rq (.atomic 0 .si64) 8)
    ∧ ({ Hr (rq (.atomic 0 .si64) 8) with replies := [⟨(rq .read 8).home, 5000, 9, 0, 3⟩] }).replies.length = 1
    ∧ Spec.kept { Hr (rq (.atomic 0 .si64) 8) with replies := [⟨(rq .read 8).home, 5000, 9, 0, 3⟩] } (rq (.atomic 0 .si64) 8) = some ⟨(rq .read 8).home, 5000, 9, 0, 3⟩
    ∧ ¬Spec.unseen { Hr (rq (.atomic 0 .si64) 8) with lost := [((rq .read 8).home, 5000)] } (rq (.atomic 0 .si64) 8)
    ∧ ((Hr (rq (.atomic 0 .si64) 8)).atomStep (Spec.outside (rq .read 8)) 0x200 8 (fun old => (vatomNew .si64 0 7 0 old).1)).1 = some 0
    ∧ (({ Hr (rq (.atomic 0 .si64) 8) with poison := [(0x80, true)], quay := [(4, ⟨false, 0, 0, none⟩)] }).atomStep (Spec.outside (rq .read 8)) 0x200 8
      (fun old => (vatomNew .si64 0 7 0 old).1)).1 = none
    ∧ (∀ p ∈ ([(id, 0), ((fun h => { h with full := 0x20 }), 1), ((fun h => { h with launch := none }), 2)] : List ((Hart → Hart) × Nat)),
        (match (({ Pu false p.1 with input := .request rp }).outPush rp (1 + 5 * 2 ^ 20) .si32 1).1 with
          | .accept => 0
          | .nack => 1
          | .reject _ => 2) = p.2) := by
  and_intros <;> try decide +kernel
  · exact .inl (by decide +kernel)
  · rintro (⟨-, h⟩ | ⟨x, h, -⟩)
    · exact h (by decide +kernel)
    · exact absurd (show x ∈ ([] : List Reply) from h) List.not_mem_nil

/-- A flow that has received packets 0 to 9 and 11, over two groups that reach package 1; a push on its way to package 1, first sent at 0. -/
def Tx (t seq : Nat) : State :=
  { Pu false id with input := .packet 1 seq 4 (rq .write 8), flows := [(1, ⟨10, [11], []⟩)], time := t, reach := #v[2, 2]
                     outbox := [⟨0, 3, 1, 0, 1, 0, 0, 0, 1, none⟩] }

/-- Transport, packets that have been received before: a read, a write that was performed and one that was refused, an atomic access whose reply is kept, one whose home has
none, and one that its home would still perform. -/
theorem witness_Transport_again :
    let s := Tx 0 9
    let f : Flow := ⟨10, [11], [(11, 6)]⟩
    let a := rq (.atomic 0 .si64) 8
    s.input = .packet 1 9 4 (rq .write 8) ∧ 9 < (s.flow 1).base ∧ 11 ∈ (s.flow 1).got ∧ (rq .read 8).kind = .read
      ∧ ((s.flow 1).refused.find? (fun x => x.1 == 11)) = none ∧ (f.refused.find? (fun x => x.1 == 11)).map (·.2) = some 6
      ∧ (Spec.kept { s with replies := [⟨a.home, 5000, 9, 0, 3⟩] } a).isSome = true ∧ Spec.kept s a = none
      ∧ (s.replies.filter (fun x => x.home == a.home && x.src == a.src)) = [] ∧ (a.home, a.src) ∉ s.lost
      ∧ (a.home, a.src) ∈ ({ s with lost := [(a.home, 5000)] } : State).lost := by decide +kernel

/-- Transport: groups that carry the packet, of which the address chooses the first, and none that does; as many errors as can be corrected, with a group in full service
and with one that has a dead lane; packets that are new at both ends of the window, old and old within it, and beyond it; a push within its time, to be sent again, and at its end (at the
boundaries). -/
theorem witness_Transport : ((Tx 0 10).reach[0].getLsbD 1 = true ∧ (Tx 0 10).reach[1].getLsbD 1 = true ∧ ((Tx 0 10).pg 0).resetting = false
      ∧ countLow ((Tx 0 10).pg 0).dead 72 = 0 ∧ 0 = (rq .write 8).pod / 128 % 2 ∧ (Pu false id).reach[0].getLsbD 1 = false ∧ (Pu false id).reach[1].getLsbD 1 = false
      ∧ 2 * 4 + 0 ≤ 8 ∧ 8 < 2 * 4 + countLow (1 : BitVec 72) 72)
    ∧ ((Tx 0 10).flow 1).base = 10 ∧ ((Tx 0 10).flow 1).got = [11] ∧ ¬(10 < 10 ∨ 10 ∈ [11]) ∧ 4105 < 10 + 4096 ∧ 10 ∉ [11]
    ∧ (9 < 10 ∨ 9 ∈ [11]) ∧ (11 < 10 ∨ 11 ∈ [11]) ∧ 10 + 4096 ≤ 4106 ∧ (rq .write 8).kind = .write
    ∧ (∀ o ∈ (Tx 20000 0).outbox, o.last + 20000 ≤ (Tx 20000 0).time ∧ (Tx 20000 0).time < o.first + 2000000)
    ∧ (∀ o ∈ (Tx 2000000 0).outbox, o.hid = (0#20).toNat ∧ o.no = 3 ∧ o.first + 2000000 ≤ (Tx 2000000 0).time)
    ∧ (((Tx 2000000 0).getHart 0).pushes.find? (fun p => p.no == 3)) = some (pu false) ∧ (pu false).nb = false
    ∧ (∃ o ∈ (Pu true id).hart.nbQ, o.kind = .push 3) := by
  and_intros <;> decide +kernel

/-- StoredErrors: an error of HBM that waits to show its bits; each kind of store, in class F and in class N; a register that holds no error; one bad bit and two; a granule that is scrubbed. -/
theorem witness_StoredErrors : regionOf (64 * 8) = .hbm ∧ ({ M with errs := [⟨.hbm 8, 2 ^ 511, true⟩] } : State).errs = [⟨.hbm 8, 2 ^ 511, true⟩] ∧ (M).errs = [] ∧ (M).lineCls (8 / 2) ≠ .n
    ∧ ((M).updFrame 0 0 (fun f => { f with cls := .n })).lineCls (8 / 2) = .n
    ∧ hasLine ({ M with quay := [(4, ⟨true, 0, 0, none⟩)] }).quay (64 / 16) = true ∧ ({ M with quay := [(4, ⟨true, 0, 0, none⟩)] }).lineCls (64 / 16) ≠ .n
    ∧ regionOf (8 * 0x2400000000) = .ws ∧ (67 : Nat) < 68 ∧ paDie (64 * 8) < 10 ∧ hasLine ({ M with quay := [(4, ⟨true, 0, 0, none⟩)] }).quay (8 / 2) = true
    ∧ (0 : Nat) < 2 ^ 511 ∧ 2 ^ 511 < 2 ^ 512
    ∧ ((U).getHart 0).xcor.getLsbD 67 = false ∧ ((U).getHart 0).xbad.getLsbD 67 = false
    ∧ (List.range 64).any (fun i => 2 ^ 63 == 2 ^ i) = true ∧ (List.range 64).any (fun i => 3 == 2 ^ i) = false := by decide +kernel

/-- A slot of die 0 from page 1 to page 2 of its frame 0. -/
def Mg (st : BitVec 2) (ptr : Nat) (new : BitVec 36 := 2) : State :=
  { (M).updDie 0 (fun d => { d with slots := d.slots.set 15 ⟨1, new, st, false, ptr⟩ }) with input := .work 0 15 0 }

/-- PagesMove: an idle slot whose pages are in order and one whose pages are the same; slots that copy, at the first and at the last line; a slot that is DONE. -/
theorem witness_PagesMove : ((Mg 0 0).die 0).slots[15] = ⟨1, 2, 0, false, 0⟩
    ∧ ((1 : BitVec 36).toNat / 2 ^ 29 = (Mg 0 0).pkg.toNat ∧ (2 : BitVec 36).toNat / 2 ^ 25 % 16 = 0
      ∧ regionOf ((1 : BitVec 36).toNat % 2 ^ 29 * 2 ^ 16) = .hbm ∧ regionOf ((2 : BitVec 36).toNat % 2 ^ 29 * 2 ^ 16) = .hbm ∧ (1 : BitVec 36) ≠ 2)
    ∧ ((Mg 0 0 1).die 0).slots[15] = ⟨1, 1, 0, false, 0⟩ ∧ ((Mg 1 0).die 0).slots[15].st = 1 ∧ ((Mg 1 65408).die 0).slots[15].ptr % 128 = 0
    ∧ ((Mg 1 65408).die 0).slots[15].ptr < 65536 ∧ (Mg 1 65408).errs = [] ∧ (Mg 1 65408).MarksPast ∧ ((Mg 2 0).die 0).slots[15].st = 2 := by decide +kernel

/-! ## Witnesses: links and port groups -/

/-- Die 1's wavelength 0 of strand 0 from die 0 in a state, with others of the strand, and what comes with an event. -/
def Wv (w : Wave) (others : List (Nat × Wave)) (d : Input) : State :=
  { U with dies := State.reset.dies.set 1 { Die.reset with waves := (0, w) :: others }, input := d }

/-- Wavelengths: every state of a wavelength; a strand on which it may retrain (one other out) and one on which it may not; a margin at the threshold and below it. -/
theorem witness_Wavelengths : (∀ st ∈ [WState.active, .leaving, .training, .joining, .failed, .off], ((Wv { st := st } [] .none).wave 1 0).st = st)
    ∧ Spec.mayRetrain (Wv { st := .active } ([2, 3, 4, 5, 6, 7].map (fun k => (k, { st := .active }))) (.nums [1, 0, 63])) 1 0
    ∧ ¬Spec.mayRetrain (Wv { st := .active } ([3, 4, 5, 6, 7].map (fun k => (k, { st := .active }))) (.nums [1, 0, 63])) 1 0
    ∧ (63 : Nat) < ({} : Wave).thr.toNat ∧ ({} : Wave).thr.toNat ≤ 64 ∧ (255 : Nat) < 256
    ∧ ((Wv { st := .training, fails := 2 } [] .none).wave 1 0).fails < 3 ∧ ¬((Wv { st := .training, fails := 3 } [] .none).wave 1 0).fails < 3
    ∧ ((Wv { st := .leaving, marked := true } [] .none).wave 1 0).marked = true := by
  unfold Spec.mayRetrain
  decide +kernel

/-- Flits: a pair that carries nothing, with a relay and without; one that carries something on strand 0 alone, which is the default strand of line 0 and the one after
strand 15 for line 15; the next flit and another one. -/
theorem witness_Flits : (U).lastHop 0 1 0 = none ∧ (∀ t ∈ List.range 16, (U).carriers 0 1 t = [])
    ∧ ({ U with dies := (State.reset.dies.set 1 { Die.reset with waves := [(256, { st := .active })] }).set 2 { Die.reset with waves := [(0, { st := .active })] } }).lastHop
      0 1 0 = some (2, 0)
    ∧ (Wv { st := .active } [] (.nums [1, 0, 0, 0, 0, 1, 0])).carriers 0 1 0 ≠ [] ∧ (Wv { st := .active } [] .none).lastHop 0 1 0 = some (0, 0)
    ∧ (Wv { st := .leaving } [] .none).lastHop 0 1 15 = some (0, 0) ∧ (∀ k ∈ List.range 15, (Wv { st := .active } [] .none).carriers 0 1 ((1 + k) % 16) = [])
    ∧ ((Wv { st := .active } [] .none).strand 1 0).next = 0 ∧ (1 : Nat) ≠ ((Wv { st := .active } [] .none).strand 1 0).next := by decide +kernel

/-- LinkTable: a table that changes, with and without LTEVT naming a system hart. -/
theorem witness_LinkTable : let s : State := { Wv { st := .active } [] (.nums [1, 2]) with ltevt := 0x8000000000001000 }
    s.input = .nums [(1#128).toNat, (2#128).toNat] ∧ (0x1000#20) = s.ltevt.setWidth 20 ∧ s.ltevt.getLsbD 63 = true
      ∧ namesHart s.pkg s.mgmtDie 0x1000 = true ∧ (s.getHart 0x1000).hid = 0x1000 ∧ (s.getHart 0x1000).isSys = true
      ∧ (firstChange s (after (exec .linkTableUpdate s))).isSome = true ∧ (U).ltevt.getLsbD 63 = false := by decide +kernel

/-- PortGroups: a group in service, one that has been out for less than 1 ms and one for 1 ms (the boundary), with the other group lost and not. -/
theorem witness_PortGroups : ∀ p ∈ [(999999, true), (999999, false), (1000000, true), (1000000, false)],
    let s : State := { U with pgs := #v[{ resetting := true, outSince := some 0 }, { lost := p.2 }], time := p.1, input := .unit 0 }
    s.pgs[0].resetting = true ∧ s.pgs[0].outSince = some 0 ∧ s.pgs[1].lost = p.2 ∧ (0 + 1000000 ≤ s.time ↔ p.1 = 1000000) ∧ s.pgs[1].outSince = none
      ∧ (8 < countLow (BitVec.ofNat 72 0x1FF) 72 ∧ ¬8 < countLow (BitVec.ofNat 72 0xFF) 72) := by decide +kernel

/-- MachineFaults: a compute hart and a system hart in focus, a launch that runs. -/
theorem witness_MachineFaults : ({ U with input := .nums [9, 1], launches := [ln 0 0 0] }).input = .nums [9, 1] ∧ (U).hart.isCompute = true ∧ (S).hart.isCompute = false
    ∧ (ln 0 0 0).st ≠ .failed ∧ (ln 0 0 0).st ≠ .retired := by decide +kernel

/-! ## Witnesses: the scheduler -/

/-- A launch that waits in queue 1, of four harts with scratchpad and accumulators; nothing else, every cluster reserved for another launch, or an undock under way. -/
def lw : Launch := { ln 1 (BitVec.ofNat 512 (2 ^ 64 * (2 ^ 40 + 3 * 2 ^ 48 + 100) + 2 ^ 128 * (8 + 64 * 2 ^ 14))) 0 with started := false, waits := some 0 }
def Pl : State := { U with launches := [lw] }
def PlFull : State := { Pl with resvs := (List.range 256).map (fun c => ⟨c, ⟨9, 0⟩, 7⟩) }

/-- Placement: an undock, no candidate, a launch that fits, one that fits nowhere. -/
theorem witness_Placement : ({ Pl with undock := some ⟨1, 1, .running, 0, 0, 0, 0, [], []⟩ }).undocking = true ∧ (U).undocking = false ∧ (U).candidates = []
    ∧ Spec.nextUp Pl lw [] ∧ (Spec.spotOf Pl lw).isSome = true
    ∧ (Spec.spotOf Pl lw).all (fun p => decide (p.1 < 256 ∧ p.2.bar < 16 ∧ (p.2.harts.map (fun h => h.1)).Nodup ∧ p.2.harts.length = 4
        ∧ ∀ h ∈ p.2.harts, h.1 < 16)) = true
    ∧ Spec.nextUp PlFull lw [] ∧ Spec.spotOf PlFull lw = none := by
  unfold Spec.nextUp
  decide +kernel

/-- A gang of another launch of a lower priority, resident or parked with the context of one hart. -/
def Rg (st : Resid) : State :=
  { U with launches := [{ ln 0 0 0 with st := .draining }, { lw with lid := ⟨1, 0⟩ }]
           gangs := [{ gn 0 with st := st, live := [], harts := [0], saved := if st = .parked then [Hart.reset 0] else [], grants := [5] }] }

/-- A package full of gangs of a launch of priority 0 that have stood since cycle 0, at cycle 2^14, where MINRES lets them go; a launch of queue 1 with
priority 3, co-resident or not, waits. -/
def Vp (cor : Bool) : State :=
  let l : Launch := { lw with pk := lw.pk ||| BitVec.ofNat 512 (2 ^ 118 * 3 + (if cor then 2 ^ 121 + 2 ^ 156 else 0)) }
  let s : State := { U with gangs := (List.range 256).map gn, launches := [{ ln 0 0 0 with st := .draining }, l] }
  (s.updQueue 1 (fun q => { q with pceil := 7 })).updDie 8 (fun d => { d with cyc := 32 * 2 ^ 14 })
/-- The launch that waits in it. -/
def vl (cor : Bool) : Launch := (Vp cor).launches.getD 1 lw

/-- Preemption, PREEMPT_SELECTION: nobody waits; a launch that fits nowhere, for which the first gang of cluster 0 makes room; one victim too few. -/
theorem witness_Preemption_select : (U).candidates = [] ∧ (Vp false).candidates = [vl false] ∧ (vl false).pk.getLsbD 121 = false
    ∧ (Vp false).fitsSome (vl false) = false ∧ (Vp false).promised (vl false).lid = false
    ∧ Spec.fits (Vp false) (vl false) 0 (Spec.goesWith (Vp false) ((((Vp false).victims ((Vp false).prio (vl false))).filter (fun v => v.cl == 0)).take 1))
    ∧ (((Vp false).victims ((Vp false).prio (vl false))).filter (fun v => v.cl == 0)).length = 1
    ∧ ((Vp false).updDie 8 (fun d => { d with cyc := 32 * (2 ^ 14 - 1) })).victims 3 = [] := by
  unfold Spec.fits
  decide +kernel

/-- Preemption, CORESIDENT_PREEMPT_SELECTION: a co-resident launch of one gang that does not fit, and fits once the first victim is gone. -/
theorem witness_Preemption_coresident : (Vp true).candidates = [vl true] ∧ (vl true).pk.getLsbD 121 = true
    ∧ ¬Spec.fitAll (Vp true) (vl true) (fun _ => false) ∧ (Vp true).promised (vl true).lid = false
    ∧ Spec.leastOf ((Vp true).victims ((Vp true).prio (vl true))).length
        (fun k => Spec.fitAll (Vp true) (vl true) (Spec.goesWith (Vp true) (((Vp true).victims ((Vp true).prio (vl true))).take k))) 1 := by
  unfold Spec.leastOf Spec.fitAll
  refine ⟨by decide +kernel, by decide +kernel, by decide +kernel, by decide +kernel, by decide, by decide +kernel, by decide +kernel, fun j h0 h1 => by omega⟩

/-- Preemption, SCHEDULER_RESERVATION: a launch that has waited 2^16 cycles (the boundary) and one that has waited one cycle less; a cluster without gangs. -/
theorem witness_Preemption_reserve : (let s := Pl.updDie 8 (fun d => { d with cyc := 32 * 65536 })
      lw ∈ s.launches ∧ s.wantsGang lw = true ∧ s.resvs = [] ∧ (∀ x ∈ s.launches, x = lw) ∧ 0 + 2 ^ min (s.schcfg.toNat % 64) 40 ≤ s.cycleOf 8
        ∧ Spec.leastCluster (Spec.costs s lw) 0 0)
    ∧ ¬(0 + 2 ^ min (Pl.schcfg.toNat % 64) 40 ≤ (Pl.updDie 8 (fun d => { d with cyc := 32 * 65535 })).cycleOf 8) ∧ lw.waits = some 0 := by
  refine ⟨⟨by decide +kernel, by decide +kernel, by decide +kernel, by decide +kernel, by decide +kernel, by decide,
    ⟨⟨[], ⟨List.nil_sublist _, by decide +kernel⟩, rfl⟩, fun _ _ => Nat.zero_le _⟩, fun d m _ _ => ?_⟩, by decide +kernel, by decide +kernel⟩
  omega

/-- A co-resident launch with two parked gangs in two clusters. -/
def Rc : State :=
  let r := Rg .parked
  { r with launches := [{ ln 0 (BitVec.ofNat 512 (2 ^ 121 + 2 * 2 ^ 156)) 0 with st := .draining }]
           gangs := r.gangs ++ r.gangs.map (fun g => { g with num := 1, cl := 1, harts := [16], saved := [Hart.reset 16] }) }

/-- Resumption: an undock, no parked gang, one that can resume, and a co-resident launch that resumes as a whole. -/
theorem witness_Resumption : (∀ l gs, (Rg .parked).input ≠ .moved l gs) ∧ (∀ l gs, Rc.input ≠ .moved l gs) ∧ (∀ g ∈ (Rg .resident).gangs, g.st ≠ .parked)
    ∧ ({ Rg .parked with undock := some ⟨1, 1, .running, 0, 0, 0, 0, [], []⟩ } : State).undocking = true
    ∧ (Rg .parked).undocking = false ∧ (∃ g, (Rg .parked).gangs = [g] ∧ g.st = .parked ∧ (Rg .parked).isCor g = false ∧ (Rg .parked).resumable g = true
      ∧ (g.saved.map (fun h => h.hid)).Nodup ∧ g.saved.length = 1)
    ∧ Rc.undocking = false ∧ (Rc.gangs.map (fun x => (x.lid, x.num))).Nodup ∧ (∀ g ∈ Rc.gangs, Rc.isCor g = true ∧ g.st = .parked ∧ Rc.placeBack g = true)
    ∧ (State.resumeAll (Rc.gangs.filter (fun x => x.lid == ⟨0, 0⟩ && x.st == Resid.parked)) Rc).isSome = true :=
  ⟨fun _ _ h => (nomatch h), fun _ _ h => (nomatch h), by and_intros <;> first | decide +kernel | exact ⟨_, rfl, by and_intros <;> decide +kernel⟩⟩

/-- A launch with a parked gang of one hart that an undock moves here, and what it finds here. -/
def Mv (f : State → State := id) : State :=
  let old : Gang := { gn 5 with harts := [0x50], live := [], st := .parked, saved := [Hart.reset 0x50], grants := [5], accOff := [0] }
  f { U with input := .moved { ln 3 (BitVec.ofNat 512 (2 ^ 64 * 2 ^ 40)) 0 with st := .draining } [old] }

/-- Resumption, a gang moved here: a place for it, none (every cluster is reserved for another launch), a queue of another tenant, an undock. -/
theorem witness_Resumption_moved : (let s := Mv
      let l' : Launch := { ln 3 (BitVec.ofNat 512 (2 ^ 64 * 2 ^ 40)) 0 with st := .draining, lid := ⟨3, 0⟩, waits := none }
      let s' : State := { s.updQueue 3 (fun x => { x with qseq := x.qseq + 1 }) with launches := s.launches ++ [l'] }
      let at_ (s' : State) := s'.choose (shapeOf l'.pk) (s'.rivals l'.lid (s'.prio l') (fun _ => false)) ((List.range 256).filter (fun cl =>
        s'.openTo cl l'.lid (s'.prio l') && decide (5 ≤ s'.freeRows cl)))
      (at_ s').map (fun p => (p.1, p.2.bar, p.2.harts.map (fun h => h.1))) = some (0, 0, [0])
        ∧ at_ { s' with resvs := (List.range 256).map (fun c => ⟨c, ⟨9, 0⟩, 7⟩) } = none
        ∧ (s.queue 3).qseq = 0 ∧ (s.queue 3).tenant = l'.tenant ∧ s.undocking = false)
    ∧ ((Mv (fun s => s.updQueue 3 (fun q => { q with tenant := 5 }))).queue 3).tenant ≠ 0
    ∧ (Mv (fun s => { s with undock := some ⟨1, 1, .running, 0, 0, 0, 0, [], []⟩ })).undocking = true := by decide +kernel

/-- AbortsAndIssue: no launch, one in each state, a gang of it with a hart; a queue that is halted and one that is not; a berth that it fills; a vector
instruction at the head and a word that is none; no hart ready, the highest one, one that has waited 256 cycles. -/
theorem witness_AbortsAndIssue : (U).launchOf ⟨0, 5⟩ = none
    ∧ (∀ st ∈ [LState.queued, .placing, .draining, .aborting, .complete], ({ U with launches := [{ ln 0 0 0 with st := st }] }).launchOf ⟨0, 0⟩ = some { ln 0 0 0 with st := st })
    ∧ (∀ m ∈ ({ U with launches := [ln 0 0 0] }).launches, m.st ≠ .aborting)
    ∧ (((Ax).updDie 0 (fun d => { d with berths := d.berths.set 0 ⟨1, 0, 70, 0, some ⟨0, 0⟩⟩ })).berth 0 0).owner = some ⟨0, 0⟩
    ∧ ((U).withFetchWord 64 0x410000A358000000).headReady 0 = true ∧ (M).headReady 0 = false
    ∧ ((0#20).toNat ∈ (gn 0).live ∧ (gn 0).lid = ⟨0, 0⟩ ∧ (gn 0).st ≠ .parked)
    ∧ ((U).updQueue 63 (fun q => { q with halted := true })).queue 63 = { halted := true } ∧ ((U).queue 63).halted = false
    ∧ 8 / 2 ^ 3 % 2 = 1 ∧ 0 / 2 ^ 3 % 2 = 0 ∧ ((U).getHart (mkHid 0 0 0)).headSince + 256 ≤ ((U).updDie 0 (fun d => { d with cyc := 32 * 256 })).cycleOf 0
    ∧ ((U (fun h => { h with ahead := [.queued 3] })).getHart (mkHid 0 0 0)).ahead = [.queued 3]
    ∧ (M).outbox = [] ∧ ¬((U).getHart (mkHid 0 0 0)).headSince + 256 ≤ ((U).updDie 0 (fun d => { d with cyc := 32 * 255 })).cycleOf 0 := by decide +kernel

/-! ## Witnesses: the host -/

/-- Function `fn` present, with queue 1 of tenant `t`, an input, and what `f` changes. -/
def Hn (t : BitVec 6) (d : Input) (f : State → State := id) : State :=
  f { M with funcs := ((Vector.replicate 64 ({} : Func)).set 0 { v := true }).set 63 { v := true, tenant := t, queue := 1, hw := 0 }
             queues := State.reset.queues.set 1 { en := true, tenant := 5 }, input := d }

/-- HostAccesses, the launch port: the last function present, and one that is not; the ends of the range of offsets; a queue of another tenant; a packet that is
refused, and one that is accepted. -/
theorem witness_HostAccesses_launchPort : (63 : Nat) < 64 ∧ (((Hn 5 .none).func 63).v = true ∧ (Hn 5 .none).pilot.power = true) ∧ ((Hn 5 .none).func 62).v = false
    ∧ (65472 % 64 = 0 ∧ ¬65536 ≤ 65472) ∧ 65536 % 64 = 0
    ∧ ((Hn 4 .none).queue ((Hn 4 .none).func 63).queue.toNat).tenant ≠ ((Hn 4 .none).func 63).tenant
    ∧ ((Hn 5 .none).queue ((Hn 5 .none).func 63).queue.toNat).tenant = ((Hn 5 .none).func 63).tenant
    ∧ (Hn 5 .none).refusal (BitVec.ofNat 512 (2 ^ 63)) 1 false = some (-3)
    ∧ (Hn 5 .none).refusal (BitVec.ofNat 512 (2 ^ 32 + 2 ^ 64 * (2 ^ 40 + 3 * 2 ^ 48 + 100) + 2 ^ 128 * (8 + 64 * 2 ^ 14))) 1 false = none := by decide +kernel

/-- HostAccesses, NOTE: a count that has been reached, and one that has not; the enable set and clear. -/
theorem witness_HostAccesses_note : let q := (Hn 5 .none).queue 1
    (q.qcnt % 2 ^ 24 + 2 ^ 24 - (0x8000000000000000#64).toNat % 2 ^ 24) % 2 ^ 24 < 2 ^ 23
    ∧ ¬(q.qcnt % 2 ^ 24 + 2 ^ 24 - (0x8000000000000001#64).toNat % 2 ^ 24) % 2 ^ 24 < 2 ^ 23
    ∧ (0x8000000000000001#64).getLsbD 63 = true ∧ (1#64).getLsbD 63 = false := by decide +kernel

/-- HostAccesses, the window: the last bytes of it and the bytes behind them; a write that its home takes. -/
theorem witness_HostAccesses_window : let s := Hn 5 (.nums [63, 4, 1, 0x200, 8, 0x55]) (fun s => s.updFrame 0 0 (fun f => { f with tenant := 5 }))
    let r := s.windowReq 63 0x200 8 0x55
    ¬2 ^ 36 < 2 ^ 36 - 8 + 8 ∧ 2 ^ 36 < 2 ^ 36 - 7 + 8 ∧ ((s.func 63).hw.toNat * 2 ^ 36 + 0x200) / 2 ^ 45 = s.pkg.toNat
    ∧ regionOf (s.redirect (r.pod % 2 ^ 45)) = .hbm
    ∧ s.homeCheck { r.req with agent := .host } .write (s.redirect (r.pod % 2 ^ 45)) 8 = none := by decide +kernel

/-- HostAccesses, reads of the window: from HBM that may be read, clean and poisoned; from HBM of another tenant; from another package that nothing reaches. -/
theorem witness_HostAccesses_windowRead :
    let s := Hn 5 (.nums [63, 4, 0, 0x200, 8, 0]) (fun s => s.updFrame 0 0 (fun f => { f with tenant := 5 }))
    let r := s.windowReq 63 0x200 8 0
    ((s.func 63).v = true ∧ s.pilot.power = true ∧ s.NoFlips) ∧ r.pod / 2 ^ 45 = s.pkg.toNat ∧ regionOf (s.redirect (r.pod % 2 ^ 45)) = .hbm
    ∧ s.homeCheck { r.req with agent := .host } .read (s.redirect (r.pod % 2 ^ 45)) 8 = none
    ∧ (Hn 5 .none).homeCheck { ((Hn 5 .none).windowReq 63 0x200 8 0).req with agent := .host } .read 0x200 8 = some .accessFault
    ∧ s.poisonedAt 0x200 8 = false ∧ ({ s with poison := [(0x80, true)], quay := [(4, ⟨false, 0, 0, none⟩)] } : State).poisonedAt 0x200 8 = true
    ∧ (let t := s.updFunc 63 (fun f => { f with hw := 512 })
       (t.windowReq 63 0x200 8 0).pod / 2 ^ 45 = 1 ∧ t.pkg.toNat = 0 ∧ t.routed 1 = false) := by decide +kernel

/-- HostAccesses, the rest: mailboxes with and without GO, the two states of the management, writes of registers of a die and of a function. -/
theorem witness_HostAccesses_rest : (U).hmb.go = false ∧ (U).smb.go = false ∧ ({ U with hmb := { go := true } }).hmb.go = true
    ∧ (65535 : Nat) < 2 ^ 16 ∧ ¬((U).mgmtDie = 9 ∨ (U).pilot.power = false) ∧ ({ U with mgmtDie := 9 }).mgmtDie = 9
    ∧ ((9 : Nat) < 10 ∧ 0x6020000 % 8 = 0 ∧ 0x6020008 % 8 = 0 ∧ 0x6020004 % 8 ≠ 0) ∧ 0x28 % 8 = 0 ∧ 64 + 63 = 127 := by decide +kernel

/-! ## Witnesses: Pilot -/

/-- A message in the package's mailbox, and one on I3C. -/
def Mb (ty : Nat) (body : List Byte) (f : State → State := id) : State :=
  let m := Spec.message ty [1, 2, 3, 4] body
  f { P with smb := { go := true, len := BitVec.ofNat 16 m.length, req := Tab.setRange (fun _ => 0) [] 0 m }, input := .message 2 [] }
def Bu (ty : Nat) (body : List Byte) (f : State → State := id) : State :=
  f { P with input := .message 1 (Spec.message ty [1, 2, 3, 4] body) }
/-- What makes a message wait. -/
abbrev mbReady (s : State) (ty : Nat) (body : List Byte) : Prop :=
  s.fault = false ∧ s.input = .message 2 [] ∧ s.smb.go = true ∧ s.smb.ready = false ∧ body.length ≤ 4088
    ∧ Tab.getRange (fun _ => 0) s.smb.req 0 s.smb.len.toNat = Spec.message ty [1, 2, 3, 4] body
theorem mb_arrives {s : State} {ty : Nat} {body : List Byte} (h : mbReady s ty body) :
    Spec.arrives s { s with smb := { s.smb with go := false } } 2 ty body :=
  ⟨.inl h.1, 1, 2, 3, 4, h.2.2.2.2.1, .inr ⟨rfl, ⟨_, h.2.1⟩, h.2.2.1, h.2.2.2.1, h.2.2.2.2.2, rfl⟩⟩
theorem bu_arrives {s : State} {ty : Nat} {body : List Byte}
    (h : s.fault = false ∧ body.length ≤ 4088 ∧ s.input = .message 1 (Spec.message ty [1, 2, 3, 4] body)) : Spec.arrives s s.wakeMgmt 1 ty body :=
  ⟨.inl h.1, 1, 2, 3, 4, h.2.1, .inl ⟨rfl, h.2.2, rfl⟩⟩

/-- Bindings, FRAME_SET: the ends of every range, and a frame that changes already. -/
theorem witness_Bindings_frameSet : (∀ l ∈ [[7, 127, 2, 63], [8, 127, 2, 63], [7, 128, 2, 63], [7, 127, 3, 63], [7, 127, 2, 64]], ∃ s', Spec.arrives (Mb 1 l) s' 2 0x01 l)
    ∧ ((Mb 1 [7, 127, 2, 63]).frame 7 127).change = none
    ∧ ((Mb 1 [7, 127, 2, 63] (fun s => s.updFrame 7 127 (fun f => { f with change := some (.f, 0, 1) }))).frame 7 127).change.isSome = true :=
  ⟨fun l h => ⟨_, mb_arrives (by
    have k : ∀ l ∈ ([[7, 127, 2, 63], [8, 127, 2, 63], [7, 128, 2, 63], [7, 127, 3, 63], [7, 127, 2, 64]] : List (List Byte)), mbReady (Mb 1 l) 0x01 l := by
      decide +kernel
    exact k l h)⟩, by and_intros <;> decide +kernel⟩

/-- Bindings, the rest: the ends of the ranges; a queue that is enabled; a hart that this package has, and one that it has not; the record of the partition. -/
theorem witness_Bindings_rest : (∀ p ∈ [(2, [63, 63]), (2, [64, 63]), (2, [63, 64]), (3, [0, 0, 0, 0, 0]), (3, [63, 63, 63, 1, 2]), (3, [64, 63, 63, 1, 2]), (3, [63, 0xFF, 0, 0, 0]),
      (4, [0, 0x10, 0, 0, 63]), (4, [0, 0x10, 0, 0, 64]), (5, [0, 0])], ∃ s', Spec.arrives (Mb p.1 p.2) s' 2 p.1 p.2)
    ∧ ((Mb 2 [63, 63]).queue 63).en = false ∧ (∀ l ∈ (Mb 2 [63, 63]).launches, l.lid.q ≠ 63)
    ∧ namesHart (P).pkg (P).mgmtDie 0x01000 = true ∧ 8 ≤ hidDie 0x01000 ∧ hidCluster 0x01000 ≠ 31
    ∧ (∃ s', Spec.arrives (Bu 5 [0, 0]) s' 1 0x05 [0, 0]) :=
  ⟨fun p h => ⟨_, mb_arrives (by
    have k : ∀ p ∈ ([(2, [63, 63]), (2, [64, 63]), (2, [63, 64]), (3, [0, 0, 0, 0, 0]), (3, [63, 63, 63, 1, 2]), (3, [64, 63, 63, 1, 2]), (3, [63, 0xFF, 0, 0, 0]),
      (4, [0, 0x10, 0, 0, 63]), (4, [0, 0x10, 0, 0, 64]), (5, [0, 0])] : List (Nat × List Byte)), mbReady (Mb p.1 p.2) p.1 p.2 := by decide +kernel
    exact k p h)⟩, by and_intros <;> first | decide +kernel | exact ⟨_, bu_arrives ⟨rfl, by decide, rfl⟩⟩⟩

/-- An undock towards package 1 at a step, since a moment, at a time. -/
def Un (n : Nat) (t : Nat) (d : Input) : State :=
  { P with undock := some ⟨1, n, .running, 0, 5, 0, 3, [], []⟩, time := t, input := d }

/-- ImagesUndockAndLogs, the messages: each arrives; a system hart stands in the listing, in a handler and not; a Crew image that waits for the handlers; a Pilot image on
trial; both outcomes of a check that the spec leaves to the Config have their clause. -/
theorem witness_Images : (∃ s', Spec.arrives (Mb 0x10 [4, 0, 0, 0, 9, 9]) s' 2 0x10 ([4, 0, 0, 0] ++ [9, 9]))
    ∧ (∃ s', Spec.arrives (Mb 0x11 [2, 0, 0, 0]) s' 2 0x11 [2, 0, 0, 0])
    ∧ (∃ s', Spec.arrives (Bu 0x12 [4, 0, 0, 0, 9]) s' 1 0x12 ([4, 0, 0, 0] ++ [9])) ∧ (∃ s', Spec.arrives (Bu 0x13 [2, 0, 0, 0]) s' 1 0x13 [2, 0, 0, 0])
    ∧ (∀ k im, Config.imageOk k im = true ∨ Config.imageOk k im = false) ∧ 0x01000 ∈ (P).systemHarts ∧ ((S).getHart 0x01000).hid = 0x01000
    ∧ (let s := Bu 0 [] (fun s => { s with pilot := { s.pilot with staged := some 4 }, input := .unit 1 })
       s.fault = false ∧ s.gangs = [] ∧ s.pilot.staged.isSome = true ∧ (s.getHart s.mgmtHart).hid = s.mgmtHart)
    ∧ (P).systemHarts.all (fun k => ((P).getHart k).hid == k && (((P).getHart k).run != .running || ((P).getHart k).depth == 0)) = true
    ∧ (let s := S (fun h => { h with depth := 1 })
       s.systemHarts.all (fun k => (s.getHart k).hid == k) = true ∧ 0x01000 ∈ s.systemHarts ∧ (s.getHart 0x01000).run = .running ∧ (s.getHart 0x01000).depth ≠ 0)
    ∧ (P).pilot.handover = none ∧ ({ P with pilot := { (P).pilot with handover := some ⟨[], 2, [1, 2, 3, 4]⟩ } }).pilot.handover.isSome = true
    ∧ ({ P with pilot := { (P).pilot with trial := true } }).pilot.trial = true ∧ (P).pilot.trial = false := by
  and_intros <;> first
    | decide +kernel
    | exact ⟨_, mb_arrives (by decide +kernel)⟩
    | exact ⟨_, bu_arrives ⟨rfl, by decide, rfl⟩⟩
    | exact fun k im => by cases Config.imageOk k im <;> simp

/-- A message that arrives on I3C after a removal of power that leaves it alive. -/
theorem bu_alive {s : State} {ty : Nat} {body : List Byte}
    (h : s.pilot.alive = true ∧ body.length ≤ 4088 ∧ s.input = .message 1 (Spec.message ty [1, 2, 3, 4] body)) : Spec.arrives s s.wakeMgmt 1 ty body :=
  ⟨.inr ⟨rfl, h.1⟩, 1, 2, 3, 4, h.2.1, .inl ⟨rfl, h.2.2, rfl⟩⟩

/-- ImagesUndockAndLogs, what ends the steps: each step at the end of its budget and one nanosecond later; all gangs parked with a collective under way, a gang
that is not parked; requests outstanding and none; UNDOCK_STATUS with an undock in each of its states, after a removal of power too; an answer that waits for READY, on either path. -/
theorem witness_UndockSteps : (∀ p ∈ [(1, 3000000000), (2, 22000000000), (3, 2000000000), (4, 2000000000), (5, 500000000)],
      let s := Un p.1 (5 + p.2) (.unit p.1)
      s.undock.map (fun u => (u.st, u.step, decide (s.time ≤ u.stepAt + p.2))) = some (.running, p.1, true)
        ∧ (Un p.1 (5 + p.2 + 1) (.unit p.1)).undock.map (fun u => decide (u.stepAt + p.2 < (Un p.1 (5 + p.2 + 1) (.unit p.1)).time)) = some true)
    ∧ (let s : State := { Un 1 5 (.unit 1) with insts := [instM 0x200 0x300 1], groups := State.reset.groups.set 3 (grp 1), gangs := [{ gn 0 with st := .parked }] }
       (∀ g ∈ s.gangs, g.st = .parked) ∧ ∀ x ∈ s.insts, x.grp < 64 ∧ (s.group x.grp).gctl.getLsbD 0 = true)
    ∧ (∃ g ∈ ({ Un 1 5 (.unit 1) with gangs := [gn 0] } : State).gangs, g.st ≠ .parked)
    ∧ (Un 4 5 (.unit 4)).outbox = [] ∧ (Tx 0 10).outbox ≠ []
    ∧ (∀ st ∈ [UndockSt.running, .released, .failed], let u0 : Undock := ⟨1, 2, st, 0, 5, 7000000, 3, [], []⟩
        let s := Bu 0x21 [] (fun s => { s with undock := some u0, fault := true, pilot := { s.pilot with alive := true } })
        (∃ s', Spec.arrives s s' 1 0x21 []) ∧ s.undock = some u0)
    ∧ (∀ p ∈ [0, 2], let s : State := { P with pilot := { (P).pilot with owed := [(p, [1, 2])] } }
        s.input = .none ∧ s.fault = false ∧ s.pilot.owed = [(p, [1, 2])] ∧ s.hmb.ready = false ∧ s.smb.ready = false) := by
  and_intros <;> first
    | decide +kernel
    | exact fun st _ => ⟨⟨_, bu_alive ⟨rfl, by decide, rfl⟩⟩, rfl⟩

/-- ImagesUndockAndLogs, the undock: the message in each of its cases (a neighbour that the table reaches is allowed where the opaque check of its other conditions
allows it), every step, and the ends of the budgets; the log of the last die and of none. -/
theorem witness_Undock : (∃ s', Spec.arrives (Bu 0x20 [1]) s' 1 0x20 [1] ∧ (Bu 0x20 [1]).undocking = false ∧ s'.undockOk 1 = false)
    ∧ (∃ s', Spec.arrives (Bu 0x20 [1] (fun s => { s with reach := #v[2, 2] })) s' 1 0x20 [1] ∧ (Config.neighbourFits 1 = true → s'.undockOk 1 = true))
    ∧ (∃ s', Spec.arrives (Bu 0x20 [1] (fun s => { s with undock := (Un 1 0 .none).undock })) s' 1 0x20 [1])
    ∧ (Bu 0x20 [1] (fun s => { s with undock := (Un 1 0 .none).undock })).undocking = true ∧ (∃ s', Spec.arrives (Bu 0x21 []) s' 1 0x21 [])
    ∧ (Bu 0x21 []).undock = none ∧ (∃ g ∈ ({ Un 1 0 (.unit 1) with gangs := [gn 0] }).gangs, g.st ≠ .parked)
    ∧ (∀ n ∈ [1, 2, 3, 4, 5], (Un n 0 (.unit n)).undock.map Undock.step = some n ∧ (Un n 0 (.unit n)).undock.map Undock.st = some .running)
    ∧ ((Un 2 22000000005 .none).time ≤ 5 + 22000000000 ∧ 5 + 22000000000 < (Un 2 22000000006 .none).time)
    ∧ ({ P with undock := some ⟨1, 5, .released, 0, 0, 0, 0, [], []⟩ }).undock.map Undock.st = some .released ∧ (P).undock.map Undock.st ≠ some .released
    ∧ (∃ s', Spec.arrives (Bu 0x30 [9, 0, 0, 0, 0]) s' 1 0x30 [9, 0, 0, 0, 0]) ∧ (∃ s', Spec.arrives (Mb 0x30 [10, 0, 0, 0, 0]) s' 2 0x30 [10, 0, 0, 0, 0]) := by
  refine ⟨⟨_, bu_arrives ⟨rfl, by decide, rfl⟩, by decide +kernel, by decide +kernel⟩, ⟨_, bu_arrives ⟨rfl, by decide, rfl⟩, fun h => ?_⟩,
    by and_intros <;> first
      | decide +kernel
      | exact ⟨_, bu_arrives ⟨rfl, by decide, rfl⟩⟩
      | exact ⟨_, mb_arrives (by decide +kernel)⟩⟩
  have k : (decide ((1 : Nat) < 128) && (1 : Nat) != (Bu 0x20 [1] (fun s => { s with reach := #v[2, 2] })).wakeMgmt.pkg.toNat
    && (Bu 0x20 [1] (fun s => { s with reach := #v[2, 2] })).wakeMgmt.reach[0].getLsbD 1 && (Bu 0x20 [1] (fun s => { s with reach := #v[2, 2] })).wakeMgmt.reach[1].getLsbD 1
    && !((Bu 0x20 [1] (fun s => { s with reach := #v[2, 2] })).wakeMgmt.pg 0).out && !((Bu 0x20 [1] (fun s => { s with reach := #v[2, 2] })).wakeMgmt.pg 1).out
    && !(Bu 0x20 [1] (fun s => { s with reach := #v[2, 2] })).wakeMgmt.fault) = true := by
    decide +kernel
  unfold State.undockOk
  simp only [Bool.and_eq_true] at k ⊢
  exact ⟨k, h⟩

/-- A list of extended algorithms that offers the two of Pilot's, in the bytes of NEGOTIATE_ALGORITHMS. -/
def algs : List Byte := [0, 0, 4, 0, 1, 0, 4, 1, 2, 0]
/-- Attestation: a request on each of the two paths, on I3C after a removal of power too; one that offers both algorithms, one that offers one, and one that asks for others; Pilot at each point of the
sequence. -/
theorem witness_Attestation : (∃ s0, Spec.asks { P with input := .message 1 algs } s0 1 algs)
    ∧ (∃ s0, Spec.asks { P with input := .message 1 algs, fault := true, pilot := { (P).pilot with alive := true } } s0 1 algs)
    ∧ (∃ s0, Spec.asks { P with input := .message 0 [], hmb := { go := true, len := 10, req := Tab.setRange (fun _ => 0) [] 0 algs } } s0 0 algs)
    ∧ ((∀ b ∈ algs.take 2, b = 0) ∧ Spec.offers algs 1 ∧ Spec.offers algs 2) ∧ ¬(∀ b ∈ ([1, 0, 4, 0, 1, 0] : List Byte).take 2, b = 0)
    ∧ (P).pilot.version = false ∧ ({ P with pilot := { (P).pilot with version := true } }).pilot.version = true := by
  refine ⟨⟨_, .inl ⟨rfl, rfl, .inl rfl, rfl⟩⟩, ⟨_, .inl ⟨rfl, rfl, .inr rfl, rfl⟩⟩, ⟨_, .inr ⟨rfl, ⟨_, rfl⟩, rfl, rfl, rfl, by decide +kernel, rfl⟩⟩, ⟨by decide, ⟨0, 0, _, rfl⟩, ⟨1, 1, _, rfl⟩⟩, ?_⟩
  and_intros <;> decide +kernel

/-- PowerAndBringUp: the ends of the cap's range, of the temperatures, of the clock's steps, and of the time below the cap; both homes of the management; frames
listed once. -/
theorem witness_PowerAndBringUp : ((2000 : Nat) ≤ 2000 ∧ 2000 ≤ 7500 ∧ ¬2000 ≤ 1999 ∧ ¬7501 ≤ 7500)
    ∧ ((9 : Nat) < 10 ∧ ((P).die 9).clk.toNat < 8 ∧ ¬(P).pilot.cap < 7500 ∧ (P).pilot.cap < 7501 ∧ ¬95 < 95 ∧ 95 < 96)
    ∧ (let s : State := { P with dies := State.reset.dies.set 9 { Die.reset with clk := 8 } }
       ¬(s.die 9).clk.toNat < 8 ∧ 0 < (s.die 9).clk.toNat ∧ 100 * 7125 ≤ 95 * s.pilot.cap ∧ ¬100 * 7126 ≤ 95 * s.pilot.cap)
    ∧ ((110 : Nat) ≤ 110 ∧ 110 < 111) ∧ (P).mgmtDie = 8 ∧ ({ P with mgmtDie := 9 }).mgmtDie = 9
    ∧ (∀ e, e < 10 → (((P).die e).frames.map (·.1)).Nodup)
    ∧ ({ P with fault := true, pilot := { (P).pilot with alive := true } } : State).pilot.alive = true ∧ (P).fault = false ∧ (P).port1 = false
    ∧ (let s : State := { P with hmb := { go := true }, input := .nums [0, 0, 9] }
       s.fault = false ∧ s.hmb.go = true ∧ s.hmb.ready = false ∧ s.input = .nums [0, 0, 9]) := by decide +kernel

/-! ## Witnesses: the step -/

/-- StepRunsTheInstruction: a hart that runs an instruction, a word that is no instruction, a page that is not mapped; one with a pending trap; one that is held; and
one that is idle. -/
theorem witness_StepRunsTheInstruction : (M).agenda = [] ∧ (M).hart.run = .running ∧ (M).begin.beforeFetch = none
    ∧ okWith (fun w => match decode w with | .ok i => i == .add h0 0 0 0 | .error _ => false)
        ((U).withFetchWord 64 0x0100000000000000).begin.fetch.1 = true
    ∧ okWith (fun w => match decode w with | .ok _ => false | .error _ => true) (M).begin.fetch.1 = true
    ∧ isErr (U).begin.fetch.1 .pageFault = true
    ∧ isHere ((M).begin.locate ((M).begin.req .fetch) .fetch 0x100 8).1 0x100 = true
    ∧ ((U (fun h => { h with pend := { h.pend with abort := some 3 } })).begin.beforeFetch).isSome = true
    ∧ (U (fun h => { h with run := .held })).hart.run = .held ∧ (U (fun h => { h with run := .idle })).hart.run = .idle
    ∧ (M).begin.NoFlips ∧ (M).hart.acquires = false ∧ (U (fun h => { h with nbQ := [{ nb0 with aq := true }] })).hart.acquires = true := by
  and_intros <;> decide +kernel

/-- EveryStepKeepsInv, DecodeOfEncode, EncodeOfDecode: the state after reset steps; an instruction that is well formed; a word that decodes. -/
theorem witness_Step : State.reset.Inv ∧ (match step State.reset with | .next _ => true | _ => false) = true ∧ (Instr.add h1 1 2 3).isEvent = false ∧ (Instr.add h1 1 2 3).wf = true
    ∧ (match decode 0x0100000000000000 with | .ok i => i == .add h0 0 0 0 | .error _ => false) = true := by decide +kernel

/-- A hart whose next instruction loads two bytes at 0x200. -/
def Ah : State := { (U (xs [(6, 0x208)])).withFetchWord 64 0x280000A30FFFFFF8 with agenda := [.ahead 0 1] }
/-- AgendaInOrder, the scalar unit ahead: a load that it may perform. -/
theorem witness_AgendaInOrder_ahead : let f := { Ah with agenda := [] }.focus 0
    let r := (f.upd (fun h => { h with trapped := false })).fetch
    Ah.agenda = [.ahead 0 1] ∧ namesHart Ah.pkg Ah.mgmtDie (BitVec.ofNat 20 0) = true ∧ f.hart.run = .running ∧ f.hart.isMgmt = false ∧ f.hart.acquires = false
      ∧ f.hart.ahead = [] ∧ okWith (fun w => w == 0x280000A30FFFFFF8) r.1 = true
      ∧ (match decode 0x280000A30FFFFFF8 with | .ok i => i == .ld h0 5 (.direct 6 (-8)) 1 false | .error _ => false) = true
      ∧ (0x280000A30FFFFFF8#64).extractLsb' 56 8 = 0x28 ∧ r.2.hart.waits ((0x280000A30FFFFFF8#64).extractLsb' 43 8) = false
      ∧ (match exec (.ld h0 5 (.direct 6 (-8)) 1 false) r.2 with | .next t => !t.hart.trapped && t.hart.waitStart.isNone | _ => false) = true := by decide +kernel

/-- AgendaInOrder: an event, time, and another hart of the package. -/
theorem witness_AgendaInOrder : (Instr.powerOn).isEvent = true ∧ ({ U with agenda := [.event .powerOn .none] }).agenda = [.event .powerOn .none]
    ∧ ({ U with agenda := [.elapse 5] }).agenda = [.elapse 5] ∧ ({ U with agenda := [.hart 0x1000] }).agenda = [.hart 0x1000]
    ∧ namesHart (U).pkg (U).mgmtDie (BitVec.ofNat 20 0x1000) = true := by decide +kernel

/-! ## Worked examples of spec/ -/

/-- The first `n` elements of `w` bits of a vector register behind an instruction. -/
def vAfter (i : Instr) (v w n : Nat) (s : State) : List Nat :=
  let b := (after (exec i s)).hart.vstr v
  (List.range n).map (elemAt w b)
/-- The flags behind an instruction that found none: IS, NV, DZ, OF, UF, NX from bit 5 down. -/
def flagsAfter (i : Instr) (s : State) : Nat := (after (exec i s)).hart.fcsr.toNat % 64
/-- A hart with 16 registers, lengths, tags and what `f` changes. -/
def Ex (l m : Nat) (ts : List (Nat × Tag)) (f : Hart → Hart) : State := U (fun h => f (lens l m (tags ts { h with regs := 1 })))

/-- R139: a remainder has the sign of the dividend, a division truncates; division by 0 gives −1 and the dividend. -/
theorem test_div : xAfter (.div h0 3 1 2) 3 (U (xs [(1, -7), (2, 2)])) = -3 ∧ xAfter (.div h0 3 1 0) 3 (U (xs [(1, 9)])) = -1 := by decide +kernel
theorem test_rem : xAfter (.rem h0 3 1 2) 3 (U (xs [(1, -7), (2, 2)])) = -1 ∧ xAfter (.rem h0 3 1 0) 3 (U (xs [(1, 9)])) = 9 := by decide +kernel
/-- CLZ counts from bit 63. -/
theorem test_clz : xAfter (.clz h0 3 1) 3 (U (xs [(1, 0x12345)])) = 47 ∧ xAfter (.clz h0 3 0) 3 U = 64 := by decide +kernel
/-- The example of PAMK: 53 × 2^41 + 2^40. -/
theorem test_pamk : xAfter (.pamk h0 8 7 6) 8 (U (xs [(7, 53), (6, 0x10000000000)])) = 0x6B0000000000 := by decide +kernel
/-- The table of FCVT (R149): −2.75, 3.0 × 10^9, NaN. -/
theorem test_fcvt : ([(0xC006000000000000, 0xFFFFFFFFFFFFFFFE, 1), (0x41E65A0BC0000000, 0x7FFFFFFF, 16), (0x7FF8000000000000, 0, 16)] : List (Word × Word × Nat)).all
    (fun p => xAfter (.fcvt h0 .si32 .fp64 2 9 4) 9 (U (xs [(4, p.1)])) == p.2.1 && flagsAfter (.fcvt h0 .si32 .fp64 2 9 4) (U (xs [(4, p.1)])) == p.2.2) = true := by
  decide +kernel
/-- R149: UI64 to SI32 wraps and sets no flag. -/
theorem test_fcvt_wraps : xAfter (.fcvt h0 .si32 .ui64 0 9 4) 9 (U (xs [(4, 3000000000)])) = 0xFFFFFFFFB2D05E00
    ∧ flagsAfter (.fcvt h0 .si32 .ui64 0 9 4) (U (xs [(4, 3000000000)])) = 0 := by decide +kernel
/-- R85, R148: 2^24 + 1 in FP32 is a tie that rounds to even; the product of FFMA is exact. -/
theorem test_fadd : xAfter (.fadd h0 true 3 1 2 1) 3 (U (xs [(1, 0x4B800000), (2, 0x3F800000)])) = 0x4B800000 := by decide +kernel
theorem test_ffma : xAfter (.ffma h0 true 1 4 1 2 3) 4 (U (xs [(1, 0x3F800001), (2, 0x3F800001), (3, 0xBF800002)])) = 0x28800000 := by decide +kernel

/-- `vsdemo`: the running sum through the pass queue with element 2 masked out, and what is read back. -/
def vsdemo : State := Ex 4 2 [(1, .si32), (2, .si32), (3, .si32)] (fun h => vecs 32 [(1, [3, 3, 3, 3, 3, 10, 3, 3])] (ps [(3, 0xFB)] (xs [(26, 5), (27, 9), (28, 1)] { h with vqin := 100 })))
theorem test_pass_queue : vAfter (.vadd h3 2 (oQ 1) false 1) 2 32 8 vsdemo = [103, 106, 0, 109, 112, 122, 125, 128]
    ∧ (after (exec (.vadd h3 2 (oQ 1) false 1) vsdemo)).hart.vqout = 128 := by decide +kernel
theorem test_vxt : let s := after (exec (.vadd h3 2 (oQ 1) false 1) vsdemo)
    xAfter (.vxt h0 30 2 26) 30 s = 122 ∧ xAfter (.vxt h0 31 2 27) 31 s = 0 ∧ vAfter (.vsliceExtract h0 true 3 2 28) 3 32 2 s = [106, 122] := by decide +kernel
/-- The replicated source of R160. -/
theorem test_vmov_rep : vAfter (.vmov h0 7 ⟨5, .s4⟩) 7 32 12 (Ex 6 2 [(5, .si32), (7, .si32)] (vecs 32 [(5, [10, 11, 12, 13, 14, 15, 16, 17, 18, 19, 20, 21])]))
    = [10, 11, 12, 13, 10, 11, 12, 13, 10, 11, 12, 13] := by decide +kernel
/-- The guard is read as it stood (R159): a compare into its own guard. -/
theorem test_vcmp_own_guard : ((after (exec (.vcmp ⟨3, false, 0⟩ .lt 3 ⟨4, .none⟩ ⟨5, .none⟩) (Ex 4 1 [(4, .si32), (5, .si32)]
      (fun h => vecs 32 [(4, [0, 0, 2, 2]), (5, [1, 1, 1, 1])] (ps [(3, 6)] h))))).hart.getP 3).toNat = 2 := by decide +kernel
/-- VTAG reads the same bits under another tag. -/
theorem test_vtag : elemAt 8 ((after (exec (.vtag 0 1 Tag.ui8.code) (Ex 1 1 [(1, .fp32)] (vecs 32 [(1, [0x3F800000])])))).hart.vstr 1) 3 = 0x3F := by decide +kernel
/-- The example of R195. -/
theorem test_vbitil : vAfter (.vbitil h0 true 4 ⟨1, .none⟩ ⟨2, .none⟩ 3) 4 32 1 (Ex 1 1 [(1, .ui32), (2, .ui32), (3, .ui32), (4, .ui32)] (vecs 32 [(1, [5]), (2, [3]), (3, [1])])) = [87] := by
  decide +kernel
theorem test_vbitdl : vAfter (.vbitdl h0 true 5 ⟨4, .none⟩ 1) 5 32 1 (Ex 1 1 [(4, .ui32), (5, .ui32)] (vecs 32 [(4, [87])])) = [3] := by decide +kernel
/-- The example of R190: 2.0, 3.0, 4.5. -/
def hornerEx : State := Ex 3 1 [(8, .fp32), (9, .fp32), (10, .fp32)] (fun h =>
  vecs 32 [(9, [0x3F000000, 0x3F000000, 0x3F000000]), (10, [0x3F800000, 0x40000000, 0x40400000])] { h with vqin := 0x40000000 })
theorem test_vfma_pass_queue : vAfter (.vfma h0 8 (oQ 9) 10 false 1) 8 32 3 hornerEx = [0x40000000, 0x40400000, 0x40900000]
    ∧ (after (exec (.vfma h0 8 (oQ 9) 10 false 1) hornerEx)).hart.vqout = 0x40900000 := by decide +kernel
/-- The example of R199: 1, 2^24, 1, 1 scanned from the left, and reduced as the tree of R96. -/
def scanEx : State := Ex 4 1 [(1, .fp32), (2, .fp32)] (vecs 32 [(1, [0x3F800000, 0x4B800000, 0x3F800000, 0x3F800000])])
theorem test_vscan : vAfter (.vscan h0 .add 2 1 false 1) 2 32 4 scanEx = [0x3F800000, 0x4B800000, 0x4B800000, 0x4B800000]
    ∧ flagsAfter (.vscan h0 .add 2 1 false 1) scanEx = 1 := by decide +kernel
theorem test_vred : vAfter (.vred h0 .add 2 1 false 1) 2 32 1 scanEx = [0x4B800001] := by decide +kernel
/-- The example of R209 and R210: blocks of four, E2M1 and E8M0. -/
def quantEx : State := Ex 8 1 [(5, .fp32), (6, .e2m1), (7, .e8m0), (8, .fp32)]
  (vecs 32 [(5, [0x3E99999A, 0xBF8CCCCD, 0x40A00000, 0x40266666, 0x42300000, 0xBF400000, 0, 0x41400000])])
theorem test_vqnt : vAfter (.vqnt h0 6 5 7 1) 6 8 4 quantEx = [0xA1, 0x56, 0x87, 0x30] ∧ vAfter (.vqnt h0 6 5 7 1) 7 8 2 quantEx = [0x7F, 0x82]
    ∧ flagsAfter (.vqnt h0 6 5 7 1) quantEx = 3 := by decide +kernel
theorem test_vdqnt : vAfter (.vdqnt h0 8 6 7 false 1) 8 32 8 (after (exec (.vqnt h0 6 5 7 1) quantEx))
    = [0x3F000000, 0xBF800000, 0x40800000, 0x40400000, 0x42400000, 0x80000000, 0, 0x41400000] := by decide +kernel

/-- The example of R328: four elements add to one location, in ascending order. -/
theorem test_vamo : let s := M (fun h => vecs 32 [(6, [1, 2, 3, 4])] (lens 4 1 (xs [(20, 0x200)] (tags [(5, .si32), (6, .si32)] { h with regs := 1 }))))
    let s := { s with mem := Tab.setRange Memory.unlisted s.mem 0x200 [10, 0, 0, 0] }
    let i : Instr := .vamo h0 .add false 6 20 5 2 ⟨.pkg, false, false⟩ ⟨0, false, 0, false⟩
    vAfter i 6 32 4 s = [10, 11, 13, 16] ∧ (after (exec i s)).bytes 0x200 4 = 20 := by decide +kernel
/-- The first two rows of the example of R124, and the last grant. -/
theorem test_claim : let s (c : Nat) : State := { U (fun h => lens 1024 4 { h with launch := some ⟨0, 0⟩ }) with launches := [ln 0 (BitVec.ofNat 512 (2 ^ 64 * 10000)) c] }
    let i : Instr := .claim h0 20 21
    (xAfter i 20 (s 4096) = 4096 ∧ xAfter i 21 (s 4096) = 4096)
    ∧ (xAfter i 20 (s 9216) = 9216 ∧ xAfter i 21 (s 9216) = 784 ∧ (after (exec i (s 9216))).hart.vl = 784 ∧ (after (exec i (s 9216))).hart.vh = 1) := by decide +kernel

/-- The examples of R94 and R95: the window of a step keeps what single additions lose; wrap and saturation. -/
theorem test_matrix_step : matStep 0 [.fin false 1 24 false, .fin false 1 0 false, .fin false 1 0 false, .fin false 3 (-72) false, .fin true 1 (-72) false]
    = (0x4B800001, fNX) := by decide +kernel
theorem test_matrix_step_int : matStepInt false (matStepInt false 2147483000 1000).1 (-2000) = (2147482000, false)
    ∧ matStepInt true 2147483000 1000 = (2147483647, true) ∧ matStepInt true 2147483647 (-2000) = (2147481647, false) := by decide +kernel

end Sys2Proof.Tests
end

section
/-! SUPPORT. What the invariant `State.Inv` asks of each operation of the model (O60): `Kept n s` says that the invariant holds and that at least
`n` writes have been made. There is one lemma for every operation, named after it, and each follows the text of the operation: the
chain of operations that it performs is the chain of lemmas. This part: bytes and their marks, harts, the scheduler, traps and issue. -/

namespace Sys2Proof.Machine
open Sys2Proof

/-- The state meets the invariant, and at least `n` writes have been made: what every operation of the model keeps. The bound `n` lets
a fact about the marks of a running collective (`CollInst.Past`) outlive the operations that follow. -/
def Kept (n : Nat) (s : State) : Prop := s.Inv ∧ n ≤ s.wno

/-- No call of the collective carries a mark of a later time than write `n`. -/
def CollInst.Past (n : Nat) (x : CollInst) : Prop := ∀ c ∈ x.calls, c.at_ ≤ n

/-- The state behind an instruction's entry is `Kept`. -/
def KeptEff (n : Nat) : Eff → Prop
  | .done s | .goto _ s | .wait s | .trap _ s | .whole s => Kept n s

/-- The next state, if there is one, is `Kept`. -/
def KeptOut (n : Nat) : Host.Outcome State Fault Refusal → Prop
  | .next s => Kept n s
  | _ => True

/-- The state of an answer, if there is one, is `Kept`. -/
def KeptOpt (n : Nat) (o : Option State) : Prop := ∀ t, o = some t → Kept n t

section
variable {n m : Nat} {s t : State}

theorem Kept.inv (h : Kept n s) : s.Inv := h.1
theorem Kept.le_wno (h : Kept n s) : n ≤ s.wno := h.2
theorem Kept.mono (h : Kept n s) (hm : m ≤ n) : Kept m s := ⟨h.1, hm.trans h.2⟩
/-- The present number of writes is a bound. -/
theorem Kept.now (h : Kept n s) : Kept s.wno s := ⟨h.1, le_rfl⟩
theorem kept_zero_iff : Kept 0 s ↔ s.Inv := ⟨fun h => h.1, fun h => ⟨h, Nat.zero_le _⟩⟩

/-- An update of none of the five fields that the invariant speaks of. -/
theorem Kept.frame (h : Kept n s) (e : (t.mem, t.indet, t.insts, t.wno, t.rest) = (s.mem, s.indet, s.insts, s.wno, s.rest)) :
    Kept n t := by
  simp only [Prod.mk.injEq] at e
  obtain ⟨hm, hi, hc, hw, hr⟩ := e
  simpa only [Kept, State.Inv, State.MarksPast, State.Named, hm, hi, hc, hw, hr] using h

theorem Kept.ite {c : Prop} [Decidable c] {a b : State} (ha : Kept n a) (hb : Kept n b) : Kept n (if c then a else b) := by
  split
  · exact ha
  · exact hb

theorem Kept.ite_snd {α : Type} {c : Prop} [Decidable c] {a b : α × State} (ha : Kept n a.2) (hb : Kept n b.2) :
    Kept n (if c then a else b).2 := by
  split
  · exact ha
  · exact hb

/-- What an operation leaves behind the value that it returns. -/
theorem Kept.of_snd {α : Type} {p : α × State} {a : α} (h : Kept n p.2) (hp : p = (a, t)) : Kept n t := by
  rwa [hp] at h

theorem KeptEff.ite {c : Prop} [Decidable c] {a b : Eff} (ha : KeptEff n a) (hb : KeptEff n b) : KeptEff n (if c then a else b) := by
  split
  · exact ha
  · exact hb

theorem KeptOut.ite {c : Prop} [Decidable c] {a b : Host.Outcome State Fault Refusal} (ha : KeptOut n a) (hb : KeptOut n b) :
    KeptOut n (if c then a else b) := by
  split
  · exact ha
  · exact hb

theorem KeptOpt.some (h : Kept n s) : KeptOpt n (some s) := by
  rintro _ ⟨⟩
  exact h
theorem KeptOpt.none : KeptOpt n Option.none := fun _ h => nomatch h
theorem KeptOpt.getD {o : Option State} (ho : KeptOpt n o) (h : Kept n s) : Kept n (o.getD s) := by
  cases o with
  | none => exact h
  | some t => exact ho t rfl

theorem Kept.foldl_mem {α : Type} {f : State → α → State} {l : List α} (h : Kept n s)
    (hf : ∀ t, ∀ a ∈ l, Kept n t → Kept n (f t a)) : Kept n (l.foldl f s) :=
  List.foldlRecOn l f h fun t ht a ha => hf t a ha ht

theorem Kept.foldl {α : Type} {f : State → α → State} {l : List α} (h : Kept n s) (hf : ∀ t a, Kept n t → Kept n (f t a)) :
    Kept n (l.foldl f s) := h.foldl_mem fun t a _ => hf t a

/-! ## The fields of the invariant -/

theorem Kept.of_parts (hm : Memory.wf t.mem = true) (hi : ∀ r ∈ t.indet, r.at_ ≤ t.wno) (hc : ∀ x ∈ t.insts, x.Past t.wno)
    (hr : t.Named) (hn : n ≤ t.wno) : Kept n t := ⟨⟨hm, ⟨hi, hc⟩, hr⟩, hn⟩
theorem Kept.mem_wf (h : Kept n s) : Memory.wf s.mem = true := h.1.1
theorem Kept.indet_past (h : Kept n s) : ∀ r ∈ s.indet, r.at_ ≤ s.wno := h.1.2.1.1
theorem Kept.insts_past (h : Kept n s) : ∀ x ∈ s.insts, x.Past s.wno := h.1.2.1.2
theorem Kept.named (h : Kept n s) : s.Named := h.1.2.2

/-- A change of memory alone that keeps its canonical form. -/
theorem Kept.withMem (h : Kept n s) (e : (t.indet, t.insts, t.wno, t.rest) = (s.indet, s.insts, s.wno, s.rest))
    (hm : Memory.wf t.mem = true) : Kept n t := by
  simp only [Prod.mk.injEq] at e
  obtain ⟨hi, hc, hw, hr⟩ := e
  exact Kept.of_parts hm (by rw [hi, hw]; exact h.indet_past) (by rw [hc, hw]; exact h.insts_past)
    (by rw [State.Named, hr]; exact h.named) (by rw [hw]; exact h.le_wno)

/-- A change of the marks alone, none of which is of the future. -/
theorem Kept.withIndet (h : Kept n s) (e : (t.mem, t.insts, t.wno, t.rest) = (s.mem, s.insts, s.wno, s.rest))
    (hi : ∀ r ∈ t.indet, r.at_ ≤ s.wno) : Kept n t := by
  simp only [Prod.mk.injEq] at e
  obtain ⟨hm, hc, hw, hr⟩ := e
  exact Kept.of_parts (by rw [hm]; exact h.mem_wf) (by rwa [hw]) (by rw [hc, hw]; exact h.insts_past)
    (by rw [State.Named, hr]; exact h.named) (by rw [hw]; exact h.le_wno)

/-- A change of the instances alone, whose marks are none of the future. -/
theorem Kept.withInsts (h : Kept n s) (e : (t.mem, t.indet, t.wno, t.rest) = (s.mem, s.indet, s.wno, s.rest))
    (hc : ∀ x ∈ t.insts, x.Past s.wno) : Kept n t := by
  simp only [Prod.mk.injEq] at e
  obtain ⟨hm, hi, hw, hr⟩ := e
  exact Kept.of_parts (by rw [hm]; exact h.mem_wf) (by rw [hi, hw]; exact h.indet_past) (by rwa [hw])
    (by rw [State.Named, hr]; exact h.named) (by rw [hw]; exact h.le_wno)

/-- A change of the listing of harts alone. -/
theorem Kept.withRest (h : Kept n s) (e : (t.mem, t.indet, t.insts, t.wno) = (s.mem, s.indet, s.insts, s.wno)) (hr : t.Named) :
    Kept n t := by
  simp only [Prod.mk.injEq] at e
  obtain ⟨hm, hi, hc, hw⟩ := e
  exact Kept.of_parts (by rw [hm]; exact h.mem_wf) (by rw [hi, hw]; exact h.indet_past) (by rw [hc, hw]; exact h.insts_past) hr
    (by rw [hw]; exact h.le_wno)

theorem CollInst.Past.mono {x : CollInst} (h : x.Past m) (hn : m ≤ n) : x.Past n := fun c hc => (h c hc).trans hn

/-! ## Harts (R22) -/

theorem Tab.mem_erase {α : Type} {k : Nat} {l : Tab α} {e : Nat × α} (he : e ∈ l.erase k) : e ∈ l := by
  induction l with
  | nil => exact he
  | cons a l ih =>
    obtain ⟨j, v⟩ := a
    unfold Tab.erase at he
    split at he
    · exact List.mem_cons_of_mem _ (ih he)
    · rcases List.mem_cons.1 he with rfl | he
      · exact List.mem_cons_self
      · exact List.mem_cons_of_mem _ (ih he)

theorem Tab.mem_insert {α : Type} {k : Nat} {v : α} {l : Tab α} {e : Nat × α} (he : e ∈ l.insert k v) : e = (k, v) ∨ e ∈ l := by
  induction l with
  | nil => exact .inl (List.mem_singleton.1 he)
  | cons a l ih =>
    obtain ⟨j, w⟩ := a
    unfold Tab.insert at he
    split at he
    · exact List.mem_cons.1 he
    · rcases List.mem_cons.1 he with rfl | he
      · exact .inr List.mem_cons_self
      · exact (ih he).imp id (List.mem_cons_of_mem _)

theorem Tab.mem_set {α : Type} [DecidableEq α] {d : Nat → α} {k : Nat} {v : α} {l : Tab α} {e : Nat × α} (he : e ∈ Tab.set d l k v) :
    e = (k, v) ∨ e ∈ l := by
  unfold Tab.set at he
  split at he
  · exact .inr (Tab.mem_erase he)
  · exact (Tab.mem_insert he).imp id Tab.mem_erase

/-- A hart that is listed under its own number keeps the listing right. -/
theorem named_set {l : Tab Hart} (h : ∀ e ∈ l, e.2.hid.toNat = e.1) (x : Hart) :
    ∀ e ∈ Tab.set restHart l x.hid.toNat x, e.2.hid.toNat = e.1 := by
  intro e he
  rcases Tab.mem_set he with rfl | he
  · rfl
  · exact h e he

theorem Kept.setHart (h : Kept n s) {x : Hart} : Kept n (s.setHart x) := by
  unfold State.setHart
  split
  · exact h.frame rfl
  · exact h.withRest rfl (named_set h.named x)
theorem Kept.updHart (h : Kept n s) {k : BitVec 20} {f : Hart → Hart} : Kept n (s.updHart k f) := h.setHart
theorem Kept.focus (h : Kept n s) {k : BitVec 20} : Kept n (s.focus k) := by
  unfold State.focus
  split
  · exact h
  · exact h.withRest rfl (named_set (fun e he => h.named e (Tab.mem_erase he)) s.hart)
theorem Kept.upd (h : Kept n s) {f : Hart → Hart} : Kept n (s.upd f) := h.frame rfl
theorem Kept.setX (h : Kept n s) {i : XReg} {v : Word} : Kept n (s.setX i v) := h.frame rfl
theorem Kept.setP (h : Kept n s) {i : PReg} {v : BitVec 32768} : Kept n (s.setP i v) := h.frame rfl
theorem Kept.raise (h : Kept n s) {f : Flags} : Kept n (s.raise f) := h.frame rfl
theorem Kept.advanceSeed (h : Kept n s) {b : Bool} : Kept n (s.advanceSeed b) := .ite (h.frame rfl) h
theorem Kept.fresh (h : Kept n s) : Kept n s.fresh.2 := h.frame rfl

/-! ## Dies, queues, groups, functions -/

theorem Kept.updDie (h : Kept n s) {d : Nat} {f : Die → Die} : Kept n (s.updDie d f) := by
  unfold State.updDie
  split
  · exact h.frame rfl
  · exact h
theorem Kept.updFrame (h : Kept n s) {d k : Nat} {f : Frame → Frame} : Kept n (s.updFrame d k f) := h.updDie
theorem Kept.updQueue (h : Kept n s) {q : Nat} {f : Queue → Queue} : Kept n (s.updQueue q f) := by
  unfold State.updQueue
  split
  · exact h.frame rfl
  · exact h
theorem Kept.updGroup (h : Kept n s) {g : Nat} {f : Group → Group} : Kept n (s.updGroup g f) := by
  unfold State.updGroup
  split
  · exact h.frame rfl
  · exact h
theorem Kept.updCore (h : Kept n s) {k : Nat} {f : Core → Core} : Kept n (s.updCore k f) := h.frame rfl
theorem Kept.updCluster (h : Kept n s) {k : Nat} {f : Cluster → Cluster} : Kept n (s.updCluster k f) := h.frame rfl
theorem Kept.updLaunch (h : Kept n s) {l : LaunchId} {f : Launch → Launch} : Kept n (s.updLaunch l f) := h.frame rfl
theorem Kept.updGangs (h : Kept n s) {c : Gang → Bool} {f : Gang → Gang} : Kept n (s.updGangs c f) := h.frame rfl
theorem Kept.updFunc (h : Kept n s) {k : Nat} {f : Func → Func} : Kept n (s.updFunc k f) := by
  unfold State.updFunc
  split
  · exact h.frame rfl
  · exact h

/-! ## Bytes and their marks (R4) -/

theorem Kept.putByte (h : Kept n s) {a : Nat} {v : Byte} : Kept n (s.putByte a v) :=
  Kept.of_parts (putByte_wf a v h.mem_wf) (fun r hr => Nat.le_succ_of_le (h.indet_past r hr))
    (fun x hx => (h.insts_past x hx).mono (Nat.le_succ _)) h.named (Nat.le_succ_of_le h.le_wno)
theorem Kept.putBytes (h : Kept n s) {a k v : Nat} : Kept n (s.putBytes a k v) := by
  induction k generalizing s a v with
  | zero => exact h
  | succ k ih => exact ih h.putByte

theorem cutIndet_past {lo hi b : Nat} {l : List Indet} (h : ∀ r ∈ l, r.at_ ≤ b) : ∀ r ∈ cutIndet lo hi l, r.at_ ≤ b := by
  induction l with
  | nil => exact h
  | cons a l ih =>
    have ha : a.at_ ≤ b := h a List.mem_cons_self
    intro r hr
    rcases List.mem_append.1 hr with hr | hr
    · rcases List.mem_append.1 hr with hr | hr <;> split at hr <;> simp_all
    · exact ih (fun r hr => h r (List.mem_cons_of_mem _ hr)) r hr

theorem Kept.cutIndet (h : Kept n s) {lo hi : Nat} : Kept n { s with indet := cutIndet lo hi s.indet } :=
  h.withIndet rfl (cutIndet_past h.indet_past)
theorem Kept.zeroRange (h : Kept n s) {lo hi : Nat} : Kept n (s.zeroRange lo hi) :=
  Kept.withMem (s := { s with indet := _ }) (h.cutIndet (lo := lo) (hi := hi)) rfl (zeroRange_wf lo hi h.mem_wf)

/-- A mark of the present moment, or of an earlier one. -/
theorem Kept.mark (h : Kept n s) {r : Indet} (hr : r.at_ ≤ s.wno) : Kept n { s with indet := r :: s.indet } :=
  h.withIndet rfl fun q hq => by
    rcases List.mem_cons.1 hq with rfl | hq
    · exact hr
    · exact h.indet_past q hq
theorem Kept.markIndet (h : Kept n s) {lo hi : Nat} : Kept n (s.markIndet lo hi) := .ite (h.mark le_rfl) h
theorem Kept.markNear (h : Kept n s) {lo hi : Nat} : Kept n (s.markNear lo hi) := .ite (h.mark le_rfl) h

theorem Kept.setUnits (h : Kept n s) {u k : Nat} {b : Bool} : Kept n (s.setUnits u b k) := by
  induction k generalizing s u with
  | zero => exact h
  | succ k ih => exact ih (h.frame (by rfl))
theorem Kept.clearWhole (h : Kept n s) {a k : Nat} : Kept n (s.clearWhole a k) := .ite h.setUnits h.setUnits
theorem Kept.poisonAt (h : Kept n s) {a k : Nat} : Kept n (s.poisonAt a k) := .ite h h.setUnits
theorem Kept.store (h : Kept n s) {a k v : Nat} : Kept n (s.store a k v) := h.putBytes.clearWhole

/-! ## Instances (R396, R401) -/

theorem Kept.putInst (h : Kept n s) {x : CollInst} (hx : x.Past n) : Kept n (s.putInst x) :=
  h.withInsts rfl fun y hy => by
    obtain ⟨z, hz, rfl⟩ := List.mem_map.1 hy
    split
    · exact hx.mono h.le_wno
    · exact h.insts_past z hz
theorem Kept.dropInst (h : Kept n s) {x : CollInst} : Kept n (s.dropInst x) :=
  h.withInsts rfl fun y hy => h.insts_past y (List.mem_filter.1 hy).1
theorem Kept.ownView (h : Kept n s) {x : CollInst} : Kept n (s.ownView x) := h.dropInst

/-- The instances of an earlier state, put back behind what one of them has read or written in its own view. -/
theorem Kept.backInsts (h : Kept n s) (ht : Kept s.wno t) : Kept n { t with insts := s.insts } :=
  Kept.mono (ht.withInsts rfl fun x hx => (h.insts_past x hx).mono ht.le_wno) h.le_wno

theorem Kept.updStat (h : Kept n s) {l : LaunchId} {g r : Nat} {f : CollStat → CollStat} : Kept n (s.updStat l g r f) := h.frame rfl
theorem Kept.updStats (h : Kept n s) {x : CollInst} {f : CollCall → CollStat → CollStat} : Kept n (s.updStats x f) :=
  h.foldl fun _ _ h => h.updStat
theorem Kept.updRank (h : Kept n s) {l : LaunchId} {k : Nat} {f : Hart → Hart} : Kept n (s.updRank l k f) := .ite h.setHart (h.frame rfl)
theorem Kept.blurDst (h : Kept n s) {x : CollInst} (hx : x.Past n) : Kept n (s.blurDst x) :=
  h.withIndet rfl fun r hr => by
    rcases List.mem_append.1 hr with hr | hr
    · obtain ⟨c, hc, hr⟩ := List.mem_flatMap.1 hr
      obtain ⟨p, -, rfl⟩ := List.mem_map.1 hr
      exact (hx c hc).trans h.le_wno
    · exact h.indet_past r hr
theorem Kept.endInst (h : Kept n s) {x : CollInst} {r : Nat} (hx : x.Past n) : Kept n (s.endInst x r) :=
  have h := (h.dropInst.blurDst hx).updStats.foldl fun _ _ h => h.updRank
  .ite h (h.frame rfl)
theorem Kept.endInsts (h : Kept n s) {f : CollInst → Bool} {r : Nat} : Kept n (s.endInsts f r) :=
  (h.now.foldl_mem fun _ x hx h => h.endInst (‹Kept n s›.insts_past x (List.mem_filter.1 hx).1)).mono h.le_wno
theorem Kept.abortColl (h : Kept n s) {l : LaunchId} : Kept n (s.abortColl l) := h.endInsts
theorem Kept.dropLinks (h : Kept n s) : Kept n s.dropLinks :=
  h.withInsts rfl fun _ hx => nomatch hx

/-! ## Notifications (R414, R417) -/

theorem Kept.noteFunc (h : Kept n s) {f : Nat} : Kept n (s.noteFunc f) := .ite (h.updFunc.frame rfl) h
theorem Kept.notifyQueue (h : Kept n s) {q : Nat} : Kept n (s.notifyQueue q) := h.foldl fun _ _ h => h.noteFunc
theorem Kept.msiAll (h : Kept n s) {c : Func → Bool} : Kept n (s.msiAll c) := h.foldl fun _ _ h => h.frame rfl

end

section
variable {n m : Nat} {s s0 t : State}

/-! ## The scheduler (R105 to R116, R126) -/

theorem Kept.set_launches (h : Kept n s) {l : List Launch} : Kept n { s with launches := l } := h.frame rfl
theorem Kept.set_launches_resvs (h : Kept n s) {l : List Launch} {r : List Reserve} : Kept n { s with launches := l, resvs := r } := h.frame rfl
theorem Kept.set_gangs (h : Kept n s) {g : List Gang} : Kept n { s with gangs := g } := h.frame rfl
theorem Kept.set_parks (h : Kept n s) {k : Nat} : Kept n { s with parks := k } := h.frame rfl
theorem Kept.set_poison_errs (h : Kept n s) {p : Tab Bool} {e : List StoredErr} : Kept n { s with poison := p, errs := e } := h.frame rfl
theorem Kept.set_hart (h : Kept n s) {x : Hart} : Kept n { s with hart := x } := h.frame rfl
theorem Kept.set_pilot (h : Kept n s) {p : Pilot} : Kept n { s with pilot := p } := h.frame rfl

theorem Kept.set_ring (h : Kept n s) {r : Vector (Vector Word 16) 64} {k : Word} : Kept n { s with ring := r, trqt := k } := h.frame rfl
theorem Kept.dropColl (h : Kept n s) {l : LaunchId} : Kept n (s.dropColl l) := h.frame rfl
theorem Kept.dropPromises (h : Kept n s) : Kept n s.dropPromises := h.frame rfl
theorem Kept.startPlacing (h : Kept n s) : Kept n s.startPlacing := h.frame rfl
theorem Kept.freeChans (h : Kept n s) {k : BitVec 20} : Kept n (s.freeChans k) := h.frame rfl
theorem Kept.passToGangs (h : Kept n s) {gs : List Gang} {k : Nat} : Kept n (passToGangs s gs k).1 := by
  induction gs generalizing s k with
  | nil => exact h
  | cons g gs ih => exact ih (h.frame (by rfl))
theorem Kept.passRows (h : Kept n s) {cl : Nat} : Kept n (State.passRows s0 cl s) := h.passToGangs.updCluster
theorem Kept.updBar (h : Kept n s) {cl i : Nat} {f : Bar → Bar} : Kept n (s.updBar cl i f) := h.frame rfl
theorem Kept.launchGone (h : Kept n s) {l : LaunchId} : Kept n (s.launchGone l) := h.foldl fun _ _ h => h.updDie
theorem Kept.discardWork (h : Kept n s) {k : BitVec 20} : Kept n (s.discardWork k) := Kept.updHart (h.frame (by rfl))
theorem Kept.recordFail (h : Kept n s) {l : LaunchId} {c : BitVec 8} : Kept n (s.recordFail l c) := h.updQueue
theorem Kept.completeAll (h : Kept n s) {ls : List Launch} : Kept n (s.completeAll ls) := by
  induction ls generalizing s with
  | nil => exact h
  | cons l ls ih => exact ih (.ite h.updLaunch.recordFail h.updLaunch)
theorem Kept.retireQueue (h : Kept n s) {q k : Nat} : Kept n (State.retireQueue q k s) := by
  induction k generalizing s with
  | zero => exact h
  | succ k ih =>
    unfold State.retireQueue
    split
    · exact .ite (ih h.set_launches_resvs.updQueue.launchGone.dropColl.notifyQueue) h
    · exact h
theorem Kept.leavePlace (h : Kept n s) {g : Gang} : Kept n (s.leavePlace g) := by
  unfold State.leavePlace
  split
  · exact .ite (h.frame rfl) h
  · exact h
theorem Kept.settle (h : Kept n s) : Kept n s.settle :=
  (h.completeAll.dropPromises.foldl fun _ _ h => h.retireQueue).startPlacing
theorem Kept.switchCls (h : Kept n s) {c : Nat} {k : Cls} : Kept n (s.switchCls c k) :=
  .ite h h.markIndet.set_poison_errs.markIndet.set_poison_errs.updCore
theorem Kept.switchIdle (h : Kept n s) {cl : Nat} : Kept n (s.switchIdle cl) := by
  unfold State.switchIdle
  split
  · exact h
  · exact h.foldl fun _ _ h => .ite h h.switchCls
theorem Kept.gangEmpty (h : Kept n s) {g : Gang} : Kept n (s.gangEmpty g) :=
  .ite h.set_gangs.leavePlace.updBar.switchIdle h.set_parks.updGangs.updBar
theorem Kept.leaveGang (h : Kept n s) {k : BitVec 20} {c : Option Hart} : Kept n (s.leaveGang k c) := by
  unfold State.leaveGang
  split
  · exact h
  · exact .ite h.updGangs.gangEmpty h.updGangs
theorem Kept.endHart (h : Kept n s) {k : BitVec 20} : Kept n (s.endHart k) := by
  unfold State.endHart
  extract_lets x cl g s0 s1 s2 s3 s4
  have h2 : Kept n s2 := by
    unfold s2
    cases g with
    | some g => exact h.updHart.updBar
    | none => exact h.updHart
  exact (Kept.ite h2.updCluster.passRows h2.updCluster).leaveGang.settle
theorem Kept.abortLaunch (h : Kept n s) {l : LaunchId} : Kept n (s.abortLaunch l) := by
  unfold State.abortLaunch
  split
  · exact h
  · split
    case h_1 => exact h.updLaunch.recordFail.settle
    case h_4 => exact h
    all_goals
      exact Kept.settle (Kept.abortColl (Kept.foldl (Kept.set_gangs (Kept.foldl h.updLaunch.launchGone
        fun _ _ h => h.discardWork.updHart)) fun _ _ h => h.leavePlace.passRows.switchIdle))

/-! ## Traps (R356 to R364) -/

theorem Kept.postReport (h : Kept n s) {k : BitVec 20} : Kept n (s.postReport k) := by
  unfold State.postReport
  dsimp only
  split
  · exact h
  · exact .ite h h.updHart.set_ring
theorem Kept.haltSystem (h : Kept n s) : Kept n s.haltSystem := h.updHart.foldl fun _ _ h => h.updHart.updHart

/-- Harts that a machine fault has stopped are listed under their numbers still. -/
theorem stopped_named (h : s.Named) :
    ∀ e ∈ (s.rest.map (fun e => (e.1, e.2.stopped))).filter (fun e => decide (e.2 ≠ restHart e.1)), e.2.hid.toNat = e.1 := by
  intro e he
  obtain ⟨x, hx, rfl⟩ := List.mem_map.1 (List.mem_filter.1 he).1
  exact h x hx
theorem Kept.machineFault (h : Kept n s) : Kept n s.machineFault :=
  have h := h.msiAll
  Kept.foldl (Kept.dropLinks (Kept.haltSystem (h.withRest (by rfl) (stopped_named h.named)))) fun _ _ h => h.markIndet
theorem Kept.startPilot (h : Kept n s) : Kept n s.startPilot := Kept.updHart (h.frame (by rfl))
theorem Kept.otherBank (h : Kept n s) : Kept n s.otherBank := Kept.startPilot (h.frame (by rfl))
theorem Kept.doubleTrap (h : Kept n s) {k : BitVec 20} : Kept n (s.doubleTrap k) := by
  unfold State.doubleTrap
  refine .ite ?_ (.ite (.ite h.otherBank h.machineFault) h.updHart.updDie)
  split
  · exact .ite h.abortLaunch.discardWork.endHart h.abortLaunch.discardWork.updHart
  · exact .ite h.discardWork.endHart h.discardWork.updHart
theorem Kept.takeExternal (h : Kept n s) {r : Trap} : Kept n (s.takeExternal r) := (Kept.ite h.discardWork h).upd
theorem Kept.takeSync (h : Kept n s) {r : Trap} : Kept n (s.takeSync r) := by
  unfold State.takeSync
  dsimp only
  split
  · exact Kept.takeExternal (h.frame (by rfl))
  · split
    · exact .ite (Kept.postReport (h.frame (by rfl))) (h.frame rfl)
    · exact .ite (h.frame rfl) (Kept.doubleTrap (h.frame (by rfl)))
theorem Kept.takeTrap (h : Kept n s) {r : Trap} : Kept n (s.takeTrap r) := h.takeSync

/-! ## How an instruction ends, and its issue (R39 to R42, R61) -/

theorem KeptOut.finish {e : Eff} (h : KeptEff n e) : KeptOut n (finish e) := by
  cases e with
  | done s | goto _ s | wait s => exact Kept.frame (s := s) h rfl
  | trap t s => exact Kept.takeTrap h
  | whole s => exact h
theorem Kept.wordTrap (h : Kept n s) {c : Cause} {i : Instr} : KeptEff n (wordTrap c i s) := h
theorem Kept.trapAt (h : Kept n s) {c : Cause} {v : Word} : KeptEff n (trapAt c v s) := h

theorem Kept.checkBudget (h : Kept n s) {l : LaunchId} : Kept n (s.checkBudget l) := by
  unfold State.checkBudget
  split
  · exact h
  · exact .ite (Kept.upd (Kept.foldl (h.frame (by rfl)) fun _ _ h => h.updHart)) h
theorem Kept.charge (h : Kept n s) {l : Option LaunchId} {d : Bool} : Kept n (s.charge l d) := by
  cases l with
  | none => exact h
  | some l => exact Kept.checkBudget (h.frame (by rfl))
theorem Kept.logErr (h : Kept n s) {d : Nat} {c : BitVec 8} {k : Cls} {a : Nat} : Kept n (s.logErr d c k a) := h.updDie
theorem Kept.registerErr (h : Kept n s) {d : Bool} : Kept n (s.registerErr d) := h.logErr.charge
theorem Kept.touchAt (h : Kept n s) {k : Nat} : Kept n (s.touchAt k).1 := by
  unfold State.touchAt
  split
  · exact Kept.registerErr (h.frame (by rfl))
  · exact h
theorem Kept.touchX (h : Kept n s) {i : XReg} : Kept n (s.touchX i).1 := by
  unfold State.touchX
  split
  · exact h
  · exact h.touchAt
theorem Kept.touchP (h : Kept n s) {i : PReg} : Kept n (s.touchP i).1 := by
  unfold State.touchP
  dsimp only
  split
  · exact h
  · split
    · exact Kept.registerErr (h.frame (by rfl))
    · exact h
theorem Kept.touchXs (h : Kept n s) {is : List XReg} : Kept n (s.touchXs is).1 := by
  induction is generalizing s with
  | nil => exact h
  | cons i is ih => exact ih h.touchX
theorem Kept.touchPs (h : Kept n s) {is : List PReg} : Kept n (s.touchPs is).1 := by
  induction is generalizing s with
  | nil => exact h
  | cons i is ih => exact ih h.touchP

theorem Kept.readingOr (h : Kept n s) {bad body : State → Eff} {xs : List XReg} {ps : List PReg}
    (hbad : ∀ {t}, Kept n t → KeptEff n (bad t)) (hbody : ∀ {t}, Kept n t → KeptEff n (body t)) :
    KeptEff n (readingOr bad xs ps body s) :=
  have h := h.touchXs.touchPs
  .ite (hbad h) (hbody h)
theorem Kept.reading (h : Kept n s) {i : Instr} {body : State → Eff} {xs : List XReg} {ps : List PReg}
    (hbody : ∀ {t}, Kept n t → KeptEff n (body t)) : KeptEff n (reading i xs ps body s) :=
  h.readingOr (fun h => h.wordTrap) hbody
theorem Kept.decodeChecks (h : Kept n s) {i : Instr} {b : Bool} {p : Priv} {rest : State → Eff} (hr : KeptEff n (rest s)) :
    KeptEff n (decodeChecks i b p rest s) := .ite h.wordTrap (.ite h.wordTrap hr)

/-- An instruction whose guard is the whole instruction's keeps what its entry keeps. -/
theorem Kept.issue (h : Kept n s) {i : Instr} {b : Bool} {p : Priv} {g : Hdr} {xs : List XReg} {ps : List PReg}
    {body : State → Eff} (hb : ∀ {t}, Kept n t → KeptEff n (body t)) : KeptOut n (issue i b p g xs ps body s) :=
  .finish (h.decodeChecks (.ite h (h.reading fun h => .ite (h.reading hb) h)))

/-! ## The two-source instructions -/

theorem Kept.regReg (h : Kept n s) {i : Instr} {g : Hdr} {xd xa xb : XReg} {f : Word → Word → Word} :
    KeptOut n (regReg i g xd xa xb f s) := h.issue fun h => h.setX
theorem Kept.regImm (h : Kept n s) {i : Instr} {g : Hdr} {xd xa : XReg} {imm : BitVec 27} {f : Word → Word → Word} :
    KeptOut n (regImm i g xd xa imm f s) := h.issue fun h => h.setX
theorem Kept.regOne (h : Kept n s) {i : Instr} {g : Hdr} {xd xa : XReg} {f : Word → Word} :
    KeptOut n (regOne i g xd xa f s) := h.issue fun h => h.setX
theorem Kept.fpEffect (h : Kept n s) {f : Flags} {r : RMode} {b : Bool} : Kept n (s.fpEffect f r b) := Kept.advanceSeed h.raise
end

end Sys2Proof.Machine
end

section
/-! SUPPORT. The same for accesses: the caches and the stored errors (`Served`, which also says what a request that no launch is charged for
leaves as it was), the registers of the system control space, translation, loads and stores, atomics. -/

namespace Sys2Proof.Machine
open Sys2Proof

section
variable {n m : Nat} {s s0 t : State} {l l' : Option LaunchId}

/-! ## The caches and the stored errors of memory (R246 to R249, R278, R292) -/

/-- Everything that the caches and the stored errors do not hold, as far as a reader of memory, the hart in focus and the outside see it. -/
structure State.Unseen (s t : State) : Prop where
  hart : t.hart = s.hart
  mem : t.mem = s.mem
  written : t.written = s.written
  zeroed : t.zeroed = s.zeroed
  wno : t.wno = s.wno
  indet : t.indet = s.indet
  insts : t.insts = s.insts
  sent : t.sent = s.sent

theorem State.Unseen.refl (s : State) : s.Unseen s := ⟨rfl, rfl, rfl, rfl, rfl, rfl, rfl, rfl⟩
theorem State.Unseen.trans {u : State} (h : s.Unseen t) (k : t.Unseen u) : s.Unseen u :=
  ⟨k.1.trans h.1, k.2.trans h.2, k.3.trans h.3, k.4.trans h.4, k.5.trans h.5, k.6.trans h.6, k.7.trans h.7, k.8.trans h.8⟩

/-- What the caches make of a state while they serve a request of launch `l`: the invariant is kept; and where no bit error lies
stored that its code misses, a request that no launch is charged for changes nothing that is seen. -/
structure Served (l : Option LaunchId) (s t : State) : Prop where
  kept : ∀ {n}, Kept n s → Kept n t
  quiet : l = none → s.NoFlips → t.NoFlips ∧ s.Unseen t

theorem Served.refl (l : Option LaunchId) (s : State) : Served l s s := ⟨id, fun _ h => ⟨h, .refl s⟩⟩

theorem Served.trans {u : State} (h : Served l s t) (k : Served l t u) : Served l s u :=
  ⟨fun hs => k.kept (h.kept hs), fun hl hs => ⟨(k.quiet hl (h.quiet hl hs).1).1, (h.quiet hl hs).2.trans (k.quiet hl (h.quiet hl hs).1).2⟩⟩

theorem Served.ite {c : Prop} [Decidable c] {a b : State} (ha : Served l s a) (hb : Served l s b) :
    Served l s (if c then a else b) := by
  split
  · exact ha
  · exact hb

theorem Served.foldl_mem {α : Type} {f : State → α → State} {as : List α} (h : Served l s0 s)
    (hf : ∀ t, ∀ a ∈ as, Served l s0 t → Served l s0 (f t a)) : Served l s0 (as.foldl f s) :=
  List.foldlRecOn as f h fun t ht a ha => hf t a ha ht
theorem Served.foldl {α : Type} {f : State → α → State} {as : List α} (h : Served l s0 s)
    (hf : ∀ t a, Served l s0 t → Served l s0 (f t a)) : Served l s0 (as.foldl f s) := h.foldl_mem fun t a _ => hf t a

/-- An update of the stored errors and of what no reader sees; none of the errors is one that its code misses, where none was. -/
theorem Served.set_errs (h : Served l s0 s)
    (e : (t.hart, t.mem, t.written, t.zeroed, t.wno, t.indet, t.insts, t.sent, t.rest)
      = (s.hart, s.mem, s.written, s.zeroed, s.wno, s.indet, s.insts, s.sent, s.rest))
    (he : s.NoFlips → t.NoFlips) : Served l s0 t := by
  simp only [Prod.mk.injEq] at e
  obtain ⟨hh, hm, hw, hz, hn, hi, hc, hs, hr⟩ := e
  exact h.trans ⟨fun k => k.frame (by simp only [hm, hi, hc, hn, hr]), fun _ k => ⟨he k, ⟨hh, hm, hw, hz, hn, hi, hc, hs⟩⟩⟩

/-- An update of what no reader sees. -/
theorem Served.frame (h : Served l s0 s) (e : (t.hart, t.mem, t.written, t.zeroed, t.wno, t.indet, t.insts, t.sent, t.rest, t.errs)
    = (s.hart, s.mem, s.written, s.zeroed, s.wno, s.indet, s.insts, s.sent, s.rest, s.errs)) : Served l s0 t := by
  simp only [Prod.mk.injEq] at e
  obtain ⟨hh, hm, hw, hz, hn, hi, hc, hs, hr, he⟩ := e
  exact h.set_errs (by simp only [hh, hm, hw, hz, hn, hi, hc, hs, hr]) fun k => by rwa [State.NoFlips, he]

/-- An error that is stored is none that its code misses, where there was none. -/
theorem Served.seenErr (h : Served l s0 s) {e : StoredErr} (he : e ∈ s.errs) : l = none → s0.NoFlips → e.esc = false :=
  fun hl hs => (h.quiet hl hs).1 e he

theorem Served.updDie (h : Served l s0 s) {d : Nat} {f : Die → Die} : Served l s0 (s.updDie d f) := by
  unfold State.updDie
  split
  · exact h.frame rfl
  · exact h
theorem Served.logErr (h : Served l s0 s) {d : Nat} {c : BitVec 8} {k : Cls} {a : Nat} : Served l s0 (s.logErr d c k a) := h.updDie
theorem Served.setUnits (h : Served l s0 s) {u k : Nat} {b : Bool} : Served l s0 (s.setUnits u b k) := by
  induction k generalizing s u with
  | zero => exact h
  | succ k ih => exact ih (h.frame (by rfl))
theorem Served.set_gran (h : Served l s0 s) {g : Tab Bool} : Served l s0 { s with gran := g } := h.frame rfl
theorem Served.set_quay (h : Served l s0 s) {q : Tab Line} : Served l s0 { s with quay := q } := h.frame rfl
theorem Served.set_msc (h : Served l s0 s) {q : Tab Line} : Served l s0 { s with msc := q } := h.frame rfl
theorem Served.set_msc_pack (h : Served l s0 s) {q : Tab Line} {p : Tab (Nat × Nat)} : Served l s0 { s with msc := q, pack := p } := h.frame rfl

/-- What a launch is charged for is no part of a request that belongs to none. -/
theorem Served.charge (h : Served l s0 s) {d : Bool} (hl : l = none → l' = none) : Served l s0 (s.charge l' d) :=
  h.trans ⟨fun k => k.charge, fun hn hf => by rw [hl hn]; exact ⟨hf, .refl s⟩⟩
theorem Served.correctErr (h : Served l s0 s) {c : Cls} {pa : Nat} (hl : l = none → l' = none) : Served l s0 (s.correctErr l' c pa) :=
  h.logErr.charge hl
theorem Served.detectErr (h : Served l s0 s) {c : Cls} {pa k : Nat} (hl : l = none → l' = none) :
    Served l s0 (s.detectErr l' c pa k) := h.setUnits.logErr.charge hl
theorem Served.dropErrs (h : Served l s0 s) {c : StoredErr → Bool} : Served l s0 (s.dropErrs c) :=
  h.set_errs rfl fun k e he => k e (List.mem_filter.1 he).1

theorem Kept.set_mem (h : Kept n s) {c : List Host.Cell} (hc : Memory.wf c = true) : Kept n { s with mem := c } := h.withMem rfl hc
theorem Kept.flipBytes (h : Kept n s) {pa mask k : Nat} : Kept n (s.flipBytes pa mask k) := by
  induction k generalizing s pa mask with
  | zero => exact h
  | succ k ih => exact ih (.ite h (h.set_mem (Tab.set_wf _ _ h.mem_wf)))
/-- Bits flip in memory only where an error is one that its code misses. -/
theorem Served.flipBytes (h : Served l s0 s) {pa mask k : Nat} {e : StoredErr} (he : l = none → s0.NoFlips → e.esc = false)
    (hf : e.esc = true) : Served l s0 (s.flipBytes pa mask k) :=
  ⟨fun k => (h.kept k).flipBytes, fun hl hs => absurd (he hl hs) (by simp [hf])⟩

theorem Served.undoErrs (h : Served l s0 s) {c : StoredErr → Bool} : Served l s0 (s.undoErrs c) := by
  refine Served.dropErrs (h.foldl_mem fun t e he ht => ?_)
  obtain ⟨he, hc⟩ := List.mem_filter.1 he
  split
  · exact ht.flipBytes (h.seenErr he) (by simp_all)
  · exact ht
theorem Served.meetGran (h : Served l s0 s) {e : StoredErr} (hl : l = none → l' = none) (he : l = none → s0.NoFlips → e.esc = false) :
    Served l s0 (s.meetGran l' e) := by
  unfold State.meetGran
  dsimp only
  split
  · exact h.flipBytes he ‹_›
  · split
    · exact h
    · exact .ite (h.set_gran.detectErr hl) (h.correctErr hl)
    · exact h.set_gran.detectErr hl
theorem Served.loadGran (h : Served l s0 s) {line : Nat} : Served l s0 (s.loadGran line) := .ite h h.setUnits.setUnits
theorem Served.fetchLine (h : Served l s0 s) {line : Nat} (hl : l = none → l' = none) : Served l s0 (s.fetchLine l' line) :=
  Served.loadGran (h.dropErrs.foldl_mem fun _ _ he ht => ht.meetGran hl (h.seenErr (List.mem_filter.1 he).1))
theorem Served.refetch (h : Served l s0 s) {line : Nat} (hl : l = none → l' = none) : Served l s0 (s.refetch l' line) :=
  h.undoErrs.fetchLine hl
theorem Served.meetErr (h : Served l s0 s) {e : StoredErr} (hl : l = none → l' = none) (he : l = none → s0.NoFlips → e.esc = false) :
    Served l s0 (s.meetErr l' e) := by
  unfold State.meetErr
  dsimp only
  split
  · exact h.meetGran hl he
  · split
    · exact .ite h h.logErr
    · exact .ite (h.correctErr hl) (.ite (h.detectErr hl) ((h.correctErr hl).refetch hl))
    · exact .ite (h.detectErr hl) ((h.correctErr hl).refetch hl)
  · split
    · exact h
    · exact .ite (h.detectErr hl) (h.correctErr hl)
    · exact h.detectErr hl
theorem Served.findErrs (h : Served l s0 s) {c : StoredErr → Bool} (hl : l = none → l' = none) : Served l s0 (s.findErrs l' c) := by
  refine h.foldl fun t _ ht => ?_
  split
  · exact ht.dropErrs.meetErr hl (ht.seenErr (List.mem_of_find?_eq_some ‹_›))
  · exact ht
theorem Served.backGran (h : Served l s0 s) {g : Nat} : Served l s0 (s.backGran g) := .ite h.set_gran.setUnits h.set_gran
theorem Served.writeBack (h : Served l s0 s) {line : Nat} : Served l s0 (s.writeBack line) :=
  have h := (h.findErrs fun _ => rfl).dropErrs
  .ite h h.backGran.backGran
theorem Served.dropMsc (h : Served l s0 s) {line : Nat} : Served l s0 (s.dropMsc line) := .ite h.set_msc_pack h.set_msc_pack.undoErrs
theorem Served.backOld (h : Served l s0 s) {line : Nat} {v : Line} : Served l s0 (s.backOld line v) := .ite h.dropErrs h.dropErrs.set_gran
theorem Served.evictMsc (h : Served l s0 s) {e : Nat × Line} : Served l s0 (s.evictMsc e) :=
  (Served.ite h (.ite h.backOld h.writeBack)).dropMsc
theorem Served.packLine (h : Served l s0 s) {line : Nat} {v : Line} {k : Nat} : Served l s0 (State.packLine line v k s) := by
  induction k generalizing s with
  | zero =>
    unfold State.packLine
    dsimp only
    split
    · exact h.set_msc_pack
    · exact (Served.ite h.writeBack h).dropMsc
  | succ k ih =>
    unfold State.packLine
    dsimp only
    split
    · exact h.set_msc_pack
    · split
      · exact ih h.evictMsc
      · exact h
theorem Served.toMsc (h : Served l s0 s) {line : Nat} {v : Line} : Served l s0 (s.toMsc line v) := by
  unfold State.toMsc
  split
  · split
    · exact h.evictMsc.packLine
    · exact h
  · exact h.packLine
theorem Served.fitLine (h : Served l s0 s) {line : Nat} : Served l s0 (s.fitLine line) := by
  unfold State.fitLine
  split
  · exact .ite h.packLine h
  · exact h
theorem Served.evictQuay (h : Served l s0 s) {e : Nat × Line} : Served l s0 (s.evictQuay e) :=
  have h := (Served.ite (h.findErrs fun _ => rfl) h.undoErrs).set_quay
  .ite h.toMsc h
theorem Served.trimQuay (h : Served l s0 s) {line w k : Nat} : Served l s0 (State.trimQuay line w k s) := by
  induction k generalizing s with
  | zero => exact h
  | succ k ih =>
    unfold State.trimQuay
    dsimp only
    split
    · split
      · exact ih h.evictQuay
      · exact h
    · exact h
theorem Served.bringLine (h : Served l s0 s) {line : Nat} {p : BitVec 2} (hl : l = none → l' = none) :
    Served l s0 (s.bringLine l' line p) := by
  unfold State.bringLine
  split
  · exact h.set_msc
  · exact (h.fetchLine hl).toMsc
theorem Served.outdate (h : Served l s0 s) {line : Nat} : Served l s0 (s.outdate line) := h.frame rfl
theorem Served.touchLine (h : Served l s0 s) {line : Nat} {p : BitVec 2} {w : Bool} (hl : l = none → l' = none) :
    Served l s0 (s.touchLine l' line p w) := by
  have h := Served.ite (c := ((s.quay.find? (fun e => e.1 == line)).map (·.2)).isSome = true) h
    ((h.bringLine (line := line) (p := p) hl).trimQuay (line := line) (w := 15 - (s.die (line / 2 ^ 34)).wfrac) (k := 17))
  exact Served.frame (Served.ite h.outdate h) rfl
theorem Served.cleanLine (h : Served l s0 s) {line : Nat} : Served l s0 (s.cleanLine line) := by
  have h := Served.ite (c := s.lineDirty line = true) (h.writeBack (line := line)) h
  unfold State.cleanLine
  dsimp only
  split
  · exact h.set_quay
  · exact .ite h.set_quay.packLine (h.frame rfl)
theorem Served.dropLine (h : Served l s0 s) {line : Nat} : Served l s0 (s.dropLine line) := Served.undoErrs (h.frame (by rfl))

/-- Cutting a stored error down to what a write leaves of it changes neither where it lies nor whether its code misses it. -/
theorem StoredErr.cut_esc (pa k : Nat) (e : StoredErr) : (e.cut pa k).esc = e.esc := by
  unfold StoredErr.cut
  split <;> simp_all
theorem Served.cutErrs (h : Served l s0 s) {pa k : Nat} {c d : StoredErr → Bool} :
    Served l s0 { s with errs := ((s.errs.filter c).map (StoredErr.cut pa k)).filter d } :=
  h.set_errs rfl fun hs e he => by
    obtain ⟨e', he', rfl⟩ := List.mem_map.1 (List.mem_filter.1 he).1
    rw [StoredErr.cut_esc]
    exact hs e' (List.mem_filter.1 he').1
theorem Served.meetErrors (h : Served l s0 s) {pa k : Nat} {w : Bool} (hl : l = none → l' = none) :
    Served l s0 (s.meetErrors l' pa k w) := by
  unfold State.meetErrors
  dsimp only
  exact .ite h (.ite (Served.findErrs (.ite h.cutErrs h) hl)
    (Served.foldl (Served.findErrs (.ite h.cutErrs h) hl) fun _ _ h => h.fitLine))
theorem Served.atHome (h : Served l s0 s) {r : Req} {pa k : Nat} {w : Bool} (hl : l = none → r.launch = none) :
    Served l s0 (s.atHome r pa k w) :=
  (Served.ite (h.foldl fun _ _ h => h.touchLine hl) h).meetErrors hl

/-! ### What the rest of the model needs of it -/

theorem Kept.undoErrs (h : Kept n s) {c : StoredErr → Bool} : Kept n (s.undoErrs c) := (Served.refl none s).undoErrs.kept h
theorem Kept.loadGran (h : Kept n s) {line : Nat} : Kept n (s.loadGran line) := (Served.refl none s).loadGran.kept h
theorem Kept.detectErr (h : Kept n s) {c : Cls} {pa k : Nat} : Kept n (s.detectErr l c pa k) := ((Served.refl l s).detectErr id).kept h
theorem Kept.trimQuay (h : Kept n s) {line w k : Nat} : Kept n (State.trimQuay line w k s) := (Served.refl none s).trimQuay.kept h
theorem Kept.touchLine (h : Kept n s) {line : Nat} {p : BitVec 2} {w : Bool} : Kept n (s.touchLine l line p w) :=
  ((Served.refl l s).touchLine id).kept h
theorem Kept.cleanLine (h : Kept n s) {line : Nat} : Kept n (s.cleanLine line) := (Served.refl none s).cleanLine.kept h
theorem Kept.dropLine (h : Kept n s) {line : Nat} : Kept n (s.dropLine line) := (Served.refl none s).dropLine.kept h
theorem Kept.meetErrors (h : Kept n s) {pa k : Nat} {w : Bool} : Kept n (s.meetErrors l pa k w) :=
  ((Served.refl l s).meetErrors id).kept h
theorem Kept.atHome (h : Kept n s) {r : Req} {pa k : Nat} {w : Bool} : Kept n (s.atHome r pa k w) :=
  ((Served.refl r.launch s).atHome id).kept h

theorem Kept.lastUse (h : Kept n s) {line : Nat} : Kept n (s.lastUse line) := h.dropLine.markIndet.loadGran
theorem Kept.putCopy (h : Kept n s) {c : Copy} : Kept n (s.putCopy c) := h.frame rfl
theorem Kept.dropCopies (h : Kept n s) {f : Copy → Bool} : Kept n (s.dropCopies f) := h.frame rfl
theorem Kept.set_copies (h : Kept n s) {c : List Copy} : Kept n { s with copies := c } := h.frame rfl
theorem Kept.setWfrac (h : Kept n s) {d : Nat} {v : Word} : Kept n (s.setWfrac d v) :=
  Kept.set_copies (Kept.foldl h.updDie fun _ _ h => .ite h.trimQuay h)
end

section
variable {n m : Nat} {s s0 t : State} {l : Option LaunchId}

/-! ## Links and groups (R373 to R390) -/

theorem Kept.setWave (h : Kept n s) {d k : Nat} {w : Wave} : Kept n (s.setWave d k w) := h.updDie
theorem Kept.retrain (h : Kept n s) {d k : Nat} : Kept n (s.retrain d k) := .ite h.setWave h
theorem Kept.forceWave (h : Kept n s) {d k : Nat} : Kept n (s.forceWave d k) := .ite h.setWave h.retrain
theorem Kept.offWave (h : Kept n s) {d k : Nat} : Kept n (s.offWave d k) := h.setWave
theorem Kept.onWave (h : Kept n s) {d k : Nat} : Kept n (s.onWave d k) := h.setWave
theorem Kept.writeWlctl (h : Kept n s) {d k : Nat} {v : Word} : Kept n (s.writeWlctl d k v) :=
  have h := Kept.ite (h.setWave).offWave (h.setWave).onWave
  .ite h.forceWave h
theorem Kept.setPg (h : Kept n s) {g : Nat} {x : PortGroup} : Kept n (s.setPg g x) := by
  unfold State.setPg
  split
  · exact h.frame rfl
  · exact h
theorem Kept.dropFlight (h : Kept n s) {g : Nat} : Kept n (s.dropFlight g) := h.frame rfl
theorem Kept.writeGctl (h : Kept n s) {g : Nat} {v : Word} : Kept n (s.writeGctl g v) :=
  .ite (.ite h h.endInsts.updGroup.settle) h.updGroup
theorem Kept.writeGroup (h : Kept n s) {g r : Nat} {v : Word} : Kept n (s.writeGroup g r v) := by
  unfold State.writeGroup
  split
  · exact h.writeGctl
  all_goals exact .ite h h.updGroup
theorem Kept.wakeMgmt (h : Kept n s) : Kept n s.wakeMgmt := h.updHart
theorem Kept.set_smb (h : Kept n s) {b : Mailbox} : Kept n { s with smb := b } := h.frame rfl
theorem Kept.set_hmb (h : Kept n s) {b : Mailbox} : Kept n { s with hmb := b } := h.frame rfl
theorem Kept.sysWrite2 (h : Kept n s) {d b o : Nat} {v : Word} : Kept n (s.sysWrite2 d b o v) := by
  unfold State.sysWrite2
  split
  · exact .ite h.writeWlctl h
  · exact .ite (h.frame rfl) h
  · exact h.writeGroup
  · exact .ite h (.ite h.set_smb.wakeMgmt h.set_smb)
  · exact h

/-! ## Registers of the system control space (R242) -/

theorem Kept.clearHalted (h : Kept n s) {q : Nat} : Kept n (s.clearHalted q) := h.updQueue.set_launches.settle
theorem Kept.writeQctl (h : Kept n s) {q : Nat} {v : Word} : Kept n (s.writeQctl q v) := .ite h.updQueue.clearHalted h.updQueue
theorem Kept.writeMigctl (h : Kept n s) {d i : Nat} {v : Word} : Kept n (s.writeMigctl d i v) := by
  unfold State.writeMigctl
  split
  · exact .ite (.ite h.updDie h.updDie) (.ite h.updDie h)
  · exact h
theorem Kept.writeEfact (h : Kept n s) {k : BitVec 20} {b : Bool} {v : Word} : Kept n (s.writeEfact k b v) := by
  unfold State.writeEfact
  split
  case h_5 => exact h
  all_goals exact h.updHart
theorem Kept.writeTres (h : Kept n s) {k : BitVec 20} {v : Word} : Kept n (s.writeTres k v) := by
  unfold State.writeTres
  split
  · split
    · exact h.updHart
    · exact h.updHart
    · exact h.doubleTrap
    · exact h
  · exact h

theorem KeptOpt.ite {c : Prop} [Decidable c] {a b : Option State} (ha : KeptOpt n a) (hb : KeptOpt n b) :
    KeptOpt n (if c then a else b) := by
  split
  · exact ha
  · exact hb
theorem KeptOpt.dite {c : Prop} [Decidable c] {a : c → Option State} {b : ¬c → Option State} (ha : ∀ h, KeptOpt n (a h))
    (hb : ∀ h, KeptOpt n (b h)) : KeptOpt n (dite c a b) := by
  split
  · exact ha _
  · exact hb _
theorem Kept.opt (h : Kept n s) : KeptOpt n (some s) := .some h

theorem Kept.sysWrite (h : Kept n s) {d o : Nat} {v : Word} : KeptOpt n (s.sysWrite d o v) := by
  unfold State.sysWrite
  dsimp only
  split
  · exact .none
  split
  · refine .ite ?_ (.ite (.some (h.frame rfl)) (.some (h.frame rfl)))
    split
    · exact h.writeQctl.opt
    · exact h.abortLaunch.opt
    · exact h.opt
  · exact .ite h.updDie.opt (.ite h.setWfrac.opt h.opt)
  · split
    · exact h.writeEfact.opt
    · exact h.writeEfact.opt
    · exact h.opt
  · exact .dite (fun _ => .some (h.frame rfl)) fun _ => h.opt
  · refine .ite ?_ ?_
    · split
      · exact .none
      · split
        · exact h.updHart.opt
        · exact h.writeTres.opt
        · exact h.opt
    · split
      all_goals exact h.updDie.opt
  · refine .dite (fun _ => ?_) fun _ => h.opt
    split
    · exact .ite h.updDie.opt h.opt
    · exact .ite h.updDie.opt h.opt
    · exact h.writeMigctl.opt
  · exact .ite (.some (h.frame rfl)) h.opt
  · exact h.opt
  · exact h.sysWrite2.opt

/-! ## Accesses (R241 to R248, R273, R342 to R350) -/

theorem Kept.awayErrors (h : Kept n s) {p i : Nat} : Kept n (s.awayErrors l p i) :=
  .ite h (Kept.foldl (Kept.foldl h fun _ _ h => h.charge) fun _ _ h => h.charge)
theorem Kept.nextSeq (h : Kept n s) {d : Nat} : Kept n (s.nextSeq d).2 := h.frame rfl

theorem Kept.walkRead (h : Kept n s) {r : Req} {p k : Nat} : Kept n (s.walkRead r p k).2 := by
  unfold State.walkRead
  dsimp only
  split
  · split
    · exact h
    · split
      all_goals exact h.nextSeq.fresh.awayErrors
  · split
    · exact h
    · split
      · exact h
      · split
        all_goals exact h.atHome
theorem Kept.walk4 (h : Kept n s) {r : Req} {a : Nat} {va : Word} : Kept n (s.walk4 r a va).2 := by
  unfold State.walk4
  dsimp only
  split <;> rename_i hq <;> have h := h.walkRead.of_snd hq
  · exact h
  · exact .ite_snd h (.ite_snd h h)
theorem Kept.walkFrom (h : Kept n s) {r : Req} {va : Word} {k lv a : Nat} : Kept n (State.walkFrom r va k lv a s).2 := by
  induction k generalizing s lv a with
  | zero => exact h.walk4
  | succ k ih =>
    unfold State.walkFrom
    dsimp only
    split <;> rename_i hq <;> have h := h.walkRead.of_snd hq
    · exact h
    · exact .ite_snd h (.ite_snd h (.ite_snd (.ite_snd h h) (ih h)))
theorem Kept.walk (h : Kept n s) {r : Req} {va : Word} : Kept n (s.walk r va).2 := .ite_snd h h.walkFrom
theorem Kept.set_tlb (h : Kept n s) {l : List TlbEntry} : Kept n { s with tlb := l } := h.frame rfl
theorem Kept.tlbPut (h : Kept n s) {e : TlbEntry} : Kept n (s.tlbPut e) := .ite (h.frame rfl) (h.frame rfl)
theorem Kept.tlbInstall (h : Kept n s) {e : TlbEntry} {l : List (BitVec 36)} : Kept n (s.tlbInstall e l) :=
  (Kept.foldl h fun _ _ h => h.tlbPut).tlbPut
theorem Kept.slotOk (h : Kept n s) {e : TlbEntry} : Kept n (s.slotOk e).2 := by
  unfold State.slotOk
  split
  · exact h
  · exact .ite_snd h.fresh h
theorem Kept.translate (h : Kept n s) {r : Req} {k : Kind} {va : Word} : Kept n (s.translate r k va).2 := by
  unfold State.translate
  refine .ite_snd h (.ite_snd h ?_)
  dsimp only
  split
  · exact .ite_snd h h.slotOk
  · split <;> rename_i hq <;> have h := h.walk.of_snd hq
    · exact h
    · exact .ite_snd h (.ite_snd h.tlbInstall h.tlbInstall.slotOk)
theorem Kept.locate (h : Kept n s) {r : Req} {k : Kind} {va : Word} {w : Nat} : Kept n (s.locate r k va w).2 := by
  unfold State.locate
  split <;> rename_i hq <;> have h := h.translate.of_snd hq
  · exact h
  · refine .ite_snd h (.ite_snd (.ite_snd h (.ite_snd h ?_)) (.ite_snd h (.ite_snd h (.ite_snd h ?_))))
    · dsimp only
      split
      all_goals exact h.nextSeq.fresh
    · split
      all_goals exact h
theorem Kept.readAt (h : Kept n s) {r : Req} {p : Place} {k : Nat} : Kept n (s.readAt r p k).2 := by
  cases p with
  | away pod => exact h.fresh.awayErrors
  | here pa => exact .ite_snd h h.atHome
theorem Kept.noteHolder (h : Kept n s) {pa k : Nat} : Kept n (s.noteHolder pa k) := by
  unfold State.noteHolder
  dsimp only
  split
  · exact .ite h.updCore h
  · exact .ite h.updCore h
  · exact h
theorem Kept.writeAt (h : Kept n s) {r : Req} {p : Place} {k v : Nat} : Kept n (s.writeAt r p k v) := by
  cases p with
  | away pod => exact h.fresh.awayErrors
  | here pa => exact .ite (h.sysWrite.getD h) h.atHome.store.noteHolder
theorem Kept.load (h : Kept n s) {r : Req} {va : Word} {k : Nat} : Kept n (s.load r va k).2 := by
  unfold State.load
  split <;> rename_i hq <;> have h := h.locate.of_snd hq
  · exact h
  · exact h.readAt
theorem Kept.storeTo (h : Kept n s) {r : Req} {va : Word} {k v : Nat} : Kept n (s.storeTo r va k v).2 := by
  unfold State.storeTo
  split <;> rename_i hq <;> have h := h.locate.of_snd hq
  · exact h
  · exact h.writeAt
theorem Kept.faultTrap (h : Kept n s) {f : MemFault} : KeptEff n (faultTrap f s) := h

/-! ## Between instructions (R62, R346, R357, R136, R432) -/

theorem Kept.fetch (h : Kept n s) : Kept n s.fetch.2 := by
  unfold State.fetch
  split <;> rename_i hq <;> have h := h.locate.of_snd hq
  · exact h
  · exact .ite_snd h.readAt h.readAt
theorem Kept.beforeFetch (h : Kept n s) : KeptOpt n s.beforeFetch := by
  unfold State.beforeFetch
  refine .ite (fun t ht => ?_) .none
  obtain ⟨x, -, rfl⟩ := Option.map_eq_some_iff.1 ht
  exact h.set_hart.takeExternal
theorem Kept.afterExec (h : Kept n s) : Kept n s.afterExec := by
  unfold State.afterExec
  refine .ite ?_ h.upd
  split
  · exact h.upd.set_hart.takeExternal
  · exact h.upd
theorem Kept.takePending (h : Kept n s) : Kept n s.takePending := by
  unfold State.takePending
  split
  · exact h.set_hart.takeExternal
  · exact h
theorem Kept.heldAbort (h : Kept n s) : Kept n s.heldAbort := by
  unfold State.heldAbort
  split
  · exact h.set_hart.takeExternal
  · exact h
theorem Kept.elapse (h : Kept n s) {k : Nat} : Kept n (s.elapse k) := h.frame rfl

/-! ## LD, ST, atomic accesses and cache maintenance (R146, R266, R324 to R330) -/

theorem Kept.loadEff (h : Kept n s) {xd : XReg} {a : Word} {k : Nat} {z : Bool} : KeptEff n (loadEff xd a k z s) := by
  refine .ite h.trapAt ?_
  split <;> rename_i hq <;> have h := h.load.of_snd hq
  · exact h.faultTrap
  · exact .ite h.trapAt h.setX
theorem Kept.atomTrap (h : Kept n s) {f : MemFault} : KeptEff n (atomTrap f s) := .ite h h.faultTrap
theorem Kept.storeEff (h : Kept n s) {a v : Word} {k : Nat} : KeptEff n (storeEff a k v s) := by
  refine .ite h.trapAt ?_
  split <;> rename_i hq <;> have h := h.storeTo.of_snd hq
  · exact h.atomTrap
  · exact h
end

section
variable {n m : Nat} {s s0 t : State} {l : Option LaunchId}

theorem Kept.nextTag (h : Kept n s) {k : Nat} : Kept n (s.nextTag k).2 := h.frame rfl
theorem Kept.keepReply (h : Kept n s) {src home : Nat} {c : BitVec 8} {v : Word} : Kept n (s.keepReply src home c v) := h.frame rfl
theorem Kept.atomStep (h : Kept n s) {r : Req} {pa k : Nat} {f : Nat → Option Nat} : Kept n (s.atomStep r pa k f).2 := by
  refine .ite_snd h.atHome ?_
  split
  · exact h.atHome.atHome.store.noteHolder
  · exact h.atHome
theorem Kept.refusedAtomic (h : Kept n s) {r : Req} {src : Nat} {va : Word} : Kept n (s.refusedAtomic r src va) := by
  unfold State.refusedAtomic
  split <;> rename_i hq
  · exact .ite (h.translate.of_snd hq).keepReply h
  · exact h
theorem Kept.atomic (h : Kept n s) {r : Req} {src k : Nat} {va : Word} {f : Nat → Option Nat} : Kept n (s.atomic r src va k f).2 := by
  unfold State.atomic
  split <;> rename_i hq <;> have h := h.locate.of_snd hq
  · exact .ite h.refusedAtomic h
  · exact h.nextTag.fresh
  · rename_i pa t
    rcases hp : t.atomStep r pa k f with ⟨_ | old, u⟩ <;> have h := h.atomStep.of_snd hp
    all_goals exact .ite h h.keepReply
theorem Kept.atomEff (h : Kept n s) {xd : XReg} {a : Word} {d z : Bool} {f : Nat → Option Nat} : KeptEff n (atomEff xd a d z f s) := by
  refine .ite h.trapAt ?_
  split <;> rename_i hq <;> have h := h.atomic.of_snd hq
  · exact h.atomTrap
  · exact h.setX
theorem Kept.maintain (h : Kept n s) {b : Bool} {k : Nat} {va : Word} : KeptEff n (State.maintain b k va s) := by
  induction k generalizing s va with
  | zero => exact h
  | succ k ih =>
    unfold State.maintain
    split <;> rename_i hq <;> have h := h.translate.of_snd hq
    · exact h.faultTrap
    · refine .ite (ih h) ?_
      split <;> rename_i hq <;> have h := h.locate.of_snd hq
      · exact h.faultTrap
      · rename_i p t
        refine ih ?_
        cases p with
        | here pa => exact .ite (Kept.dropCopies (.ite h.cleanLine.dropLine h.cleanLine)) (.ite h.cleanLine.dropLine h.cleanLine)
        | away pod => exact .ite h.dropCopies h
theorem Kept.maintainEff (h : Kept n s) {i : Instr} {b : Bool} {a k : Word} : KeptEff n (maintainEff i b a k s) :=
  .ite h.wordTrap h.maintain

/-! ## Vector registers (R153 to R164, R181, R183, R352, R355) -/

theorem Kept.touchBits (h : Kept n s) {v : Nat} {rs : List (Nat × Nat)} : Kept n (s.touchBits v rs) :=
  .ite h (Kept.foldl h.upd fun _ _ h => h.registerErr)
theorem Kept.touchV (h : Kept n s) {v w : Nat} {es : List Nat} : Kept n (s.touchV v w es) := h.touchBits
theorem Kept.touchReg (h : Kept n s) {v : Nat} : Kept n (s.touchReg v) := h.touchV
theorem Kept.vdone (h : Kept n s) : KeptEff n (vdone s) := h.upd
theorem Kept.stopInside (h : Kept n s) {es : List Nat} : KeptEff n (stopInside es s) := Kept.takePending h.upd

/-- An instruction of the vector queue keeps what its entry keeps, and what a poisoned operand does. -/
theorem Kept.vecIssueOr (h : Kept n s) {i : Instr} {g : Hdr} {nm : Names} {ok : State → Bool} {body : State → Eff}
    (hbad : ∀ {t}, Kept n t → KeptEff n ((nm.bad.getD (Machine.wordTrap .poison i)) t)) (hb : ∀ {t}, Kept n t → KeptEff n (body t)) :
    KeptOut n (vecIssue i g nm ok body s) := by
  have rest : ∀ {t ps}, Kept n t → KeptEff n (if nm.regs.any (fun v => decide (t.hart.nregs ≤ v)) || !ok t then
      Machine.wordTrap .illegalOperand i t else if t.hart.interlocked nm.regs nm.dst then .wait t
      else Machine.readingOr (nm.bad.getD (Machine.wordTrap .poison i)) nm.xs (ps ++ nm.ps) body t) :=
    fun h => .ite h.wordTrap (.ite h (h.readingOr hbad hb))
  refine .finish (h.decodeChecks (.ite h ?_))
  exact .ite (h.reading fun h => .ite (rest h) (.ite h.vdone h))
    (.ite (.ite (.ite h (hb h)) (.ite h h.vdone)) (rest h))
/-- An instruction of the vector queue that raises POISON for a poisoned operand keeps what its entry keeps. -/
theorem Kept.vecIssue (h : Kept n s) {i : Instr} {g : Hdr} {nm : Names} {ok : State → Bool} {body : State → Eff}
    (hn : nm.bad = none) (hb : ∀ {t}, Kept n t → KeptEff n (body t)) : KeptOut n (vecIssue i g nm ok body s) :=
  h.vecIssueOr (by rw [hn]; exact fun h => h.wordTrap) hb

theorem Kept.perform (h : Kept n s) {o : ElemOp} {es : List Nat} : Kept n (o.perform es s) := h.upd.raise
theorem Kept.runElems (h : Kept n s) {i : Instr} {g : Hdr} {o : ElemOp} : KeptEff n (runElems i g o s) := by
  refine .ite h.wordTrap ?_
  split
  · exact h.perform.stopInside
  · exact h.perform.advanceSeed.vdone
theorem Kept.setLength (h : Kept n s) {b : Bool} {xd : XReg} {r : Nat} {t : Tag} : Kept n (setLength b xd r t s) :=
  .ite h.upd.setX h.upd.setX
theorem Kept.setLenEff (h : Kept n s) {b : Bool} {xd xa : XReg} {t : BitVec 5} : KeptEff n (setLenEff b xd xa t s) :=
  .ite h.setLength (.ite h h.upd.setLength)
theorem Kept.moveElems (h : Kept n s) {i : Instr} {vd va w : Nat} {mv : List (Nat × Option Nat)} : KeptEff n (moveElems i vd va w mv s) :=
  .ite h.touchV.wordTrap h.touchV.upd
theorem Kept.runV3 (h : Kept n s) {i : Instr} {g : Hdr} {p : V3Op} : KeptEff n (runV3 i g p s) := by
  unfold Machine.runV3
  extract_lets hh w ws av bv cv as_ bs cs ap bp cp es s1 s2 bad stop eb ec
  have h2 : Kept n s2 := .ite (Kept.touchV (Kept.touchV (.ite h h.touchV))) (Kept.touchV (.ite h h.touchV))
  refine .ite (.ite h2.wordTrap ?_) h2.runElems
  split
  · exact h2.upd.raise.stopInside
  · exact h2.upd.raise.upd.advanceSeed.vdone
theorem Kept.issueV3 (h : Kept n s) {i : Instr} {g : Hdr} {p : State → V3Op} {ok : Tag → Tag → Bool} {ps : List PReg} :
    KeptOut n (issueV3 i g p ok ps s) := h.vecIssue rfl fun h => h.runV3
theorem Kept.moveDone (h : Kept n s) {i : Instr} {vd va w : Nat} {mv : List (Nat × Option Nat)} : KeptEff n (moveDone i vd va w mv s) := by
  have hm := h.moveElems (i := i) (vd := vd) (va := va) (w := w) (mv := mv)
  unfold Machine.moveDone
  split <;> rename_i hq
  · rw [hq] at hm
    exact Kept.vdone hm
  · exact hm

/-! ## Vector loads, stores and atomic accesses (R303 to R333) -/

theorem Kept.locateAll (h : Kept n s) {r : Req} {k : Kind} {l : List (Word × Nat)} : Kept n (s.locateAll r k l).2 := by
  induction l generalizing s with
  | nil => exact h
  | cons x l ih =>
    unfold State.locateAll
    split <;> rename_i hq <;> have h := h.locate.of_snd hq
    · exact h
    · split <;> rename_i hq <;> exact (ih h).of_snd hq
theorem Kept.readAll (h : Kept n s) {r : Req} {l : List (Place × Nat)} : Kept n (s.readAll r l).2 := by
  induction l generalizing s with
  | nil => exact h
  | cons x l ih => exact ih h.readAt
theorem Kept.writeAll (h : Kept n s) {r : Req} {v : Nat} {l : List (Place × Nat)} : Kept n (s.writeAll r v l) := by
  induction l generalizing s v with
  | nil => exact h
  | cons x l ih => exact ih h.writeAt
theorem Kept.copyOf (h : Kept n s) {r : Req} {t0 line : Nat} {p : Place} : Kept n (s.copyOf r t0 line p).2 := by
  unfold State.copyOf
  split
  · exact h.putCopy
  · exact h.readAt.putCopy
theorem Kept.readCopy (h : Kept n s) {r : Req} {t0 k w : Nat} {p : Place} : Kept n (State.readCopy r t0 k p w s).2 := by
  induction k generalizing s p w with
  | zero => exact h
  | succ k ih =>
    unfold State.readCopy
    dsimp only
    split
    · exact h.readAt
    · exact .ite_snd h.copyOf (ih h.copyOf)
theorem Kept.windowHit (h : Kept n s) {r : Req} {t0 : Nat} {va : Word} : Kept n (s.windowHit r t0 va).2 := by
  unfold State.windowHit
  split <;> rename_i hq
  · exact h
  · have h := h.translate.of_snd hq
    dsimp only
    split <;> exact h
theorem Kept.locateSrcs (h : Kept n s) {r : Req} {t0 : Option Nat} {l : List (Word × Nat)} : Kept n (s.locateSrcs r t0 l).2 := by
  induction l generalizing s with
  | nil => exact h
  | cons x l ih =>
    cases t0 with
    | none =>
      unfold State.locateSrcs
      rcases hq : s.locate r .read x.1 x.2 with ⟨_ | p, t⟩ <;> have h := h.locate.of_snd hq <;> simp only [hq]
      · exact h
      · split <;> rename_i hr <;> exact (ih h).of_snd hr
    | some t0 =>
      unfold State.locateSrcs
      rcases hw : s.windowHit r t0 x.1 with ⟨_ | ⟨c, o⟩, u⟩ <;> have h := h.windowHit.of_snd hw <;> simp only [hw]
      · rcases hq : u.locate r .read x.1 x.2 with ⟨_ | p, t⟩ <;> have h := h.locate.of_snd hq
        · exact h
        · dsimp only
          split <;> rename_i hr <;> exact (ih h).of_snd hr
      · split <;> rename_i hr <;> exact (ih h).of_snd hr
theorem Kept.readSrcs (h : Kept n s) {r : Req} {t0 : Option Nat} {l : List (Src × Nat)} : Kept n (s.readSrcs r t0 l).2 := by
  induction l generalizing s with
  | nil => exact h
  | cons x l ih =>
    obtain ⟨q, k⟩ := x
    refine ih ?_
    cases q with
    | copy c off => exact h.putCopy
    | home p =>
      cases t0 with
      | none => exact h.readAt
      | some t0 => exact .ite_snd h.readAt h.readCopy
end

section
variable {n m : Nat} {s s0 t : State} {l : Option LaunchId}

theorem Kept.loadElem (h : Kept n s) {r : Req} {b : Bool} {w : Nat} {x : NbElem} : Kept n (s.loadElem r b w x).2 := by
  refine .ite_snd h ?_
  dsimp only
  rcases hq : s.locateSrcs r (if b then s.hart.windowSince x.va else none) (pageSpans x.va (x.len w)) with ⟨_ | qs, t⟩ <;>
    have h := h.locateSrcs.of_snd hq
  · exact h
  · exact h.readSrcs
theorem Kept.storeElem (h : Kept n s) {r : Req} {w : Nat} {x : NbElem} : Kept n (s.storeElem r w x).2 := by
  refine .ite_snd h ?_
  split <;> rename_i hq <;> have h := h.locateAll.of_snd hq
  · exact h
  · exact .ite_snd h.writeAll h.readAll.writeAll
theorem Kept.runSpans (h : Kept n s) {acc : NbElem → State → Except MemFault Loaded × State} {bytes : NbElem → List (Word × Nat)}
    {es : List NbElem} {v : VRun} (ha : ∀ {x t}, Kept n t → Kept n (acc x t).2) : Kept n (runSpans acc bytes es v s).2 := by
  induction es generalizing s v with
  | nil => exact h
  | cons x es ih =>
    refine .ite_snd (ih h) ?_
    split <;> rename_i hq <;> exact ih ((ha h).of_snd hq)
theorem Kept.runEach (h : Kept n s) {acc : NbElem → State → Except MemFault Loaded × State} {w : Nat}
    {es : List NbElem} {v : VRun} (ha : ∀ {x t}, Kept n t → Kept n (acc x t).2) : Kept n (runEach acc w es v s).2 := h.runSpans ha
theorem Kept.vecFault (h : Kept n s) {l : List (NbElem × Option MemFault)} {ms : List Nat} : KeptEff n (vecFault l ms s) := by
  unfold Machine.vecFault
  split
  · exact h.vdone
  · exact h.upd
theorem Kept.vmEnd (h : Kept n s) {g : Hdr} {w : Nat} {l : List (NbElem × Option MemFault)} {es : List NbElem} {b : Bool} :
    KeptEff n (vmEnd g w l es b s) := .ite h.vecFault (.ite h.stopInside h.vdone)
theorem Kept.lastUses (h : Kept n s) {w : Nat} {d : List (NbElem × Loaded)} {l : List NbElem} : Kept n (s.lastUses w d l) :=
  Kept.foldl h fun _ _ h => h.lastUse
theorem Kept.runLoads (h : Kept n s) {g : Hdr} {vd w : Nat} {e : BitVec 2} {b : Bool} {es : List NbElem} :
    KeptEff n (runLoads g vd w e b es s) :=
  have h := fun {es v f} => (h.runEach (acc := fun x s => s.loadElem (s.req .vector e) true w x) (w := w) (es := es) (v := v)
    fun h => h.loadElem).upd (f := f)
  Kept.vmEnd (.ite (Kept.lastUses h) h)
theorem Kept.runStores (h : Kept n s) {g : Hdr} {w : Nat} {e : BitVec 2} {es : List NbElem} : KeptEff n (runStores g w e es s) := by
  refine Kept.vmEnd (h.runEach fun h => ?_)
  split <;> rename_i hq <;> exact h.storeElem.of_snd hq
theorem Kept.enqueueNb (h : Kept n s) {o : NbOp} : KeptEff n (enqueueNb o s) := .ite h h.upd.vdone
theorem Kept.vmBad (h : Kept n s) {i : Instr} {g : Hdr} {k : NbKind} {v : VReg} {t : VmTail} : KeptEff n (vmBad i g k v t s) :=
  .ite h.enqueueNb h.wordTrap
theorem Kept.loadVm (h : Kept n s) {i : Instr} {g : Hdr} {v : VReg} {t : VmTail} {es : List NbElem} : KeptEff n (loadVm i g v t es s) :=
  .ite h.enqueueNb h.runLoads
theorem Kept.storeVm (h : Kept n s) {i : Instr} {g : Hdr} {v : VReg} {t : VmTail} {es : List NbElem} : KeptEff n (storeVm i g v t es s) :=
  .ite h.touchV.enqueueNb (.ite h.touchV.wordTrap h.touchV.runStores)
theorem Kept.readingIndex (h : Kept n s) {bad body : State → Eff} {g : Hdr} {v : VReg}
    (hbad : ∀ {t}, Kept n t → KeptEff n (bad t)) (hbody : ∀ {t}, Kept n t → KeptEff n (body t)) :
    KeptEff n (readingIndex bad g v body s) := .ite (hbad h.touchV) (hbody h.touchV)
theorem Kept.clGuard (h : Kept n s) {α : Type} {w : Nat} {x : NbElem} {f : State → Except MemFault α × State}
    (hf : ∀ {t}, Kept n t → Kept n (f t).2) : Kept n (clGuard w x f s).2 := .ite_snd h (hf h)
theorem Kept.prefLine (h : Kept n s) {e : BitVec 2} {b : Bool} {va : Word} : Kept n (s.prefLine e b va) := by
  unfold State.prefLine
  dsimp only
  split <;> rename_i hq
  · exact h.frame rfl
  · have h := h.locateSrcs.of_snd hq
    split
    · refine .ite (.ite h.readSrcs h) ?_
      split
      · exact .ite h.touchLine.lastUse h.touchLine
      · exact h
    · exact h.readSrcs
theorem Kept.atomElem (h : Kept n s) {r : Req} {src op v2 : Nat} {t : Tag} {x : NbElem} : Kept n (s.atomElem r src t op v2 x).2 := by
  refine .ite_snd h ?_
  split <;> rename_i hq <;> have h := h.atomic.of_snd hq
  · exact h
  · exact h.raise
theorem Kept.storeReplicas (h : Kept n s) {r : Req} {w : Nat} {x : NbElem} {bs : List Word} : Kept n (s.storeReplicas r w x bs).2 := by
  induction bs generalizing s with
  | nil => exact h
  | cons b bs ih =>
    have h := ih (h.storeElem (r := r) (w := w) (x := { x with va := b + x.va }))
    unfold State.storeReplicas
    dsimp only
    split <;> exact h
theorem Kept.nbAccess (h : Kept n s) {o : NbOp} {x : NbElem} : Kept n (s.nbAccess o x).2 := by
  unfold State.nbAccess
  dsimp only
  split
  · have hg : ∀ {r : Req}, Kept n (if o.cl then Machine.clGuard o.size x (fun s => s.loadElem r false o.size x) s
        else s.loadElem r false o.size x).2 := .ite_snd (h.clGuard fun h => h.loadElem) h.loadElem
    rcases hq : (if o.cl then Machine.clGuard o.size x (fun t => t.loadElem (o.req s.hart.hid) false o.size x) s
      else s.loadElem (o.req s.hart.hid) false o.size x) with ⟨_ | v, t⟩ <;> have h := hg.of_snd hq
    · exact h
    · exact .ite h.lastUses h
  · have hg : ∀ {r : Req}, Kept n (if o.cl then Machine.clGuard o.size x (fun s => s.storeElem r o.size x) s
        else s.storeElem r o.size x).2 := .ite_snd (h.clGuard fun h => h.storeElem) h.storeElem
    rcases hq : (if o.cl then Machine.clGuard o.size x (fun t => t.storeElem (o.req s.hart.hid) o.size x) s
      else s.storeElem (o.req s.hart.hid) o.size x) with ⟨_ | v, t⟩ <;> exact hg.of_snd hq
  · split <;> rename_i hq <;> exact h.atomElem.of_snd hq
  · split <;> rename_i hq <;> exact h.storeReplicas.of_snd hq
  · exact h
theorem Kept.nbOne (h : Kept n s) {i e : Nat} : Kept n (s.nbOne i e) := by
  unfold State.nbOne
  split
  · exact h
  · split
    · exact h
    · refine .ite h ?_
      dsimp only
      split <;> rename_i hq <;> exact (h.nbAccess.of_snd hq).upd
theorem Kept.nbElem (h : Kept n s) {i j : Nat} : Kept n (s.nbElem i j) := by
  unfold State.nbElem
  split
  · exact h
  · refine .ite h (.ite h.upd ?_)
    split
    · exact h.upd
    · split
      · exact h
      · exact .ite h (Kept.foldl h fun _ _ h => h.nbOne)
theorem Kept.nbElems (h : Kept n s) {i k : Nat} : Kept n (State.nbElems i k s) := by
  induction k generalizing s with
  | zero => exact h
  | succ k ih => exact ih h.nbElem
theorem Kept.nbDrain (h : Kept n s) : Kept n s.nbDrain := Kept.foldl h fun _ _ h => h.nbElems

/-! ## Streams (R306 to R319) -/

theorem Kept.onHart (h : Kept n s) {k : BitVec 20} {f : State → State} (hf : ∀ {t}, Kept n t → Kept n (f t)) : Kept n (s.onHart k f) :=
  (hf h.focus).focus
theorem Kept.strmEff (h : Kept n s) {i : Instr} {x : Stream} : KeptEff n (strmEff i x s) :=
  .ite h.wordTrap (.ite h.trapAt (.ite h.trapAt (.ite h.wordTrap (.ite h h.upd))))
theorem Kept.streamDone (h : Kept n s) {k : BitVec 20} {i : Nat} : Kept n (s.streamDone k i) := by
  unfold State.streamDone
  split
  · exact h
  · dsimp only
    split
    · exact h.updHart.updCluster
    · exact h.updHart
theorem Kept.dispatch (h : Kept n s) {cl : Nat} : Kept n (s.dispatch cl) := by
  unfold State.dispatch
  split
  · exact .ite h.streamDone h.updCluster.updHart
  · exact h
theorem Kept.streamWord (h : Kept n s) {k : BitVec 20} {x : Stream} {o : Nat} : Kept n (s.streamWord k x o).2 := by
  unfold State.streamWord
  dsimp only
  split <;> rename_i hq <;> have h := h.locate.of_snd hq
  · exact h
  · split <;> rename_i hq <;> have h := h.readAt.locate.of_snd hq
    · exact h
    · refine .ite_snd h ?_
      rename_i q t
      have hw : ∀ r v, Kept n (t.writeAt r q 8 v) := fun _ _ => h.writeAt
      clear hq
      cases q with
      | here pa =>
        split
        · refine .ite (Kept.lastUse ?_) ?_
          all_goals exact .ite (Kept.markIndet (.ite (hw _ _).poisonAt (hw _ _))) (.ite (hw _ _).poisonAt (hw _ _))
        · exact .ite (Kept.markIndet (.ite (hw _ _).poisonAt (hw _ _))) (.ite (hw _ _).poisonAt (hw _ _))
      | away pod =>
        split
        · exact .ite (hw _ 0).lastUse (hw _ 0)
        · exact hw _ 0
theorem Kept.streamWords (h : Kept n s) {hid : BitVec 20} {x : Stream} {k o : Nat} : Kept n (State.streamWords hid x k o s).2.2 := by
  induction k generalizing s o with
  | zero => exact h
  | succ k ih =>
    unfold State.streamWords
    split <;> rename_i hq <;> have h := h.streamWord.of_snd hq
    · exact h
    · exact ih h
theorem Kept.granule (h : Kept n s) {k : BitVec 20} {i : Nat} : Kept n (s.granule k i) := by
  unfold State.granule
  extract_lets hh
  split
  · exact h
  · rename_i x _
    refine .ite h ?_
    extract_lets later free
    have h1 := h.streamWords (hid := k) (x := x) (k := (min x.len (128 * (x.w / 128 + 1)) - x.w) / 8) (o := x.w)
    have hf : ∀ {t}, Kept n t → Kept n (free t) := by
      intro t ht
      unfold free
      split
      · exact ht.updCluster
      · exact ht
    dsimp only
    split
    · exact (hf h1.updHart).updHart
    · exact .ite (.ite (hf h1.updHart) h1.updHart.streamDone) h1.updHart

/-! ## Pushes (R331 to R341) -/

theorem Kept.set_outbox (h : Kept n s) {o : List OutPush} : Kept n { s with outbox := o } := h.frame rfl
theorem Kept.sendOut (h : Kept n s) {k : BitVec 20} {p : Push} : Kept n (s.sendOut k p) := h.nextSeq.nextTag.updHart.set_outbox
theorem Kept.sendPushes (h : Kept n s) {k : BitVec 20} : Kept n (s.sendPushes k) := Kept.foldl h fun _ _ h => .ite h.sendOut h
theorem Kept.unsend (h : Kept n s) {k : BitVec 20} {i : Nat} : Kept n (s.unsend k i) := h.frame rfl
theorem Kept.updTarget (h : Kept n s) {k : BitVec 20} {f : Hart → Hart} : Kept n (s.updTarget k f) := .ite h.updGangs h.updHart
theorem Kept.turnAway (h : Kept n s) {k : BitVec 20} {v u : Nat} : Kept n (s.turnAway k v u) := h.updTarget
theorem Kept.unreserve (h : Kept n s) {k : BitVec 20} {v u : Nat} : Kept n (s.unreserve k v u) := h.updTarget
theorem Kept.pushReply (h : Kept n s) {k : BitVec 20} {p : Push} {c : Option (BitVec 8)} : Kept n (s.pushReply k p c) := by
  unfold State.pushReply
  refine .ite h ?_
  split
  · exact h.keepReply
  · exact h.nextTag
theorem Kept.losePush (h : Kept n s) {k : BitVec 20} {p : Push} : Kept n (s.losePush k p) := h.updHart.sendPushes
theorem Kept.dropPush (h : Kept n s) {k : BitVec 20} {p : Push} : Kept n (s.dropPush k p) := h.updHart.sendPushes
theorem Kept.takeAnswer (h : Kept n s) {k : BitVec 20} {p : Push} {a : PushAns} : Kept n (s.takeAnswer k p a) := by
  cases a with
  | nack => exact h.updHart
  | accept | reject c => exact h.updHart.sendPushes
theorem Kept.offerPush (h : Kept n s) {k : BitVec 20} {p : Push} {a : PushAns} : Kept n (s.offerPush k p a) := by
  cases a with
  | accept => exact h.updHart.pushReply
  | nack => exact h.turnAway.pushReply
  | reject c => exact h.unreserve.pushReply
theorem Kept.pushArrive (h : Kept n s) {k : BitVec 20} {i : Nat} : Kept n (s.pushArrive k i) := by
  unfold State.pushArrive
  dsimp only
  split
  · exact h
  · refine .ite h (.ite (.ite h.unsend.dropPush (.ite h.unsend.offerPush.takeAnswer h.unsend.offerPush.losePush))
      (.ite h.unsend.dropPush ?_))
    split
    case h_5 => exact h.unsend.fresh.losePush
    all_goals exact h.unsend.fresh.takeAnswer
theorem Kept.withdraw (h : Kept n s) : Kept n s.withdraw := h.frame rfl

/-! ## Requests of other packages (R376 to R385) -/

theorem Kept.answer (h : Kept n s) {r : OutReq} {c : BitVec 8} {v : Nat} : Kept n (s.answer r c v) := h.frame rfl
theorem Kept.outPush (h : Kept n s) {r : OutReq} {d : Word} {t : Tag} {k : Nat} : Kept n (s.outPush r d t k).2 := by
  unfold State.outPush
  dsimp only
  split
  · exact h.updHart
  · exact h.turnAway
  · exact h.unreserve
theorem Kept.cacheReply (h : Kept n s) {d : Nat} {r : OutReq} {c : BitVec 8} {v : Nat} : Kept n (s.cacheReply d r c v) := h.frame rfl
theorem Kept.performOnce (h : Kept n s) {d : Nat} {r : OutReq} : Kept n (s.performOnce d r) := by
  unfold State.performOnce
  split
  · split
    · exact h.cacheReply.answer
    · split <;> rename_i hq <;> exact (h.atomStep.of_snd hq).cacheReply.answer
  · split <;> rename_i hq <;> have h := h.outPush.of_snd hq
    · exact h.cacheReply.answer
    · exact h.cacheReply.answer
    · exact h.answer
  · exact h
theorem Kept.arrive (h : Kept n s) {r : OutReq} {b : Bool} : Kept n (s.arrive r b) := by
  unfold State.arrive
  dsimp only
  split
  · exact h.answer
  · exact .ite h.answer (.ite h.answer h.performOnce)
theorem Kept.outWrite (h : Kept n s) {r : OutReq} : Kept n (s.outWrite r).2 := by
  unfold State.outWrite
  split
  · exact h
  · exact .ite_snd h (.ite h.writeAt.poisonAt h.writeAt)
theorem Kept.outAccess (h : Kept n s) {r : OutReq} : Kept n (s.outAccess r) := by
  unfold State.outAccess
  split
  · split
    · exact h.answer
    · dsimp only
      exact h.readAt.answer
  · exact h.outWrite.answer
  · exact h.arrive
theorem Kept.setFlow (h : Kept n s) {k : Nat} {f : Flow} : Kept n (s.setFlow k f) := h.frame rfl
theorem Kept.set_flows (h : Kept n s) {l : Tab Flow} : Kept n { s with flows := l } := h.frame rfl
theorem Kept.performPacket (h : Kept n s) {k q : Nat} {r : OutReq} : Kept n (s.performPacket k q r) := h.outAccess.set_flows
theorem Kept.ack (h : Kept n s) {x : List Sent} : Kept n { s with sent := x } := h.frame rfl
theorem Kept.takePacket (h : Kept n s) {k q : Nat} {r : OutReq} : Kept n (s.takePacket k q r) := by
  unfold State.takePacket
  dsimp only
  refine .ite ?_ (.ite h.performPacket.ack h.answer)
  split
  · exact h.outAccess.ack
  · exact h.answer.ack
  · exact h.arrive.ack
theorem Kept.receivePacket (h : Kept n s) {k q e : Nat} {r : OutReq} : Kept n (s.receivePacket k q e r) := by
  unfold State.receivePacket
  split
  · exact .ite h.takePacket h
  · exact h
theorem Kept.timeoutPush (h : Kept n s) {k : BitVec 20} {i : Nat} : Kept n (s.timeoutPush k i) := by
  unfold State.timeoutPush
  split
  · exact h.unsend.losePush
  · exact h.unsend
  · exact h

/-! ## Bit errors and migration (R278 to R302) -/

theorem Kept.putErr (h : Kept n s) {e : ErrAt} {k : Nat} {b : Bool} : Kept n (s.putErr e k b) := h.frame rfl
theorem Kept.strikeHbm (h : Kept n s) {g k : Nat} {b : Bool} : Kept n (s.strikeHbm g k b) := .ite h h.putErr
theorem Kept.strikeCopy (h : Kept n s) {w k : Nat} {b : Bool} : Kept n (s.strikeCopy w k b) := by
  refine .ite h ?_
  dsimp only
  split
  · exact h.undoErrs.putErr.flipBytes
  · exact h.undoErrs.putErr
theorem Kept.strikeLocal (h : Kept n s) {w k : Nat} {b : Bool} : Kept n (s.strikeLocal w k b) := by
  refine .ite h ?_
  dsimp only
  split
  · exact h.putErr.flipBytes
  · exact .ite h.putErr.flipBytes h.putErr
theorem Kept.strikeState (h : Kept n s) {d k : Nat} : Kept n (s.strikeState d k) := .ite h.logErr.machineFault h.logErr
theorem Kept.copyUnits (h : Kept n s) {a b k : Nat} : Kept n (s.copyUnits a b k) := by
  induction k generalizing s a b with
  | zero => exact h
  | succ k ih => exact ih h.setUnits
theorem Kept.moveLine (h : Kept n s) {d i : Nat} : Kept n (s.moveLine d i) := by
  unfold State.moveLine
  split
  · exact .ite h.touchLine.meetErrors.touchLine.meetErrors.store.copyUnits.updDie h
  · exact h
end

end Sys2Proof.Machine
end

section
/-! SUPPORT. The same for the host, links, placement, the save area, the services and the collectives. -/

namespace Sys2Proof.Machine
open Sys2Proof

section
variable {n m : Nat} {s s0 t : State}

/-! ## Launches, parked gangs and the host (R97 to R103, R110 to R130, R413 to R419) -/

theorem Kept.promiseKept (h : Kept n s) {l : LaunchId} : Kept n (s.promiseKept l) := h.frame rfl
theorem Kept.set_sent (h : Kept n s) {l : List Sent} : Kept n { s with sent := l } := h.frame rfl
theorem Kept.accept (h : Kept n s) {pk : BitVec 512} {q : Nat} : Kept n (s.accept pk q) := h.updQueue.set_launches.startPlacing
theorem Kept.lnchEff (h : Kept n s) {xd : XReg} {a : Word} : KeptEff n (lnchEff xd a s) := by
  refine .ite h.trapAt ?_
  split <;> rename_i hq <;> have h := h.load.of_snd hq
  · exact h.faultTrap
  · refine .ite h.trapAt (.ite h.trapAt ?_)
    split
    · exact h.setX
    · exact h.accept.setX
theorem Kept.parkHart (h : Kept n s) : Kept n s.parkHart := h.updGangs.upd.updCluster.leaveGang.passRows.settle
theorem Kept.preemptGangs (h : Kept n s) {c : Gang → Bool} {l : LaunchId} {b : Bool} : Kept n (s.preemptGangs c l b) :=
  Kept.foldl h.updGangs fun _ _ h => h.updHart
theorem Kept.launchPort (h : Kept n s) {f o k : Nat} {pk : BitVec 512} : Kept n (s.launchPort f o k pk) := by
  refine .ite h.updFunc (.ite h.updFunc ?_)
  split
  · exact h.updFunc
  · exact h.accept.updFunc
theorem Kept.writeNote (h : Kept n s) {f : Nat} {v : Word} : Kept n (s.writeNote f v) := h.updFunc.noteFunc
theorem Kept.writeHmb (h : Kept n s) {o : Nat} {v : Word} : Kept n (s.writeHmb o v) := .ite h.set_hmb.wakeMgmt h.set_hmb
theorem Kept.bar2Write (h : Kept n s) {f o : Nat} {v : Word} : Kept n (s.bar2Write f o v) := by
  unfold State.bar2Write
  split
  · exact h.updFunc
  · exact .ite h.clearHalted h
  · exact h.writeNote
  · exact .ite h.writeHmb h
theorem Kept.windowPlace (h : Kept n s) {r : OutReq} {k : Kind} : Kept n (s.windowPlace r k).2 :=
  .ite_snd (.ite_snd h (.ite_snd h.fresh h)) (.ite_snd h h)
theorem Kept.windowAccess (h : Kept n s) {f o k v : Nat} {b : Bool} : Kept n (s.windowAccess f b o k v) := by
  refine .ite (.ite h h.set_sent) (.ite ?_ ?_)
  · split <;> rename_i hq <;> have h := h.windowPlace.of_snd hq
    · exact h.writeAt
    · exact h
  · split <;> rename_i hq <;> have h := h.windowPlace.of_snd hq
    · split
      rename_i hr
      exact (h.readAt.of_snd hr).set_sent
    · exact h.set_sent
theorem Kept.hostAccess (h : Kept n s) {f bar o k v : Nat} {b : Bool} : Kept n (s.hostAccess f bar b o k v) := by
  unfold State.hostAccess
  split
  · exact h.windowAccess
  · exact .ite (.ite h.bar2Write h) h.set_sent
  · exact .ite h.launchPort h.set_sent
  · exact h

/-! ## Links (R373 to R390) -/

theorem Kept.updStrandWaves (h : Kept n s) {d k : Nat} {c : Nat → Wave → Bool} {f : Wave → Wave} :
    Kept n (s.updStrandWaves d k c f) := Kept.foldl h fun _ _ h => .ite h.setWave h
theorem Kept.setStrand (h : Kept n s) {d k : Nat} {x : Strand} : Kept n (s.setStrand d k x) := h.updDie
theorem Kept.holdFlit (h : Kept n s) {a d k : Nat} : Kept n (s.holdFlit a d k) := h.updDie
theorem Kept.acceptFlit (h : Kept n s) {a d k : Nat} : Kept n (s.acceptFlit a d k) := h.updDie.updDie
theorem Kept.receiveFlit (h : Kept n s) {d a l k q e : Nat} {b : Bool} : Kept n (s.receiveFlit d a l k q e b) := by
  unfold State.receiveFlit
  split
  · exact h
  · exact .ite h.updStrandWaves.setStrand.holdFlit (.ite h.updStrandWaves.setStrand.acceptFlit h.updStrandWaves)
theorem Kept.raiseLink (h : Kept n s) {o : Nat} : Kept n (s.raiseLink o) := .ite h.updHart h
theorem Kept.updateTable (h : Kept n s) {r : Vector (BitVec 128) 2} : Kept n (s.updateTable r) := by
  unfold State.updateTable
  extract_lets s1 s2
  have h2 : Kept n s2 := h.frame rfl
  split
  · exact h2.raiseLink
  · exact h2
theorem Kept.loseGroup (h : Kept n s) {g : Nat} : Kept n (s.loseGroup g) := by
  unfold State.loseGroup
  split
  · exact .ite h (.ite h.setPg.machineFault h.setPg)
  · exact h

/-! ## CSRs (R145, R44) -/

theorem Kept.writeBudget (h : Kept n s) {f : Launch → Launch} : Kept n (s.writeBudget f) := by
  unfold State.writeBudget
  split
  · exact h
  · exact h.updLaunch.checkBudget
theorem Kept.setCsr (h : Kept n s) {c : Nat} {v : Word} : Kept n (s.setCsr c v) := by
  unfold State.setCsr
  split
  case h_6 | h_7 => exact h.writeBudget
  case h_13 => exact .ite h.setWfrac h
  case h_14 => exact h
  all_goals exact h.upd

/-! ## Placing, resuming and preempting gangs (R105 to R130) -/

theorem Kept.allotBytes (h : Kept n s) {base : Nat} {rs : List (Nat × Nat × BitVec 6)} {t : BitVec 6} {l : List Nat} :
    Kept n (s.allotBytes base rs t l) := by
  induction l generalizing s with
  | nil => exact h
  | cons a l ih =>
    cases l with
    | nil => exact h
    | cons b l => exact ih (.ite h (.ite h.markIndet h.zeroRange))
theorem Kept.allotSpm (h : Kept n s) {c o k : Nat} {t : BitVec 6} : Kept n (s.allotSpm c o k t) := .ite h h.allotBytes.updCore
theorem Kept.allotAcc (h : Kept n s) {c o k : Nat} {t : BitVec 6} : Kept n (s.allotAcc c o k t) := .ite h h.allotBytes.updCore
theorem Kept.startHart (h : Kept n s) {l : Launch} {g : Gang} {i k a : Nat} : Kept n (s.startHart l g i k a) := h.zeroRange.updHart
theorem Kept.allot (h : Kept n s) {g : Gang} : Kept n (s.allot g) :=
  Kept.foldl (Kept.foldl h fun _ _ h => h.switchCls.allotSpm) fun _ _ h => h.allotAcc
theorem Kept.resumeGang (h : Kept n s) {g : Gang} : Kept n (s.resumeGang g) :=
  Kept.foldl h.allot.updGangs.updBar fun _ _ h => h.fresh.updHart
theorem Kept.resumeAll (h : Kept n s) {gs : List Gang} : KeptOpt n (State.resumeAll gs s) := by
  induction gs generalizing s with
  | nil => exact h.opt
  | cons g gs ih => exact .ite (ih h.resumeGang) .none
theorem Kept.resumeWith (h : Kept n s) {g : Gang} : KeptOpt n (s.resumeWith g) := .ite h.resumeAll .none
theorem Kept.seat (h : Kept n s) {g : Gang} {b : Bar} : Kept n (s.seat g b) := h.allot.set_gangs.updBar
theorem Kept.placeAt (h : Kept n s) {l : Launch} {cl : Nat} {p : Spot} : Kept n (s.placeAt l cl p) :=
  Kept.foldl h.seat fun _ _ h => h.startHart
theorem Kept.set_resvs (h : Kept n s) {l : List Reserve} : Kept n { s with resvs := l } := h.frame rfl
theorem Kept.set_resvs_rr (h : Kept n s) {l : List Reserve} {k : Nat} : Kept n { s with resvs := l, rr := k } := h.frame rfl
theorem Kept.placedGangs (h : Kept n s) {l : Launch} {k : Nat} : Kept n (s.placedGangs l k) :=
  h.updLaunch.promiseKept.set_resvs_rr.settle
theorem Kept.placeMany (h : Kept n s) {l : Launch} {k : Nat} : KeptOpt n (State.placeMany l k s) := by
  induction k generalizing s with
  | zero => exact h.opt
  | succ k ih =>
    unfold State.placeMany
    split
    · exact .none
    · dsimp only
      split
      · exact .none
      · exact ih h.placeAt.updLaunch
theorem Kept.placeFirst (h : Kept n s) {ls : List Launch} : Kept n (State.placeFirst ls s) := by
  induction ls generalizing s with
  | nil => exact h
  | cons l ls ih =>
    unfold State.placeFirst
    split <;> rename_i hq
    · exact (h.placeMany _ hq).updLaunch.placedGangs
    · exact ih h.updLaunch
theorem Kept.reserve (h : Kept n s) {l : Launch} : Kept n (s.reserve l) := by
  unfold State.reserve
  dsimp only
  split
  · exact h
  · exact Kept.foldl h.set_resvs fun _ _ h => .ite h h.switchCls
theorem Kept.preemptFor (h : Kept n s) {l : Launch} : Kept n (s.preemptFor l) := by
  unfold State.preemptFor
  dsimp only
  split
  · exact h
  · exact h.preemptGangs
theorem Kept.preemptForAll (h : Kept n s) {l : Launch} : Kept n (s.preemptForAll l) := by
  unfold State.preemptForAll
  dsimp only
  split
  · exact h
  · exact h.preemptGangs
theorem Kept.welcomeGang (h : Kept n s) {l : Launch} {g : Gang} : KeptOpt n (s.welcomeGang l g) := by
  intro t ht
  obtain ⟨x, -, rfl⟩ := Option.map_eq_some_iff.1 ht
  exact Kept.foldl h.seat fun _ _ h => h.fresh.updHart
theorem KeptOpt.foldl {α : Type} {f : State → α → Option State} {l : List α} {o : Option State} (h : KeptOpt n o)
    (hf : ∀ {t a}, Kept n t → KeptOpt n (f t a)) : KeptOpt n (l.foldl (fun o a => o.bind fun t => f t a) o) := by
  refine List.foldlRecOn l _ h fun o ho a _ t ht => ?_
  obtain ⟨u, hu, ht⟩ := Option.bind_eq_some_iff.1 ht
  exact hf (ho u hu) t ht
theorem Kept.welcome (h : Kept n s) {l : Launch} {gs : List Gang} : Kept n (s.welcome l gs) := by
  refine .ite h ?_
  split <;> rename_i hq
  · exact Kept.settle (KeptOpt.foldl (Kept.opt h.updQueue.set_launches) (fun h => h.welcomeGang) _ hq)
  · exact h
end

section
variable {n m : Nat} {s s0 t : State}

/-! ## Frames and the binding of harts (R250 to R258, R92) -/

theorem Kept.crewPause (h : Kept n s) : Kept n s.crewPause := .ite h.upd h
theorem Kept.startChange (h : Kept n s) {d f : Nat} {k : Cls} {t : BitVec 6} : Kept n (s.startChange d f k t).2 := .ite_snd h h.updFrame
theorem Kept.clsetEff (h : Kept n s) {xd : XReg} {a : Word} {k : Cls} {t : BitVec 6} : KeptEff n (clsetEff xd a k t s) :=
  .ite h.setX h.startChange.setX
theorem Kept.recordFrame (h : Kept n s) {d : Nat} {k l : Cls} : Kept n (s.recordFrame d k l) := h.frame rfl
theorem Kept.set_poison (h : Kept n s) {p : Tab Bool} : Kept n { s with poison := p } := h.frame rfl
theorem Kept.set_caches (h : Kept n s) {q k : Tab Line} {p : Tab (Nat × Nat)} {c : List Copy} {l : List TlbEntry}
    {e : List StoredErr} {g : Tab Bool} :
    Kept n { s with quay := q, msc := k, pack := p, copies := c, tlb := l, errs := e, gran := g } := h.frame rfl
theorem Kept.changeFrame (h : Kept n s) {d f : Nat} : Kept n (s.changeFrame d f) := by
  unfold State.changeFrame
  extract_lets e
  split
  · exact h
  · exact Kept.recordFrame (Kept.updFrame (.ite (Kept.zeroRange h.set_caches)
      (Kept.markIndet (Kept.zeroRange (Kept.set_poison h.set_caches)))))
theorem Kept.bindHart (h : Kept n s) {w : Word} {t : BitVec 6} : Kept n (s.bindHart w t).2 := .ite_snd h h.updHart

/-! ## The save area (R117 to R125) -/

theorem Kept.poisonWords (h : Kept n s) {l : List (Place × Nat)} {v : Nat} : Kept n (s.poisonWords l v) := by
  induction l generalizing s v with
  | nil => exact h
  | cons x l ih =>
    obtain ⟨p, k⟩ := x
    refine ih ?_
    cases p with
    | here pa => exact .ite h (Kept.foldl h fun _ _ h => .ite h h.poisonAt)
    | away pod => exact h
theorem Kept.writePieces (h : Kept n s) {r : Req} {a : Word} {ps : List Piece} : Kept n (s.writePieces r a ps).2 := by
  induction ps generalizing s with
  | nil => exact h
  | cons p ps ih =>
    refine .ite_snd (ih h) ?_
    split <;> rename_i hq <;> have h := h.locateAll.of_snd hq
    · exact h
    · exact ih (.ite h.writeAll h.writeAll.poisonWords)
theorem Kept.of_fst {α : Type} {p : State × α} {a : α} (h : Kept n p.1) (hp : p = (t, a)) : Kept n t := by
  rwa [hp] at h
theorem Kept.foldl_fst {α β : Type} {f : State × β → α → State × β} {l : List α} {p : State × β} (h : Kept n p.1)
    (hf : ∀ p a, Kept n p.1 → Kept n (f p a).1) : Kept n (l.foldl f p).1 :=
  List.foldlRecOn (motive := fun p => Kept n p.1) l f h fun p hp a _ => hf p a hp
theorem Kept.touchContext (h : Kept n s) : Kept n s.touchContext.1 := by
  unfold State.touchContext
  split
  rename_i s1 b hb
  have h1 : Kept n s1 := by
    refine Kept.of_fst (Kept.foldl_fst h fun p k hp => ?_) hb
    split
    · exact hp
    · exact hp.touchAt
  exact Kept.foldl h1.touchPs fun _ _ h => .ite h.touchReg h
theorem Kept.readAway (h : Kept n s) {r : Req} {p k : Nat} : Kept n (s.readAway r p k).2 := by
  induction k with
  | zero => exact h
  | succ k ih =>
    unfold State.readAway
    dsimp only
    exact ih.readAt
theorem Kept.readMarked (h : Kept n s) {r : Req} {l : List (Place × Nat)} : Kept n (s.readMarked r l).2 := by
  induction l generalizing s with
  | nil => exact h
  | cons x l ih =>
    obtain ⟨p, k⟩ := x
    refine ih ?_
    cases p with
    | here pa => exact h.readAt
    | away pod => exact h.readAway
theorem Kept.readPiece (h : Kept n s) {r : Req} {a : Word} {k : Nat} {b : Bool} : Kept n (s.readPiece r a k b).2 := by
  unfold State.readPiece
  split <;> rename_i hq <;> have h := h.locateAll.of_snd hq
  · exact h
  · exact .ite_snd h.readMarked h.readMarked
theorem Kept.readPieces (h : Kept n s) {r : Req} {a : Word} {l : List (Nat × Nat × Bool)} : Kept n (s.readPieces r a l).2 := by
  induction l generalizing s with
  | nil => exact h
  | cons x l ih =>
    unfold State.readPieces
    split <;> rename_i hq <;> have h := h.readPiece.of_snd hq
    · exact h
    · split <;> rename_i hr <;> exact (ih h).of_snd hr
theorem Kept.readPushes (h : Kept n s) {r : Req} {a : Word} {x : Hart} {c k o : Nat} : Kept n (s.readPushes r a x c k o).2 := by
  induction c generalizing s k o with
  | zero => exact h
  | succ c ih =>
    unfold State.readPushes
    split <;> rename_i hq <;> have h := h.readPiece.of_snd hq
    · exact h
    · dsimp only
      split <;> rename_i hq
      · exact Kept.of_snd (.ite_snd h h.readPiece) hq
      · have h := Kept.of_snd (.ite_snd h h.readPiece) hq
        split <;> rename_i hr <;> exact (ih h).of_snd hr
theorem Kept.vrestEff (h : Kept n s) {i : Instr} {xd : XReg} {a : Word} : KeptEff n (vrestEff i xd a s) := by
  unfold Machine.vrestEff
  dsimp only
  split <;> rename_i hq <;> have h := h.readPiece.of_snd hq
  · exact h.faultTrap
  · refine .ite h.wordTrap ?_
    split <;> rename_i hq <;> have h := h.readPieces.of_snd hq
    · exact h.faultTrap
    · split <;> rename_i hq <;> have h := h.readPushes.of_snd hq
      · exact h.faultTrap
      · exact h.upd.setX
theorem Kept.takeBoundary (h : Kept n s) : Kept n s.takeBoundary := by
  unfold State.takeBoundary
  split
  · exact .ite h.takePending h
  · exact h.heldAbort
  · exact h

/-! ## Messages to the pilot (R420 to R431) -/

theorem Kept.set_undock (h : Kept n s) {u : Option Undock} : Kept n { s with undock := u } := h.frame rfl
theorem Kept.request (h : Kept n s) {p : Nat} {g b : List Byte} (hq : s.request p g = some (b, t)) : Kept n t := by
  unfold State.request at hq
  split at hq
  · obtain ⟨x, -, hx⟩ := Option.map_eq_some_iff.1 hq
    cases hx
    exact h.set_hmb
  · cases hq
    exact h.wakeMgmt
  · obtain ⟨x, -, hx⟩ := Option.map_eq_some_iff.1 hq
    cases hx
    exact h.set_smb
  · cases hq
theorem Kept.respond (h : Kept n s) {p : Nat} {b : List Byte} : Kept n (s.respond p b) := by
  unfold State.respond
  split
  · exact h.set_hmb
  · exact h.set_smb
  · exact h.set_sent
theorem Kept.reply (h : Kept n s) {p : Nat} {b : List Byte} : Kept n (s.reply p b) := .ite h.set_pilot h.respond
theorem Kept.payOwed (h : Kept n s) : Kept n s.payOwed := Kept.foldl h.set_pilot fun _ _ h => h.reply
theorem Kept.serveAs (h : Kept n s) {ty : Nat} {ps : List Nat} {f : Nat → List Byte → List Byte → State → State}
    (hf : ∀ {p i b t}, Kept n t → Kept n (f p i b t)) : Kept n (State.serveAs ty ps f s) := by
  unfold State.serveAs
  split
  · refine .ite h ?_
    split <;> rename_i hq
    · exact h
    · have h' := h.request hq
      refine .ite h ?_
      split
      · exact h'.respond
      · exact .ite h'.respond (.ite h'.respond (hf h'))
  · exact h
theorem Kept.serve (h : Kept n s) {ty : Nat} {ps : List Nat} {f : List Byte → State → Nat × List Byte × State}
    (hf : ∀ {b t}, Kept n t → Kept n (f b t).2.2) : Kept n (State.serve ty ps f s) := h.serveAs fun h => (hf h).respond

end

section
variable {n m : Nat} {s s0 t : State}

/-! ### The services -/

theorem Kept.frameSet (h : Kept n s) {b : List Byte} : Kept n (frameSet b s).2.2 := by
  unfold Machine.frameSet
  split
  · split
    · exact h
    · dsimp only
      split <;> exact h.startChange
  · exact h
theorem Kept.queueBind (h : Kept n s) {b : List Byte} : Kept n (queueBind b s).2.2 := by
  unfold Machine.queueBind
  split
  · split
    · exact h
    · exact h.updQueue
  · exact h
theorem Kept.funcBind (h : Kept n s) {b : List Byte} : Kept n (funcBind b s).2.2 := by
  unfold Machine.funcBind
  split
  · split
    · exact h
    · split
      · exact h.updFunc
      · split
        · exact h
        · exact h.updFunc.noteFunc
  · exact h
theorem Kept.hartBind (h : Kept n s) {b : List Byte} : Kept n (hartBind b s).2.2 := by
  unfold Machine.hartBind
  split
  · split
    · exact h
    · exact h.bindHart
  · exact h
theorem Kept.partRead (h : Kept n s) {b : List Byte} : Kept n (partRead b s).2.2 := by
  unfold Machine.partRead
  split <;> exact h
theorem Kept.crewLoad (h : Kept n s) {b : List Byte} : Kept n (crewLoad b s).2.2 := by
  unfold Machine.crewLoad
  split
  · exact h.set_pilot
  · exact h
theorem Kept.startCrew (h : Kept n s) : Kept n s.startCrew := Kept.foldl h fun _ _ h => h.updHart
theorem Kept.quietCrew (h : Kept n s) : Kept n s.quietCrew := Kept.foldl h fun _ _ h => h.updHart
theorem Kept.handOver (h : Kept n s) : Kept n s.handOver := by
  unfold State.handOver
  split
  · exact h
  · exact .ite h.quietCrew h.quietCrew.set_pilot.startCrew.reply
theorem Kept.crewStart (h : Kept n s) {p : Nat} {i b : List Byte} : Kept n (crewStart p i b s) :=
  .ite h.respond (.ite h.respond (.ite h.set_pilot.handOver h.respond))
theorem Kept.pilotLoad (h : Kept n s) {b : List Byte} : Kept n (pilotLoad b s).2.2 := by
  unfold Machine.pilotLoad
  split
  · exact h.set_pilot
  · exact h
theorem Kept.pilotStage (h : Kept n s) {b : List Byte} : Kept n (pilotStage b s).2.2 := by
  unfold Machine.pilotStage
  split
  · exact h
  · dsimp only
    split
    · exact h.set_pilot
    · exact h
theorem Kept.set_undock_queues (h : Kept n s) {u : Option Undock} {q : Vector Queue 64} : Kept n { s with undock := u, queues := q } := h.frame rfl
theorem Kept.undockBegin (h : Kept n s) {k : Nat} : Kept n (s.undockBegin k) :=
  Kept.foldl h.set_undock_queues.updGangs fun _ _ h => h.updHart
theorem Kept.undockAsk (h : Kept n s) {b : List Byte} : Kept n (undockAsk b s).2.2 := by
  unfold Machine.undockAsk
  split
  · split
    · exact h
    · split
      · exact h.undockBegin
      · exact h
  · exact h
theorem Kept.disableBusy (h : Kept n s) : Kept n s.disableBusy := Kept.foldl h fun _ _ h => .ite h.writeGctl h
theorem Kept.undockStep (h : Kept n s) {u : Undock} {k : Nat} : Kept n (s.undockStep u k) := by
  unfold State.undockStep
  dsimp only
  split
  · exact .ite h.disableBusy.set_undock h
  · exact h.set_undock
  · exact h.frame rfl
  · exact .ite h.updateTable.set_undock h
  · exact h.frame rfl
  · exact h
theorem Kept.undockStatus (h : Kept n s) {b : List Byte} : Kept n (undockStatus b s).2.2 := by
  unfold Machine.undockStatus
  split
  · exact h
  · split <;> exact h
theorem Kept.logRead (h : Kept n s) {b : List Byte} : Kept n (logRead b s).2.2 := by
  unfold Machine.logRead
  split
  · split <;> exact h
  · exact h
theorem Kept.spdm (h : Kept n s) {r : SpdmRsp} : Kept n (s.spdm r) := by
  unfold State.spdm
  dsimp only
  split
  · exact h.frame rfl
  · exact h.fresh.set_sent
theorem Kept.attest (h : Kept n s) {c : Pilot → Bool} {f : List Byte → State → State} (hf : ∀ {b t}, Kept n t → Kept n (f b t)) :
    Kept n (s.attest c f) := by
  unfold State.attest
  split
  · refine .ite h ?_
    split <;> rename_i hq
    · exact h
    · exact .ite (hf (h.request hq)) (h.request hq).spdm
  · exact h
theorem Kept.pldm (h : Kept n s) {p : Nat} {f : State → State} (hf : ∀ {t}, Kept n t → Kept n (f t)) : Kept n (s.pldm p f) := by
  refine .ite h ?_
  split <;> rename_i hq
  · exact h
  · exact .ite (hf (h.request hq).fresh).set_hmb (hf (h.request hq))
theorem Kept.setCap (h : Kept n s) {k : Nat} : Kept n (s.setCap k) := .ite h.set_pilot h
theorem Kept.setClock (h : Kept n s) {d : Nat} {k : BitVec 4} : Kept n (s.setClock d k) := h.updDie.set_sent

/-! ## Power and takeover (R432 to R440) -/

theorem Kept.syncRecord (h : Kept n s) : Kept n s.syncRecord := .ite h h.set_pilot
theorem Kept.set_dies (h : Kept n s) {d : Vector Die 10} : Kept n { s with dies := d } := h.frame rfl
theorem Kept.train (h : Kept n s) {l : List Nat} : Kept n (s.train l) := (Kept.foldl h.set_dies fun _ _ h => h.setWave).updateTable
theorem Kept.startSoftware (h : Kept n s) : Kept n s.startSoftware := .ite h.startPilot.startCrew h.startPilot
theorem Kept.takenOver (h : Kept n s) : Kept n s.takenOver := by
  unfold State.takenOver
  extract_lets t
  have h : Kept n t := h.machineFault
  clear_value t
  exact h.withRest rfl fun _ he => nomatch he
theorem Kept.tellTakeover (h : Kept n s) : Kept n s.tellTakeover := h.msiAll
/-- Memory of a package that is started afresh is free of marks, and no write has been made. -/
theorem kept_powered (s : State) : Kept 0 s.powered :=
  Kept.of_parts rfl (fun _ hr => nomatch hr) (fun _ hx => nomatch hx) (fun _ he => nomatch he) le_rfl

/-! ## Collectives (R391 to R412) -/

theorem Kept.collPlace (h : Kept n s) {r : Req} {k : Kind} {va : Word} {w : Nat} : Kept n (s.collPlace r k va w).2 := by
  unfold State.collPlace
  split <;> rename_i hq <;> exact h.locate.of_snd hq
theorem Kept.readPieces2 (h : Kept n s) {r : Req} {l : List (Word × Nat)} : Kept n (s.readPieces2 r l).2 := by
  induction l generalizing s with
  | nil => exact h
  | cons x l ih =>
    unfold State.readPieces2
    split <;> rename_i hq <;> have h := h.collPlace.of_snd hq
    · exact h
    · dsimp only
      split <;> rename_i hr <;> exact (ih h.readAt).of_snd hr
theorem Kept.readSpan (h : Kept n s) {r : Req} {va : Word} {k : Nat} : Kept n (s.readSpan r va k).2 := h.readPieces2
theorem Kept.readBits (h : Kept n s) {r : Req} {va : Word} {o w : Nat} : Kept n (s.readBits r va o w).2 := by
  refine .ite_snd h ?_
  split <;> rename_i hq <;> exact h.readSpan.of_snd hq
theorem Kept.contribAt (h : Kept n s) {x : CollInst} {i : Nat} {c : CollCall} : Kept n (s.contribAt x i c).2 := by
  unfold State.contribAt
  dsimp only
  split
  · exact h
  · refine .ite_snd h (.ite_snd ?_ (.ite_snd h ?_))
    · split <;> rename_i hq <;> exact h.readSpan.of_snd hq
    · split <;> rename_i hq <;> have h := h.readBits.of_snd hq
      · exact h
      · refine .ite_snd ?_ h
        split <;> rename_i hr <;> exact h.readBits.of_snd hr
theorem Kept.contrib (h : Kept n s) {x : CollInst} {i : Nat} {c : CollCall} : Kept n (s.contrib x i c).2 :=
  h.backInsts h.now.ownView.contribAt
theorem Kept.contribs (h : Kept n s) {x : CollInst} {i : Nat} {cs : List CollCall} : Kept n (s.contribs x i cs).2 := by
  induction cs generalizing s with
  | nil => exact h
  | cons c cs ih =>
    unfold State.contribs
    split <;> rename_i hq <;> have h := h.contrib.of_snd hq
    · exact h
    · split <;> rename_i hr <;> exact (ih h).of_snd hr
theorem Kept.writePieces2 (h : Kept n s) {r : Req} {v p : Nat} {l : List (Word × Nat)} : Kept n (s.writePieces2 r v p l).2 := by
  induction l generalizing s v p with
  | nil => exact h
  | cons x l ih =>
    unfold State.writePieces2
    split <;> rename_i hq <;> have h := h.collPlace.of_snd hq
    · exact h
    · exact .ite_snd h (ih (.ite h.writeAt (Kept.foldl h.writeAt fun _ _ h => .ite h h.poisonAt)))
theorem Kept.writeBits (h : Kept n s) {r : Req} {va : Word} {o w v p : Nat} : Kept n (s.writeBits r va o w v p).2 := by
  refine .ite_snd h (.ite_snd h.writePieces2 ?_)
  split <;> rename_i hq <;> have h := h.readSpan.of_snd hq
  · exact h
  · exact h.writePieces2
theorem Kept.give (h : Kept n s) {x : CollInst} {k : Nat} {c : CollCall} {g : Given} : Kept n (s.give x k c g).2 := .ite_snd h.writeBits h
theorem Kept.giveAll (h : Kept n s) {x : CollInst} {k : Nat} {c : CollCall} {gs : List Given} : Kept n (s.giveAll x k c gs).2 := by
  induction gs generalizing s with
  | nil => exact h
  | cons g gs ih =>
    unfold State.giveAll
    split <;> rename_i hq <;> have h := h.give.of_snd hq
    · exact h
    · exact ih h
theorem Kept.giveCalls (h : Kept n s) {x : CollInst} {k : Nat} {rs : List (CollCall × List Given)} : Kept n (s.giveCalls x k rs).2 := by
  induction rs generalizing s with
  | nil => exact h
  | cons r rs ih =>
    unfold State.giveCalls
    split <;> rename_i hq <;> have h := h.giveAll.of_snd hq
    · exact h
    · exact ih h
theorem Kept.stage (h : Kept n s) {l : LaunchId} {t : BitVec 6} {pod k v p : Nat} : KeptOpt n (s.stage l t pod k v p) :=
  .ite h.opt (.ite .none (.some (.ite h.writeAt (Kept.foldl h.writeAt fun _ _ h => .ite h h.poisonAt))))

/-- What staging leaves: the state is kept, and the calls of the collective are the same. -/
def StartedFrom (n : Nat) (x : CollInst) (p : CollInst × State) : Prop := Kept n p.2 ∧ p.1.calls = x.calls

theorem Kept.stageCall (h : Kept n s) {x : CollInst} {i : Nat} {c : CollCall} {p : CollInst × State}
    (hp : s.stageCall x i c = some p) : StartedFrom n x p := by
  unfold State.stageCall at hp
  dsimp only at hp
  split at hp
  · rename_i hq
    obtain ⟨u, hu, rfl⟩ := Option.map_eq_some_iff.1 hp
    exact ⟨(h.contrib.of_snd hq).stage u hu, rfl⟩
  · cases hp
theorem Kept.startChunk (h : Kept n s) {x : CollInst} {i : Nat} {p : CollInst × State} (hp : s.startChunk x i = some p) :
    StartedFrom n x p := by
  refine List.foldlRecOn (motive := fun o => ∀ p, o = some p → StartedFrom n x p) _ _ ?_ (fun o ho c _ q hq => ?_) p hp
  · rintro _ ⟨⟩
    exact ⟨h, rfl⟩
  · split at hq
    · rename_i y u
      obtain ⟨hu, hy⟩ := ho _ rfl
      obtain ⟨hk, hc⟩ := Kept.stageCall hu hq
      exact ⟨hk, hc.trans hy⟩
    · cases hq
theorem CollInst.Past.of_calls {x y : CollInst} (h : x.Past n) (hy : y.calls = x.calls) : y.Past n := by
  unfold CollInst.Past
  rwa [hy]

theorem Kept.startSome (h : Kept n s) {x : CollInst} {k : Nat} (hx : x.Past n) : Kept n (State.startSome x k s) := by
  induction k generalizing s x with
  | zero => exact h.putInst hx
  | succ k ih =>
    unfold State.startSome
    split
    · exact h.putInst hx
    · refine .ite (h.putInst hx) ?_
      split <;> rename_i hq
      · obtain ⟨hk, hy⟩ := h.startChunk hq
        exact ih hk (hx.of_calls hy)
      · exact h.endInst hx
theorem Kept.startFree (h : Kept n s) {x : CollInst} (hx : x.Past n) : Kept n (s.startFree x) := h.fresh.startSome hx
theorem CollInst.Past.assign {x : CollInst} (h : x.Past n) (a : List (Nat × ChunkTree)) : CollInst.Past n { x with assign := a } := h
theorem Kept.begin_ (h : Kept n s) {x : CollInst} (hx : x.Past n) : Kept n (s.begin_ x) := by
  unfold State.begin_
  split
  · exact h.endInst hx
  · exact (h.putInst (hx.assign _)).startFree (hx.assign _)
theorem Kept.addInst (h : Kept n s) {x : CollInst} (hx : x.Past n) : Kept n { s with insts := s.insts ++ [x] } :=
  h.withInsts rfl fun y hy => by
    rcases List.mem_append.1 hy with hy | hy
    · exact h.insts_past y hy
    · rw [List.mem_singleton.1 hy]
      exact hx.mono h.le_wno
theorem Kept.inst_past (h : Kept n s) {l : LaunchId} {g k : Nat} {x : CollInst} (hx : s.inst l g k = some x) : x.Past s.wno :=
  h.insts_past x (List.mem_of_find?_eq_some hx)
theorem CollInst.Past.addCall {x : CollInst} (h : x.Past n) {c : CollCall} (hc : c.at_ ≤ n) : ∀ d ∈ x.calls ++ [c], d.at_ ≤ n := by
  intro d hd
  rcases List.mem_append.1 hd with hd | hd
  · exact h d hd
  · rwa [List.mem_singleton.1 hd]
theorem Kept.joinInst (h : Kept n s) {l : LaunchId} {g k : Nat} {c : CollCall} (hc : c.at_ ≤ s.wno) : Kept n (s.joinInst l g k c) := by
  refine Kept.mono (n := s.wno) ?_ h.le_wno
  unfold State.joinInst
  dsimp only
  split <;> rename_i hq
  · have hx : ∀ d ∈ [c], d.at_ ≤ s.wno := fun d hd => by rwa [List.mem_singleton.1 hd]
    refine .ite (Kept.begin_ (h.now.addInst ?_) ?_) (h.now.addInst ?_) <;> exact hx
  · have hx := (h.inst_past hq).addCall hc
    refine .ite (h.now.endInst ?_) (.ite (Kept.begin_ (h.now.putInst ?_) ?_) (h.now.putInst ?_)) <;> exact hx
theorem Kept.set_ends (h : Kept n s) {l : List CollEnd} : Kept n { s with ends := l } := h.frame rfl
theorem Kept.enterColl (h : Kept n s) {l : LaunchId} {g : Nat} {tk : Option (BitVec 3)} {rs : List Nat} {c : CollCall}
    (hc : c.at_ ≤ s.wno) : Kept n (s.enterColl l g tk rs c) := by
  unfold State.enterColl
  dsimp only
  split
  · exact h.upd.updStat.set_ends.upd
  · exact h.upd.upd.joinInst hc
theorem Kept.collEff (h : Kept n s) {i : Instr} {g : BitVec 6} {tk : Option (BitVec 3)} {xs : List XReg} {f : State → State}
    {a : CollAsk} (hf : ∀ {t}, Kept n t → Kept n (f t)) : KeptEff n (collEff i g tk xs f a s) := by
  unfold Machine.collEff
  dsimp only
  split
  · exact h.wordTrap
  · refine .ite h.wordTrap (h.reading fun h => ?_)
    have h := hf h
    refine .ite h.wordTrap (.ite h.trapAt (.ite h.trapAt (.ite h (.ite h ?_))))
    refine Kept.enterColl h ?_
    split <;> exact le_rfl
theorem Kept.collStatEff (h : Kept n s) {xd xa : XReg} {g : BitVec 6} {b : Bool} : KeptEff n (collStatEff xd xa g b s) := by
  unfold Machine.collStatEff
  dsimp only
  split
  · exact .ite h.setX (Kept.setX (.ite h.updStat h))
  · exact h.setX
theorem Kept.complete (h : Kept n s) {x : CollInst} {rs : List (CollCall × List Given)} : Kept n (s.complete x rs) :=
  Kept.settle (Kept.foldl (Kept.foldl h.dropInst.updStats fun _ _ h => h.updRank) fun _ _ h => h.updRank)
theorem CollInst.Past.mark {x : CollInst} (h : x.Past n) (l : List Nat) (k : List Staged) :
    CollInst.Past n { x with marked := l, slots := k } := h
theorem Kept.performChunk (h : Kept n s) {x : CollInst} {i : Nat} {tr : ChunkTree} {ps : List PkgPart} (hx : x.Past n) :
    Kept n (s.performChunk x i tr ps) := by
  unfold State.performChunk
  dsimp only
  split
  · have h := h.contribs.of_snd ‹s.contribs x i x.calls = _›
    have hb := fun {k rs} => h.backInsts ((h.now.ownView (x := x)).giveCalls (x := x) (k := k) (rs := rs))
    split
    · exact hb.endInst hx
    · exact .ite hb.updStats.complete (Kept.startFree (hb.updStats.putInst (hx.mark _ _)) (hx.mark _ _))
  · exact (h.contribs.of_snd ‹s.contribs x i x.calls = _›).endInst hx
theorem Kept.finishEmpty (h : Kept n s) {x : CollInst} (hx : x.Past n) : Kept n (s.finishEmpty x) := by
  unfold State.finishEmpty
  split <;> rename_i hq <;> have h := h.contribs.of_snd hq
  · exact h.updStats.complete
  · exact h.endInst hx
theorem Kept.markChunk (h : Kept n s) {x : CollInst} {i : Nat} {ps : List PkgPart} (hx : x.Past n) : Kept n (s.markChunk x i ps) := by
  refine .ite h (.ite h (.ite (h.finishEmpty hx) (.ite h ?_)))
  split
  · exact h
  · refine .ite h (.ite (h.performChunk hx) (.ite h ?_))
    split <;> rename_i hq
    · obtain ⟨hk, hy⟩ := h.startChunk hq
      exact Kept.performChunk (Kept.putInst hk (hx.of_calls hy)) (hx.of_calls hy)
    · exact h.endInst hx
theorem Kept.recompute (h : Kept n s) {x : CollInst} (hx : x.Past n) : Kept n (s.recompute x) := by
  refine .ite ?_ h
  split
  · exact (h.endInst hx).settle
  · exact (h.putInst (hx.assign _)).updStats

/-! ## The matrix unit, the weight store and the windows (R207 to R240, R259 to R265) -/

theorem Kept.unlist (h : Kept n s) {k : BitVec 20} : Kept n (s.unlist k) := h.updCluster
theorem Kept.enlist (h : Kept n s) {w : Waiter} : Kept n (s.enlist w) := h.updCluster
theorem Kept.matt (h : Kept n s) {r : Nat} : Kept n (s.matt r) :=
  .ite h.unlist.upd.passRows (.ite h.upd.enlist h.upd.unlist.passRows)
theorem Kept.expireWaiter (h : Kept n s) {k : BitVec 20} : Kept n (s.expireWaiter k) := by
  unfold State.expireWaiter
  split
  · exact h
  · exact .ite h.unlist.passRows h
theorem Kept.putStat (h : Kept n s) {t f : Nat} {b : Bool} : Kept n (s.putStat t f b) := h.putBytes
theorem Kept.meetTile (h : Kept n s) {t vl vh : Nat} {b : Bool} : Kept n (s.meetTile t vl vh b) :=
  .ite h (Kept.foldl h fun _ _ h => h.meetErrors)
theorem Kept.putTile (h : Kept n s) {t vl v k : Nat} : Kept n (s.putTile t vl v k) := by
  induction k with
  | zero => exact h
  | succ k ih => exact ih.store
theorem Kept.enterMatrix (h : Kept n s) {w : MxWork} {tk : Option (BitVec 3)} : KeptEff n (enterMatrix w tk s) := h.upd
theorem Kept.mmaReads (h : Kept n s) {o : MmaOp} : Kept n (s.mmaReads o) := by
  unfold State.mmaReads
  dsimp only
  have ha : Kept n (match o.a with
    | .unf d p => if s.errs.isEmpty then s else
      ((List.range (o.vh * o.vl)).filterMap (fun e => (unfoldOf d).entry (p.toNat + e / o.vl) (e % o.vl))).eraseDups.foldl
        (fun s i => s.meetErrors s.hart.launch ((unfoldOf d).base.toNat % 2 ^ 45 + i * tagWidth (unfoldOf d).tag / 8)
          ((i * tagWidth (unfoldOf d).tag % 8 + tagWidth (unfoldOf d).tag + 7) / 8)) s
    | .reg .. => s) := by
    split
    · exact .ite h (Kept.foldl h fun _ _ h => h.meetErrors)
    · exact h
  split
  · exact ha.meetErrors.updDie
  · exact ha
theorem Kept.mma (h : Kept n s) {o : MmaOp} : Kept n (s.mma o) :=
  Kept.foldl (Kept.putStat (Kept.foldl h.mmaReads.meetTile fun _ _ h => h.putBytes)) fun _ _ h => .ite h.poisonAt h
theorem Kept.matrixNext (h : Kept n s) : Kept n s.matrixNext := by
  unfold State.matrixNext
  split
  · exact h
  · dsimp only
    split
    · exact .ite h.mma.upd.endHart h.mma.upd
    · exact .ite h.meetTile.putTile.putStat.upd.endHart h.meetTile.putTile.putStat.upd
    · exact .ite h.meetTile.putTile.putStat.upd.endHart h.meetTile.putTile.putStat.upd
theorem Kept.putFp (h : Kept n s) {b : Bool} {r : BitVec 2} {xd : XReg} {v : Exact × Flags} : Kept n (s.putFp b r xd v) :=
  h.fpEffect.setX
theorem Kept.settleBytes (h : Kept n s) {a k : Nat} : Kept n (s.settleBytes a k) := by
  induction k generalizing s a with
  | zero => exact h
  | succ k ih => exact ih h.putByte
theorem Kept.putWs (h : Kept n s) {d o k v : Nat} : Kept n (s.putWs d o k v) := h.settleBytes.meetErrors.store.markNear
theorem Kept.settleBerths (h : Kept n s) {d o k : Nat} : Kept n (s.settleBerths d o k) := Kept.foldl h fun _ _ h => h.cutIndet
theorem Kept.wsldPieces (h : Kept n s) {xd xa xb : XReg} {k : Nat} : Kept n (wsldPieces xd xa xb k s).2 := by
  induction k generalizing s with
  | zero => exact h
  | succ k ih =>
    unfold Machine.wsldPieces
    dsimp only
    split <;> rename_i hq <;> have h := h.locateAll.of_snd hq
    · exact h
    · exact .ite_snd h.readAll (ih h.readAll.putWs.setX.setX.setX)
theorem Kept.updBerth (h : Kept n s) {d b : Nat} {f : Berth → Berth} : Kept n (s.updBerth d b f) := h.updDie
theorem Kept.fillBerth (h : Kept n s) {d b : Nat} {t : BitVec 6} {e : BitVec 32} {o : Option LaunchId} :
    Kept n (s.fillBerth d b t e o) := by
  unfold State.fillBerth
  exact Kept.updBerth (.ite h h.zeroRange)
theorem Kept.readyBerth (h : Kept n s) {d b : Nat} : Kept n (s.readyBerth d b) := h.cutIndet.updBerth
theorem Kept.emptyBerth (h : Kept n s) {d b : Nat} : Kept n (s.emptyBerth d b) := h.updBerth
theorem Kept.berthGet (h : Kept n s) {e : BitVec 32} : Kept n (s.berthGet e).2 := by
  unfold State.berthGet
  dsimp only
  split
  · exact h
  · split
    · exact h
    · exact h.fillBerth
theorem Kept.dropWindow (h : Kept n s) {w : Win} : Kept n (s.dropWindow w) := h.fresh.dropCopies
theorem Kept.setWin (h : Kept n s) {i : BitVec 2} {w : Option Win} : Kept n (s.setWin i w) := h.upd
theorem Kept.closeWin (h : Kept n s) {i : BitVec 2} : Kept n (s.closeWin i) := by
  unfold State.closeWin
  split
  · exact h.dropWindow.setWin
  · exact h
end

end Sys2Proof.Machine
end

section
/-! SUPPORT. The same for every instruction and event, and for the step (O60). -/

namespace Sys2Proof.Machine
open Sys2Proof

section
variable {n m : Nat} {s s0 t : State}

/-! ## Instructions of several cases -/

theorem KeptOut.next (h : Kept n s) : KeptOut n (.next s) := h

theorem Kept.execLd (h : Kept n s) {g : Hdr} {xd : XReg} {m : MemOp} {z : BitVec 2} {b : Bool} : KeptOut n (execLd g xd m z b s) := by
  refine h.issue fun h => ?_
  split
  · exact h.setX
  · exact h.loadEff
theorem Kept.execClaim (h : Kept n s) {g : Hdr} {xd xa : XReg} : KeptOut n (execClaim g xd xa s) := by
  refine h.issue fun h => ?_
  split
  · exact h.setX.setX
  · exact h.updLaunch.settle.upd.setX.setX
theorem Kept.execGbarArr (h : Kept n s) {g : Hdr} {sc : Scope} {xd : XReg} : KeptOut n (execGbarArr g sc xd s) := by
  refine h.issue fun h => ?_
  split
  · exact h.fresh.setX
  · exact Kept.setX (.ite h h.updBar)
theorem Kept.execGbarWait (h : Kept n s) {g : Hdr} {sc : Scope} {xa : XReg} : KeptOut n (execGbarWait g sc xa s) := by
  refine h.issue fun h => ?_
  split
  · exact h
  · exact .ite h h
theorem Kept.execExit (h : Kept n s) {g : Hdr} : KeptOut n (execExit g s) :=
  h.issue fun h => .ite (.ite h.parkHart h) (.ite h.takePending (.ite (Kept.endHart (.ite h.upd h)) (Kept.ite h.upd h)))
theorem Kept.execWaitm (h : Kept n s) {g : Hdr} {sc : Scope} {xd xa xb : XReg} {k : BitVec 16} :
    KeptOut n (execWaitm g sc xd xa xb k s) := by
  refine h.issue fun h => .ite h.trapAt ?_
  split <;> rename_i hq <;> have h := h.load.of_snd hq
  · exact h.faultTrap
  · exact .ite h.trapAt (.ite h.setX h)
theorem Kept.execYield (h : Kept n s) {g : Hdr} {xd : XReg} : KeptOut n (execYield g xd s) := by
  refine h.issue fun h => ?_
  split
  · refine .ite h.setX ?_
    split
    · exact h.preemptGangs.setX
    · exact h.setX
  · exact h.setX
theorem Kept.execTinv (h : Kept n s) {wm : BitVec 8} {sc : Scope} {b : Bool} {t : BitVec 6} {xa xb : XReg} :
    KeptOut n (execTinv wm sc b t xa xb s) := h.issue fun h => .ite h.wordTrap h.set_tlb
theorem Kept.saved {xd : XReg} {p : Except MemFault Unit × State} : Kept n p.2 →
    KeptEff n (match p with
      | (.error f, s) => Machine.faultTrap f s
      | (.ok _, s) => .done (s.setX xd (BitVec.ofNat 64 (areaLen s.hart)))) := by
  intro h
  obtain ⟨_ | u, t⟩ := p
  · exact h.faultTrap
  · exact Kept.setX h
theorem Kept.execVsave (h : Kept n s) {wm : BitVec 8} {xd xa xb : XReg} : KeptOut n (execVsave wm xd xa xb s) := by
  refine h.issue fun h => .ite h.trapAt (.ite h (.ite h.setX (h.reading fun h => ?_)))
  dsimp only
  exact .ite h.touchContext.wordTrap (Kept.saved h.touchContext.withdraw.writePieces)
theorem Kept.csrIssue (h : Kept n s) {i : Instr} {g : Hdr} {xd : XReg} {c : BitVec 12} {xs : List XReg} {w r : Bool}
    {f : State → Word → Word} : KeptOut n (csrIssue i g xd c xs w r f s) := by
  have hgo : ∀ r : Bool, KeptOut n (Machine.issue i true .all g xs [] (fun s =>
      .done ((if r then s.setCsr c.toNat (f s (s.csr c.toNat)) else s).setX xd (s.csr c.toNat))) s) :=
    fun r => h.issue fun h => Kept.setX (.ite h.setCsr h)
  refine .ite (.finish h.wordTrap) ?_
  split
  · exact .finish h.wordTrap
  · exact .finish h.wordTrap
  · exact .ite (.finish h.wordTrap) (hgo _)
  · exact hgo _

/-! ### Vector instructions -/

theorem Kept.execVgthCl (h : Kept n s) {g : Hdr} {vd vb : VReg} {xa : XReg} {z : BitVec 2} {t : VmTail} :
    KeptOut n (execVgthCl g vd xa vb z t s) :=
  h.vecIssueOr (fun h => h.vmBad) fun h => h.readingIndex (fun h => h.vmBad) fun h =>
    .ite h.enqueueNb (Kept.vmEnd (Kept.upd (h.runEach fun h => h.clGuard fun h => h.loadElem)))
theorem Kept.execVsctCl (h : Kept n s) {g : Hdr} {vs vb : VReg} {xa : XReg} {z : BitVec 2} {t : VmTail} :
    KeptOut n (execVsctCl g vs xa vb z t s) := by
  refine h.vecIssueOr (fun h => h.vmBad) fun h => h.readingIndex (fun h => h.vmBad) fun h =>
    .ite h.touchV.enqueueNb (.ite h.touchV.wordTrap (Kept.vmEnd (h.touchV.runEach fun h => h.clGuard fun h => ?_)))
  split <;> rename_i hq <;> exact h.storeElem.of_snd hq
theorem Kept.execVldw (h : Kept n s) {g : Hdr} {vd : VReg} {xa xb : XReg} {t : VmTail} : KeptOut n (execVldw g vd xa xb t s) :=
  h.vecIssue rfl fun h => .ite h.touchV.wordTrap h.touchV.upd.runLoads
theorem KeptEff.drained {e : Eff} {b : Bool} : KeptEff n e → KeptEff n (match e with
    | .done s => .done (if b then s.nbDrain else s)
    | e => e) := by
  intro h
  cases e with
  | done s => exact Kept.ite (Kept.nbDrain (s := s) h) h
  | goto p s | wait s | trap r s | whole s => exact h
theorem Kept.vatomIssue (h : Kept n s) {i : Instr} {g : Hdr} {op : Nat} {nr : Bool} {vd vb : VReg} {xa : XReg} {z : BitVec 2}
    {d : Ord} {t : VmTail} : KeptOut n (vatomIssue i g op nr vd xa vb z d t s) := by
  refine h.vecIssueOr (fun h => h.vmBad) fun h => h.readingIndex (fun h => h.vmBad) fun {u} h => ?_
  have ht : ∀ {v2 w w2 es}, Kept n (if op == 8 then (u.touchV vd.toNat w es).touchV v2 w2 es else u.touchV vd.toNat w es) :=
    .ite h.touchV.touchV h.touchV
  refine .ite ?_ (.ite ht.wordTrap ?_)
  · exact KeptEff.drained ht.enqueueNb
  · refine Kept.vmEnd (.ite (ht.runEach fun h => ?_) (Kept.upd (ht.runEach fun h => ?_)))
    all_goals split <;> rename_i hq <;> exact h.atomElem.of_snd hq
theorem Kept.execVstm (h : Kept n s) {g : Hdr} {vs : VReg} {xa : XReg} {r : BitVec 2} {t : VmTail} :
    KeptOut n (execVstm g vs xa r t s) := by
  refine h.vecIssueOr (fun h => h.vmBad) fun h => .ite h.touchV.enqueueNb (.ite h.touchV.wordTrap
    (Kept.vmEnd (h.touchV.runSpans fun h => ?_)))
  split <;> rename_i hq <;> exact h.storeReplicas.of_snd hq
theorem Kept.execVcmp (h : Kept n s) {g : Hdr} {c : VCond} {pd : PReg} {a b : VSrc} : KeptOut n (execVcmp g c pd a b s) :=
  h.vecIssue rfl fun h => .ite h.touchV.touchV.wordTrap h.touchV.touchV.setP.vdone
theorem Kept.topkIssue (h : Kept n s) {i : Instr} {b : Bool} {g : Hdr} {vd va : VReg} {xb : XReg} {pm : PReg} :
    KeptOut n (topkIssue i b g vd va xb pm s) := h.vecIssue rfl fun h => .ite h.touchV.wordTrap h.touchV.upd.setP.vdone
theorem Kept.execVcvt (h : Kept n s) {g : Hdr} {vd : VReg} {a : VSrc} {b : Bool} {r : BitVec 2} : KeptOut n (execVcvt g vd a b r s) :=
  h.vecIssue rfl fun h => .ite (.ite h.touchBits.wordTrap h.touchBits.upd.raise.advanceSeed.vdone) h.touchBits.runElems
theorem Kept.execVpush (h : Kept n s) {wm : BitVec 8} {sc : Scope} {vs : VReg} {xa : XReg} {tc : BitVec 3} {b : Bool} :
    KeptOut n (execVpush wm sc vs xa tc b s) :=
  h.vecIssue rfl fun h => .ite h.wordTrap (.ite h h.touchV.upd.sendPushes.vdone)
theorem Kept.vfesIssue (h : Kept n s) {i : Instr} {wm : BitVec 8} {xd : XReg} {vm : VReg} {b : Option Bool} :
    KeptOut n (vfesIssue i wm xd vm b s) := h.vecIssue rfl fun h => h.upd.setX.vdone

/-! ### The matrix unit, the weight store and collectives -/

theorem Kept.execMaccSt (h : Kept n s) {g : Hdr} {vd : VReg} {ta : AReg} {xs : XReg} {tk : Option (BitVec 3)} :
    KeptOut n (execMaccSt g vd ta xs tk s) :=
  h.vecIssue rfl fun h => .ite h (.ite h.meetTile.wordTrap h.meetTile.upd.setX)
theorem Kept.execMepi (h : Kept n s) {g : Hdr} {vd vb vs : VReg} {ta : AReg} {tk : Option (BitVec 3)} {b c d : Bool}
    {r a : BitVec 2} : KeptOut n (execMepi g vd ta vb vs tk b r a c d s) := by
  refine h.vecIssue rfl fun {u} h => .ite h ?_
  have hs : ∀ {w es}, Kept n (if c then (u.meetTile ta.toNat u.hart.vl u.hart.vh).touchV vs.toNat w es
      else u.meetTile ta.toNat u.hart.vl u.hart.vh) := .ite h.meetTile.touchV h.meetTile
  exact .ite (Kept.wordTrap (.ite hs.touchV hs)) (Kept.advanceSeed (Kept.raise (Kept.upd (.ite hs.touchV hs))))
theorem Kept.execMunf (h : Kept n s) {g : Hdr} {xa : XReg} : KeptOut n (execMunf g xa s) := by
  refine h.vecIssue rfl fun h => .ite h.trapAt ?_
  split <;> rename_i hq <;> have h := h.load.of_snd hq
  · exact h.faultTrap
  · refine .ite h.trapAt (.ite h.wordTrap ?_)
    split
    · exact h.trapAt
    · exact h.upd
theorem Kept.execMma (h : Kept n s) {g : Hdr} {ta : AReg} {ma mb : BitVec 6} {ms : VReg} {tk : Option (BitVec 3)} {a b c d : Bool} :
    KeptOut n (execMma g ta ma mb ms tk a b c d s) := by
  refine h.vecIssue rfl fun h => .ite h.wordTrap ?_
  dsimp only
  split
  · exact h.trapAt
  · refine Kept.enterMatrix ?_
    have ht : ∀ {n s} {c : Bool} {v w : Nat} {es : List Nat}, Kept n s → Kept n (if c then s.touchV v w es else s) := fun h => .ite h.touchV h
    have hf : ∀ {n s} {c : Bool} {v w : Nat} {es : List Nat}, Kept n s → Kept n (if c then s else s.touchV v w es) := fun h => .ite h h.touchV
    exact ht (ht (hf (hf h)))
theorem Kept.loaderOnly (h : Kept n s) {i : Instr} {f : State → Host.Outcome State Fault Refusal} (hf : KeptOut n (f s)) :
    KeptOut n (loaderOnly i f s) := .ite hf (.finish h.wordTrap)
theorem Kept.execWsld (h : Kept n s) {g : Hdr} {xd xa xb : XReg} {tk : Option (BitVec 3)} : KeptOut n (execWsld g xd xa xb tk s) := by
  refine h.loaderOnly (h.vecIssue rfl fun h => .ite h.wordTrap (.ite h.trapAt ?_))
  split
  · exact h.trapAt
  · dsimp only
    split <;> rename_i hq <;> have h := h.settleBerths.wsldPieces.of_snd hq
    · exact h
    · exact .ite h.upd.takePending h
theorem Kept.wsberth (h : Kept n s) {i : Instr} {g : Hdr} {xd xa : XReg} {f : Word → State → Word × State}
    (hf : ∀ {a t}, Kept n t → Kept n (f a t).2) : KeptOut n (wsberth i g xd xa f s) :=
  h.loaderOnly (h.vecIssue rfl fun h => Kept.setX (.ite_snd (hf h) h))
theorem Kept.execWinv (h : Kept n s) {g : Hdr} {w : BitVec 2} : KeptOut n (execWinv g w s) := by
  refine h.vecIssue rfl fun h => ?_
  split
  · exact h.dropWindow.setWin
  · exact h
theorem Kept.collRegIssue (h : Kept n s) {i : Instr} {wm : BitVec 8} {g : BitVec 6} {tk : Option (BitVec 3)} {k : CollKind} {op : COp}
    {vd va : VReg} {xb : XReg} : KeptOut n (collRegIssue i wm g tk k op vd va xb s) :=
  h.vecIssue rfl fun h => h.collEff fun h => .ite h.touchV.touchV h.touchV
theorem Kept.collMemIssue (h : Kept n s) {i : Instr} {wm : BitVec 8} {g : BitVec 6} {tk : Option (BitVec 3)} {k : CollKind} {op : COp}
    {xd xa xb : XReg} : KeptOut n (collMemIssue i wm g tk k op xd xa xb s) := h.vecIssue rfl fun h => h.collEff id

/-! ## Events -/

theorem Kept.execNonInstructionWord (h : Kept n s) {w : Word} : KeptOut n (execNonInstructionWord w s) := .ite (.finish h.trapAt) h
theorem Kept.execInstructionFetchFault (h : Kept n s) : KeptOut n (execInstructionFetchFault s) := by
  refine .ite ?_ h
  split <;> rename_i hq
  · exact .finish (h.fetch.of_snd hq).faultTrap
  · exact h
theorem Kept.execStreamDispatch (h : Kept n s) : KeptOut n (execStreamDispatch s) := by
  unfold Machine.execStreamDispatch
  split
  exacts [h.dispatch, h]
theorem Kept.execStreamGranule (h : Kept n s) : KeptOut n (execStreamGranule s) := by
  unfold Machine.execStreamGranule
  split
  exacts [h.granule, h]
theorem Kept.execLoadElementArrival (h : Kept n s) : KeptOut n (execLoadElementArrival s) := by
  unfold Machine.execLoadElementArrival
  split
  exacts [h.onHart fun h => h.nbElem, h]
theorem Kept.execNbRetire (h : Kept n s) : KeptOut n (execNbRetire s) := by
  unfold Machine.execNbRetire
  split
  exacts [h.onHart fun h => h.nbElems.upd, h]
theorem Kept.execEfactResume (h : Kept n s) : KeptOut n (execEfactResume s) := by
  unfold Machine.execEfactResume
  split
  exacts [h.writeEfact, h]
theorem Kept.execEfactAbandon (h : Kept n s) : KeptOut n (execEfactAbandon s) := by
  unfold Machine.execEfactAbandon
  split
  exacts [h.writeEfact, h]
theorem Kept.execPushArrival (h : Kept n s) : KeptOut n (execPushArrival s) := by
  unfold Machine.execPushArrival
  split
  exacts [h.pushArrive, h]
theorem Kept.execPushRetry (h : Kept n s) : KeptOut n (execPushRetry s) := by
  unfold Machine.execPushRetry
  split
  exacts [.next (.ite h.sendPushes.pushArrive h), h]
theorem Kept.execPushReservationExpire (h : Kept n s) : KeptOut n (execPushReservationExpire s) := by
  unfold Machine.execPushReservationExpire
  split
  exacts [h.updHart, h]
theorem Kept.execHomeAccess (h : Kept n s) : KeptOut n (execHomeAccess s) := by
  unfold Machine.execHomeAccess
  split
  exacts [h.outAccess, h]
theorem Kept.execRemoteAtomicArrival (h : Kept n s) : KeptOut n (execRemoteAtomicArrival s) := by
  unfold Machine.execRemoteAtomicArrival
  split
  · refine .next ?_
    split
    exacts [h.arrive, h.arrive, h]
  · exact h
theorem Kept.execFabricPacketReceive (h : Kept n s) : KeptOut n (execFabricPacketReceive s) := by
  unfold Machine.execFabricPacketReceive
  split
  exacts [h.receivePacket, h]
theorem Kept.execTransportResend (h : Kept n s) : KeptOut n (execTransportResend s) := by
  unfold Machine.execTransportResend
  split
  exacts [h.set_outbox, h]
theorem Kept.execRequestTimeout (h : Kept n s) : KeptOut n (execRequestTimeout s) := by
  unfold Machine.execRequestTimeout
  split
  exacts [h.timeoutPush, h]
theorem Kept.execStoredDataError (h : Kept n s) : KeptOut n (execStoredDataError s) := by
  unfold Machine.execStoredDataError
  split
  · refine .next ?_
    split
    exacts [h.strikeHbm, h.strikeCopy, h.strikeLocal, .ite h h.strikeState, .ite h h.updHart]
  · exact h
theorem Kept.set_gran_errs (h : Kept n s) {g : Tab Bool} {e : List StoredErr} : Kept n { s with gran := g, errs := e } := h.frame rfl
theorem Kept.execScrubError (h : Kept n s) : KeptOut n (execScrubError s) := by
  unfold Machine.execScrubError
  split
  exacts [.next (.ite h (.ite h.set_gran_errs.logErr h.set_gran_errs.detectErr)), h]
theorem Kept.execMigrationStart (h : Kept n s) : KeptOut n (execMigrationStart s) := by
  unfold Machine.execMigrationStart
  split
  exacts [h.writeMigctl, h]
theorem Kept.execMigrationFree (h : Kept n s) : KeptOut n (execMigrationFree s) := by
  unfold Machine.execMigrationFree
  split
  exacts [h.writeMigctl, h]
theorem Kept.execMigrationLineMove (h : Kept n s) : KeptOut n (execMigrationLineMove s) := by
  unfold Machine.execMigrationLineMove
  split
  exacts [h.moveLine, h]
theorem Kept.execLaunchPortWrite (h : Kept n s) : KeptOut n (execLaunchPortWrite s) := by
  unfold Machine.execLaunchPortWrite
  split
  exacts [.next (.ite h.launchPort h), h]
theorem Kept.execNoteWrite (h : Kept n s) : KeptOut n (execNoteWrite s) := by
  unfold Machine.execNoteWrite
  split
  exacts [.next (.ite h.writeNote h), h]
theorem Kept.execRegisterWrite (h : Kept n s) : KeptOut n (execRegisterWrite s) := by
  unfold Machine.execRegisterWrite
  split
  exacts [.next (.ite h (.ite (h.sysWrite.getD h) (.ite h.bar2Write h))), h]
theorem Kept.execHostWindowAccess (h : Kept n s) : KeptOut n (execHostWindowAccess s) := by
  unfold Machine.execHostWindowAccess
  split
  exacts [.next (.ite h.hostAccess h), h]
theorem Kept.execMailboxGo (h : Kept n s) : KeptOut n (execMailboxGo s) := by
  unfold Machine.execMailboxGo
  split
  · refine .next ?_
    split
    exacts [h.writeHmb, h.sysWrite2, h]
  · exact h
theorem Kept.execMailboxReadyClear (h : Kept n s) : KeptOut n (execMailboxReadyClear s) := by
  unfold Machine.execMailboxReadyClear
  split
  · refine .next ?_
    split
    exacts [h.writeHmb, h.sysWrite2, h]
  · exact h
theorem Kept.set_port1 (h : Kept n s) {b : Bool} : Kept n { s with port1 := b } := h.frame rfl
theorem Kept.execPciePortFailover (h : Kept n s) : KeptOut n (execPciePortFailover s) := .next (.ite h h.set_port1.msiAll)
theorem Kept.execDieFlitReceive (h : Kept n s) : KeptOut n (execDieFlitReceive s) := by
  unfold Machine.execDieFlitReceive
  split
  exacts [h.receiveFlit, h]
theorem Kept.execWavelengthRetrainTrigger (h : Kept n s) : KeptOut n (execWavelengthRetrainTrigger s) := by
  unfold Machine.execWavelengthRetrainTrigger
  split
  exacts [.next (.ite h.setWave.retrain h.setWave), h]
theorem Kept.execWlctlForce (h : Kept n s) : KeptOut n (execWlctlForce s) := by
  unfold Machine.execWlctlForce
  split
  exacts [h.forceWave, h]
theorem Kept.execWlctlOffSet (h : Kept n s) : KeptOut n (execWlctlOffSet s) := by
  unfold Machine.execWlctlOffSet
  split
  exacts [h.offWave, h]
theorem Kept.execWlctlOffClear (h : Kept n s) : KeptOut n (execWlctlOffClear s) := by
  unfold Machine.execWlctlOffClear
  split
  exacts [h.onWave, h]
theorem Kept.execWavelengthFlitBoundary (h : Kept n s) : KeptOut n (execWavelengthFlitBoundary s) := by
  unfold Machine.execWavelengthFlitBoundary
  split
  exacts [h.updStrandWaves, h]
theorem Kept.execWavelengthTrainingDone (h : Kept n s) : KeptOut n (execWavelengthTrainingDone s) := by
  unfold Machine.execWavelengthTrainingDone
  split
  exacts [h.setWave, h]
theorem Kept.execFabricLaneFailure (h : Kept n s) : KeptOut n (execFabricLaneFailure s) := by
  unfold Machine.execFabricLaneFailure
  split
  · exact Kept.setPg (.ite h.dropFlight h)
  · exact h
theorem Kept.execGrantCrcCheck (h : Kept n s) : KeptOut n (execGrantCrcCheck s) := by
  unfold Machine.execGrantCrcCheck
  split
  exacts [.next (.ite h h.dropFlight.setPg), h]
theorem Kept.execPortGroupResetDone (h : Kept n s) : KeptOut n (execPortGroupResetDone s) := by
  unfold Machine.execPortGroupResetDone
  split
  exacts [h.setPg, h]
theorem Kept.execPortGroupLost (h : Kept n s) : KeptOut n (execPortGroupLost s) := by
  unfold Machine.execPortGroupLost
  split
  exacts [h.loseGroup, h]
theorem Kept.execMachineFault (h : Kept n s) : KeptOut n (execMachineFault s) := by
  unfold Machine.execMachineFault
  split
  exacts [h.updDie.machineFault, h.machineFault]
theorem Kept.execSchedulerReservation (h : Kept n s) : KeptOut n (execSchedulerReservation s) := by
  refine .next ?_
  split
  exacts [h.reserve, h]
theorem Kept.execPreemptSelection (h : Kept n s) : KeptOut n (execPreemptSelection s) := by
  refine .next ?_
  split
  exacts [h.preemptFor, h]
theorem Kept.execCoresidentPreemptSelection (h : Kept n s) : KeptOut n (execCoresidentPreemptSelection s) := by
  refine .next ?_
  split
  exacts [h.preemptForAll, h]
theorem Kept.resumeFirst (h : Kept n s) {gs : List Gang} : KeptOpt n (gs.findSome? s.resumeWith) := by
  intro t ht
  obtain ⟨g, -, hg⟩ := List.exists_of_findSome?_eq_some ht
  exact h.resumeWith t hg
theorem Kept.execGangResume (h : Kept n s) : KeptOut n (execGangResume s) := by
  unfold Machine.execGangResume
  split
  · exact h.welcome
  · exact .next (.ite h (h.resumeFirst.getD h))
theorem Kept.execQabort (h : Kept n s) : KeptOut n (execQabort s) := by
  unfold Machine.execQabort
  split
  exacts [h.abortLaunch, h]
theorem Kept.execQctlHaltedClear (h : Kept n s) : KeptOut n (execQctlHaltedClear s) := by
  unfold Machine.execQctlHaltedClear
  split
  exacts [.next (.ite h.clearHalted h), h]
theorem Kept.set_agenda (h : Kept n s) {l : List Turn} : Kept n { s with agenda := l } := h.frame rfl
theorem Kept.execLaneGroupIssue (h : Kept n s) : KeptOut n (execLaneGroupIssue s) := by
  unfold Machine.execLaneGroupIssue
  split
  · split
    · split
      exacts [h.updCore.set_agenda, h]
    · exact h
  · exact h
theorem Kept.execFrameClassChange (h : Kept n s) : KeptOut n (execFrameClassChange s) := by
  unfold Machine.execFrameClassChange
  split
  exacts [h.changeFrame, h]
theorem Kept.execTrapEntry (h : Kept n s) : KeptOut n (execTrapEntry s) := by
  unfold Machine.execTrapEntry
  split
  exacts [h.onHart fun h => .ite h.takeBoundary h.upd, h]
theorem Kept.execTrapReport (h : Kept n s) : KeptOut n (execTrapReport s) := by
  unfold Machine.execTrapReport
  split
  exacts [h.postReport, h]
theorem Kept.execTresResume (h : Kept n s) : KeptOut n (execTresResume s) := by
  unfold Machine.execTresResume
  split
  exacts [h.writeTres, h]
theorem Kept.execTresTakeTrap (h : Kept n s) : KeptOut n (execTresTakeTrap s) := by
  unfold Machine.execTresTakeTrap
  split
  exacts [h.writeTres, h]
theorem Kept.execTresEnd (h : Kept n s) : KeptOut n (execTresEnd s) := by
  unfold Machine.execTresEnd
  split
  exacts [h.writeTres, h]
theorem Kept.execTimerCompare (h : Kept n s) : KeptOut n (execTimerCompare s) := by
  unfold Machine.execTimerCompare
  split
  exacts [h.updHart, h]
theorem Kept.execCrewStart (h : Kept n s) : KeptOut n (execCrewStart s) := by
  refine .next ?_
  split
  · exact .ite h (.ite h.payOwed (.ite h.handOver (.ite h.startCrew h)))
  · exact h.serveAs fun h => h.crewStart
theorem Kept.execPilotBankActivate (h : Kept n s) : KeptOut n (execPilotBankActivate s) := by
  unfold Machine.execPilotBankActivate
  split
  exacts [.next (.ite h h.set_pilot.startPilot), .next (.ite h.otherBank h), h.set_pilot, h]
theorem Kept.execUndock (h : Kept n s) : KeptOut n (execUndock s) := by
  refine .next ?_
  split
  · split
    exacts [.ite h.undockStep h, h]
  · exact h.serve fun h => h.undockAsk
theorem Kept.execUndockBudgetExpire (h : Kept n s) : KeptOut n (execUndockBudgetExpire s) := by
  refine .next ?_
  split
  exacts [.ite (h.frame rfl) h, h]
theorem Kept.execLatchForcedOpen (h : Kept n s) : KeptOut n (execLatchForcedOpen s) := .next (.ite h h.machineFault.setPg.setPg)
theorem Kept.execNegotiateAlgorithms (h : Kept n s) : KeptOut n (execNegotiateAlgorithms s) :=
  .next (h.attest fun h => .ite h.spdm h.set_pilot.spdm)
theorem Kept.execPowerCapSet (h : Kept n s) : KeptOut n (execPowerCapSet s) := by
  unfold Machine.execPowerCapSet
  split
  exacts [h.setCap, h.pldm fun h => h.setCap, .next (.ite (h.pldm fun h => h.set_sent) h), h]
theorem Kept.execClockStepRaise (h : Kept n s) : KeptOut n (execClockStepRaise s) := by
  unfold Machine.execClockStepRaise
  split
  exacts [.next (.ite h.setClock h), h]
theorem Kept.execClockStepLower (h : Kept n s) : KeptOut n (execClockStepLower s) := by
  unfold Machine.execClockStepLower
  split
  exacts [.next (.ite h.setClock h), h]
theorem Kept.execOverTemperature (h : Kept n s) : KeptOut n (execOverTemperature s) := by
  unfold Machine.execOverTemperature
  split
  exacts [.next (.ite h.machineFault.set_pilot h), h]
theorem Kept.execIdentityStoreRead (h : Kept n s) : KeptOut n (execIdentityStoreRead s) := by
  unfold Machine.execIdentityStoreRead
  split
  exacts [h.set_sent, h]
theorem Kept.execManagementTakeover (h : Kept n s) : KeptOut n (execManagementTakeover s) :=
  .next (.ite h.machineFault.setPg.setPg.set_pilot
    (Kept.startSoftware (Kept.train (.ite h.tellTakeover.takenOver.setPg.msiAll h.tellTakeover.takenOver.setPg))))
theorem KeptOut.mono {o : Host.Outcome State Fault Refusal} (h : KeptOut n o) (hm : m ≤ n) : KeptOut m o := by
  cases o with
  | next s => exact Kept.mono (s := s) h hm
  | fault r => trivial
  | refused r => trivial
theorem Kept.execChunkMark (h : Kept n s) : KeptOut n (execChunkMark s) := by
  refine KeptOut.mono (n := s.wno) ?_ h.le_wno
  unfold Machine.execChunkMark
  split
  · split
    · exact h.now.markChunk (h.inst_past ‹s.inst _ _ _ = some _›)
    · exact .next (.ite (h.now.endInst (h.inst_past ‹s.inst _ _ _ = some _›)).settle h.now)
    · exact h.now
  · exact h.now
theorem Kept.execCollectiveRecompute (h : Kept n s) : KeptOut n (execCollectiveRecompute s) := by
  refine .next (Kept.foldl h fun t x h => ?_)
  split <;> rename_i hx
  · exact (h.now.recompute (h.inst_past hx)).mono h.le_wno
  · exact h
theorem Kept.execCollectiveTimeout (h : Kept n s) : KeptOut n (execCollectiveTimeout s) := .next h.endInsts.settle
theorem Kept.execGroupDisable (h : Kept n s) : KeptOut n (execGroupDisable s) := by
  unfold Machine.execGroupDisable
  split
  exacts [h.writeGctl, h]
theorem Kept.execMatrixWaitlistExpire (h : Kept n s) : KeptOut n (execMatrixWaitlistExpire s) := by
  unfold Machine.execMatrixWaitlistExpire
  split
  exacts [h.expireWaiter, h]
theorem Kept.execMatrixQueueExecute (h : Kept n s) : KeptOut n (execMatrixQueueExecute s) := by
  unfold Machine.execMatrixQueueExecute
  split
  exacts [h.onHart fun h => h.matrixNext, h]
theorem Kept.execBerthAgeing (h : Kept n s) : KeptOut n (execBerthAgeing s) := by
  unfold Machine.execBerthAgeing
  split
  exacts [.ite h.updDie h, h]
theorem Kept.execRefreshSlotEnd (h : Kept n s) : KeptOut n (execRefreshSlotEnd s) := .ite h.elapse h
theorem Kept.execWfracWrite (h : Kept n s) : KeptOut n (execWfracWrite s) := by
  unfold Machine.execWfracWrite
  split
  exacts [.ite h.setWfrac h, h]
end

section
variable {s : State}

/-! ## Every instruction and event, and every step -/

/-- Every instruction and event keeps the invariant. A package that is started afresh begins its count of writes again, so no more than
`Kept 0` can be said of all of them. -/
theorem Kept.exec (h : Kept 0 s) {i : Instr} : KeptOut 0 (exec i s) := by
  cases i <;> dsimp only [Machine.exec]
  case add | sub | and | or | xor | andn | shl | shr | sha | rotl | min | max | minu | maxu | slt | sltu | mul | mulh | mulhu | div | divu |
    rem | remu | bext | bdep | pamk => exact h.regReg
  case addImm | subImm | andImm | orImm | xorImm | andnImm | shlImm | shrImm | shaImm | rotlImm | minImm | maxImm | minuImm | maxuImm |
    sltImm | sltuImm => exact h.regImm
  case clz | ctz | popc | brev | pax => exact h.regOne
  case li | lih | lea | pcnt | jal | fmin | fmax | ccrd => exact h.issue fun h => h.setX
  case cmp | pand | por | pxor | pnot | pmov | pfirst | pset | fcmp => exact h.issue fun h => h.setP
  case br | brp | fenceSv | fenceVs | fenceVv | fenceA | qfence => exact h.issue fun h => .ite h h
  case j | ecall | ebreak => exact h.issue fun h => h
  case jalr => exact h.issue fun h => .ite h.trapAt h.setX
  case ld => exact h.execLd
  case st => exact h.issue fun h => h.storeEff
  case amo | cas | binc => exact h.issue fun h => h.atomEff
  case cclean | cflush => exact h.issue fun h => h.maintainEff
  case fadd | fsub | fmul | fdiv | fsqrt | ffma => exact h.issue fun h => h.putFp
  case fcvt => exact h.issue fun h => h.fpEffect.setX
  case csrr | csrw | csrs | csrc => exact h.csrIssue
  case tret => exact h.issue fun h => h.upd.sendPushes.crewPause
  case wait => exact h.issue fun h => .ite h.takePending (.ite h.setX (.ite h.upd (.ite h.setX (.ite h.setX h))))
  case lnch => exact h.issue fun h => h.lnchEff
  case claim => exact h.execClaim
  case gbarArr => exact h.execGbarArr
  case gbarWait => exact h.execGbarWait
  case exit => exact h.execExit
  case yield => exact h.execYield
  case waitm => exact h.execWaitm
  case tinv => exact h.execTinv
  case clset => exact h.issue fun h => h.clsetEff
  case bind => exact h.issue fun h => h.bindHart.setX
  case vsave => exact h.execVsave
  case vrest => exact h.issue fun h => .ite h.trapAt (.ite h h.vrestEff)
  case vcfg => exact h.vecIssue rfl fun h => h.setX.upd
  case setvl | setvh => exact h.vecIssue rfl fun h => h.setLenEff
  case vtag | vbcast => exact h.vecIssue rfl fun h => h.upd
  case vmov => exact h.vecIssue rfl fun h => .ite h.moveElems h.moveElems
  case vsliceExtract | vsliceInsert => exact h.vecIssue rfl fun h => h.moveElems
  case vxt => exact h.vecIssue rfl fun h => .ite h (.ite h.setX (.ite h.touchV.wordTrap h.touchV.setX))
  case vins => exact h.vecIssue rfl fun h => .ite h.upd h
  case vadd | vsub | vmin | vmax | vabs | vneg | vmul | vmulh | vdiv | vrem | vsqrt | vrcp | vrsq | vfma | vfms | vfnma | vand | vor |
    vxor | vnot | vshl | vshr | vsha | vrot | vclz | vpopc | vbrev | vbitil | vbitdl | vsel | vexp2 | vlog2 => exact h.issueV3
  case vcmp => exact h.execVcmp
  case vred | vscan | vqnt => exact h.vecIssue rfl fun h => .ite h.touchV.wordTrap h.touchV.upd.raise.advanceSeed.vdone
  case vmaxi | vmini => exact h.topkIssue
  case vslideUp | vslideDn | vcompr | vexpd | vtrans => exact h.vecIssue rfl fun h => h.moveDone
  case vperm => exact h.vecIssue rfl fun h => .ite h.touchV.wordTrap h.touchV.moveDone
  case viota => exact h.vecIssue rfl fun h => h.upd.vdone
  case vcvt => exact h.execVcvt
  case vdqnt => exact h.vecIssue rfl fun h => h.touchV.touchV.runElems
  case vld | vldP | vlds => exact h.vecIssueOr (fun h => h.vmBad) fun h => h.loadVm
  case vgth => exact h.vecIssueOr (fun h => h.vmBad) fun h => h.readingIndex (fun h => h.vmBad) fun h => h.loadVm
  case vgthCl => exact h.execVgthCl
  case vldw => exact h.execVldw
  case pref => exact h.vecIssue rfl fun h => Kept.vdone (Kept.foldl h fun _ _ h => h.prefLine)
  case vst | vstP | vsts => exact h.vecIssueOr (fun h => h.vmBad) fun h => h.storeVm
  case vsct => exact h.vecIssueOr (fun h => h.vmBad) fun h => h.readingIndex (fun h => h.vmBad) fun h => h.storeVm
  case vsctCl => exact h.execVsctCl
  case vamo | vcas | vbinc => exact h.vatomIssue
  case vstm => exact h.execVstm
  case vpush => exact h.execVpush
  case vtake => exact h.vecIssue rfl fun h => .ite h h.touchReg.upd.vdone
  case vfesRd | vfesClr | vfesSet => exact h.vfesIssue
  case strm => exact h.vecIssue rfl fun h => h.strmEff
  case strm2d => exact h.vecIssue rfl fun h => .ite h.wordTrap (h.reading fun h => h.strmEff)
  case waitK => exact h.issue fun h => .ite h.setX (.ite h.setX h)
  case ccwait | collWait => exact h.issue fun h => .ite h.setX h
  case ccrdClr => exact h.issue fun h => h.upd.setX
  case wopen => exact h.vecIssue rfl fun h => .ite h.wordTrap h.closeWin.setWin
  case wclose => exact h.vecIssue rfl fun h => h.closeWin
  case winv => exact h.execWinv
  case matt => exact h.vecIssue rfl fun h => .ite h (Kept.setX (.ite h.matt h))
  case mdet => exact h.vecIssue rfl fun h => .ite h (.ite h.matt h)
  case munf => exact h.execMunf
  case mma => exact h.execMma
  case maccLd => exact h.vecIssue rfl fun h => .ite h.touchV.wordTrap h.touchV.enterMatrix
  case maccSt => exact h.execMaccSt
  case maccZ => exact h.vecIssue rfl fun h => h.enterMatrix
  case mepi => exact h.execMepi
  case wsld => exact h.execWsld
  case wsberthGet => exact h.wsberth fun h => h.berthGet
  case wsberthRdy => exact h.wsberth fun h => .ite_snd h.readyBerth h
  case wsberthDrop => exact h.wsberth fun h => .ite_snd h.emptyBerth h
  case collArV | collRsV | collAgV | collBcV => exact h.collRegIssue
  case collArM | collRsM | collAgM | collBcM | collSrs => exact h.collMemIssue
  case collBar => exact h.vecIssue rfl fun h => h.collEff id
  case collStat | collStatClr => exact h.issue fun h => h.collStatEff
  case nonInstructionWord => exact h.execNonInstructionWord
  case launchPortWrite => exact h.execLaunchPortWrite
  case qabort => exact h.execQabort
  case qctlHaltedClear => exact h.execQctlHaltedClear
  case gangPlacement => exact .next (.ite h h.placeFirst)
  case schedulerReservation => exact h.execSchedulerReservation
  case preemptSelection => exact h.execPreemptSelection
  case coresidentPreemptSelection => exact h.execCoresidentPreemptSelection
  case gangResume => exact h.execGangResume
  case laneGroupIssue => exact h.execLaneGroupIssue
  case trapEntry => exact h.execTrapEntry
  case trapReport => exact h.execTrapReport
  case tresResume => exact h.execTresResume
  case tresTakeTrap => exact h.execTresTakeTrap
  case tresEnd => exact h.execTresEnd
  case timerCompare => exact h.execTimerCompare
  case homeAccess => exact h.execHomeAccess
  case scrubError => exact h.execScrubError
  case remoteAtomicArrival => exact h.execRemoteAtomicArrival
  case loadElementArrival => exact h.execLoadElementArrival
  case streamDispatch => exact h.execStreamDispatch
  case streamGranule => exact h.execStreamGranule
  case nbRetire => exact h.execNbRetire
  case efactResume => exact h.execEfactResume
  case efactAbandon => exact h.execEfactAbandon
  case matrixQueueExecute => exact h.execMatrixQueueExecute
  case matrixWaitlistExpire => exact h.execMatrixWaitlistExpire
  case berthAgeing => exact h.execBerthAgeing
  case refreshSlotEnd => exact h.execRefreshSlotEnd
  case wfracWrite => exact h.execWfracWrite
  case pushArrival => exact h.execPushArrival
  case pushRetry => exact h.execPushRetry
  case pushReservationExpire => exact h.execPushReservationExpire
  case migrationStart => exact h.execMigrationStart
  case migrationFree => exact h.execMigrationFree
  case migrationLineMove => exact h.execMigrationLineMove
  case frameClassChange => exact h.execFrameClassChange
  case dieFlitReceive => exact h.execDieFlitReceive
  case wavelengthRetrainTrigger => exact h.execWavelengthRetrainTrigger
  case wlctlForce => exact h.execWlctlForce
  case wlctlOffSet => exact h.execWlctlOffSet
  case wlctlOffClear => exact h.execWlctlOffClear
  case wavelengthFlitBoundary => exact h.execWavelengthFlitBoundary
  case wavelengthTrainingDone => exact h.execWavelengthTrainingDone
  case linkTableUpdate => exact h.updateTable
  case fabricPacketReceive => exact h.execFabricPacketReceive
  case transportResend => exact h.execTransportResend
  case requestTimeout => exact h.execRequestTimeout
  case grantCrcCheck => exact h.execGrantCrcCheck
  case portGroupResetDone => exact h.execPortGroupResetDone
  case portGroupLost => exact h.execPortGroupLost
  case machineFault => exact h.execMachineFault
  case chunkMark => exact h.execChunkMark
  case collectiveRecompute => exact h.execCollectiveRecompute
  case collectiveTimeout => exact h.execCollectiveTimeout
  case groupDisable => exact h.execGroupDisable
  case pciePortFailover => exact h.execPciePortFailover
  case hostWindowAccess => exact h.execHostWindowAccess
  case noteWrite => exact h.execNoteWrite
  case mailboxGo => exact h.execMailboxGo
  case mailboxReadyClear => exact h.execMailboxReadyClear
  case frameSet => exact h.serve fun h => h.frameSet
  case queueBind => exact h.serve fun h => h.queueBind
  case funcBind => exact h.serve fun h => h.funcBind
  case hartBind => exact h.serve fun h => h.hartBind
  case partRead => exact h.serve fun h => h.partRead
  case crewLoad => exact h.serve fun h => h.crewLoad
  case crewStart => exact h.execCrewStart
  case pilotLoad => exact h.serve fun h => h.pilotLoad
  case pilotStage => exact h.serve fun h => h.pilotStage
  case undock => exact h.execUndock
  case undockStatus => exact h.serve fun h => h.undockStatus
  case logRead => exact h.serve fun h => h.logRead
  case getVersion | getCapabilities | keyExchange | finish => exact h.attest fun h => h.set_pilot.spdm
  case negotiateAlgorithms => exact h.execNegotiateAlgorithms
  case getDigests | getCertificate | challenge | getMeasurements => exact h.attest fun h => h.spdm
  case powerCapSet => exact h.execPowerCapSet
  case clockStepRaise => exact h.execClockStepRaise
  case clockStepLower => exact h.execClockStepLower
  case overTemperature => exact h.execOverTemperature
  case identityStoreRead => exact h.execIdentityStoreRead
  case pilotBankActivate => exact h.execPilotBankActivate
  case powerOn => exact (kept_powered s).syncRecord.train.startSoftware
  case managementTakeover => exact h.execManagementTakeover
  case undockBudgetExpire => exact h.execUndockBudgetExpire
  case latchForcedOpen => exact h.execLatchForcedOpen
  case registerWrite => exact h.execRegisterWrite
  case instructionFetchFault => exact h.execInstructionFetchFault
  case storedDataError => exact h.execStoredDataError
  case fabricLaneFailure => exact h.execFabricLaneFailure

theorem Kept.runWord (h : Kept 0 s) {w : Word} : KeptOut 0 (runWord w s) := by
  unfold Machine.runWord
  split
  exacts [h.exec, h.exec]
theorem KeptOut.thenPending {o : Host.Outcome State Fault Refusal} (h : KeptOut 0 o) : KeptOut 0 (thenPending o) := by
  cases o with
  | next s => exact Kept.afterExec (s := s) h
  | fault r | refused r => trivial
theorem Kept.begin (h : Kept 0 s) : Kept 0 s.begin := .ite (Kept.nbDrain h.upd) h.upd
theorem Kept.runHart (h : Kept 0 s) : KeptOut 0 (runHart s) := by
  have h := h.begin
  unfold Machine.runHart
  dsimp only
  split
  · split <;> rename_i hq
    · exact h.beforeFetch _ hq
    · refine KeptOut.thenPending ?_
      split <;> rename_i hf
      · exact (h.fetch.of_snd hf).runWord
      · exact h.exec
  · exact h.heldAbort
  · exact h
theorem Kept.runAhead (h : Kept 0 s) {k : Nat} : Kept 0 (s.runAhead k) := .ite (h.frame rfl) h
theorem Kept.set_agenda_input (h : Kept 0 s) {l : List Turn} {d : Input} : Kept 0 { s with agenda := l, input := d } := h.frame rfl
theorem Kept.turn (h : Kept 0 s) : KeptOut 0 (turn s) := by
  unfold Machine.turn
  split
  · exact h.runHart
  · exact .ite h.set_agenda.focus.runHart h.set_agenda
  · exact .ite h.set_agenda.focus.runAhead h.set_agenda
  · exact .ite h.set_agenda_input.exec h.set_agenda
  · exact h.set_agenda.elapse
end

/-- Settles O60: one lemma for each operation of the model says that it keeps `Kept`, and a step is made of those operations. -/
theorem everyStepKeepsInv : Obligations.EveryStepKeepsInv := by
  unfold Obligations.EveryStepKeepsInv
  intro s t hs ht
  have h := (kept_zero_iff.2 hs).turn
  unfold step at ht
  rw [ht] at h
  exact Kept.inv (s := t) h

end Sys2Proof.Machine
end

section
/-! SUPPORT. The accesses of the host (O52): the launch port and NOTE, the bytes of BAR 2, the window, the mailboxes, the change of port and
the writes of registers, each as an equation of the model's operation. -/

namespace Sys2Proof.Machine
open Sys2Proof

section
variable {s t : State} {fn : Nat}

/-! ## Functions and queues -/

theorem func_updFunc_self {g : Func → Func} (hfn : fn < 64) : (s.updFunc fn g).func fn = g (s.func fn) := by
  simp [State.updFunc, State.func, hfn]
/-- Two changes that agree on a function change the state alike. -/
theorem updFunc_congr {g g' : Func → Func} (h : g (s.func fn) = g' (s.func fn)) : s.updFunc fn g = s.updFunc fn g' := by
  unfold State.updFunc
  split
  case isTrue hfn =>
    have hf : s.func fn = s.funcs[fn] := by simp [State.func, hfn]
    rw [hf] at h
    rw [h]
  case isFalse => rfl
@[simp] theorem updFunc_hart {g : Func → Func} : (s.updFunc fn g).hart = s.hart := by unfold State.updFunc; split <;> rfl
@[simp] theorem updFunc_mem {g : Func → Func} : (s.updFunc fn g).mem = s.mem := by unfold State.updFunc; split <;> rfl
@[simp] theorem updFunc_sent {g : Func → Func} : (s.updFunc fn g).sent = s.sent := by unfold State.updFunc; split <;> rfl
@[simp] theorem updFunc_launches {g : Func → Func} : (s.updFunc fn g).launches = s.launches := by unfold State.updFunc; split <;> rfl
@[simp] theorem queue_updFunc {g : Func → Func} {q : Nat} : (s.updFunc fn g).queue q = s.queue q := by
  unfold State.updFunc; split <;> rfl

theorem queue_updQueue_self {g : Queue → Queue} {q : Nat} (hq : q < 64) : (s.updQueue q g).queue q = g (s.queue q) := by
  simp [State.updQueue, State.queue, hq]
@[simp] theorem updQueue_hart {g : Queue → Queue} {q : Nat} : (s.updQueue q g).hart = s.hart := by unfold State.updQueue; split <;> rfl
@[simp] theorem updQueue_mem {g : Queue → Queue} {q : Nat} : (s.updQueue q g).mem = s.mem := by unfold State.updQueue; split <;> rfl
@[simp] theorem func_updQueue {g : Queue → Queue} {q : Nat} : (s.updQueue q g).func fn = s.func fn := by
  unfold State.updQueue; split <;> rfl

theorem updHart_mem {k : BitVec 20} {f : Hart → Hart} : (s.updHart k f).mem = s.mem := by
  unfold State.updHart State.setHart; split <;> rfl
theorem updHart_hmb {k : BitVec 20} {f : Hart → Hart} : (s.updHart k f).hmb = s.hmb := by
  unfold State.updHart State.setHart; split <;> rfl
theorem updHart_smb {k : BitVec 20} {f : Hart → Hart} : (s.updHart k f).smb = s.smb := by
  unfold State.updHart State.setHart; split <;> rfl

theorem present_iff : s.present fn = true ↔ (s.func fn).v = true ∧ s.pilot.power = true := by simp [State.present]

/-! ## The launch port (R101, R417) -/

/-- A refusal sets REF and CODE and counts in NREF, which stays at its largest value. -/
theorem refuse_eq (f : Func) (c : BitVec 8) :
    f.refuse c = { f with ref := true, code := c, nref := BitVec.ofNat 16 (min (f.nref.toNat + 1) 65535) } := by
  have hn : (if f.nref = BitVec.allOnes 16 then f.nref else f.nref + 1) = BitVec.ofNat 16 (min (f.nref.toNat + 1) 65535) := by
    have hlt := f.nref.isLt
    apply BitVec.eq_of_toNat_eq
    split
    case isTrue h => rw [h]; rfl
    case isFalse h =>
      have hne : f.nref.toNat ≠ 65535 := fun e => h (BitVec.eq_of_toNat_eq e)
      rw [Nat.min_eq_left (by omega)]
      simp [BitVec.toNat_add]
  unfold Func.refuse
  rw [hn]

theorem launchPort_badwr {off len : Nat} {pk : BitVec 512} (h : len ≠ 64 ∨ off % 64 ≠ 0 ∨ 65536 ≤ off) :
    s.launchPort fn off len pk = s.updFunc fn (fun u => { u with badwr := true }) := if_pos h
section
variable {off : Nat} {pk : BitVec 512} (ha : off % 64 = 0) (hlt : off < 65536)
include ha hlt
theorem launchPort_of_shape : s.launchPort fn off 64 pk =
    if (s.queue (s.func fn).queue.toNat).tenant ≠ (s.func fn).tenant then s.updFunc fn (fun u => u.refuse u.code)
    else match s.refusal pk (s.func fn).queue.toNat false with
      | some c => s.updFunc fn (fun u => u.refuse (BitVec.ofInt 8 c))
      | none => (s.accept pk (s.func fn).queue.toNat).updFunc fn
          (fun u => { u with lastSeq := BitVec.ofNat 24 (s.queue (s.func fn).queue.toNat).qseq }) :=
  if_neg (by omega)
theorem launchPort_otherTenant (ht : (s.queue (s.func fn).queue.toNat).tenant ≠ (s.func fn).tenant) :
    s.launchPort fn off 64 pk = s.updFunc fn (fun u => { u with ref := true, nref := BitVec.ofNat 16 (min (u.nref.toNat + 1) 65535) }) := by
  rw [launchPort_of_shape ha hlt, if_pos ht]
  exact updFunc_congr (refuse_eq _ _)
theorem launchPort_refused {c : Int} (ht : (s.queue (s.func fn).queue.toNat).tenant = (s.func fn).tenant)
    (hr : s.refusal pk (s.func fn).queue.toNat false = some c) :
    s.launchPort fn off 64 pk =
      s.updFunc fn (fun u => { u with ref := true, code := BitVec.ofInt 8 c, nref := BitVec.ofNat 16 (min (u.nref.toNat + 1) 65535) }) := by
  rw [launchPort_of_shape ha hlt, if_neg (not_not.2 ht), hr]
  exact updFunc_congr (refuse_eq _ _)
theorem launchPort_accepted (ht : (s.queue (s.func fn).queue.toNat).tenant = (s.func fn).tenant)
    (hr : s.refusal pk (s.func fn).queue.toNat false = none) :
    s.launchPort fn off 64 pk = (s.accept pk (s.func fn).queue.toNat).updFunc fn
      (fun u => { u with lastSeq := BitVec.ofNat 24 (s.queue (s.func fn).queue.toNat).qseq }) := by
  rw [launchPort_of_shape ha hlt, if_neg (not_not.2 ht), hr]
end

/-- The launch that a packet becomes. -/
def State.newLaunch (s : State) (pk : BitVec 512) (q : Nat) : Launch :=
  { lid := ⟨q, (s.queue q).qseq⟩, pk := pk, tenant := (s.queue q).tenant, st := .queued, cursor := 0, placed := 0
    started := false, left := false, ebcnt := 0, eblim := s.ebdef, ebDone := false, cause := 0, waits := none }
theorem startPlacing_launches (s : State) :
    s.startPlacing.launches = s.launches.map (fun x => if x.st = .queued ∧ s.eligible x = true then { x with st := .placing } else x) := by
  simp only [State.startPlacing, Bool.and_eq_true, beq_iff_eq]
theorem accept_eq (s : State) (pk : BitVec 512) (q : Nat) : s.accept pk q =
    State.startPlacing { s.updQueue q (fun u => { u with qseq := u.qseq + 1 }) with launches := s.launches ++ [s.newLaunch pk q] } := by
  have hq : s.updQueue q (fun u => { u with qseq := (s.queue q).qseq + 1 }) = s.updQueue q (fun u => { u with qseq := u.qseq + 1 }) := by
    unfold State.updQueue
    split
    case isTrue h => simp [State.queue, h]
    case isFalse => rfl
  exact congrArg (fun t : State => State.startPlacing { t with launches := s.launches ++ [s.newLaunch pk q] }) hq
theorem accept_hart (pk : BitVec 512) (q : Nat) : (s.accept pk q).hart = s.hart := by rw [accept_eq]; exact updQueue_hart
theorem accept_mem (pk : BitVec 512) (q : Nat) : (s.accept pk q).mem = s.mem := by rw [accept_eq]; exact updQueue_mem
theorem accept_qseq (pk : BitVec 512) {q : Nat} (hq : q < 64) : ((s.accept pk q).queue q).qseq = (s.queue q).qseq + 1 := by
  rw [accept_eq]
  exact congrArg Queue.qseq (queue_updQueue_self hq)

/-! ## NOTE (R417) -/

/-- Whether the count of a function's queue has reached a value, modulo 2^24. -/
abbrev State.reached (s : State) (fn at_ : Nat) : Prop := ((s.queue (s.func fn).queue.toNat).qcnt % 2 ^ 24 + 2 ^ 24 - at_) % 2 ^ 24 < 2 ^ 23

/-- The notification of a function that is present: it is sent, and disarmed, when the count is reached. -/
theorem noteFunc_of_present (hv : (s.func fn).v = true) : s.noteFunc fn =
    if (s.func fn).noteEn = true ∧ s.reached fn (s.func fn).noteAt.toNat then (s.updFunc fn (fun u => { u with noteEn := false })).msi fn 0 else s := by
  simp only [State.noteFunc, hv, Bool.true_and, Bool.and_eq_true, decide_eq_true_eq, State.reached]

/-- NOTE after a write, before the count is looked at. -/
def State.armNote (s : State) (fn : Nat) (v : Word) : State :=
  s.updFunc fn (fun u => { u with noteEn := v.getLsbD 63, noteAt := v.setWidth 24 })
theorem func_armNote {v : Word} (hfn : fn < 64) :
    (s.armNote fn v).func fn = { s.func fn with noteEn := v.getLsbD 63, noteAt := v.setWidth 24 } := func_updFunc_self hfn
theorem reached_armNote {v : Word} (hfn : fn < 64) :
    (s.armNote fn v).reached fn ((s.armNote fn v).func fn).noteAt.toNat ↔ s.reached fn (v.toNat % 2 ^ 24) := by
  simp only [State.reached, func_armNote hfn, BitVec.toNat_setWidth]
  simp only [State.armNote, queue_updFunc]

/-- NOTE after a write of a count that is reached: it is disarmed again. -/
abbrev State.disarmNote (s : State) (fn : Nat) (v : Word) : State := (s.armNote fn v).updFunc fn (fun u => { u with noteEn := false })

theorem writeNote_eq {v : Word} (hfn : fn < 64) (hv : (s.func fn).v = true) : s.writeNote fn v =
    if v.getLsbD 63 = true ∧ s.reached fn (v.toNat % 2 ^ 24) then (s.disarmNote fn v).msi fn 0 else s.armNote fn v := by
  have hp : ((s.armNote fn v).func fn).v = true := by rw [func_armNote hfn]; exact hv
  have he : ((s.armNote fn v).func fn).noteEn = v.getLsbD 63 := by rw [func_armNote hfn]
  have hw : v.extractLsb' 0 24 = v.setWidth 24 := BitVec.eq_of_toNat_eq (by simp)
  unfold State.writeNote
  rw [hw]
  change (s.armNote fn v).noteFunc fn = _
  simp only [noteFunc_of_present hp, he, reached_armNote hfn]

theorem writeNote_spec {v : Word} (hfn : fn < 64) (hv : (s.func fn).v = true) :
    (s.writeNote fn v).hart = s.hart ∧ (s.writeNote fn v).mem = s.mem ∧ ((s.writeNote fn v).func fn).noteAt = v.setWidth 24
      ∧ ((s.writeNote fn v).func fn).noteEn = (v.getLsbD 63 && !decide (s.reached fn (v.toNat % 2 ^ 24)))
      ∧ (s.writeNote fn v).sent = if v.getLsbD 63 = true ∧ s.reached fn (v.toNat % 2 ^ 24) then .msi fn 0 :: s.sent else s.sent := by
  rw [writeNote_eq hfn hv]
  by_cases h : v.getLsbD 63 = true ∧ s.reached fn (v.toNat % 2 ^ 24)
  · have hg : ((s.disarmNote fn v).msi fn 0).func fn = { (s.armNote fn v).func fn with noteEn := false } := func_updFunc_self hfn
    rw [if_pos h, if_pos h, hg, func_armNote hfn]
    refine ⟨updFunc_hart.trans updFunc_hart, updFunc_mem.trans updFunc_mem, rfl, ?_, ?_⟩
    · simp only [h.1, decide_eq_true h.2, Bool.not_true, Bool.and_false]
    · exact congrArg (_ :: ·) (updFunc_sent.trans updFunc_sent)
  · rw [if_neg h, if_neg h, func_armNote hfn]
    refine ⟨updFunc_hart, updFunc_mem, rfl, ?_, updFunc_sent⟩
    by_cases hb : v.getLsbD 63 = true
    · simp only [decide_eq_false fun hr => h ⟨hb, hr⟩, Bool.not_false, Bool.and_true]
    · simp only [Bool.eq_false_of_not_eq_true hb, Bool.false_and]
end

section
variable {s : State} {fn : Nat}

/-! ## The bytes of BAR 2 (R415, R417, R418) -/

theorem packNat_lt (l : List Nat) : packNat 8 l < 256 ^ l.length := by
  induction l with
  | nil => exact Nat.one_pos
  | cons v vs ih =>
    rw [packNat, List.length_cons, Nat.pow_succ]
    omega
theorem packNat_digit (l : List Nat) {i : Nat} (hi : i < l.length) : packNat 8 l / 256 ^ i % 256 = l[i] % 256 := by
  induction l generalizing i with
  | nil => exact absurd hi (Nat.not_lt_zero i)
  | cons v vs ih =>
    cases i with
    | zero => simp [packNat]
    | succ i =>
      have hd : packNat 8 (v :: vs) / 256 = packNat 8 vs := by rw [packNat]; omega
      rw [Nat.pow_succ', ← Nat.div_div_eq_div_mul, hd]
      exact ih (Nat.lt_of_succ_lt_succ hi)

theorem ofBytes_digit (l : List Byte) {i : Nat} (hi : i < l.length) : ofBytes l / 256 ^ i % 256 = l[i].toNat := by
  induction l generalizing i with
  | nil => exact absurd hi (Nat.not_lt_zero i)
  | cons b bs ih =>
    have hb := b.isLt
    cases i with
    | zero => rw [ofBytes, Nat.pow_zero, Nat.div_one]; simp only [List.getElem_cons_zero]; omega
    | succ i =>
      have hd : ofBytes (b :: bs) / 256 = ofBytes bs := by rw [ofBytes]; omega
      rw [Nat.pow_succ', ← Nat.div_div_eq_div_mul, hd]
      exact ih (Nat.lt_of_succ_lt_succ hi)

@[simp] theorem length_getRange {α : Type} (d : Nat → α) (t : Tab α) (k n : Nat) : (Tab.getRange d t k n).length = n := by
  induction n generalizing k with
  | zero => rfl
  | succ n ih => exact congrArg (· + 1) (ih (k + 1))
theorem getElem_getRange {α : Type} (d : Nat → α) (t : Tab α) {k n i : Nat} (hi : i < (Tab.getRange d t k n).length) :
    (Tab.getRange d t k n)[i] = t.get d (k + i) := by
  induction n generalizing k i with
  | zero => exact absurd hi (Nat.not_lt_zero i)
  | succ n ih =>
    cases i with
    | zero => rfl
    | succ i =>
      have h := ih (k := k + 1) (Nat.lt_of_succ_lt_succ hi)
      rw [Nat.add_right_comm, Nat.add_assoc] at h
      exact h

/-- The bytes of a double word are those of the value that it holds modulo 2^64. -/
theorem byte_ofNat (v : Nat) {k : Nat} (hk : k < 8) : (BitVec.ofNat 64 v).toNat / 256 ^ k % 256 = v / 256 ^ k % 256 := by
  have hs : (2 : Nat) ^ 64 = 256 ^ k * (256 * 256 ^ (7 - k)) := by
    rw [← Nat.pow_succ', ← Nat.pow_add, show k + (7 - k + 1) = 8 by omega]
    norm_num
  rw [BitVec.toNat_ofNat, hs, Nat.mod_mul_right_div_self, Nat.mod_mul_right_mod]
theorem byte_bufWord (t : Tab Byte) (o : Nat) {k : Nat} (hk : k < 8) :
    (bufWord t o).toNat / 256 ^ k % 256 = (t.get (fun _ => 0) (o + k)).toNat := by
  have hl : k < (Tab.getRange (fun _ => 0) t o 8).length := by rwa [length_getRange]
  rw [bufWord, byte_ofNat _ hk, ofBytes_digit _ hl, getElem_getRange]

/-- Fields that follow each other, as a sum. -/
theorem toNat_append_add {n m : Nat} (x : BitVec n) (y : BitVec m) : (x ++ y).toNat = 2 ^ m * x.toNat + y.toNat := by
  rw [BitVec.toNat_append, Nat.shiftLeft_eq, Nat.mul_comm, Nat.two_pow_add_eq_or_of_lt y.isLt]
theorem toNat_lpstat (f : Func) : f.lpstat.toNat =
    f.code.toNat + (if f.ref then 256 else 0) + (if f.badwr then 512 else 0) + 65536 * f.nref.toNat + 2 ^ 40 * f.lastSeq.toNat := by
  rw [Func.lpstat]
  simp only [toNat_append_add, BitVec.toNat_ofBool, BitVec.toNat_ofNat]
  cases f.ref <;> cases f.badwr <;> simp only [Bool.toNat_true, Bool.toNat_false, if_true, if_false, Bool.false_eq_true] <;> omega
theorem toNat_flagWord (l : BitVec 16) (b : Bool) : (0#32 ++ l ++ 0#15 ++ BitVec.ofBool b : Word).toNat = 65536 * l.toNat + if b then 1 else 0 := by
  simp only [toNat_append_add, BitVec.toNat_ofBool, BitVec.toNat_ofNat]
  cases b <;> simp only [Bool.toNat_true, Bool.toNat_false, if_true, if_false, Bool.false_eq_true] <;> omega
theorem toNat_noteWord (b : Bool) (a : BitVec 24) : (BitVec.ofBool b ++ 0#39 ++ a : Word).toNat = a.toNat + if b then 2 ^ 63 else 0 := by
  simp only [toNat_append_add, BitVec.toNat_ofBool, BitVec.toNat_ofNat]
  cases b <;> simp only [Bool.toNat_true, Bool.toNat_false, if_true, if_false, Bool.false_eq_true] <;> omega
theorem toNat_bitWord (b : Bool) : (0#63 ++ BitVec.ofBool b : Word).toNat = if b then 1 else 0 := by cases b <;> rfl

theorem byte_mailbox (m : Mailbox) (o : Nat) :
    ((m.reg (o / 8 * 8)).getD 0).toNat / 256 ^ (o % 8) % 256 = Spec.mailboxByte m o := by
  have hk : o % 8 < 8 := Nat.mod_lt _ (by decide)
  unfold Spec.mailboxByte Mailbox.reg
  by_cases h1 : o / 8 = 0x20
  · rw [if_pos (by omega), if_pos h1, Option.getD_some, toNat_flagWord]
  rw [if_neg (by omega), if_neg h1]
  by_cases h2 : o / 8 = 0x21
  · rw [if_pos (by omega), if_pos h2, Option.getD_some, toNat_flagWord]
  rw [if_neg (by omega), if_neg h2]
  by_cases h3 : 0x1000 ≤ o ∧ o < 0x2000
  · rw [if_pos (by omega), if_pos h3, Option.getD_some, byte_bufWord _ _ hk, show o / 8 * 8 - 0x1000 + o % 8 = o - 0x1000 by omega]
  rw [if_neg (by omega), if_neg h3]
  by_cases h4 : 0x2000 ≤ o ∧ o < 0x3000
  · rw [if_pos (by omega), if_pos h4, Option.getD_some, byte_bufWord _ _ hk, show o / 8 * 8 - 0x2000 + o % 8 = o - 0x2000 by omega]
  rw [if_neg (by omega), if_neg h4]
  simp

theorem byte_bar2Reg (o : Nat) : (s.bar2Reg fn (o / 8 * 8)).toNat / 256 ^ (o % 8) % 256 = Spec.bar2Byte s fn o := by
  have hk : o % 8 < 8 := Nat.mod_lt _ (by decide)
  have hm := byte_mailbox s.hmb o
  unfold Spec.bar2Byte
  generalize ho : o / 8 = j at hm ⊢
  match j with
  | 0 => exact congrArg (· / 256 ^ (o % 8) % 256) (toNat_lpstat _)
  | 1 => exact byte_ofNat _ hk
  | 2 => exact byte_ofNat _ hk
  | 3 => rfl
  | 4 => exact congrArg (· / 256 ^ (o % 8) % 256) (toNat_bitWord _)
  | 5 => exact congrArg (· / 256 ^ (o % 8) % 256) (toNat_noteWord _ _)
  | j + 6 =>
    have hr : s.bar2Reg fn ((j + 6) * 8) = if fn = 0 then (s.hmb.reg ((j + 6) * 8)).getD 0 else 0 := by
      unfold State.bar2Reg
      split
      case h_7 => rfl
      all_goals omega
    rw [hr]
    by_cases h0 : fn = 0
    · simp only [if_pos h0]; exact hm
    · simp [if_neg h0]

theorem bar2Read_lt (s : State) (fn off n : Nat) : s.bar2Read fn off n < 256 ^ n := by
  have h := packNat_lt ((List.range n).map (fun i => (s.bar2Reg fn ((off + i) / 8 * 8)).toNat / 2 ^ (8 * ((off + i) % 8))))
  rwa [List.length_map, List.length_range] at h
theorem byte_bar2Read (s : State) (fn off : Nat) {n i : Nat} (hi : i < n) :
    s.bar2Read fn off n / 256 ^ i % 256 = Spec.bar2Byte s fn (off + i) := by
  rw [State.bar2Read, packNat_digit _ (by simpa using hi), List.getElem_map, List.getElem_range, Nat.pow_mul]
  exact byte_bar2Reg (off + i)
end

section
variable {s t : State} {fn off n data : Nat} {r : OutReq} {k : Kind}

/-! ## The host window (R416) -/

/-- What a completion towards the host adds. -/
abbrev State.ended (s : State) (fn : Nat) (abort : Bool) (v : Nat) : State := { s with sent := .completion fn abort v :: s.sent }
/-- Whether an address lies in memory that the window reaches. -/
abbrev InWindow (pa : Nat) : Prop := regionOf pa = .spm ∨ (regionOf pa = .hbm ∧ paDie pa < 8)

theorem not_inWindow_iff (pa : Nat) :
    (!(regionOf pa == .spm || (regionOf pa == .hbm && decide (paDie pa < 8)))) = true ↔ ¬InWindow pa := by
  simp only [Bool.not_eq_true', Bool.or_eq_false_iff, Bool.and_eq_false_iff, beq_eq_false_iff_ne, decide_eq_false_iff_not, not_or, not_and_or,
    ne_eq, InWindow]

/-- Where an access of the host to its own package goes. -/
def State.hostPlace (s : State) (r : OutReq) (k : Kind) : Option Place :=
  if InWindow (s.redirect (r.pod % 2 ^ 45)) ∧ s.homeCheck { r.req with agent := .host } k (s.redirect (r.pod % 2 ^ 45)) r.n = none
  then some (.here (s.redirect (r.pod % 2 ^ 45))) else none

theorem windowPlace_here (hp : r.pod / 2 ^ 45 = s.pkg.toNat) (hn : r.n ≠ 0) : s.windowPlace r k = (s.hostPlace r k, s) := by
  have ho : s.outPlace r k .host = if s.homeCheck { r.req with agent := .host } k (s.redirect (r.pod % 2 ^ 45)) r.n = none
      then some (s.redirect (r.pod % 2 ^ 45)) else none := by
    simp only [State.outPlace, hp, hn, ne_eq, not_false_eq_true, true_and]
  refine (if_neg (not_not.2 hp)).trans ?_
  rw [ho]
  by_cases hc : InWindow (s.redirect (r.pod % 2 ^ 45))
  · rw [if_neg fun h => (not_inWindow_iff _).1 h hc]
    simp only [State.hostPlace, hc, true_and]
    split <;> rfl
  · rw [if_pos ((not_inWindow_iff _).2 hc), State.hostPlace, if_neg fun h => hc h.1]
theorem windowPlace_away (hp : r.pod / 2 ^ 45 ≠ s.pkg.toNat) : s.windowPlace r k =
    if regionOf (r.pod % 2 ^ 45) ≠ .spm ∧ regionOf (r.pod % 2 ^ 45) ≠ .hbm then (none, s)
    else if s.routed (r.pod / 2 ^ 45) = true then
      (if Config.remoteFault r.pod s.free % 4 = 0 then some (.away r.pod) else none, { s with free := s.free + 1 })
    else (none, s) := by
  refine (if_pos hp).trans ?_
  simp only [Bool.not_eq_true', Bool.or_eq_false_iff, beq_eq_false_iff_ne, ne_eq]
  rfl

/-- An access with no bytes, or beyond the window. -/
theorem windowAccess_out {wr : Bool} (h : 2 ^ 36 < off + n ∨ n = 0) :
    s.windowAccess fn wr off n data = if wr then s else s.ended fn true 0 := by
  unfold State.windowAccess
  split
  · rfl
  · contradiction
section
variable {p : Place} (hb : off + n ≤ 2 ^ 36) (hn : 0 < n)
include hb hn
theorem windowAccess_read_none (hp : s.windowPlace (s.windowReq fn off n data) .read = (none, t)) :
    s.windowAccess fn false off n data = t.ended fn true 0 := by
  unfold State.windowAccess
  split
  · omega
  · rw [if_neg Bool.false_ne_true, hp]
theorem windowAccess_read_some (hp : s.windowPlace (s.windowReq fn off n data) .read = (some p, t)) {v : Nat} {b : Bool} {u : State}
    (hr : t.readAt { (s.windowReq fn off n data).req with agent := .host } p n = ((v, b), u)) :
    s.windowAccess fn false off n data = u.ended fn b (if b then 0 else v) := by
  unfold State.windowAccess
  split
  · omega
  · rw [if_neg Bool.false_ne_true, hp]
    dsimp only
    rw [hr]
theorem windowAccess_write_some (hp : s.windowPlace (s.windowReq fn off n data) .write = (some p, t)) :
    s.windowAccess fn true off n data = t.writeAt { (s.windowReq fn off n data).req with agent := .host } p n (data % 2 ^ (8 * n)) := by
  unfold State.windowAccess
  split
  · omega
  · rw [if_pos rfl, hp]
end
end

section
variable {s t : State} {fn off n data bar wr : Nat} {r : OutReq} {k : Kind}

/-! ### What a read through the window delivers (R416) -/

/-- What no cache and no stored error holds decides every byte. -/
theorem State.Unseen.byte (h : s.Unseen t) (a : Nat) : t.byte a = s.byte a := by
  have hm : t.indetMark a = s.indetMark a := by rw [State.indetMark, State.indetMark, h.indet, h.written]
  have hg : t.given a = s.given a := by rw [State.given, State.given, h.written, h.zeroed]
  have hr : t.rawByte a = s.rawByte a := by rw [State.rawByte, State.rawByte, h.mem]
  rw [State.byte, State.byte, hm]
  cases s.indetMark a with
  | none => exact hr
  | some r => simp only [hg, hr]
theorem State.Unseen.bytes (h : s.Unseen t) (a n : Nat) : t.bytes a n = s.bytes a n := by
  induction n generalizing a with
  | zero => rfl
  | succ n ih => rw [State.bytes, State.bytes, h.byte, ih]
theorem State.Unseen.seen (h : s.Unseen t) : s.seen.Unseen t.seen := by
  unfold State.seen
  rw [h.insts]
  split
  · exact h
  · exact ⟨h.hart, h.mem, h.written, h.zeroed, h.wno, by simp only [h.wno, h.indet], rfl, h.sent⟩
theorem State.Unseen.sameMemory (h : s.Unseen t) : SameMemory s t := h.byte

/-- A home that holds no error that its code misses serves a request of no launch without a change that is seen. -/
theorem unseen_atHome {q : Req} {pa : Nat} {w : Bool} (hq : q.launch = none) (hf : s.NoFlips) : s.Unseen (s.atHome q pa n w) :=
  (((Served.refl none s).atHome fun _ => hq).quiet rfl hf).2
/-- Outside HBM, and with no error stored, it does nothing at all. -/
theorem atHome_eq_self {q : Req} {pa : Nat} {w : Bool} (hr : regionOf pa ≠ .hbm) (he : s.errs = []) : s.atHome q pa n w = s := by
  rw [State.atHome, if_neg hr, State.meetErrors, if_pos (by rw [he]; rfl)]

theorem InWindow.not_sys {pa : Nat} (h : InWindow pa) : regionOf pa ≠ .sys := by
  rcases h with h | ⟨h, -⟩ <;> rw [h] <;> decide
theorem readAt_here {q : Req} {pa : Nat} (h : regionOf pa ≠ .sys) :
    s.readAt q (.here pa) n = (((s.atHome q pa n false).seen.bytes pa n, (s.atHome q pa n false).poisonedAt pa n), s.atHome q pa n false) :=
  if_neg h
theorem readAt_away {q : Req} {pod : Nat} (h : q.launch = none) :
    s.readAt q (.away pod) n = ((awayBytes s.free pod n, Config.remotePoison pod s.free), { s with free := s.free + 1 }) := by
  refine Prod.ext rfl ?_
  change State.awayErrors _ q.launch pod s.free = _
  rw [h]
  rfl

section
variable (hb : off + n ≤ 2 ^ 36) (hn : 0 < n)
include hb hn
/-- A read in the own package that is refused. -/
theorem windowRead_refused (hp : (s.windowReq fn off n data).pod / 2 ^ 45 = s.pkg.toNat)
    (h : s.hostPlace (s.windowReq fn off n data) .read = none) : s.windowAccess fn false off n data = s.ended fn true 0 :=
  windowAccess_read_none hb hn (by rw [windowPlace_here hp hn.ne', h])
/-- A read in the own package that is performed. -/
theorem windowRead_performed (hp : (s.windowReq fn off n data).pod / 2 ^ 45 = s.pkg.toNat) {pa : Nat} (hw : InWindow pa)
    (h : s.hostPlace (s.windowReq fn off n data) .read = some (.here pa)) (hf : s.NoFlips) :
    ∃ t bad, s.windowAccess fn false off n data = t.ended fn bad (if bad then 0 else s.seen.bytes pa n) ∧ SameMemory s t ∧ t.hart = s.hart
      ∧ t.sent = s.sent ∧ bad = t.poisonedAt pa n ∧ (regionOf pa = .spm → s.errs = [] → bad = s.poisonedAt pa n) := by
  have hu : s.Unseen (s.atHome { (s.windowReq fn off n data).req with agent := .host } pa n false) := unseen_atHome rfl hf
  refine ⟨_, _, ?_, hu.sameMemory, hu.hart, hu.sent, rfl, fun hr he => ?_⟩
  · rw [windowAccess_read_some hb hn (by rw [windowPlace_here hp hn.ne', h]) (readAt_here hw.not_sys), hu.seen.bytes]
  · rw [atHome_eq_self (by rw [hr]; decide) he]
/-- A read in another package ends with a completion, and changes nothing of this one. -/
theorem windowRead_away (hp : (s.windowReq fn off n data).pod / 2 ^ 45 ≠ s.pkg.toNat) :
    ∃ t abort v, s.windowAccess fn false off n data = t.ended fn abort v ∧ SameMemory s t ∧ t.hart = s.hart ∧ (abort = true → v = 0) := by
  have hw := windowPlace_away (k := .read) hp
  split at hw
  · exact ⟨_, _, _, windowAccess_read_none hb hn hw, fun _ => rfl, rfl, fun _ => rfl⟩
  split at hw
  · split at hw
    · exact ⟨_, _, _, windowAccess_read_some hb hn hw (readAt_away rfl), fun _ => rfl, rfl, fun h => if_pos h⟩
    · exact ⟨_, _, _, windowAccess_read_none hb hn hw, fun _ => rfl, rfl, fun _ => rfl⟩
  · exact ⟨_, _, _, windowAccess_read_none hb hn hw, fun _ => rfl, rfl, fun _ => rfl⟩
/-- Without a route, or outside the memory that the window reaches, it ends with Completer Abort. -/
theorem windowRead_noRoute (hp : (s.windowReq fn off n data).pod / 2 ^ 45 ≠ s.pkg.toNat)
    (h : s.routed ((s.windowReq fn off n data).pod / 2 ^ 45) = false
      ∨ (regionOf ((s.windowReq fn off n data).pod % 2 ^ 45) ≠ .spm ∧ regionOf ((s.windowReq fn off n data).pod % 2 ^ 45) ≠ .hbm)) :
    s.windowAccess fn false off n data = s.ended fn true 0 := by
  refine windowAccess_read_none hb hn ?_
  rw [windowPlace_away hp]
  split
  · rfl
  · next hr => rw [h.resolve_right hr, if_neg Bool.false_ne_true]
end
end

section
variable {s : State} {o : Nat} {v : Word}

/-! ## The mailboxes (R418, R419) -/

theorem writeHmb_mem : (s.writeHmb o v).mem = s.mem := by
  unfold State.writeHmb
  dsimp only
  split
  · exact updHart_mem
  · rfl
theorem writeHmb_hmb : (s.writeHmb o v).hmb = s.hmb.write o v := by
  unfold State.writeHmb
  dsimp only
  split
  · exact updHart_hmb
  · rfl
/-- A write to the mailbox of the service path, below the function entries. -/
theorem sysWrite2_mailbox {d : Nat} (ho : o < 0x10000) : s.sysWrite2 d 12 o v =
    if ((s.smb.write o v).go && !s.smb.go) = true then State.wakeMgmt { s with smb := s.smb.write o v } else { s with smb := s.smb.write o v } :=
  if_neg ho.not_ge
theorem sysWrite2_smb {d : Nat} (ho : o < 0x10000) : (s.sysWrite2 d 12 o v).smb = s.smb.write o v := by
  rw [sysWrite2_mailbox ho]
  split
  · exact updHart_smb
  · rfl
theorem sysWrite2_mem {d : Nat} (ho : o < 0x10000) : (s.sysWrite2 d 12 o v).mem = s.mem := by
  rw [sysWrite2_mailbox ho]
  split
  · exact updHart_mem
  · rfl

/-- The length and GO in the control register of a request. -/
theorem mailbox_write_go (m : Mailbox) (len : Nat) : m.write 0x100 (0#32 ++ BitVec.ofNat 16 len ++ 1#16) =
    if m.go then m else { m with len := BitVec.ofNat 16 len, go := true } := by
  have hl : (0#32 ++ BitVec.ofNat 16 len ++ 1#16 : Word).extractLsb' 16 16 = BitVec.ofNat 16 len := by
    apply BitVec.eq_of_toNat_eq
    simp only [BitVec.extractLsb'_toNat, toNat_append_add, BitVec.toNat_ofNat, Nat.shiftRight_eq_div_pow]
    omega
  have hg : (0#32 ++ BitVec.ofNat 16 len ++ 1#16 : Word).getLsbD 0 = true := by
    rw [BitVec.getLsbD_append, if_pos (by decide)]
    rfl
  rw [Mailbox.write, if_pos rfl, hl, hg]
theorem mailbox_write_ready (m : Mailbox) : m.write 0x108 1 = { m with ready := false } := rfl

/-- A clearing of READY wakes nobody. -/
theorem writeHmb_ready : s.writeHmb 0x108 1 = { s with hmb := { s.hmb with ready := false } } := by
  unfold State.writeHmb
  rw [mailbox_write_ready]
  dsimp only
  rw [Bool.and_not_self, if_neg Bool.false_ne_true]

/-! ## The other port (R414) -/

theorem foldl_msi (l : List Nat) : l.foldl (fun s f => State.msi s f 1) s = { s with sent := (l.map (Sent.msi · 1)).reverse ++ s.sent } := by
  induction l generalizing s with
  | nil => rfl
  | cons f l ih =>
    rw [List.foldl_cons, ih]
    simp [State.msi]
/-- The functions that a notification of all reaches. -/
def State.told (s : State) (c : Func → Bool) : List Nat := (List.range 64).filter (fun f => (s.func f).v && c (s.func f))
theorem msiAll_eq (c : Func → Bool) : s.msiAll c = { s with sent := ((s.told c).map (Sent.msi · 1)).reverse ++ s.sent } := foldl_msi _
theorem msi_mem_msiAll {k : Nat} (hk : k < 64) :
    .msi k 1 ∈ (s.msiAll fun _ => true).sent ↔ .msi k 1 ∈ s.sent ∨ (s.func k).v = true := by
  rw [msiAll_eq]
  simp [State.told, hk, or_comm]

/-! ## Writes of registers (R9, R242) -/

theorem die_updDie_self {d : Nat} {f : Die → Die} (hd : d < 10) : (s.updDie d f).die d = f (s.die d) := by
  simp [State.updDie, State.die, hd]
theorem updDie_hart {d : Nat} {f : Die → Die} : (s.updDie d f).hart = s.hart := by
  unfold State.updDie; split <;> rfl
theorem sysWrite_tdeleg (s : State) (d : Nat) (v : Word) :
    s.sysWrite d 0x6020000 v = some (s.updDie d (fun x => { x with tdeleg := v &&& 0x1FFE })) := rfl
theorem sysWrite_tvdef (s : State) (d : Nat) (v : Word) :
    s.sysWrite d 0x6020008 v = some (s.updDie d (fun x => { x with tvdef := v &&& ~~~7#64 })) := rfl
theorem testBit_div_mul_eight (v i : Nat) : (v / 8 * 8).testBit i = (v.testBit i && !decide (i < 3)) := by
  rw [show 8 = 2 ^ 3 from rfl, ← Nat.shiftRight_eq_div_pow, ← Nat.shiftLeft_eq, Nat.testBit_shiftLeft, Nat.testBit_shiftRight]
  by_cases h : i < 3
  · simp [h]
  · simp [show 3 + (i - 3) = i by omega, Nat.le_of_not_lt h]
/-- The low three bits of TVDEF read 0. -/
theorem ofNat_and_not_seven (v : Nat) : BitVec.ofNat 64 v &&& ~~~7#64 = BitVec.ofNat 64 (v / 8 * 8) := by
  apply BitVec.eq_of_getLsbD_eq
  intro i hi
  have h7 : (7 : Nat).testBit i = decide (i < 3) := by rw [show 7 = 2 ^ 3 - 1 from rfl, Nat.testBit_two_pow_sub_one]
  simp only [BitVec.getLsbD_and, BitVec.getLsbD_not, BitVec.getLsbD_ofNat, testBit_div_mul_eight, h7, hi, decide_true, Bool.true_and]
end

section
variable {s : State} {fn off n data bar wr len pk v d : Nat}

/-! ## The accesses of the host (O52) -/

theorem exec_launchPortWrite (hi : s.input = .nums [fn, off, len, pk]) :
    exec .launchPortWrite s = .next (if s.present fn then s.launchPort fn off len (BitVec.ofNat 512 pk) else s) := by
  change execLaunchPortWrite s = _
  rw [execLaunchPortWrite, hi]
theorem exec_noteWrite (hi : s.input = .nums [fn, v]) :
    exec .noteWrite s = .next (if s.present fn then s.writeNote fn (BitVec.ofNat 64 v) else s) := by
  change execNoteWrite s = _
  rw [execNoteWrite, hi]
theorem exec_hostWindowAccess (hi : s.input = .nums [fn, bar, wr, off, n, data]) (hp : s.present fn = true) :
    exec .hostWindowAccess s = .next (s.hostAccess fn bar (wr != 0) off n data) := by
  change execHostWindowAccess s = _
  rw [execHostWindowAccess, hi]
  exact congrArg _ (if_pos hp)
theorem exec_window_read (hi : s.input = .nums [fn, 4, 0, off, n, data]) (hp : s.present fn = true) :
    exec .hostWindowAccess s = .next (s.windowAccess fn false off n data) := exec_hostWindowAccess hi hp
theorem exec_window_write (hi : s.input = .nums [fn, 4, 1, off, n, data]) (hp : s.present fn = true) :
    exec .hostWindowAccess s = .next (s.windowAccess fn true off n data) := exec_hostWindowAccess hi hp
theorem exec_bar2_read (hi : s.input = .nums [fn, 2, 0, off, n, data]) (hp : s.present fn = true) :
    exec .hostWindowAccess s = .next (s.ended fn false (s.bar2Read fn off n)) := exec_hostWindowAccess hi hp
theorem exec_bar2_badWrite (hi : s.input = .nums [fn, 2, 1, off, n, data]) (hp : s.present fn = true) (hs : n ≠ 8 ∨ off % 8 ≠ 0) :
    exec .hostWindowAccess s = .next s := (exec_hostWindowAccess hi hp).trans (congrArg _ (if_neg (not_and_or.2 hs)))
theorem exec_bar0_read (hi : s.input = .nums [fn, 0, 0, off, n, data]) (hp : s.present fn = true) :
    exec .hostWindowAccess s = .next (s.ended fn false 0) := exec_hostWindowAccess hi hp
theorem exec_mailboxGo_management (hi : s.input = .nums [0, len]) :
    exec .mailboxGo s = .next (s.writeHmb 0x100 (0#32 ++ BitVec.ofNat 16 len ++ 1#16)) := by
  change execMailboxGo s = _
  rw [execMailboxGo, hi]
  rfl
theorem exec_mailboxGo_service (hi : s.input = .nums [2, len]) :
    exec .mailboxGo s = .next (s.sysWrite2 8 12 0x100 (0#32 ++ BitVec.ofNat 16 len ++ 1#16)) := by
  change execMailboxGo s = _
  rw [execMailboxGo, hi]
  rfl
theorem exec_mailboxReadyClear_management (hi : s.input = .unit 0) : exec .mailboxReadyClear s = .next (s.writeHmb 0x108 1) := by
  change execMailboxReadyClear s = _
  rw [execMailboxReadyClear, hi]
  rfl
theorem exec_mailboxReadyClear_service (hi : s.input = .unit 2) : exec .mailboxReadyClear s = .next (s.sysWrite2 8 12 0x108 1) := by
  change execMailboxReadyClear s = _
  rw [execMailboxReadyClear, hi]
  rfl
theorem exec_pciePortFailover : exec .pciePortFailover s =
    .next (if s.mgmtDie = 9 ∨ s.pilot.power = false then s else State.msiAll { s with port1 := !s.port1 } fun _ => true) := by
  change execPciePortFailover s = _
  simp only [execPciePortFailover, Bool.not_eq_true']
theorem exec_registerWrite (hi : s.input = .nums [d, off, v]) : exec .registerWrite s =
    .next (if off % 8 ≠ 0 then s
      else if d < 10 then (s.sysWrite d off (BitVec.ofNat 64 v)).getD s
      else if 64 ≤ d ∧ s.present (d - 64) then s.bar2Write (d - 64) off (BitVec.ofNat 64 v)
      else s) := by
  change execRegisterWrite s = _
  rw [execRegisterWrite, hi]
theorem exec_registerWrite_die (hi : s.input = .nums [d, off, v]) (ho : off % 8 = 0) (hd : d < 10) :
    exec .registerWrite s = .next ((s.sysWrite d off (BitVec.ofNat 64 v)).getD s) := by
  rw [exec_registerWrite hi, if_neg (not_not.2 ho), if_pos hd]
theorem exec_registerWrite_bar2 (hi : s.input = .nums [64 + fn, off, v]) (ho : off % 8 = 0) (hp : s.present fn = true) :
    exec .registerWrite s = .next (s.bar2Write fn off (BitVec.ofNat 64 v)) := by
  rw [exec_registerWrite hi, if_neg (not_not.2 ho), if_neg (by omega), Nat.add_sub_cancel_left, if_pos ⟨Nat.le_add_right _ _, hp⟩]
theorem registerWrite_tdeleg (hi : s.input = .nums [d, 0x6020000, v]) (hd : d < 10) :
    ∃ u : State, exec .registerWrite s = .next u ∧ (u.die d).tdeleg = BitVec.ofNat 64 v &&& 0x1FFE ∧ u.hart = s.hart := by
  refine ⟨_, exec_registerWrite_die hi (by decide) hd, ?_⟩
  rw [sysWrite_tdeleg, Option.getD_some, die_updDie_self hd]
  exact ⟨rfl, updDie_hart⟩
theorem registerWrite_tvdef (hi : s.input = .nums [d, 0x6020008, v]) (hd : d < 10) :
    ∃ u : State, exec .registerWrite s = .next u ∧ (u.die d).tvdef = BitVec.ofNat 64 (v / 8 * 8) ∧ u.hart = s.hart := by
  refine ⟨_, exec_registerWrite_die hi (by decide) hd, ?_⟩
  rw [sysWrite_tvdef, Option.getD_some, die_updDie_self hd]
  exact ⟨ofNat_and_not_seven v, updDie_hart⟩
theorem pciePortFailover_spec (s : State) :
    if s.mgmtDie = 9 ∨ s.pilot.power = false then exec .pciePortFailover s = .next s
    else ∃ u : State, exec .pciePortFailover s = .next u ∧ u.port1 = !s.port1 ∧ u.hart = s.hart ∧ u.mem = s.mem
      ∧ ∀ k, k < 64 → (.msi k 1 ∈ u.sent ↔ .msi k 1 ∈ s.sent ∨ (s.func k).v = true) := by
  rw [exec_pciePortFailover]
  split
  · rfl
  · refine ⟨_, rfl, ?_, ?_, ?_, fun k hk => msi_mem_msiAll hk⟩ <;> rw [msiAll_eq]
end

/-- The state behind a packet that the launch port accepts. -/
def State.portAccepted (s : State) (fn : Nat) (pk : BitVec 512) : State :=
  (s.accept pk (s.func fn).queue.toNat).updFunc fn (fun u => { u with lastSeq := BitVec.ofNat 24 (s.queue (s.func fn).queue.toNat).qseq })
section
variable {s : State} {fn : Nat} {pk : BitVec 512}
theorem portAccepted_hart : (s.portAccepted fn pk).hart = s.hart := updFunc_hart.trans (accept_hart _ _)
theorem portAccepted_mem : (s.portAccepted fn pk).mem = s.mem := updFunc_mem.trans (accept_mem _ _)
theorem portAccepted_launches : (s.portAccepted fn pk).launches = State.launches (State.startPlacing
    { s.updQueue (s.func fn).queue.toNat (fun u => { u with qseq := u.qseq + 1 }) with
      launches := s.launches ++ [s.newLaunch pk (s.func fn).queue.toNat] }) :=
  updFunc_launches.trans (congrArg State.launches (accept_eq _ _ _))
theorem portAccepted_qseq : ((s.portAccepted fn pk).queue (s.func fn).queue.toNat).qseq = (s.queue (s.func fn).queue.toNat).qseq + 1 :=
  (congrArg Queue.qseq queue_updFunc).trans (accept_qseq pk (s.func fn).queue.isLt)
theorem portAccepted_lastSeq (hfn : fn < 64) :
    ((s.portAccepted fn pk).func fn).lastSeq = BitVec.ofNat 24 (s.queue (s.func fn).queue.toNat).qseq :=
  congrArg Func.lastSeq (func_updFunc_self hfn)
end

/-- Settles O52, part by part: each access is an equation of the model's operation (the launch port, NOTE, BAR 2, the window, the mailboxes,
the change of port, the registers). -/
theorem hostAccesses : Obligations.HostAccesses := by
  unfold Obligations.HostAccesses
  intro s fn hfn f q there
  refine ⟨fun off len pk hi _ => ?_, fun v hi => ?_, fun bar off n data hp => ?_, fun len _ hi => ?_, fun len _ hi => ?_, fun hi => ?_,
    fun hi => ?_, ?_, fun d off v hi => ?_⟩
  · rw [exec_launchPortWrite hi]
    refine ⟨fun hp => congrArg _ (if_neg (mt present_iff.1 hp)), fun hp hs => ?_, fun hp hl ha hlt => ?_⟩
    · rw [if_pos (present_iff.2 hp), launchPort_badwr hs]
    · subst hl
      rw [if_pos (present_iff.2 hp)]
      refine ⟨fun ht => congrArg _ (launchPort_otherTenant ha hlt ht), fun ht c hc => congrArg _ (launchPort_refused ha hlt ht hc), fun ht hr =>
        ⟨s.portAccepted fn _, s.newLaunch (BitVec.ofNat 512 pk) _, congrArg _ (launchPort_accepted ha hlt ht hr), portAccepted_hart,
          portAccepted_mem, portAccepted_launches.trans (startPlacing_launches _), rfl, rfl, rfl, portAccepted_qseq, portAccepted_lastSeq hfn⟩⟩
  · rw [exec_noteWrite hi, BitVec.ofNat_toNat, BitVec.setWidth_eq]
    refine ⟨fun hp => congrArg _ (if_neg (mt present_iff.1 hp)), fun hp => ⟨s.writeNote fn v, congrArg _ (if_pos (present_iff.2 hp)), ?_⟩⟩
    exact writeNote_spec hfn hp.1
  · have hp := present_iff.2 hp
    refine ⟨fun hi => ⟨?_, ?_, ?_, ?_, ?_, ?_⟩, fun hi => ⟨?_, ?_, ?_⟩⟩
    · rintro rfl
      exact ⟨_, exec_bar2_read hi hp, bar2Read_lt s fn off n, fun i h => byte_bar2Read s fn off h⟩
    · rintro rfl
      exact exec_bar0_read hi hp
    · exact fun _ => ⟨rfl, rfl, rfl⟩
    · rintro rfl h
      exact (exec_window_read hi hp).trans (congrArg _ (windowAccess_out h))
    · rintro rfl hb hn hr
      refine ⟨fun h => ?_, fun h hf => ?_⟩
      · exact (exec_window_read hi hp).trans (congrArg _ (windowRead_refused hb hn hr (if_neg h)))
      · obtain ⟨t, bad, ht, hrest⟩ := windowRead_performed hb hn hr h.1 (if_pos h) hf
        exact ⟨t, bad, (exec_window_read hi hp).trans (congrArg _ ht), hrest⟩
    · rintro rfl hb hn hr
      refine ⟨fun h => (exec_window_read hi hp).trans (congrArg _ (windowRead_noRoute hb hn hr h)), ?_⟩
      obtain ⟨t, abort, v, ht, hrest⟩ := windowRead_away (data := data) hb hn hr
      exact ⟨t, abort, v, (exec_window_read hi hp).trans (congrArg _ ht), hrest⟩
    · rintro rfl h
      exact (exec_window_write hi hp).trans (congrArg _ (windowAccess_out h))
    · rintro rfl h
      exact exec_bar2_badWrite hi hp h
    · rintro rfl hb hn hr r pa hw hc
      refine (exec_window_write hi hp).trans (congrArg _ (windowAccess_write_some hb hn ?_))
      exact (windowPlace_here hr hn.ne').trans (Prod.ext (if_pos ⟨hw, hc⟩) rfl)
  · exact ⟨_, exec_mailboxGo_management hi, writeHmb_mem, writeHmb_hmb.trans (mailbox_write_go _ _)⟩
  · exact ⟨_, exec_mailboxGo_service hi, sysWrite2_mem (by decide), (sysWrite2_smb (by decide)).trans (mailbox_write_go _ _)⟩
  · exact (exec_mailboxReadyClear_management hi).trans (congrArg _ writeHmb_ready)
  · exact ⟨_, exec_mailboxReadyClear_service hi, (sysWrite2_smb (by decide)).trans (mailbox_write_ready _), sysWrite2_mem (by decide)⟩
  · exact pciePortFailover_spec s
  · refine ⟨fun ho => ?_, fun ho hd => exec_registerWrite_die hi ho hd, ?_,
      fun hd ho => registerWrite_tdeleg (ho ▸ hi) hd, fun hd ho => registerWrite_tvdef (ho ▸ hi) hd⟩
    · rw [exec_registerWrite hi, if_pos ho]
    · rintro ho rfl hp
      exact exec_registerWrite_bar2 hi ho (present_iff.2 hp)

end Sys2Proof.Machine
end

section
/-! SUPPORT. Privileged instructions, words that are no instructions, and fetches that fault (O17). -/

namespace Sys2Proof.Machine
open Sys2Proof

section
variable {s s1 : State}

/-! ## What a mode may not execute (R28) -/

theorem sp_allows_eq_false {m : Mode} (h : m = .u) : Priv.sp.allows m = false := by
  rw [h]
  rfl
theorem sOnly_allows_eq_false {m : Mode} (h : m ≠ .s) : Priv.sOnly.allows m = false := beq_eq_false_iff_ne.2 h
theorem pOnly_allows_eq_false {m : Mode} (h : m ≠ .p) : Priv.pOnly.allows m = false := beq_eq_false_iff_ne.2 h

/-- Outside the management hart no instruction is missing: the mode alone refuses it, before its tokens and its guard are looked at. -/
theorem issue_refused (hm : s.hart.isMgmt = false) {priv : Priv} (hp : priv.allows s.hart.mode = false) (i : Instr) (onMgmt : Bool)
    (g : Hdr) (xs : List XReg) (ps : List PReg) (body : State → Eff) :
    issue i onMgmt priv g xs ps body s = .next (s.takeTrap { cause := .privilege, epc := s.hart.pc, val := encode i }) :=
  issue_privilege i onMgmt priv g xs ps body s (by rw [hm, Bool.false_and]) hp

/-! ## Words and fetches (R60 to R62) -/

/-- A word that is no instruction traps on a running hart. -/
theorem exec_nonInstructionWord (hr : s.hart.run = .running) (w : Word) :
    exec (.nonInstructionWord w) s = .next (s.takeTrap { cause := .illegalInstr, epc := s.hart.pc, val := w }) := if_pos hr

/-- A fetch that faults traps behind what the attempt has left in the state. -/
theorem exec_instructionFetchFault (hr : s.hart.run = .running) {f : MemFault} (hf : s.fetch = (.error f, s1)) :
    exec .instructionFetchFault s =
      .next (s1.takeTrap { cause := f.cause, epc := s1.hart.pc, val := f.addr, npg := f.fb.length, fb := f.fb }) := by
  change execInstructionFetchFault s = _
  rw [execInstructionFetchFault, if_pos hr, hf]
  rfl
end

/-- Settles O17: `issue` looks at the mode before the tokens, and the two events of a fetch are equations of their own. -/
theorem privilegeAndIllegalWords : Obligations.PrivilegeAndIllegalWords := by
  unfold Obligations.PrivilegeAndIllegalWords
  constructor
  · intro s wm sc all t cls xd xa xb hm
    refine ⟨fun hu => ?_, fun hs => ?_, fun hp => ?_⟩
    · have hno := sp_allows_eq_false hu
      exact ⟨issue_refused hm hno (.tret wm) .., issue_refused hm hno (.tinv wm sc all t xa xb) ..⟩
    · have hno := sOnly_allows_eq_false hs
      exact ⟨issue_refused hm hno (.vsave wm xd xa xb) .., issue_refused hm hno (.vrest wm xd xa) ..⟩
    · have hno := pOnly_allows_eq_false hp
      exact ⟨issue_refused hm hno (.clset wm cls t xd xa) .., issue_refused hm hno (.bind wm t xd xa) ..⟩
  · intro s w f s1 hr
    exact ⟨exec_nonInstructionWord hr w, exec_instructionFetchFault hr⟩

end Sys2Proof.Machine
end
section
/-! SUPPORT. Encoding and decoding (R37 to R60): the fields of the word of each format, and the round trip in both directions (O58, O59, O57). -/

namespace Sys2Proof
open BitVec

/-! ## Fields of a concatenation

The library's lemmas, with the width of the concatenation kept out of the index of the simplifier: a word's width is written 64. -/

section
variable {n m s l i : Nat} {x : BitVec n} {y : BitVec m}

@[simp] theorem extract_above (h : m ≤ s) : (@HAppend.hAppend _ _ (BitVec (no_index (n + m))) _ x y).extractLsb' s l = x.extractLsb' (s - m) l :=
  extractLsb'_append_eq_of_le h
@[simp] theorem extract_within (h : s + l ≤ m) : (@HAppend.hAppend _ _ (BitVec (no_index (n + m))) _ x y).extractLsb' s l = y.extractLsb' s l :=
  extractLsb'_append_eq_of_add_le h
@[simp] theorem bit_above (h : m ≤ i) : (@HAppend.hAppend _ _ (BitVec (no_index (n + m))) _ x y).getLsbD i = x.getLsbD (i - m) := by
  rw [getLsbD_append, if_neg (by omega)]
@[simp] theorem bit_within (h : i < m) : (@HAppend.hAppend _ _ (BitVec (no_index (n + m))) _ x y).getLsbD i = y.getLsbD i := by
  rw [getLsbD_append, if_pos h]
end

/-! ## Fields of each format (R43 to R55) -/

section
variable (op : BitVec 8) (g : Hdr) (d a b fn : BitVec 6) {s l i : Nat}

/-- The guard bits of a header. -/
@[simp] theorem header_guard : (op ++ g.pg ++ ofBool g.pn).extractLsb' 0 5 = g.pg ++ ofBool g.pn := by
  ext j hj
  rw [getElem_extractLsb', Nat.zero_add, ← getLsbD_eq_getElem, getLsbD_append, getLsbD_append, getLsbD_append]
  split
  · rfl
  · rw [if_pos (by omega)]

@[simp] theorem encS3_fields :
    (encS3 op g d a b fn).extractLsb' 56 8 = op
    ∧ gH (encS3 op g d a b fn) = g
    ∧ (encS3 op g d a b fn).extractLsb' 51 5 = g.pg ++ ofBool g.pn
    ∧ f37 (encS3 op g d a b fn) = d
    ∧ f31 (encS3 op g d a b fn) = a
    ∧ f25 (encS3 op g d a b fn) = b
    ∧ (encS3 op g d a b fn).extractLsb' 19 6 = fn
    ∧ gFn (encS3 op g d a b fn) = fn.toNat := by
  simp [encS3, encHead, gH, f37, f31, f25, gFn, -getLsbD_eq_getElem]
@[simp] theorem encS3_fn (hs : 19 ≤ s) (hl : s + l ≤ 25) : (encS3 op g d a b fn).extractLsb' s l = fn.extractLsb' (s - 19) l := by
  rw [encS3, extract_above hs, extract_within (by omega)]

@[simp] theorem encSI_fields (fn : BitVec 4) (imm : BitVec 27) :
    (encSI op g d a fn imm).extractLsb' 56 8 = op
    ∧ gH (encSI op g d a fn imm) = g
    ∧ (encSI op g d a fn imm).extractLsb' 51 5 = g.pg ++ ofBool g.pn
    ∧ f37 (encSI op g d a fn imm) = d
    ∧ f31 (encSI op g d a fn imm) = a
    ∧ (encSI op g d a fn imm).extractLsb' 27 4 = fn := by
  simp [encSI, encHead, gH, f37, f31, -getLsbD_eq_getElem]
@[simp] theorem encSI_fn (fn : BitVec 4) (imm : BitVec 27) (hs : 27 ≤ s) (hl : s + l ≤ 31) :
    (encSI op g d a fn imm).extractLsb' s l = fn.extractLsb' (s - 27) l := by
  rw [encSI, extract_above hs, extract_within (by omega)]
@[simp] theorem encSI_fn_bit (fn : BitVec 4) (imm : BitVec 27) (hs : 27 ≤ i) (hl : i < 31) :
    (encSI op g d a fn imm).getLsbD i = fn.getLsbD (i - 27) := by
  rw [encSI, bit_above hs, bit_within (by omega)]
@[simp] theorem encSI_imm (fn : BitVec 4) (imm : BitVec 27) (h : s + l ≤ 27) : (encSI op g d a fn imm).extractLsb' s l = imm.extractLsb' s l := by
  rw [encSI, extract_within h]
@[simp] theorem encSI_imm_bit (fn : BitVec 4) (imm : BitVec 27) (h : i < 27) : (encSI op g d a fn imm).getLsbD i = imm.getLsbD i := by
  rw [encSI, bit_within h]

@[simp] theorem encMem_fields (m : MemOp) (zx : Bool) (sz : BitVec 2) :
    (encMem op g d m zx sz).extractLsb' 56 8 = op ∧ gH (encMem op g d m zx sz) = g ∧ (encMem op g d m zx sz).extractLsb' 51 5 = g.pg ++ ofBool g.pn
    ∧ f37 (encMem op g d m zx sz) = d ∧ gMem (encMem op g d m zx sz) = m ∧ (encMem op g d m zx sz).extractLsb' 27 2 = sz
    ∧ (encMem op g d m zx sz).getLsbD 29 = zx := by
  cases m <;> simp [encMem, gMem, -getLsbD_eq_getElem]

@[simp] theorem encSL_fields (imm : BitVec 37) :
    (encSL op g d imm).extractLsb' 56 8 = op
    ∧ gH (encSL op g d imm) = g
    ∧ (encSL op g d imm).extractLsb' 51 5 = g.pg ++ ofBool g.pn
    ∧ f37 (encSL op g d imm) = d := by
  simp [encSL, encHead, gH, f37, -getLsbD_eq_getElem]
@[simp] theorem encSL_imm (imm : BitVec 37) (h : s + l ≤ 37) : (encSL op g d imm).extractLsb' s l = imm.extractLsb' s l := by
  rw [encSL, extract_within h]

@[simp] theorem encV3_fields (ra rb : BitVec 4) (sat q : Bool) (rnd : BitVec 2) (aux : BitVec 6) :
    (encV3 op g d a ra b rb fn sat rnd q aux).extractLsb' 56 8 = op
    ∧ gH (encV3 op g d a ra b rb fn sat rnd q aux) = g
    ∧ (encV3 op g d a ra b rb fn sat rnd q aux).extractLsb' 51 5 = g.pg ++ ofBool g.pn
    ∧ f37 (encV3 op g d a ra b rb fn sat rnd q aux) = d
    ∧ f31 (encV3 op g d a ra b rb fn sat rnd q aux) = a
    ∧ (encV3 op g d a ra b rb fn sat rnd q aux).extractLsb' 27 4 = ra
    ∧ f21 (encV3 op g d a ra b rb fn sat rnd q aux) = b
    ∧ (encV3 op g d a ra b rb fn sat rnd q aux).extractLsb' 17 4 = rb
    ∧ gFnV (encV3 op g d a ra b rb fn sat rnd q aux) = fn
    ∧ (encV3 op g d a ra b rb fn sat rnd q aux).getLsbD 10 = sat
    ∧ (encV3 op g d a ra b rb fn sat rnd q aux).extractLsb' 8 2 = rnd
    ∧ (encV3 op g d a ra b rb fn sat rnd q aux).getLsbD 8 = rnd.getLsbD 0
    ∧ (encV3 op g d a ra b rb fn sat rnd q aux).getLsbD 7 = q := by
  simp [encV3, encHead, gH, f37, f31, f21, gFnV, -getLsbD_eq_getElem]
@[simp] theorem encV3_aux (ra rb : BitVec 4) (sat q : Bool) (rnd : BitVec 2) (aux : BitVec 6) (hs : 1 ≤ s) (hl : s + l ≤ 7) :
    (encV3 op g d a ra b rb fn sat rnd q aux).extractLsb' s l = aux.extractLsb' (s - 1) l := by
  rw [encV3, extract_above hs, extract_within (by omega)]
@[simp] theorem encV3_aux_bit (ra rb : BitVec 4) (sat q : Bool) (rnd : BitVec 2) (aux : BitVec 6) (hs : 1 ≤ i) (hl : i < 7) :
    (encV3 op g d a ra b rb fn sat rnd q aux).getLsbD i = aux.getLsbD (i - 1) := by
  rw [encV3, bit_above hs, bit_within (by omega)]

@[simp] theorem encVM_fields (mode sc : BitVec 3) (t : VmTail) (imm : BitVec 6) :
    (encVM op g d a b mode t sc fn imm).extractLsb' 56 8 = op
    ∧ gH (encVM op g d a b mode t sc fn imm) = g
    ∧ (encVM op g d a b mode t sc fn imm).extractLsb' 51 5 = g.pg ++ ofBool g.pn
    ∧ f37 (encVM op g d a b mode t sc fn imm) = d
    ∧ f31 (encVM op g d a b mode t sc fn imm) = a
    ∧ f25 (encVM op g d a b mode t sc fn imm) = b
    ∧ (encVM op g d a b mode t sc fn imm).extractLsb' 22 3 = mode
    ∧ gTail (encVM op g d a b mode t sc fn imm) = t
    ∧ (encVM op g d a b mode t sc fn imm).extractLsb' 16 3 = t.tc
    ∧ (encVM op g d a b mode t sc fn imm).getLsbD 15 = t.nb
    ∧ (encVM op g d a b mode t sc fn imm).extractLsb' 12 3 = sc
    ∧ (encVM op g d a b mode t sc fn imm).extractLsb' 6 6 = fn := by
  simp [encVM, encHead, gH, f37, f31, f25, gTail, -getLsbD_eq_getElem]
@[simp] theorem encVM_imm (mode sc : BitVec 3) (t : VmTail) (imm : BitVec 6) (h : s + l ≤ 6) :
    (encVM op g d a b mode t sc fn imm).extractLsb' s l = imm.extractLsb' s l := by
  rw [encVM, extract_within h]
@[simp] theorem encVM_imm_bit (mode sc : BitVec 3) (t : VmTail) (imm : BitVec 6) (h : i < 6) :
    (encVM op g d a b mode t sc fn imm).getLsbD i = imm.getLsbD i := by
  rw [encVM, bit_within h]

/-- A token that is set reads back as itself, and so does none. -/
theorem token_fields (tk : Option (BitVec 3)) : (if (encTk tk).getLsbD 3 then some ((encTk tk).extractLsb' 0 3) else none) = tk := by
  cases tk with
  | none => rfl
  | some k => simp [encTk, -getLsbD_eq_getElem]
@[simp] theorem encMX_fields (ms : BitVec 6) (tk : Option (BitVec 3)) (asrc bsrc sat : Bool) (rnd : BitVec 2) (imm : BitVec 4) :
    (encMX op g d a b fn ms tk asrc bsrc sat rnd imm).extractLsb' 56 8 = op
    ∧ gH (encMX op g d a b fn ms tk asrc bsrc sat rnd imm) = g
    ∧ (encMX op g d a b fn ms tk asrc bsrc sat rnd imm).extractLsb' 51 5 = g.pg ++ ofBool g.pn
    ∧ f37 (encMX op g d a b fn ms tk asrc bsrc sat rnd imm) = d
    ∧ f31 (encMX op g d a b fn ms tk asrc bsrc sat rnd imm) = a
    ∧ f25 (encMX op g d a b fn ms tk asrc bsrc sat rnd imm) = b
    ∧ (encMX op g d a b fn ms tk asrc bsrc sat rnd imm).extractLsb' 19 6 = fn
    ∧ gFn (encMX op g d a b fn ms tk asrc bsrc sat rnd imm) = fn.toNat
    ∧ (encMX op g d a b fn ms tk asrc bsrc sat rnd imm).extractLsb' 13 6 = ms
    ∧ gTkM (encMX op g d a b fn ms tk asrc bsrc sat rnd imm) = tk
    ∧ (encMX op g d a b fn ms tk asrc bsrc sat rnd imm).getLsbD 8 = asrc
    ∧ (encMX op g d a b fn ms tk asrc bsrc sat rnd imm).getLsbD 7 = bsrc
    ∧ (encMX op g d a b fn ms tk asrc bsrc sat rnd imm).getLsbD 6 = sat
    ∧ (encMX op g d a b fn ms tk asrc bsrc sat rnd imm).extractLsb' 4 2 = rnd := by
  simp [encMX, encHead, gH, f37, f31, f25, gTkM, token_fields, gFn, -getLsbD_eq_getElem]
@[simp] theorem encMX_imm (ms : BitVec 6) (tk : Option (BitVec 3)) (asrc bsrc sat : Bool) (rnd : BitVec 2) (imm : BitVec 4) (h : s + l ≤ 4) :
    (encMX op g d a b fn ms tk asrc bsrc sat rnd imm).extractLsb' s l = imm.extractLsb' s l := by
  rw [encMX, extract_within h]
@[simp] theorem encMX_imm_bit (ms : BitVec 6) (tk : Option (BitVec 3)) (asrc bsrc sat : Bool) (rnd : BitVec 2) (imm : BitVec 4) (h : i < 4) :
    (encMX op g d a b fn ms tk asrc bsrc sat rnd imm).getLsbD i = imm.getLsbD i := by
  rw [encMX, bit_within h]

@[simp] theorem encCL_fields (grp : BitVec 6) (rop : BitVec 3) (mem : Bool) (tk : Option (BitVec 3)) :
    (encCL op g d a b fn grp rop mem tk).extractLsb' 56 8 = op
    ∧ gH (encCL op g d a b fn grp rop mem tk) = g
    ∧ (encCL op g d a b fn grp rop mem tk).extractLsb' 51 5 = g.pg ++ ofBool g.pn
    ∧ f37 (encCL op g d a b fn grp rop mem tk) = d
    ∧ f31 (encCL op g d a b fn grp rop mem tk) = a
    ∧ f25 (encCL op g d a b fn grp rop mem tk) = b
    ∧ (encCL op g d a b fn grp rop mem tk).extractLsb' 19 6 = fn
    ∧ gFn (encCL op g d a b fn grp rop mem tk) = fn.toNat
    ∧ (encCL op g d a b fn grp rop mem tk).extractLsb' 13 6 = grp
    ∧ (encCL op g d a b fn grp rop mem tk).extractLsb' 10 3 = rop
    ∧ (encCL op g d a b fn grp rop mem tk).getLsbD 9 = mem
    ∧ gTkC (encCL op g d a b fn grp rop mem tk) = tk := by
  simp [encCL, encHead, gH, f37, f31, f25, gTkC, token_fields, gFn, -getLsbD_eq_getElem]

@[simp] theorem encSY_fields (sc : BitVec 3) (imm : BitVec 16) :
    (encSY op g d a b fn sc imm).extractLsb' 56 8 = op
    ∧ gH (encSY op g d a b fn sc imm) = g
    ∧ (encSY op g d a b fn sc imm).extractLsb' 51 5 = g.pg ++ ofBool g.pn
    ∧ f37 (encSY op g d a b fn sc imm) = d
    ∧ f31 (encSY op g d a b fn sc imm) = a
    ∧ f25 (encSY op g d a b fn sc imm) = b
    ∧ (encSY op g d a b fn sc imm).extractLsb' 19 6 = fn
    ∧ gFn (encSY op g d a b fn sc imm) = fn.toNat
    ∧ (encSY op g d a b fn sc imm).extractLsb' 16 3 = sc := by
  simp [encSY, encHead, gH, f37, f31, f25, gFn, -getLsbD_eq_getElem]
@[simp] theorem encSY_imm (sc : BitVec 3) (imm : BitVec 16) (h : s + l ≤ 16) : (encSY op g d a b fn sc imm).extractLsb' s l = imm.extractLsb' s l := by
  rw [encSY, extract_within h]
@[simp] theorem encSY_imm_bit (sc : BitVec 3) (imm : BitVec 16) (h : i < 16) : (encSY op g d a b fn sc imm).getLsbD i = imm.getLsbD i := by
  rw [encSY, bit_within h]
end

/-! ## Codes (R50, R56, R57, R72): what a reader makes of the code of a value -/

@[simp] theorem ok_bind {α β : Type} (a : α) (f : α → Except DecodeError β) : (Except.ok a >>= f) = f a := rfl
@[simp] theorem rScope_code (c : Scope) : rScope c.code = .ok c := by cases c <;> rfl
@[simp] theorem rCond_code (c : Cond) : rCond c.code 0#2 = .ok c := by cases c <;> rfl
@[simp] theorem rPCond_code (c : PCond) : rPCond c.code = .ok c := by cases c <;> rfl
@[simp] theorem rFCond_code (c : FCond) : rFCond c.code = .ok c := by cases c <;> rfl
@[simp] theorem rVCond_code (c : VCond) : rVCond (0#3 ++ c.code) = .ok c := by cases c <;> rfl
@[simp] theorem rROp_code (c : ROp) : rROp (0#3 ++ c.code) = .ok c := by cases c <;> rfl
@[simp] theorem rAOp_code4 (c : AOp) : rAOp c.code4.toNat = .ok c := by cases c <;> rfl
@[simp] theorem rAOp_code (c : AOp) : rAOp (0#3 ++ c.code).toNat = .ok c := by cases c <;> rfl
@[simp] theorem rCOp_code (c : COp) : rCOp c.code = .ok c := by cases c <;> rfl
@[simp] theorem rTag_code (c : Tag) : rTag c.code = .ok c := by cases c <;> rfl
@[simp] theorem rRep_code (c : Rep) : rRep c.code = .ok c := by cases c <;> rfl
@[simp] theorem low4_pfield (p : PReg) : low4 (pfield p) = p := by simp [low4, pfield]

@[simp] theorem hdr_grd (g : Grd) : g.hdr.grd = g := rfl

section
variable (op : BitVec 8) (g : Hdr) (d a b fn : BitVec 6) (r r' : Rep) (sat q : Bool) (rnd : BitVec 2) (aux : BitVec 6)
@[simp] theorem rVSrcA_encV3 (rb : BitVec 4) : rVSrcA (encV3 op g d a r.code b rb fn sat rnd q aux) = .ok ⟨a, r⟩ := by simp [rVSrcA]
@[simp] theorem rVSrcB_encV3 (ra : BitVec 4) : rVSrcB (encV3 op g d a ra b r.code fn sat rnd q aux) = .ok ⟨b, r⟩ := by simp [rVSrcB]
@[simp] theorem rVBin_encV3 : rVBin (encV3 op g d a r.code b r'.code fn sat rnd q aux) = .ok ⟨q, ⟨a, r⟩, ⟨b, r'⟩⟩ := by
  simp [rVBin, -getLsbD_eq_getElem]
end

/-! ## The instructions in parts

The constructors of `Instr` stand in the order of the opcode table, so a run of them is a part of the opcode map (R58). A
proof by cases takes one part at a time. -/

/-- The instruction is one of those from the row `lo` of the opcode table up to the row before `hi`. -/
def Instr.between (lo hi : Nat) (i : Instr) : Bool := Nat.ble lo i.ctorIdx && Nat.blt i.ctorIdx hi

/-- The rows from 218 on are the operations and events. -/
theorem isEvent_iff_row (i : Instr) : i.isEvent = Nat.ble 218 i.ctorIdx := by cases i <;> rfl

/-- An instruction stands in one of the parts, in the order of the table: sums, logic and shifts; products, counts and constants; predicates to
scalar memory; floating point and CSRs; fences and threads; vector moves and sums; vector products; bits; rows and tiles; vector memory; vector atomics and pushes; streams, windows and
row lanes; engines; collectives. -/
theorem between_of_not_isEvent {i : Instr} (h : i.isEvent = false) :
    i.between 0 32 ∨ i.between 32 50 ∨ i.between 50 71 ∨ i.between 71 85 ∨ i.between 85 106 ∨ i.between 106 122 ∨
      i.between 122 133 ∨ i.between 133 146 ∨ i.between 146 163 ∨ i.between 163 175 ∨ i.between 175 184 ∨ i.between 184 196 ∨
      i.between 196 205 ∨ i.between 205 218 := by
  have hlt : i.ctorIdx < 218 := by
    rw [isEvent_iff_row] at h
    exact Nat.lt_of_not_le fun hge => by simp [Nat.ble_eq_true_of_le hge] at h
  simp only [Instr.between, Nat.blt, Bool.and_eq_true, Nat.ble_eq]
  omega

/-! ## The word of an instruction reads as the instruction -/

theorem parse_encode_sums {i : Instr} (h : i.between 0 32) : parse (encode i) = .ok i := by
  cases i
  case add | sub | and | or | xor | andn | shl | shr | sha | rotl | min | max | minu | maxu | slt | sltu =>
    all_goals (unfold encode parse parse01; simp [-getLsbD_eq_getElem])
  case addImm | subImm | andImm | orImm | xorImm | andnImm | shlImm | shrImm | shaImm | rotlImm | minImm | maxImm | minuImm | maxuImm | sltImm |
      sltuImm =>
    all_goals (unfold encode parse parse04; simp [-getLsbD_eq_getElem])
  all_goals exact Bool.noConfusion h

theorem parse_encode_products {i : Instr} (h : i.between 32 50) : parse (encode i) = .ok i := by
  cases i
  case mul | mulh | mulhu | div | divu | rem | remu =>
    all_goals (unfold encode parse parse02; simp [-getLsbD_eq_getElem])
  case clz | ctz | popc | bext | bdep | brev =>
    all_goals (unfold encode parse parse03; simp [-getLsbD_eq_getElem])
  case li =>
    unfold encode parse parse10; simp [-getLsbD_eq_getElem]
  case lih =>
    unfold encode parse parse11; simp [-getLsbD_eq_getElem]
  case lea =>
    unfold encode parse parse12; simp [-getLsbD_eq_getElem]
  case pamk | pax =>
    all_goals (unfold encode parse parse13; simp [-getLsbD_eq_getElem])
  all_goals exact Bool.noConfusion h

theorem parse_encode_control {i : Instr} (h : i.between 50 71) : parse (encode i) = .ok i := by
  cases i
  case cmp =>
    unfold encode parse parse18; simp [-getLsbD_eq_getElem]
  case pand | por | pxor | pnot | pmov | pfirst | pcnt | pset =>
    all_goals (unfold encode parse parse19; simp [-getLsbD_eq_getElem])
  case br =>
    unfold encode parse parse20; simp [-getLsbD_eq_getElem]
  case brp =>
    unfold encode parse parse21; simp [-getLsbD_eq_getElem]
  case j =>
    unfold encode parse parse22; simp [-getLsbD_eq_getElem]
  case jal =>
    unfold encode parse parse23; simp [-getLsbD_eq_getElem]
  case jalr =>
    unfold encode parse parse24; simp [-getLsbD_eq_getElem]
  case ld =>
    unfold encode parse parse28; simp [-getLsbD_eq_getElem]
  case st =>
    unfold encode parse parse29; simp [-getLsbD_eq_getElem]
  case amo =>
    unfold encode parse parse2A; simp [rOrdA, -getLsbD_eq_getElem]
  case cas | binc =>
    all_goals (unfold encode parse parse2B; simp [rOrdA, -getLsbD_eq_getElem])
  case cclean | cflush =>
    all_goals (unfold encode parse parse2C; simp [-getLsbD_eq_getElem])
  all_goals exact Bool.noConfusion h

theorem parse_encode_float {i : Instr} (h : i.between 71 85) : parse (encode i) = .ok i := by
  cases i
  case fadd | fsub | fmul | fdiv | fmin | fmax | fsqrt =>
    all_goals (unfold encode parse parse30; cases ‹Bool› <;> simp [-getLsbD_eq_getElem])
  case ffma =>
    unfold encode parse parse32; simp [-getLsbD_eq_getElem]
  case fcvt | fcmp =>
    all_goals (unfold encode parse parse33; simp [-getLsbD_eq_getElem])
  case csrr | csrw | csrs | csrc =>
    all_goals (unfold encode parse parse38; simp [-getLsbD_eq_getElem])
  all_goals exact Bool.noConfusion h

theorem parse_encode_thread {i : Instr} (h : i.between 85 106) : parse (encode i) = .ok i := by
  cases i
  case fenceSv | fenceVs | fenceVv | fenceA =>
    all_goals (unfold encode parse parse39; simp [-getLsbD_eq_getElem])
  case qfence =>
    unfold encode parse parse3A; simp [-getLsbD_eq_getElem]
  case ecall | ebreak | tret | wait =>
    all_goals (unfold encode parse parse3B; simp [-getLsbD_eq_getElem])
  case lnch | claim | gbarArr | gbarWait | exit | yield | waitm =>
    all_goals (unfold encode parse parse3C; simp [-getLsbD_eq_getElem])
  case tinv | clset | bind =>
    all_goals (unfold encode parse parse3D; simp [-getLsbD_eq_getElem])
  case vsave | vrest =>
    all_goals (unfold encode parse parse3E; simp [-getLsbD_eq_getElem])
  all_goals exact Bool.noConfusion h

theorem parse_encode_vector {i : Instr} (h : i.between 106 122) : parse (encode i) = .ok i := by
  cases i
  case vcfg | setvl | setvh | vtag =>
    all_goals (unfold encode parse parse40; simp [-getLsbD_eq_getElem])
  case vmov | vsliceExtract | vsliceInsert | vbcast | vxt | vins =>
    all_goals (unfold encode parse parse41; simp [-getLsbD_eq_getElem])
  case vadd | vsub | vmin | vmax | vabs | vneg =>
    all_goals (unfold encode parse parse42; simp [-getLsbD_eq_getElem])
  all_goals exact Bool.noConfusion h

theorem parse_encode_vectorProducts {i : Instr} (h : i.between 122 133) : parse (encode i) = .ok i := by
  cases i
  case vmul | vmulh | vdiv | vrem =>
    all_goals (unfold encode parse parse43; simp [-getLsbD_eq_getElem])
  case vsqrt | vrcp | vrsq =>
    all_goals (unfold encode parse parse44; simp [-getLsbD_eq_getElem])
  case vfma | vfms | vfnma =>
    all_goals (unfold encode parse parse45; simp [-getLsbD_eq_getElem])
  case vcmp =>
    unfold encode parse parse46; simp [-getLsbD_eq_getElem]
  all_goals exact Bool.noConfusion h

theorem parse_encode_bits {i : Instr} (h : i.between 133 146) : parse (encode i) = .ok i := by
  cases i
  case vand | vor | vxor | vnot | vshl | vshr | vsha | vrot =>
    all_goals (unfold encode parse parse47; simp [-getLsbD_eq_getElem])
  case vclz | vpopc | vbrev | vbitil | vbitdl =>
    all_goals (unfold encode parse parse48; simp [-getLsbD_eq_getElem])
  all_goals exact Bool.noConfusion h

theorem parse_encode_tile {i : Instr} (h : i.between 146 163) : parse (encode i) = .ok i := by
  cases i
  case vred =>
    unfold encode parse parse49; simp [-getLsbD_eq_getElem]
  case vscan =>
    unfold encode parse parse4A; simp [-getLsbD_eq_getElem]
  case vmaxi | vmini =>
    all_goals (unfold encode parse parse4B; simp [-getLsbD_eq_getElem])
  case vslideUp | vslideDn | vperm | vcompr | vexpd | viota | vtrans =>
    all_goals (unfold encode parse parse4C; simp [-getLsbD_eq_getElem])
  case vcvt | vqnt | vdqnt =>
    all_goals (unfold encode parse parse4D; simp [-getLsbD_eq_getElem])
  case vsel =>
    unfold encode parse parse4E; simp [-getLsbD_eq_getElem]
  case vexp2 | vlog2 =>
    all_goals (unfold encode parse parse4F; simp [-getLsbD_eq_getElem])
  all_goals exact Bool.noConfusion h

theorem parse_encode_vectorMemory {i : Instr} (h : i.between 163 175) : parse (encode i) = .ok i := by
  cases i
  case vld | vldP | vlds | vgth | vgthCl | vldw | pref =>
    all_goals (unfold encode parse parse50; simp [-getLsbD_eq_getElem])
  case vst | vstP | vsts | vsct | vsctCl =>
    all_goals (unfold encode parse parse51; simp [-getLsbD_eq_getElem])
  all_goals exact Bool.noConfusion h

theorem parse_encode_vectorAtomic {i : Instr} (h : i.between 175 184) : parse (encode i) = .ok i := by
  cases i
  case vamo op _ _ _ _ _ _ _ =>
    cases op <;> (unfold encode parse parse52; simp [rOrdV, AOp.code, rAOp, -getLsbD_eq_getElem])
  case vcas | vbinc =>
    all_goals (unfold encode parse parse52; simp [rOrdV, -getLsbD_eq_getElem])
  case vstm =>
    unfold encode parse parse53; simp [-getLsbD_eq_getElem]
  case vpush | vtake | vfesRd | vfesClr | vfesSet =>
    all_goals (unfold encode parse parse54; simp [-getLsbD_eq_getElem])
  all_goals exact Bool.noConfusion h

theorem parse_encode_traffic {i : Instr} (h : i.between 184 196) : parse (encode i) = .ok i := by
  cases i
  case strm | strm2d =>
    all_goals (unfold encode parse parse60; simp [-getLsbD_eq_getElem])
  case waitK =>
    unfold encode parse parse61; simp [-getLsbD_eq_getElem]
  case ccwait | ccrd | ccrdClr =>
    all_goals (unfold encode parse parse62; simp [-getLsbD_eq_getElem])
  case wopen | wclose | winv =>
    all_goals (unfold encode parse parse63; simp [low2, -getLsbD_eq_getElem])
  case matt | mdet =>
    all_goals (unfold encode parse parse68; simp [-getLsbD_eq_getElem])
  case munf =>
    unfold encode parse parse69; simp [-getLsbD_eq_getElem]
  all_goals exact Bool.noConfusion h

theorem parse_encode_engine {i : Instr} (h : i.between 196 205) : parse (encode i) = .ok i := by
  cases i
  case mma =>
    unfold encode parse parse6A; simp [-getLsbD_eq_getElem]
  case maccLd | maccSt | maccZ =>
    all_goals (unfold encode parse parse6B; simp [-getLsbD_eq_getElem])
  case mepi =>
    unfold encode parse parse6C; simp [-getLsbD_eq_getElem]
  case wsld | wsberthGet | wsberthRdy | wsberthDrop =>
    all_goals (unfold encode parse parse6D; simp [-getLsbD_eq_getElem])
  all_goals exact Bool.noConfusion h

theorem parse_encode_collective {i : Instr} (h : i.between 205 218) : parse (encode i) = .ok i := by
  cases i
  case collArV | collArM | collRsV | collRsM | collAgV | collAgM | collBcV | collBcM | collSrs =>
    all_goals (unfold encode parse parse70; simp [-getLsbD_eq_getElem])
  case collBar | collWait | collStat | collStatClr =>
    all_goals (unfold encode parse parse71; simp [-getLsbD_eq_getElem])
  all_goals exact Bool.noConfusion h

/-- The word of an instruction reads as the instruction. -/
theorem parse_encode {i : Instr} (h : i.isEvent = false) : parse (encode i) = .ok i := by
  obtain h | h | h | h | h | h | h | h | h | h | h | h | h | h := between_of_not_isEvent h
  · exact parse_encode_sums h
  · exact parse_encode_products h
  · exact parse_encode_control h
  · exact parse_encode_float h
  · exact parse_encode_thread h
  · exact parse_encode_vector h
  · exact parse_encode_vectorProducts h
  · exact parse_encode_bits h
  · exact parse_encode_tile h
  · exact parse_encode_vectorMemory h
  · exact parse_encode_vectorAtomic h
  · exact parse_encode_traffic h
  · exact parse_encode_engine h
  · exact parse_encode_collective h

/-! ## The guard bits of the opcodes that take no guard (R40) -/

/-- A word of an opcode that takes no guard has zero guard bits. -/
def GuardClear (w : Word) : Prop := (w.extractLsb' 56 8).toNat ∈ unguardedOps → w.extractLsb' 51 5 = 0

section
variable (op : BitVec 8) (g : Hdr) (d a b fn : BitVec 6)
@[simp] theorem guardClear_encS3 :
    GuardClear (encS3 op g d a b fn) ↔ (op.toNat ∈ unguardedOps → g.pg ++ ofBool g.pn = 0) := by simp [GuardClear]
@[simp] theorem guardClear_encSI (fn : BitVec 4) (imm : BitVec 27) :
    GuardClear (encSI op g d a fn imm) ↔ (op.toNat ∈ unguardedOps → g.pg ++ ofBool g.pn = 0) := by simp [GuardClear]
@[simp] theorem guardClear_encMem (m : MemOp) (zx : Bool) (sz : BitVec 2) :
    GuardClear (encMem op g d m zx sz) ↔ (op.toNat ∈ unguardedOps → g.pg ++ ofBool g.pn = 0) := by simp [GuardClear]
@[simp] theorem guardClear_encSL (imm : BitVec 37) :
    GuardClear (encSL op g d imm) ↔ (op.toNat ∈ unguardedOps → g.pg ++ ofBool g.pn = 0) := by simp [GuardClear]
@[simp] theorem guardClear_encV3 (ra rb : BitVec 4) (sat q : Bool) (rnd : BitVec 2) (aux : BitVec 6) :
    GuardClear (encV3 op g d a ra b rb fn sat rnd q aux) ↔ (op.toNat ∈ unguardedOps → g.pg ++ ofBool g.pn = 0) := by simp [GuardClear]
@[simp] theorem guardClear_encVM (mode sc : BitVec 3) (t : VmTail) (imm : BitVec 6) :
    GuardClear (encVM op g d a b mode t sc fn imm) ↔ (op.toNat ∈ unguardedOps → g.pg ++ ofBool g.pn = 0) := by simp [GuardClear]
@[simp] theorem guardClear_encMX (ms : BitVec 6) (tk : Option (BitVec 3)) (asrc bsrc sat : Bool) (rnd : BitVec 2) (imm : BitVec 4) :
    GuardClear (encMX op g d a b fn ms tk asrc bsrc sat rnd imm) ↔ (op.toNat ∈ unguardedOps → g.pg ++ ofBool g.pn = 0) := by simp [GuardClear]
@[simp] theorem guardClear_encCL (grp : BitVec 6) (rop : BitVec 3) (mem : Bool) (tk : Option (BitVec 3)) :
    GuardClear (encCL op g d a b fn grp rop mem tk) ↔ (op.toNat ∈ unguardedOps → g.pg ++ ofBool g.pn = 0) := by simp [GuardClear]
@[simp] theorem guardClear_encSY (sc : BitVec 3) (imm : BitVec 16) :
    GuardClear (encSY op g d a b fn sc imm) ↔ (op.toNat ∈ unguardedOps → g.pg ++ ofBool g.pn = 0) := by simp [GuardClear]
end

@[simp] theorem guardClear_zero : GuardClear 0#64 := fun _ => rfl

/-- The headers that `encode` writes for these opcodes are plain. -/
theorem guardClear_encode {i : Instr} (h : i.isEvent = false) : GuardClear (encode i) := by
  cases i
  case nonInstructionWord => exact Bool.noConfusion h
  case fadd | fsub | fmul | fdiv | fmin | fmax | fsqrt =>
    all_goals (unfold encode; cases ‹Bool› <;> simp [unguardedOps])
  all_goals (unfold encode; simp [unguardedOps, Hdr.plain])

/-! ## No word reads as an operation or event -/

/-- The reader of operands gives no operation or event of the device. -/
def NoEvent : Except DecodeError Instr → Prop
  | .ok i => i.isEvent = false
  | .error _ => True

theorem noEvent_bind {α : Type} {x : Except DecodeError α} {f : α → Except DecodeError Instr} (h : ∀ a, NoEvent (f a)) :
    NoEvent (x >>= f) := by
  cases x with
  | error e => trivial
  | ok a => exact h a

/-- Every branch of the readers ends in an instruction with an encoding, or in an error. -/
theorem noEvent_parse (w : Word) : NoEvent (parse w) := by
  unfold parse parse01 parse02 parse03 parse04 parse10 parse11 parse12 parse13 parse18 parse19 parse20 parse21 parse22
    parse23 parse24 parse28 parse29 parse2A parse2B parse2C parse30 parse32 parse33 parse38 parse39 parse3A parse3B parse3C
    parse3D parse3E parse40 parse41 parse42 parse43 parse44 parse45 parse46 parse47 parse48 parse49 parse4A parse4B parse4C
    parse4D parse4E parse4F parse50 parse51 parse52 parse53 parse54 parse60 parse61 parse62 parse63 parse68 parse69 parse6A
    parse6B parse6C parse6D parse70 parse71
  repeat' split
  all_goals repeat' (refine noEvent_bind fun _ => ?_)
  all_goals trivial

/-! ## The decoder -/

/-- What the decoder accepts (R60): a word without a guard that R40 forbids, whose operands are well-formed and whose every
bit is the one that the layout gives. -/
theorem decode_eq_ok {w : Word} {i : Instr} : decode w = .ok i ↔ GuardClear w ∧ parse w = .ok i ∧ encode i = w ∧ i.wf = true := by
  unfold decode GuardClear
  split
  case isTrue hg => exact ⟨nofun, fun ⟨h, _⟩ => absurd (h hg.1) hg.2⟩
  case isFalse hg =>
    cases hp : parse w with
    | error e => exact ⟨nofun, fun ⟨_, h, _⟩ => nomatch h⟩
    | ok j =>
      have hc : (w.extractLsb' 56 8).toNat ∈ unguardedOps → w.extractLsb' 51 5 = 0 := fun hm => of_not_not fun hne => hg ⟨hm, hne⟩
      simp only [Except.ok.injEq]
      constructor
      · intro h
        split at h
        case isFalse => exact nomatch h
        case isTrue he =>
          split at h
          case isFalse => exact nomatch h
          case isTrue hw => cases h; exact ⟨hc, rfl, he, hw⟩
      · rintro ⟨-, rfl, he, hw⟩
        rw [if_pos he, if_pos hw]

/-- The word of a well-formed instruction decodes to it. -/
theorem decode_encode {i : Instr} (h : i.isEvent = false) (hw : i.wf = true) : decode (encode i) = .ok i :=
  decode_eq_ok.2 ⟨guardClear_encode h, parse_encode h, rfl, hw⟩

/-- The sample words are the words of well-formed instructions. -/
theorem sampleWords_encode : ∀ p ∈ Spec.sampleWords, encode p.2 = p.1 ∧ p.2.isEvent = false ∧ p.2.wf = true := by decide

/-- Settles O58: the word reads as the instruction, its guard bits are clear where they must be, and nothing else is asked. -/
theorem decodeOfEncode : Obligations.DecodeOfEncode := fun _ => decode_encode

/-- Settles O59: the decoder compares the word with the one that the layout gives the operands it has read. -/
theorem encodeOfDecode : Obligations.EncodeOfDecode := by
  intro w i h
  obtain ⟨-, hp, he, hw⟩ := decode_eq_ok.1 h
  have hn := noEvent_parse w
  rw [hp] at hn
  exact ⟨hn, hw, he⟩

/-- Settles O57, from the round trip. -/
theorem sampleWords : Obligations.SampleWords := by
  intro p hp
  obtain ⟨he, hn, hw⟩ := sampleWords_encode p hp
  exact ⟨he ▸ decode_encode hn hw, he⟩
end Sys2Proof
end

section
/-! SUPPORT. Compares, predicates, branches and jumps (R57, R142 to R144): the conditions in the words of the spec, and the issue of an
instruction whose guard is the whole instruction's (O3, O4). -/

namespace Sys2Proof.Machine
open Sys2Proof

/-! ## Conditions (R57) -/

theorem not_slt_iff (a b : Word) : (!a.slt b) = decide (b.toInt ≤ a.toInt) := by
  rw [BitVec.slt, ← decide_not]
  exact decide_eq_decide.2 Int.not_lt
theorem not_ult_iff (a b : Word) : (!a.ult b) = decide (b.toNat ≤ a.toNat) := by
  rw [BitVec.ult, ← decide_not]
  exact decide_eq_decide.2 Nat.not_lt

theorem condHolds_eq (c : Cond) (a b : Word) : condHolds c a b = Spec.condTrue c a b := by
  cases c with
  | eq | ne | lt | ltu => rfl
  | ge => exact not_slt_iff a b
  | geu => exact not_ult_iff a b

section
variable {w : Nat} (v : BitVec w)

/-- The low `n` bits are all clear. -/
theorem extractLsb'_eq_zero_iff (n : Nat) : v.extractLsb' 0 n = 0 ↔ ∀ e < n, v.getLsbD e = false := by
  constructor
  · intro h e he
    have := congrArg (·.getLsbD e) h
    simpa [he] using this
  · intro h
    ext e he
    simpa [he] using h e he

theorem firstFrom_eq_find? (i n : Nat) : firstFrom v i n = (List.range' i n).find? (fun e => v.getLsbD e) := by
  induction n generalizing i with
  | zero => rfl
  | succ n ih =>
    rw [firstFrom, List.range'_succ, List.find?_cons, ih]
    cases v.getLsbD i <;> rfl

theorem countLow_eq_length (n : Nat) : countLow v n = ((List.range n).filter (fun e => v.getLsbD e)).length := by
  induction n with
  | zero => rfl
  | succ n ih =>
    rw [countLow, List.range_succ, List.filter_append, List.length_append, ih]
    cases h : v.getLsbD n <;> simp [h]
end

theorem pcondHolds_eq (c : PCond) (v : BitVec 32768) (n : Nat) : pcondHolds c v n = Spec.pcond c v n := by
  have h0 : (v.extractLsb' 0 n == 0) = (List.range n).all (fun e => !v.getLsbD e) := by
    rw [Bool.eq_iff_iff, beq_iff_eq, extractLsb'_eq_zero_iff]
    simp
  cases c with
  | t | f => rfl
  | none => exact h0
  | any =>
    change (!(v.extractLsb' 0 n == 0)) = _
    rw [h0, List.not_all_eq_any_not]
    simp [Spec.pcond]

theorem firstBit_eq (v : BitVec 32768) (n : Nat) :
    firstBit v n = match (List.range n).find? (fun e => v.getLsbD e) with
      | some e => BitVec.twoPow 32768 e
      | none => 0 := by
  rw [firstBit, firstFrom_eq_find?, ← List.range_eq_range'] <;> rfl

/-! ## Targets (R48, R144) -/

theorem target_eq (s : State) (ofs : BitVec 27) : s.target ofs = s.hart.pc + 8 * ofs.signExtend 64 :=
  congrArg (s.hart.pc + ·) (BitVec.mul_comm _ _)

/-- An address whose low three bits are clear is a multiple of 8. -/
theorem low3_eq_zero_iff (t : Word) : t.extractLsb' 0 3 = 0 ↔ t.toNat % 8 = 0 := by
  rw [← BitVec.toNat_inj]
  simp

/-! ## The issue of an instruction with one effect -/

section
variable {s : State} {g : Hdr}

/-- An instruction whose body is one effect is `guarded`. -/
theorem issue_done (h : s.Ready g.wm) (i : Instr) (xs : List XReg) (ps : List PReg) (f : State → State) :
    issue i true .all g xs ps (fun s => .done (f s)) s = Spec.guarded s g (f s) := by
  rw [issue_all h]
  cases hg : s.hart.guard g.grd <;> simp [Spec.guarded, hg, finish]

/-- Under a true guard an instruction is its body. -/
theorem issue_true (h : s.Ready g.wm) (hg : s.hart.guard g.grd = true) (i : Instr) (xs : List XReg) (ps : List PReg)
    (body : State → Eff) : issue i true .all g xs ps body s = finish (body s) := by
  rw [issue_all h, if_pos hg]

/-- Under a false guard an instruction is nothing but the next word (R39). -/
theorem issue_false (h : s.Ready g.wm) (hg : s.hart.guard g.grd = false) (i : Instr) (xs : List XReg) (ps : List PReg)
    (body : State → Eff) : issue i true .all g xs ps body s = .next s.completed := by
  rw [issue_all h, hg]
  rfl

/-- The body of a branch: its target when the condition holds, else the next word (R144). -/
theorem finish_branch (s : State) (b : Bool) (ofs : BitVec 27) :
    finish (if b then .goto (s.target ofs) s else .done s) =
      .next (if b then s.completedAt (s.hart.pc + 8 * ofs.signExtend 64) else s.completed) := by
  cases b
  · rfl
  · exact congrArg (Host.Outcome.next <| s.completedAt ·) (target_eq s ofs)

/-- The body of JALR (R62, R144). -/
theorem finish_jalr (s : State) (xd : XReg) (t : Word) :
    finish (if t.extractLsb' 0 3 ≠ 0 then trapAt .misaligned t s else .goto t (s.setX xd (s.hart.pc + 8))) =
      .next (if t.toNat % 8 = 0 then (s.setX xd (s.hart.pc + 8)).completedAt t
        else s.takeTrap { cause := .misaligned, epc := s.hart.pc, val := t }) := by
  by_cases h : t.toNat % 8 = 0
  · rw [if_pos h, if_neg (not_not.2 ((low3_eq_zero_iff t).2 h))]
    rfl
  · rw [if_neg h, if_pos (mt (low3_eq_zero_iff t).1 h)]
    rfl
end

/-- Settles O3: each body is one effect, and the compares and counts of the model are those of the statement. -/
theorem predicateResults : Obligations.PredicateResults := by
  intro s g pd pa pb xd xa xb h
  refine ⟨fun c => ?_, fun p hp => ?_, issue_done h .., issue_done h .., ?_, ?_, issue_done h ..⟩
  · rw [← condHolds_eq]
    exact issue_done h ..
  · simp only [Spec.predOps, List.mem_cons, List.not_mem_nil, or_false] at hp
    obtain rfl | rfl | rfl := hp
    · exact issue_done h (.pand g pd pa pb) _ _ (fun s => s.setP pd (s.pred pa &&& s.pred pb))
    · exact issue_done h (.por g pd pa pb) _ _ (fun s => s.setP pd (s.pred pa ||| s.pred pb))
    · exact issue_done h (.pxor g pd pa pb) _ _ (fun s => s.setP pd (s.pred pa ^^^ s.pred pb))
  · exact (issue_done h ..).trans (congrArg (fun b => Spec.guarded s g (s.setP pd b)) (firstBit_eq ..))
  · rw [← countLow_eq_length]
    exact issue_done h ..

/-- The branches and jumps under a true guard. -/
theorem branchesAndJumps : Spec.BranchesAndJumps := by
  intro s g xd xa xb ofs h hg
  refine ⟨fun c => ?_, fun c pa => ?_, ?_, ?_, ?_⟩
  · rw [← condHolds_eq, ← finish_branch]
    exact issue_true h hg ..
  · rw [← pcondHolds_eq, ← finish_branch]
    exact issue_true h hg ..
  · rw [← target_eq]
    exact issue_true h hg ..
  · rw [← target_eq]
    exact issue_true h hg ..
  · intro t
    have ht : s.x xa + imm27 ofs * 8 = t := congrArg (s.x xa + ·) (BitVec.mul_comm _ _)
    rw [← finish_jalr, ← ht]
    exact issue_true h hg ..

/-- The same instructions, and LD and ST, under a false one. -/
theorem falseGuardBranches : Spec.FalseGuardBranches := fun _ _ _ _ _ _ h hg =>
  ⟨fun _ => issue_false h hg .., fun _ _ => issue_false h hg .., issue_false h hg .., issue_false h hg .., issue_false h hg ..,
    fun _ _ _ => issue_false h hg .., fun _ _ => issue_false h hg ..⟩

/-- Settles O4: the two parts. -/
theorem branchesAndJumpsGo : Obligations.BranchesAndJumpsGo := ⟨branchesAndJumps, falseGuardBranches⟩

end Sys2Proof.Machine
end

section
/-! SUPPORT. A state outside the invariant, in which a hart out of focus is listed under another number than its own (O7, O56). -/

namespace Sys2Proof.Machine
open Sys2Proof

/-- A load of two bytes at `x6 - 8`. -/
def misnamedLoad : Instr := .ld (.plain 0) 5 (.direct 6 (-8)) 1 false
/-- The hart in focus runs the load at 0x100, with 0x208 in `x6`. -/
def misnamedHart : Hart :=
  { Hart.reset 0 with run := .running, pc := 0x100, x := (Hart.reset 0).x.set 6 0x208, launch := some ⟨0, 0⟩ }

/-- The hart's gang of one launch, whose budget of errors is 0, lists hart 5 as its one live hart. Under number 5 stands a hart that has the
number of the hart in focus and has two instructions performed ahead. A correctable error of HBM lies in granule `g`: the access that meets
it exhausts the budget (R285), and the trap that then becomes pending on "hart 5" is written to the hart in focus, with all the rest of the
hart listed there. -/
def misnamed (g : Nat) : State :=
  { ({ State.reset with hart := misnamedHart }).withFetchWord 64 0x280000A30FFFFFF8 with
    agenda := [.ahead 0 1]
    rest := [(5, { misnamedHart with ahead := [.scalar, .scalar] })]
    launches := [{ lid := ⟨0, 0⟩, pk := 0, tenant := 0, st := .queued, cursor := 0, placed := 0, started := true, left := false, ebcnt := 0
                   eblim := 0, ebDone := false, cause := 0, waits := none }]
    gangs := [{ lid := ⟨0, 0⟩, num := 0, cl := 0, harts := List.range 16, live := [5], ended := [], spmOff := 0, spmLen := 0
                accOff := List.replicate 16 0, accLen := 0, bar := 15, cls := .f, tenant := 0, st := .resident, since := 0, parkNo := 0
                forL := none, yielded := false, barSaved := {}, grants := [], rowsResv := 0, saved := [] }]
    errs := [⟨.hbm g, 1, false⟩] }

/-- The state does not satisfy the part `State.Named` of the invariant. -/
theorem not_named_misnamed (g : Nat) : ¬(misnamed g).Named := fun h => absurd (h _ List.mem_cons_self) (by decide)

/-! ## A load meets the error (R146, R285) -/

/-- The address of the load, located; and the two bytes read there. -/
def misnamedPlace : Except MemFault Place × State :=
  (misnamed 8).locate ((misnamed 8).req .scalar) .read ((misnamed 8).memAddr (.direct 6 (-8))) 2
def misnamedRead : (Nat × Bool) × State := misnamedPlace.2.readAt ((misnamed 8).req .scalar) (.here 0x200) 2

theorem misnamed_ready : (misnamed 8).Ready 0 ∧ (misnamed 8).hart.guard (Hdr.plain 0).grd = true ∧ (misnamed 8).NoFlips
    ∧ (misnamed 8).hart.readAhead = none ∧ ((misnamed 8).memAddr (.direct 6 (-8))).toNat % 2 = 0 := by decide +kernel

theorem misnamedPlace_here : misnamedPlace.1.toOption = some (.here 0x200) := by decide +kernel

/-- The read changes what the hart in focus has performed ahead. -/
theorem misnamedRead_ahead : misnamedRead.1.2 = false ∧ (misnamed 8).hart.ahead = [] ∧ misnamedRead.2.hart.ahead = [.scalar, .scalar] := by
  decide +kernel

theorem eq_ok_of_toOption {α : Type} {r : Except MemFault α × State} {a : α} (h : r.1.toOption = some a) : r = (.ok a, r.2) := by
  obtain ⟨e | b, s⟩ := r
  · exact nomatch h
  · rw [Option.some.inj h]

/-- Refutes O7: outside the invariant `State.Named`, which the statement does not ask for, the error that the load meets replaces the hart in
focus, so the frame `SameHart` fails. -/
theorem not_loadsAndStoresComplete : ¬ Obligations.LoadsAndStoresComplete := by
  rintro ⟨h, -⟩
  obtain ⟨hr, hg, hf, ha, hal⟩ := misnamed_ready
  obtain ⟨hp, hn, ht⟩ := misnamedRead_ahead
  have hread : misnamedRead = ((misnamedRead.1.1, false), misnamedRead.2) := by rw [← hp]
  obtain ⟨-, hsame, -⟩ :=
    (h (misnamed 8) (.plain 0) 5 (.direct 6 (-8)) 1 false (.here 0x200) misnamedPlace.2 misnamedRead.2 misnamedRead.1.1 hr hg hf).2 ha hal
      (eq_ok_of_toOption misnamedPlace_here) hread
  have := congrArg Hart.ahead hsame
  rw [ht] at this
  exact absurd (this.trans hn) (by decide)

/-! ## A fetch ahead meets the error (R351, log 88) -/

/-- The hart brought into focus, and its fetch. -/
def misnamedFocus : State := { misnamed 4 with agenda := [] }.focus 0
def misnamedFetch : Except MemFault Word × State := (misnamedFocus.upd (fun h => { h with trapped := false })).fetch

theorem misnamedFetch_ok : misnamedFetch.1.toOption = some 0x280000A30FFFFFF8 := by decide +kernel
theorem decode_misnamedLoad : decode 0x280000A30FFFFFF8 = .ok misnamedLoad := by rfl

theorem misnamedFocus_ready : namesHart (misnamed 4).pkg (misnamed 4).mgmtDie (BitVec.ofNat 20 0) = true ∧ misnamedFocus.hart.run = .running
    ∧ misnamedFocus.hart.isMgmt = false ∧ misnamedFocus.hart.acquires = false ∧ misnamedFocus.hart.ahead = []
    ∧ misnamedFetch.2.hart.waits ((0x280000A30FFFFFF8#64).extractLsb' 43 8) = false := by decide +kernel

/-- What the next state of an outcome shows. -/
def nextShows (p : State → Bool) : Host.Outcome State Fault Refusal → Bool
  | .next t => p t
  | _ => false
theorem exists_of_nextShows {p : State → Bool} {o : Host.Outcome State Fault Refusal} (h : nextShows p o = true) : ∃ t, o = .next t ∧ p t = true := by
  cases o with
  | next t => exact ⟨t, rfl, h⟩
  | _ => exact nomatch h

/-- The load completes behind that fetch. -/
theorem misnamedLoad_next : nextShows (fun t => !t.hart.trapped && t.hart.waitStart.isNone) (exec misnamedLoad misnamedFetch.2) = true := by
  decide +kernel
/-- The scalar unit goes ahead from the hart that the fetch has put in the place of the one in focus. -/
theorem misnamed_step : nextShows (fun t => t.hart.ahead.length == 2) (step (misnamed 4)) = true := by decide +kernel

/-- Refutes O56: outside the invariant `State.Named`, which the statement does not ask for, the error that the fetch meets replaces the hart in
focus, so the scalar unit does not remember the load alone. -/
theorem not_stepRunsTheInstruction : ¬ Obligations.StepRunsTheInstruction := by
  rintro ⟨-, h⟩
  obtain ⟨hn, hr, hm, ha, he, hw⟩ := misnamedFocus_ready
  obtain ⟨t, ht, hts⟩ := exists_of_nextShows misnamedLoad_next
  obtain ⟨u, hu, hus⟩ := exists_of_nextShows misnamed_step
  rw [Bool.and_eq_true, Bool.not_eq_true', Option.isNone_iff_eq_none] at hts
  obtain ⟨-, -, -, hahead⟩ := h (misnamed 4) []
  have hstep := (hahead 0 1 rfl hn).2 0x280000A30FFFFFF8 misnamedFetch.2 (.plain 0) 5 (.direct 6 (-8)) 1 false t rfl hr hm ha he
    (eq_ok_of_toOption misnamedFetch_ok) decode_misnamedLoad rfl hw ht hts.1 hts.2
  rw [hu] at hstep
  have hlen : u.hart.ahead.length = 1 := by rw [Host.Outcome.next.inj hstep]; rfl
  rw [hlen] at hus
  exact absurd hus (by decide)

end Sys2Proof.Machine
end

section
/-! SUPPORT. The history of a byte: what writes, marks and zeroing make of it (R4, R254). -/

namespace Sys2Proof.Machine
open Sys2Proof

section
variable {s t : State} {a b n v lo hi : Nat}

/-! ## What a byte reads as -/

/-- What a mark says of a byte that it covers. -/
def State.markKind (s : State) (a : Nat) : Option (Nat × Nat) := (s.indetMark a).map (fun r => (r.at_, r.most))

/-- The mark that covers a byte, the values it has been given and the byte that memory holds decide what it reads as. -/
theorem byte_congr (hm : t.markKind a = s.markKind a) (hg : t.given a = s.given a) (hr : t.rawByte a = s.rawByte a) :
    t.byte a = s.byte a := by
  rw [State.byte, State.byte, hg, hr]
  unfold State.markKind at hm
  cases hs : s.indetMark a with
  | none =>
    rw [hs, Option.map_none, Option.map_eq_none_iff] at hm
    rw [hm]
  | some r =>
    obtain ⟨q, hq, hqr⟩ := Option.map_eq_some_iff.1 (hm.trans (congrArg _ hs))
    obtain ⟨hat, hmost⟩ := Prod.mk.inj hqr
    simp only [hq, hat, hmost]

/-- A byte that no mark covers is determinate. -/
theorem byte_of_no_mark (h : ∀ r ∈ s.indet, ¬(r.lo ≤ a ∧ a < r.hi)) : s.byte a = s.rawByte a := by
  have hn : s.indetMark a = none := by
    rw [State.indetMark, List.find?_eq_none]
    intro r hr hc
    obtain ⟨h1, h2, -⟩ := of_decide_eq_true hc
    exact h r hr ⟨h1, h2⟩
  rw [State.byte, hn]

/-- Two states that agree in the bytes and their history show the same bytes. -/
theorem byte_of_frame (h : (t.mem, t.written, t.zeroed, t.indet) = (s.mem, s.written, s.zeroed, s.indet)) (a : Nat) : t.byte a = s.byte a := by
  simp only [Prod.mk.injEq] at h
  obtain ⟨hm, hw, hz, hi⟩ := h
  refine byte_congr ?_ ?_ ?_
  · rw [State.markKind, State.markKind, State.indetMark, State.indetMark, hi, hw]
  · rw [State.given, State.given, hw, hz]
  · rw [State.rawByte, State.rawByte, hm]

/-! ## Ranges taken out of the marks -/

/-- A mark that is left covers no byte of the range. -/
theorem not_covers_of_mem_cutIndet {l : List Indet} (hlo : lo ≤ a) (hhi : a < hi) : ∀ r ∈ cutIndet lo hi l, ¬(r.lo ≤ a ∧ a < r.hi) := by
  induction l with
  | nil => nofun
  | cons r l ih =>
    intro q hq
    simp only [cutIndet, List.mem_append, or_assoc] at hq
    obtain hq | hq | hq := hq
    · split at hq
      · obtain rfl := List.mem_singleton.1 hq
        dsimp only
        omega
      · exact nomatch hq
    · split at hq
      · obtain rfl := List.mem_singleton.1 hq
        dsimp only
        omega
      · exact nomatch hq
    · exact ih q hq

/-- Outside the range the first mark that covers a byte is one of the same kind. -/
theorem find?_cutIndet_other {l : List Indet} (h : a < lo ∨ hi ≤ a) (c : Nat) :
    ((cutIndet lo hi l).find? (fun r => decide (r.lo ≤ a ∧ a < r.hi ∧ c ≤ r.at_))).map (fun r => (r.at_, r.most)) =
      (l.find? (fun r => decide (r.lo ≤ a ∧ a < r.hi ∧ c ≤ r.at_))).map (fun r => (r.at_, r.most)) := by
  induction l with
  | nil => rfl
  | cons r l ih =>
    rw [cutIndet, List.find?_append, List.find?_append, List.find?_cons]
    by_cases hc : r.lo ≤ a ∧ a < r.hi ∧ c ≤ r.at_
    · rw [decide_eq_true hc]
      obtain ⟨h1, h2, h3⟩ := hc
      by_cases hl : a < lo
      · rw [if_pos (by omega), List.find?_cons, decide_eq_true (by dsimp only; omega)]
        rfl
      · have hn : (if r.lo < min r.hi lo then [{ r with hi := min r.hi lo }] else []).find?
            (fun r => decide (r.lo ≤ a ∧ a < r.hi ∧ c ≤ r.at_)) = none := by
          split
          · rw [List.find?_cons, decide_eq_false (by dsimp only; omega)]
            rfl
          · rfl
        rw [hn, if_pos (by omega), List.find?_cons, decide_eq_true (by dsimp only; omega)]
        rfl
    · rw [decide_eq_false hc]
      have hn : ∀ (p : Prop) [Decidable p] (x y : Nat), r.lo ≤ x → y ≤ r.hi →
          (if p then [{ r with lo := x, hi := y }] else []).find? (fun r => decide (r.lo ≤ a ∧ a < r.hi ∧ c ≤ r.at_)) = none := by
        intro p _ x y hx hy
        split
        · rw [List.find?_cons, decide_eq_false (by dsimp only; omega)]
          rfl
        · rfl
      have hleft := hn (r.lo < min r.hi lo) r.lo (min r.hi lo) le_rfl (by omega)
      have hright := hn (max r.lo hi < r.hi) (max r.lo hi) r.hi (by omega) le_rfl
      dsimp only at hleft hright ⊢
      rw [hleft, hright]
      exact ih

/-- Bytes outside the range keep their marks. -/
theorem markKind_cutIndet_other (h : a < lo ∨ hi ≤ a) (hw : lastWrite a t.written = lastWrite a s.written)
    (hi' : t.indet = cutIndet lo hi s.indet) : t.markKind a = s.markKind a := by
  rw [State.markKind, State.markKind, State.indetMark, State.indetMark, hi', hw]
  exact find?_cutIndet_other h _

/-! ## Zeroing -/

section
variable {l : List (Nat × Byte × Nat)} {p : Nat × Byte × Nat → Bool} (hp : ∀ w ∈ l, w.1 = a → p w = true)
include hp
theorem earlier_filter : earlier a (l.filter p) = earlier a l := by
  induction l with
  | nil => rfl
  | cons w l ih =>
    have ih := ih fun q hq => hp q (List.mem_cons_of_mem _ hq)
    obtain ⟨b, v, k⟩ := w
    by_cases hb : a = b
    · rw [List.filter_cons_of_pos (hp _ List.mem_cons_self hb.symm), earlier, earlier, ih]
    · rw [List.filter_cons]
      split
      · rw [earlier, earlier, ih]
      · rw [earlier, if_neg hb, ih]
theorem lastWrite_filter : lastWrite a (l.filter p) = lastWrite a l := by
  induction l with
  | nil => rfl
  | cons w l ih =>
    have ih := ih fun q hq => hp q (List.mem_cons_of_mem _ hq)
    obtain ⟨b, v, k⟩ := w
    by_cases hb : a = b
    · rw [List.filter_cons_of_pos (hp _ List.mem_cons_self hb.symm), lastWrite, lastWrite, if_pos hb, if_pos hb]
    · rw [List.filter_cons]
      split
      · rw [lastWrite, lastWrite, ih]
      · rw [lastWrite, if_neg hb, ih]
end

/-- A zeroed byte reads 0. -/
theorem byte_zeroRange_self (hlo : lo ≤ a) (hhi : a < hi) : (s.zeroRange lo hi).byte a = 0 := by
  rw [byte_of_no_mark (not_covers_of_mem_cutIndet hlo hhi)]
  simp [State.rawByte, State.zeroRange, Tab.get_clearRange, hlo, hhi, Memory.unlisted]
/-- Zeroing changes no byte outside the range. -/
theorem byte_zeroRange_other (h : a < lo ∨ hi ≤ a) : (s.zeroRange lo hi).byte a = s.byte a := by
  have hkeep : ∀ w ∈ s.written, w.1 = a → (!(decide (lo ≤ w.1) && decide (w.1 < hi))) = true := by
    intro w _ hw
    rw [hw]
    simp only [Bool.not_eq_true', Bool.and_eq_false_iff, decide_eq_false_iff_not]
    omega
  refine byte_congr (markKind_cutIndet_other h (lastWrite_filter hkeep) rfl) ?_ ?_
  · have hz : (s.zeroRange lo hi).zeroed.any (fun r => decide (r.1 ≤ a ∧ a < r.2)) = s.zeroed.any (fun r => decide (r.1 ≤ a ∧ a < r.2)) := by
      rw [Bool.eq_iff_iff]
      simp only [State.zeroRange, List.any_cons, List.any_filter, Bool.or_eq_true, List.any_eq_true, Bool.and_eq_true, decide_eq_true_eq,
        Bool.not_eq_true', Bool.and_eq_false_iff, decide_eq_false_iff_not]
      constructor
      · rintro (hx | ⟨r, hm, -, hx⟩)
        · omega
        · exact ⟨r, hm, hx⟩
      · rintro ⟨r, hm, hx⟩
        exact .inr ⟨r, hm, by omega, hx⟩
    rw [State.given, State.given, hz]
    exact congrArg (· ++ _) (earlier_filter hkeep)
  · simp only [State.rawByte, State.zeroRange, Tab.get_clearRange]
    rw [if_neg (by omega)]

/-! ## Writes -/

/-- `t` is `s` behind one write to each of `n` bytes from `a` on: the byte at `b` is given the value `f b`. -/
structure Wrote (s t : State) (a n : Nat) (f : Nat → Byte) : Prop where
  hart : t.hart = s.hart
  indet : t.indet = s.indet
  zeroed : t.zeroed = s.zeroed
  wno : s.wno ≤ t.wno
  inside : ∀ b, a ≤ b → b < a + n → t.rawByte b = f b ∧ earlier b t.written = f b :: earlier b s.written ∧ lastWrite b t.written ≤ t.wno
  outside : ∀ b, b < a ∨ a + n ≤ b →
    t.rawByte b = s.rawByte b ∧ earlier b t.written = earlier b s.written ∧ lastWrite b t.written = lastWrite b s.written

section
variable {f g : Nat → Byte}

theorem Wrote.zero : Wrote s s a 0 f :=
  ⟨rfl, rfl, rfl, le_rfl, fun b _ _ => by omega, fun _ _ => ⟨rfl, rfl, rfl⟩⟩

theorem Wrote.cons (h : Wrote (s.putByte a (f a)) t (a + 1) n f) : Wrote s t a (n + 1) f := by
  obtain ⟨hh, hi, hz, hn, hin, hout⟩ := h
  have hn' : s.wno + 1 ≤ t.wno := hn
  have put (b : Nat) (hb : b ≠ a) : (s.putByte a (f a)).rawByte b = s.rawByte b
      ∧ earlier b (s.putByte a (f a)).written = earlier b s.written ∧ lastWrite b (s.putByte a (f a)).written = lastWrite b s.written :=
    ⟨(rawByte_putByte ..).trans (if_neg hb), if_neg hb, if_neg hb⟩
  refine ⟨hh, hi, hz, by omega, fun b hlo hhi => ?_, fun b hb => ?_⟩
  · by_cases hb : b = a
    · subst hb
      obtain ⟨hr, he, hl⟩ := hout b (.inl (Nat.lt_succ_self b))
      exact ⟨hr.trans ((rawByte_putByte ..).trans (if_pos rfl)), he.trans (if_pos rfl), (hl.trans (if_pos rfl)).trans_le hn'⟩
    · obtain ⟨hr, he, hl⟩ := hin b (by omega) (by omega)
      exact ⟨hr, he.trans (congrArg _ (put b hb).2.1), hl⟩
  · obtain ⟨hr, he, hl⟩ := hout b (by omega)
    obtain ⟨pr, pe, pl⟩ := put b (by omega)
    exact ⟨hr.trans pr, he.trans pe, hl.trans pl⟩

theorem Wrote.congr (h : Wrote s t a n f) (hfg : ∀ b, a ≤ b → b < a + n → f b = g b) : Wrote s t a n g :=
  ⟨h.hart, h.indet, h.zeroed, h.wno, fun b hlo hhi => hfg b hlo hhi ▸ h.inside b hlo hhi, h.outside⟩

/-- What the writes start from matters only as far as the bytes, their history and the hart go. -/
theorem Wrote.of_source {s' : State} (h : Wrote s' t a n f)
    (e : (s'.hart, s'.mem, s'.written, s'.zeroed, s'.wno, s'.indet) = (s.hart, s.mem, s.written, s.zeroed, s.wno, s.indet)) :
    Wrote s t a n f := by
  simp only [Prod.mk.injEq] at e
  obtain ⟨hh, hm, hw, hz, hn, hi⟩ := e
  refine ⟨h.hart.trans hh, h.indet.trans hi, h.zeroed.trans hz, hn ▸ h.wno, fun b hlo hhi => hw ▸ h.inside b hlo hhi, fun b hb => ?_⟩
  have hr : s'.rawByte b = s.rawByte b := by rw [State.rawByte, State.rawByte, hm]
  exact hr ▸ hw ▸ h.outside b hb

/-- Bytes that no write touches show what they did. -/
theorem Wrote.byte_other (h : Wrote s t a n f) (hb : b < a ∨ a + n ≤ b) : t.byte b = s.byte b := by
  obtain ⟨hr, he, hl⟩ := h.outside b hb
  refine byte_congr ?_ ?_ hr
  · rw [State.markKind, State.markKind, State.indetMark, State.indetMark, h.indet, hl]
  · rw [State.given, State.given, he, h.zeroed]
end

theorem wrote_putBytes : Wrote s (s.putBytes a n v) a n (fun b => BitVec.ofNat 8 (v / 256 ^ (b - a))) := by
  induction n generalizing s a v with
  | zero => exact .zero
  | succ n ih =>
    refine .cons ?_
    rw [Nat.sub_self, pow_zero, Nat.div_one]
    refine ih.congr fun b hlo _ => ?_
    rw [Nat.div_div_eq_div_mul, ← Nat.pow_succ', show (b - (a + 1)).succ = b - a by omega]

theorem wrote_settleBytes : Wrote s (s.settleBytes a n) a n s.byte := by
  induction n generalizing s a with
  | zero => exact .zero
  | succ n ih =>
    refine .cons (ih.congr fun b hlo _ => ?_)
    exact (Wrote.cons (f := s.byte) (n := 0) .zero).byte_other (by omega)

theorem StoredErr.inBytes_cut (pa k : Nat) (e : StoredErr) : (e.cut pa k).inBytes pa k = e.inBytes pa k := by
  have h : (e.cut pa k).at_ = e.at_ := by unfold StoredErr.cut; split <;> rfl
  rw [StoredErr.inBytes, StoredErr.inBytes, h]
/-- A write of words of 8 bytes touches no word in part. -/
theorem StoredErr.inBytes_of_not_inWhole {pa k : Nat} (ha : pa % 8 = 0) (hk : k % 8 = 0) (h0 : 0 < k) {e : StoredErr} (h : e.inWhole pa k = false) :
    e.inBytes pa k = false := by
  revert h
  unfold StoredErr.inWhole StoredErr.inBytes
  cases e.at_ with
  | hbm g => exact id
  | quay w | local_ w =>
    intro h
    have h := of_decide_eq_false h
    exact decide_eq_false (by omega)

/-- A write of words of 8 bytes, each as a whole, loses the errors that are stored in them, and meets none (log 33). -/
theorem meetErrors_whole (l : Option LaunchId) {pa k : Nat} (ha : pa % 8 = 0) (hk : k % 8 = 0) (h0 : 0 < k) :
    ∃ es, s.meetErrors l pa k true = { s with errs := es } := by
  unfold State.meetErrors
  split
  · exact ⟨s.errs, rfl⟩
  · dsimp only
    rw [if_pos rfl]
    have hnone : ∀ es : List StoredErr, (∀ e ∈ es, StoredErr.inBytes pa k e = false) →
        ({ s with errs := es } : State).findErrs l (StoredErr.inBytes pa k) = { s with errs := es } := by
      intro es hes
      have hf : es.find? (fun e => e.inBytes pa k && !e.esc) = none := by
        rw [List.find?_eq_none]
        intro e he
        simp [hes e he]
      unfold State.findErrs
      dsimp only
      refine List.foldlRecOn (motive := fun t => t = ({ s with errs := es } : State)) _ _ rfl fun t ht _ _ => ?_
      rw [ht]
      dsimp only
      rw [hf]
    rw [hnone, if_pos rfl]
    · exact ⟨_, rfl⟩
    · intro e he
      obtain ⟨e', he', rfl⟩ := List.mem_map.1 (List.mem_filter.1 he).1
      have hw := (List.mem_filter.1 he').2
      rw [StoredErr.inBytes_cut]
      exact StoredErr.inBytes_of_not_inWhole ha hk h0 (by simpa using hw)

/-! ## The weight store: a piece that is written, berths that are settled (R254) -/

theorem regionOf_ws_ne_acc {d o : Nat} (ho : o < 2 ^ 29) : regionOf (wsBase d + o) ≠ .acc := by
  have h : paOff (wsBase d + o) = 0x12000000000 + o := by unfold paOff wsBase; omega
  unfold regionOf
  rw [h]
  dsimp only
  split
  · rw [if_neg (by omega), if_neg (by omega), if_neg (by omega), if_neg (by omega), if_neg (by omega)]
    split
    · nofun
    · split <;> nofun
  · split
    · split
      · nofun
      · split <;> nofun
    · nofun

theorem setUnits_eq (s : State) (u n : Nat) (b : Bool) : ∃ p, s.setUnits u b n = { s with poison := p } := by
  induction n generalizing s u with
  | zero => exact ⟨s.poison, rfl⟩
  | succ n ih =>
    obtain ⟨p, hp⟩ := ih { s with poison := Tab.set (fun _ => false) s.poison u b } (u + 1)
    exact ⟨p, hp⟩
/-- Outside the accumulator store every bit of a store is held, and only poison changes beside the bytes (R280). -/
theorem store_eq (h : regionOf a ≠ .acc) : ∃ p, s.store a n v = { s.putBytes a n v with poison := p } := by
  rw [State.store, heldBits, if_neg fun hc => h hc.1, State.clearWhole, if_neg h]
  exact setUnits_eq ..

/-- A byte that the newest mark covers, of the kind that keeps the latest two values, shows one of them. -/
theorem byte_of_near_mark {at_ : Nat} {l : List Indet} {x y : Byte} {vs : List Byte} (hm : s.indet = ⟨lo, hi, at_, 2⟩ :: l) (hlo : lo ≤ b)
    (hhi : b < hi) (hl : lastWrite b s.written ≤ at_) (he : earlier b s.written = x :: y :: vs) : s.byte b = x ∨ s.byte b = y := by
  have hf : s.indetMark b = some ⟨lo, hi, at_, 2⟩ := by
    rw [State.indetMark, hm, List.find?_cons, decide_eq_true ⟨hlo, hhi, hl⟩]
  have hg : (s.given b).take 2 = [x, y] := by rw [State.given, he]; rfl
  simp only [State.byte, hf, OfNat.ofNat_ne_zero, if_false, hg, List.isEmpty_cons, Bool.false_eq_true]
  obtain hk | hk : Config.pick (at_ * 2 ^ 45 + b) [x, y].length % [x, y].length = 0
      ∨ Config.pick (at_ * 2 ^ 45 + b) [x, y].length % [x, y].length = 1 := Nat.mod_two_eq_zero_or_one _
  · exact .inl (by rw [hk]; rfl)
  · exact .inr (by rw [hk]; rfl)

/-- A mark on other bytes changes nothing, nor does poison. -/
theorem byte_of_other_mark {r : Indet} {p : Tab Bool} (h : b < r.lo ∨ r.hi ≤ b) :
    ({ s with poison := p, indet := r :: s.indet } : State).byte b = s.byte b := by
  refine byte_congr ?_ rfl rfl
  rw [State.markKind, State.markKind, State.indetMark, State.indetMark, List.find?_cons, decide_eq_false (by omega)]

/-- A piece of WSLD in the weight store (R254): every byte holds what is written and shows that or what it showed; no other byte changes. -/
theorem putWs_spec {d o : Nat} (ho : o % 8 = 0) (hn : n % 8 = 0) (h0 : 0 < n) (hr : o + n ≤ 2 ^ 29) :
    (s.putWs d o n v).hart = s.hart ∧ SameOutside s (s.putWs d o n v) (wsBase d + o) n
    ∧ ∀ j, j < n → (s.putWs d o n v).rawByte (wsBase d + o + j) = BitVec.ofNat 8 (v / 256 ^ j)
      ∧ ((s.putWs d o n v).byte (wsBase d + o + j) = (s.putWs d o n v).rawByte (wsBase d + o + j)
        ∨ (s.putWs d o n v).byte (wsBase d + o + j) = s.byte (wsBase d + o + j)) := by
  set a := wsBase d + o with ha
  have h1 : Wrote s (s.settleBytes a n) a n s.byte := wrote_settleBytes
  obtain ⟨es, hes⟩ := meetErrors_whole (s := s.settleBytes a n) none (pa := a) (by unfold wsBase at ha; omega) hn h0
  obtain ⟨p, hp⟩ := store_eq (s := { s.settleBytes a n with errs := es }) (n := n) (v := v) (regionOf_ws_ne_acc (d := d) (o := o) (by omega))
  have h2 : Wrote (s.settleBytes a n) (({ s.settleBytes a n with errs := es } : State).putBytes a n v) a n
      (fun b => BitVec.ofNat 8 (v / 256 ^ (b - a))) :=
    (wrote_putBytes (s := { s.settleBytes a n with errs := es })).of_source rfl
  set w := ({ s.settleBytes a n with errs := es } : State).putBytes a n v
  have ht : s.putWs d o n v = { w with poison := p, indet := ⟨a, a + n, w.wno, 2⟩ :: w.indet } := by
    unfold State.putWs State.markNear
    dsimp only
    rw [← ha, hes, hp, if_pos (by omega)]
  rw [ht]
  refine ⟨h2.hart.trans h1.hart, fun b hb => ?_, fun j hj => ?_⟩
  · exact (byte_of_other_mark hb).trans ((h2.byte_other hb).trans (h1.byte_other hb))
  · obtain ⟨hraw, he, hl⟩ := h2.inside (a + j) (by omega) (by omega)
    rw [(h1.inside (a + j) (by omega) (by omega)).2.1, Nat.add_sub_cancel_left] at he
    rw [Nat.add_sub_cancel_left] at hraw
    refine ⟨hraw, ?_⟩
    obtain hb | hb := byte_of_near_mark (s := { w with poison := p, indet := ⟨a, a + n, w.wno, 2⟩ :: w.indet }) rfl (b := a + j) (by omega)
      (by omega) hl he
    · exact .inl (hb.trans hraw.symm)
    · exact .inr hb
end
end Sys2Proof.Machine
end

section
/-! SUPPORT. Registers behind writes of registers, the issue of the instructions of the weight store, and berths (R256, R257, R268, R269). -/

namespace Sys2Proof.Machine
open Sys2Proof

/-! ## Scalar registers -/

section
variable {h : Hart} {i j : XReg} {v : Word}

@[simp] theorem inSBank_setX : (h.setX i v).inSBank j = h.inSBank j := by
  simp only [Hart.inSBank, Hart.isCompute, Hart.setX_hid, Hart.setX_mode]

theorem inSBank_le (hb : h.inSBank i = true) : 60 ≤ i.toNat := by
  simp only [Hart.inSBank, Bool.and_eq_true, decide_eq_true_eq] at hb
  exact hb.2

theorem getX_setX_self (hi : i ≠ 0) : (h.setX i v).getX i = v := by
  rw [Hart.getX, if_neg hi, inSBank_setX]
  unfold Hart.setX
  rw [if_neg hi]
  dsimp only
  split <;> simp

theorem getX_setX_other (hj : j ≠ i) : (h.setX i v).getX j = h.getX j := by
  have hne : i.toNat ≠ j.toNat := fun e => hj (BitVec.eq_of_toNat_eq e.symm)
  rw [Hart.getX, Hart.getX, inSBank_setX]
  unfold Hart.setX
  dsimp only
  by_cases hi : i = 0
  · rw [if_pos hi]
  · rw [if_neg hi]
    by_cases hb : h.inSBank i = true <;> by_cases hc : h.inSBank j = true
    · rw [if_pos hb, if_pos hc]
      have hbi := inSBank_le hb
      have hcj := inSBank_le hc
      have hk : (i.extractLsb' 0 2).toNat ≠ (j.extractLsb' 0 2).toNat := by
        simp only [BitVec.extractLsb'_toNat, Nat.shiftRight_zero]
        omega
      rw [if_pos hc, Vector.getElem_set_ne _ _ hk]
    · rw [if_pos hb, if_neg hc, if_neg hc]
    · rw [if_neg hb, if_pos hc, if_pos hc]
    · rw [if_neg hb, if_neg hc, if_neg hc, Vector.getElem_set_ne _ _ hne]
end

section
variable {s : State} {i j : XReg} {v : Word}
theorem State.x_setX_self (hi : i ≠ 0) : (s.setX i v).x i = v := getX_setX_self hi
theorem State.x_setX_other (hj : j ≠ i) : (s.setX i v).x j = s.x j := getX_setX_other hj
@[simp] theorem State.x_completed : s.completed.x j = s.x j := rfl
end

/-! ## Issue -/

section
variable {s : State} {g : Hdr} {tk : Option (BitVec 3)} {i : Instr}

theorem isMgmt_of_vReady (h : s.VReady g [] tk) : s.hart.isMgmt = false := by
  obtain ⟨-, ⟨hm, -, -⟩, -⟩ := h
  exact hm

theorem mayLoad_iff (s : State) :
    Spec.mayLoad s ↔ (s.hart.mode == .s || ((s.hart.launch.bind s.launchOf).map (fun l => pkLdr l.pk)).getD false) = true := by
  rw [Spec.mayLoad, Bool.or_eq_true, beq_iff_eq]
  refine or_congr Iff.rfl ⟨?_, fun h => ?_⟩
  · rintro ⟨l, x, hl, hx, hp⟩
    simp [hl, hx, hp]
  · cases hl : s.hart.launch with
    | none => simp [hl] at h
    | some l =>
      cases hx : s.launchOf l with
      | none => simp [hl, hx] at h
      | some x => exact ⟨l, x, rfl, hx, by simpa [hl, hx] using h⟩

/-- A hart that may load runs the instruction. -/
theorem loaderOnly_of_mayLoad (h : Spec.mayLoad s) (run : State → Host.Outcome State Fault Refusal) : loaderOnly i run s = run s := by
  rw [mayLoad_iff] at h
  simp only [loaderOnly, Bool.or_assoc, h, Bool.or_true, if_true]
/-- One that may not raises PRIVILEGE (R61). -/
theorem loaderOnly_refused (hm : s.hart.isMgmt = false) (h : ¬Spec.mayLoad s) (run : State → Host.Outcome State Fault Refusal) :
    loaderOnly i run s = .next (s.takeTrap { cause := .privilege, epc := s.hart.pc, val := encode i }) := by
  rw [mayLoad_iff, Bool.not_eq_true] at h
  simp only [loaderOnly, Bool.or_assoc, hm, h, Bool.or_false, Bool.false_eq_true, if_false]
  rfl

/-- The issue of an instruction of the vector queue that names no vector register and whose guard decides the whole of it. -/
theorem vecIssue_whole (h : s.VReady g [] tk) (hg : s.hart.guard g.grd = true) (i : Instr) (xs : List XReg) (body : State → Eff) :
    vecIssue i g { regs := [], xs := xs, tk := tk, whole := true } (fun _ => true) body s = finish (body s) := by
  obtain ⟨⟨hs, hw⟩, ⟨hm, -, -⟩, htk, -, -, -⟩ := h
  simp [vecIssue, decodeChecks, Priv.allows, hm, hw, htk, hg, reading_sound hs, readingOr_sound hs, Hart.interlocked]

/-- WSBERTH on a compute hart that may load: its result goes to the register (R269). -/
theorem wsberth_eq (h : s.VReady g []) (hg : s.hart.guard g.grd = true) (hl : Spec.mayLoad s) (hc : s.hart.isCompute = true) (i : Instr)
    (xd xa : XReg) (f : Word → State → Word × State) :
    wsberth i g xd xa f s = .next ((f (s.x xa) s).2.setX xd (f (s.x xa) s).1).completed := by
  refine (loaderOnly_of_mayLoad hl _).trans ((vecIssue_whole h hg ..).trans ?_)
  rw [hc]
  rfl
end

/-! ## Berths (R256, R257) -/

section
variable {s : State} {d b c : Nat} {f : Berth → Berth}

/-- Changing a berth changes nothing but its die. -/
theorem updBerth_frame (s : State) (d b : Nat) (f : Berth → Berth) : ∃ ds, s.updBerth d b f = { s with dies := ds } := by
  unfold State.updBerth State.updDie
  split
  · exact ⟨_, rfl⟩
  · exact ⟨s.dies, rfl⟩

theorem berth_updBerth_self (hd : d < 10) (hb : b < 32) : (s.updBerth d b f).berth d b = f (s.berth d b) := by
  rw [State.berth, State.berth, dif_pos hb, dif_pos hb]
  have h := die_updDie_self (s := s) (f := fun x => if h : b < 32 then { x with berths := x.berths.set b (f x.berths[b]) } else x) hd
  rw [dif_pos hb] at h
  simp [State.updBerth, h]

theorem berth_updBerth_other (hc : c ≠ b) : (s.updBerth d b f).berth d c = s.berth d c := by
  unfold State.berth
  split
  case isFalse => rfl
  case isTrue h32 =>
    by_cases hd : d < 10
    · have h := die_updDie_self (s := s) (f := fun x => if h : b < 32 then { x with berths := x.berths.set b (f x.berths[b]) } else x) hd
      simp only [State.updBerth, h]
      split
      case isTrue hb => exact Vector.getElem_set_ne hb h32 hc.symm
      case isFalse => rfl
    · simp only [State.updBerth, State.updDie, dif_neg hd]

/-! ### The berth that WSBERTH.get takes -/

/-- One step of the search for the least COUNT. -/
def lesser (k : Nat → Nat) (acc : Option Nat) (b : Nat) : Option Nat :=
  match acc with
  | none => some b
  | some a => if k b < k a then some b else some a

/-- In a list that rises, the search finds the first of those with the least value. -/
theorem exists_foldl_lesser (k : Nat → Nat) (l : List Nat) (a : Nat) (h : (a :: l).Pairwise (· < ·)) :
    ∃ b ∈ a :: l, l.foldl (lesser k) (some a) = some b ∧ ∀ c ∈ a :: l, k b < k c ∨ (k b = k c ∧ b ≤ c) := by
  induction l generalizing a with
  | nil => exact ⟨a, List.mem_singleton_self a, rfl, fun c hc => .inr ⟨by rw [List.mem_singleton.1 hc], (List.mem_singleton.1 hc).ge⟩⟩
  | cons x l ih =>
    rw [List.pairwise_cons] at h
    obtain ⟨ha, hx⟩ := h
    have hax := ha x List.mem_cons_self
    by_cases hk : k x < k a
    · obtain ⟨b, hb, hf, hmin⟩ := ih x hx
      refine ⟨b, List.mem_cons_of_mem _ hb, by rw [List.foldl_cons, lesser, if_pos hk, hf], fun c hc => ?_⟩
      obtain rfl | hc := List.mem_cons.1 hc
      · have := hmin x List.mem_cons_self
        omega
      · exact hmin c hc
    · rw [List.pairwise_cons] at hx
      obtain ⟨b, hb, hf, hmin⟩ := ih a (List.pairwise_cons.2 ⟨fun c hc => ha c (List.mem_cons_of_mem _ hc), hx.2⟩)
      have hba := hmin a List.mem_cons_self
      refine ⟨b, ?_, by rw [List.foldl_cons, lesser, if_neg hk, hf], fun c hc => ?_⟩
      · obtain rfl | hb := List.mem_cons.1 hb
        · exact List.mem_cons_self
        · exact List.mem_cons_of_mem _ (List.mem_cons_of_mem _ hb)
      · obtain rfl | hc := List.mem_cons.1 hc
        · exact hba
        · obtain rfl | hc := List.mem_cons.1 hc
          · omega
          · exact hmin c (List.mem_cons_of_mem _ hc)

/-- The berths that WSBERTH.get may take, in ascending order. -/
def State.mayTake (s : State) (d : Nat) : List Nat := (List.range 32).filter (fun b => (s.die d).wsctl.getLsbD b && (s.berth d b).st != 1)

theorem mem_mayTake : b ∈ s.mayTake d ↔ b < 32 ∧ (s.die d).wsctl.getLsbD b = true ∧ (s.berth d b).st ≠ 1 := by
  simp [State.mayTake]

theorem pickBerth_eq (s : State) (d : Nat) : s.pickBerth d = (s.mayTake d).foldl (lesser (fun b => (s.berth d b).count)) none := rfl

/-- The search of the model finds a berth as the statement says, or there is none. -/
theorem pickBerth_cases (s : State) (d : Nat) :
    (s.pickBerth d = none ∧ ∀ b, ¬Spec.taken s d b) ∨ ∃ b, s.pickBerth d = some b ∧ Spec.taken s d b := by
  have hp : (s.mayTake d).Pairwise (· < ·) := List.pairwise_lt_range.filter _
  have hmem (b : Nat) := mem_mayTake (s := s) (d := d) (b := b)
  rw [pickBerth_eq]
  cases hl : s.mayTake d with
  | nil =>
    refine .inl ⟨rfl, fun b hb => ?_⟩
    have := (hmem b).2 hb.1
    rw [hl] at this
    exact nomatch this
  | cons a l =>
    rw [hl] at hp
    obtain ⟨b, hb, hf, hmin⟩ := exists_foldl_lesser (fun b => (s.berth d b).count) l a hp
    refine .inr ⟨b, hf, (hmem b).1 (hl ▸ hb), fun c hc => hmin c (hl ▸ (hmem c).2 hc)⟩

/-- At most one berth is the one taken. -/
theorem taken_unique (hb : Spec.taken s d b) (hc : Spec.taken s d c) : b = c := by
  have h1 := hb.2 c hc.1
  have h2 := hc.2 b hb.1
  omega

theorem pickBerth_eq_some (hb : Spec.taken s d b) : s.pickBerth d = some b := by
  obtain ⟨-, h⟩ | ⟨c, hp, hc⟩ := pickBerth_cases s d
  · exact absurd hb (h b)
  · rw [hp, taken_unique hb hc]
theorem pickBerth_eq_none (h : ∀ b, ¬Spec.taken s d b) : s.pickBerth d = none := by
  obtain ⟨hp, -⟩ | ⟨c, -, hc⟩ := pickBerth_cases s d
  · exact hp
  · exact absurd hc (h c)
end
end Sys2Proof.Machine
end

section
/-! SUPPORT. What WSBERTH does to a berth and to its bytes (R254, R257, R269): the berths of O43. -/

namespace Sys2Proof.Machine
open Sys2Proof

section
variable {s : State} {d b c : Nat} {f : Berth → Berth} {t : BitVec 6} {e : BitVec 32} {o : Option LaunchId}

@[simp] theorem updBerth_hart : (s.updBerth d b f).hart = s.hart := updDie_hart
theorem byte_updBerth (a : Nat) : (s.updBerth d b f).byte a = s.byte a := by
  obtain ⟨ds, h⟩ := updBerth_frame s d b f
  rw [h]
  exact byte_of_frame rfl a
@[simp] theorem updBerth_mem : (s.updBerth d b f).mem = s.mem := by
  obtain ⟨ds, h⟩ := updBerth_frame s d b f
  rw [h]

/-! ## FILLING -/

/-- The state in which a berth that changes its tenant is emptied. -/
def State.emptied (s : State) (d b : Nat) (t : BitVec 6) : State :=
  if (s.berth d b).tenant = t then s else s.zeroRange (wsBase d + b * 2 ^ 24) (wsBase d + b * 2 ^ 24 + 2 ^ 24)

theorem fillBerth_eq : s.fillBerth d b t e o = (s.emptied d b t).updBerth d b (fun _ => ⟨1, t, e, 0, o⟩) := rfl

theorem berth_emptied : (s.emptied d b t).berth d c = s.berth d c := by unfold State.emptied; split <;> rfl

@[simp] theorem fillBerth_hart : (s.fillBerth d b t e o).hart = s.hart := by
  rw [fillBerth_eq, updBerth_hart, State.emptied]
  split <;> rfl
theorem berth_fillBerth_self (hd : d < 10) (hb : b < 32) : (s.fillBerth d b t e o).berth d b = ⟨1, t, e, 0, o⟩ := by
  rw [fillBerth_eq, berth_updBerth_self hd hb]
theorem berth_fillBerth_other (hc : c ≠ b) : (s.fillBerth d b t e o).berth d c = s.berth d c := by
  rw [fillBerth_eq, berth_updBerth_other hc, berth_emptied]

/-- The tenant's own bytes stay. -/
theorem sameMemory_fillBerth (ht : (s.berth d b).tenant = t) : SameMemory s (s.fillBerth d b t e o) := by
  intro a
  rw [fillBerth_eq, byte_updBerth, State.emptied, if_pos ht]
/-- Another tenant's bytes read zero, and no other byte changes. -/
theorem fillBerth_zeroed (ht : (s.berth d b).tenant ≠ t) :
    SameOutside s (s.fillBerth d b t e o) (wsBase d + b * 2 ^ 24) (2 ^ 24)
    ∧ ∀ k, k < 2 ^ 24 → (s.fillBerth d b t e o).byte (wsBase d + b * 2 ^ 24 + k) = 0 := by
  refine ⟨fun a ha => ?_, fun k hk => ?_⟩
  · rw [fillBerth_eq, byte_updBerth, State.emptied, if_neg ht, byte_zeroRange_other ha]
  · rw [fillBerth_eq, byte_updBerth, State.emptied, if_neg ht, byte_zeroRange_self (Nat.le_add_right _ _) (Nat.add_lt_add_left hk _)]

/-! ## READY -/

/-- The state in which the bytes of a berth are settled. -/
def State.settled (s : State) (d b : Nat) : State :=
  { s with indet := cutIndet (wsBase d + b * 2 ^ 24) (wsBase d + b * 2 ^ 24 + 2 ^ 24) s.indet }

theorem readyBerth_eq : s.readyBerth d b = (s.settled d b).updBerth d b
    (fun x => { x with st := 2, count := ((s.die d).wsctl.extractLsb' 48 16).toNat, owner := none }) := rfl

theorem wsctl_init (w : Word) : (w.extractLsb' 48 16).toNat = w.toNat / 2 ^ 48 := by
  rw [BitVec.extractLsb'_toNat, Nat.shiftRight_eq_div_pow]
  exact Nat.mod_eq_of_lt (by omega)

theorem berth_readyBerth_self (hd : d < 10) (hb : b < 32) :
    (s.readyBerth d b).berth d b = { s.berth d b with st := 2, count := (s.die d).wsctl.toNat / 2 ^ 48, owner := none } := by
  rw [readyBerth_eq, berth_updBerth_self hd hb, wsctl_init]
  rfl
theorem berth_readyBerth_other (hc : c ≠ b) : (s.readyBerth d b).berth d c = s.berth d c := berth_updBerth_other hc
@[simp] theorem readyBerth_hart : (s.readyBerth d b).hart = s.hart := updBerth_hart

/-- The bytes of the berth show what they hold, and no other byte changes. -/
theorem readyBerth_settled : SameOutside s (s.readyBerth d b) (wsBase d + b * 2 ^ 24) (2 ^ 24)
    ∧ ∀ k, k < 2 ^ 24 → (s.readyBerth d b).byte (wsBase d + b * 2 ^ 24 + k) = s.rawByte (wsBase d + b * 2 ^ 24 + k) := by
  refine ⟨fun a ha => ?_, fun k hk => ?_⟩
  · rw [readyBerth_eq, byte_updBerth]
    exact byte_congr (markKind_cutIndet_other ha rfl rfl) rfl rfl
  · rw [readyBerth_eq, byte_updBerth,
      byte_of_no_mark (not_covers_of_mem_cutIndet (Nat.le_add_right _ _) (Nat.add_lt_add_left hk _))]
    rfl

/-! ## EMPTY -/

theorem berth_emptyBerth_st (hd : d < 10) (hb : b < 32) : ((s.emptyBerth d b).berth d b).st = 0 := by
  rw [State.emptyBerth, berth_updBerth_self hd hb]
  split
  · assumption
  · rfl
theorem berth_emptyBerth_other (hc : c ≠ b) : (s.emptyBerth d b).berth d c = s.berth d c := berth_updBerth_other hc

/-! ## WSBERTH.get -/

/-- The berth holds the tenant's bytes of an expert. -/
abbrev State.holds (s : State) (d : Nat) (t : BitVec 6) (e : BitVec 32) (b : Nat) : Prop :=
  b < 32 ∧ (s.berth d b).st ≠ 0 ∧ (s.berth d b).tenant = t ∧ (s.berth d b).expert = e

/-- What the model's search asks of a berth. -/
def State.heldBy (s : State) (d : Nat) (t : BitVec 6) (e : BitVec 32) (b : Nat) : Bool :=
  (s.berth d b).st != 0 && (s.berth d b).tenant == t && (s.berth d b).expert == e
theorem heldBy_iff (hb : b < 32) : s.heldBy d t e b = true ↔ s.holds d t e b := by
  simp only [State.heldBy, Bool.and_eq_true, bne_iff_ne, beq_iff_eq, and_assoc, State.holds, hb, true_and]

theorem berthGet_held (hb : s.holds (hidDie s.hart.hid) s.hart.tenant e b) (hf : ∀ c, c < b → ¬s.holds (hidDie s.hart.hid) s.hart.tenant e c) :
    s.berthGet e = (BitVec.ofNat 64 (if (s.berth (hidDie s.hart.hid) b).st = 2 then b else 0x200 + b), s) := by
  have h : (List.range 32).find? (s.heldBy (hidDie s.hart.hid) s.hart.tenant e) = some b := by
    rw [List.find?_range_eq_some]
    refine ⟨(heldBy_iff hb.1).2 hb, List.mem_range.2 hb.1, fun c hc => ?_⟩
    rw [Bool.not_eq_true', ← Bool.not_eq_true, heldBy_iff (hc.trans hb.1)]
    exact hf c hc
  unfold State.heldBy at h
  simp only [State.berthGet, h]
  split <;> rfl

section
variable (hn : ∀ c, ¬s.holds (hidDie s.hart.hid) s.hart.tenant e c)
include hn
/-- The search finds no berth of the expert. -/
theorem find?_heldBy_eq_none : (List.range 32).find? (s.heldBy (hidDie s.hart.hid) s.hart.tenant e) = none := by
  rw [List.find?_range_eq_none]
  intro c hc
  rw [Bool.not_eq_true', ← Bool.not_eq_true, heldBy_iff hc]
  exact hn c

theorem berthGet_none (ht : ∀ b, ¬Spec.taken s (hidDie s.hart.hid) b) : s.berthGet e = (-1, s) := by
  have h := find?_heldBy_eq_none hn
  unfold State.heldBy at h
  simp only [State.berthGet, h, pickBerth_eq_none ht]
theorem berthGet_taken (ht : Spec.taken s (hidDie s.hart.hid) b) :
    s.berthGet e = (BitVec.ofNat 64 (0x100 + b), s.fillBerth (hidDie s.hart.hid) b s.hart.tenant e s.hart.launch) := by
  have h := find?_heldBy_eq_none hn
  unfold State.heldBy at h
  simp only [State.berthGet, h, pickBerth_eq_some ht]
end
end

/-! ## The instructions -/

/-- The numbers of an operand (R269): an expert in its low 32 bits, a berth in its low 5. -/
theorem expert_of (a : Word) : a.extractLsb' 0 32 = a.setWidth 32 := by
  rw [← BitVec.toNat_inj]
  simp

theorem berth_of (a : Word) : (a.extractLsb' 0 5).toNat = a.toNat % 32 := by
  rw [BitVec.extractLsb'_toNat, Nat.shiftRight_zero]

section
variable {s : State} {g : Hdr} (hv : s.VReady g []) (hg : s.hart.guard g.grd = true) (hl : Spec.mayLoad s) (hc : s.hart.isCompute = true)
  (xd xa : XReg)
include hv hg hl hc
theorem exec_wsberthGet {v : Word} {t : State} (h : s.berthGet ((s.x xa).setWidth 32) = (v, t)) :
    exec (.wsberthGet g xd xa) s = .next (t.setX xd v).completed := by
  have := wsberth_eq hv hg hl hc (.wsberthGet g xd xa) xd xa (fun a s => s.berthGet (a.extractLsb' 0 32))
  rw [expert_of, h] at this
  exact this

theorem exec_wsberthRdy : exec (.wsberthRdy g xd xa) s =
    if (s.berth (hidDie s.hart.hid) ((s.x xa).toNat % 32)).st = 1 ∧ (s.berth (hidDie s.hart.hid) ((s.x xa).toNat % 32)).tenant = s.hart.tenant
    then .next ((s.readyBerth (hidDie s.hart.hid) ((s.x xa).toNat % 32)).setX xd 0).completed else .next (s.setX xd (-1)).completed := by
  refine (wsberth_eq hv hg hl hc (.wsberthRdy g xd xa) xd xa (fun a s =>
    let d := hidDie s.hart.hid
    let b := (a.extractLsb' 0 5).toNat
    if (s.berth d b).st = 1 ∧ (s.berth d b).tenant = s.hart.tenant then (0, s.readyBerth d b) else (-1, s))).trans ?_
  rw [berth_of]
  dsimp only
  split <;> rfl

theorem exec_wsberthDrop : exec (.wsberthDrop g xd xa) s =
    if (s.berth (hidDie s.hart.hid) ((s.x xa).toNat % 32)).tenant = s.hart.tenant ∨ s.hart.mode = .s
    then .next ((s.emptyBerth (hidDie s.hart.hid) ((s.x xa).toNat % 32)).setX xd 0).completed else .next (s.setX xd (-1)).completed := by
  refine (wsberth_eq hv hg hl hc (.wsberthDrop g xd xa) xd xa (fun a s =>
    let d := hidDie s.hart.hid
    let b := (a.extractLsb' 0 5).toNat
    if (s.berth d b).tenant = s.hart.tenant ∨ s.hart.mode = .s then (0, s.emptyBerth d b) else (-1, s))).trans ?_
  rw [berth_of]
  dsimp only
  split <;> rfl
end

/-- WSBERTH.get, rdy and drop (O43). -/
theorem berths : Spec.Berths := by
  intro s g xd xa hv hg
  have hm := isMgmt_of_vReady hv
  refine ⟨fun hl => ⟨loaderOnly_refused hm hl _, loaderOnly_refused hm hl _, loaderOnly_refused hm hl _⟩, fun hl hc => ?_⟩
  have hd : hidDie s.hart.hid < 10 := by
    have := of_decide_eq_true hc
    omega
  have hb32 : (s.x xa).toNat % 32 < 32 := Nat.mod_lt _ (by decide)
  refine ⟨⟨fun b hb hf => ?_, fun hn ht => ?_, fun b hn ht => ?_⟩, fun h1 ht => ?_, fun hno => ?_, fun hy => ?_, fun ht hmode => ?_⟩
  · exact exec_wsberthGet hv hg hl hc xd xa (berthGet_held hb hf)
  · exact exec_wsberthGet hv hg hl hc xd xa (berthGet_none hn ht)
  · exact ⟨_, exec_wsberthGet hv hg hl hc xd xa (berthGet_taken hn ht), fillBerth_hart, berth_fillBerth_self hd ht.1.1,
      fun c hne => berth_fillBerth_other hne, fun hten => sameMemory_fillBerth hten, fun hten => fillBerth_zeroed hten⟩
  · obtain ⟨hout, hin⟩ := readyBerth_settled (s := s) (d := hidDie s.hart.hid) (b := (s.x xa).toNat % 32)
    exact ⟨_, (exec_wsberthRdy hv hg hl hc xd xa).trans (if_pos ⟨h1, ht⟩), readyBerth_hart, berth_readyBerth_self hd hb32,
      fun c hne => berth_readyBerth_other hne, hout, hin⟩
  · exact (exec_wsberthRdy hv hg hl hc xd xa).trans (if_neg fun h => hno.elim (fun h1 => h1 h.1) fun h2 => h2 h.2)
  · exact ⟨_, (exec_wsberthDrop hv hg hl hc xd xa).trans (if_pos hy), updBerth_hart, berth_emptyBerth_st hd hb32,
      fun c hne => berth_emptyBerth_other hne, updBerth_mem⟩
  · exact (exec_wsberthDrop hv hg hl hc xd xa).trans (if_neg fun h => h.elim ht hmode)
end Sys2Proof.Machine
end

section
/-! SUPPORT. WSLD (R254, R268), ageing and refresh (R255, R257): the weight store of O43. -/

namespace Sys2Proof.Machine
open Sys2Proof

section
variable {s : State} {o n a d : Nat} {t : BitVec 6}

/-! ## The berths that WSLD touches -/

/-- The tenant is filling a berth. -/
def State.filling (s : State) (b : Nat) : Prop :=
  (s.berth (hidDie s.hart.hid) b).st = 1 ∧ (s.berth (hidDie s.hart.hid) b).tenant = s.hart.tenant

theorem berthsOf_eq_range' (hn : 0 < n) : berthsOf o n = List.range' (o / 2 ^ 24) ((o + n - 1) / 2 ^ 24 - o / 2 ^ 24 + 1) := by
  rw [berthsOf, if_neg hn.ne', List.range_eq_range']
  simp only [Nat.add_comm _ (o / 2 ^ 24)]
  rw [List.map_add_range', Nat.add_zero]

theorem refuses_iff (s : State) (b : Nat) :
    ((s.berth (hidDie s.hart.hid) b).st != 1 || (s.berth (hidDie s.hart.hid) b).tenant != s.hart.tenant) = true ↔ ¬s.filling b := by
  rw [Bool.or_eq_true, bne_iff_ne, bne_iff_ne, State.filling, not_and_or]

/-- WSLD may write where the tenant is filling every berth. -/
theorem wsldFault_eq_none (h : ∀ a, o ≤ a → a < o + n → s.filling (a / 2 ^ 24)) : s.wsldFault o n = none := by
  rw [State.wsldFault, Option.map_eq_none_iff]
  obtain rfl | hn := Nat.eq_zero_or_pos n
  · rfl
  · rw [berthsOf_eq_range' hn, List.find?_eq_none]
    intro b hb
    rw [List.mem_range'_1] at hb
    rw [refuses_iff, not_not]
    have := h (max o (b * 2 ^ 24)) (by omega) (by omega)
    rwa [show max o (b * 2 ^ 24) / 2 ^ 24 = b by omega] at this

/-- The first byte that the tenant may not fill is the one that faults. -/
theorem wsldFault_eq_some (hlo : o ≤ a) (hhi : a < o + n) (ha : ¬s.filling (a / 2 ^ 24)) (h : ∀ b, o ≤ b → b < a → s.filling (b / 2 ^ 24)) :
    s.wsldFault o n = some a := by
  have hmax : max o (a / 2 ^ 24 * 2 ^ 24) = a := by
    by_contra hne
    have := h (a - 1) (by omega) (by omega)
    rw [show (a - 1) / 2 ^ 24 = a / 2 ^ 24 by omega] at this
    exact ha this
  rw [State.wsldFault, Option.map_eq_some_iff]
  refine ⟨a / 2 ^ 24, ?_, hmax⟩
  rw [berthsOf_eq_range' (by omega), List.find?_range'_eq_some]
  refine ⟨(refuses_iff ..).2 ha, List.mem_range'_1.2 (by omega), fun j hj hja => ?_⟩
  rw [Bool.not_eq_true', ← Bool.not_eq_true, refuses_iff, not_not]
  have := h (max o (j * 2 ^ 24)) (by omega) (by omega)
  rwa [show max o (j * 2 ^ 24) / 2 ^ 24 = j by omega] at this
end

/-! ## The instruction -/

/-- How the pieces of a WSLD end it. -/
def wsldEnd : Option Trap × State → Eff
  | (some t, s) => .trap t s
  | (none, s) => .done s

/-- WSLD at a hart that may load, where no trap from outside stops it. -/
def wsldBody (i : Instr) (xd xa xb : XReg) (s : State) : Eff :=
  if (s.x xd).toNat % 128 ≠ 0 ∨ (s.x xb).toNat % 128 ≠ 0 ∨ 2 ^ 29 < (s.x xd).toNat + (s.x xb).toNat then wordTrap .illegalOperand i s
  else if (s.x xa).toNat % 8 ≠ 0 then trapAt .misaligned (s.x xa) s
  else match s.wsldFault (s.x xd).toNat (s.x xb).toNat with
    | some b => trapAt .accessFault (BitVec.ofNat 64 (s.pkg.toNat * 2 ^ 45 + wsBase (hidDie s.hart.hid) + b)) s
    | none => wsldEnd (wsldPieces xd xa xb ((s.x xb).toNat / 128) (s.settleBerths (hidDie s.hart.hid) (s.x xd).toNat (s.x xb).toNat))

section
variable {s : State} {g : Hdr} {tk : Option (BitVec 3)} {xd xa xb : XReg}

theorem exec_wsld (hv : s.VReady g [] tk) (hg : s.hart.guard g.grd = true) (hl : Spec.mayLoad s) :
    exec (.wsld g xd xa xb tk) s = finish (wsldBody (.wsld g xd xa xb tk) xd xa xb s) := by
  refine (loaderOnly_of_mayLoad hl _).trans ((vecIssue_whole hv hg ..).trans (congrArg finish ?_))
  obtain ⟨-, ⟨-, -, hstop⟩, -⟩ := hv
  have hs (k : Nat) : s.hart.stopsAfter k = none := by rw [Hart.stopsAfter, hstop]
  unfold wsldBody
  dsimp only
  simp only [hs]
  split
  · rfl
  · split
    · rfl
    · cases s.wsldFault (s.x xd).toNat (s.x xb).toNat with
      | some b => rfl
      | none =>
        dsimp only [Option.getD_none]
        generalize wsldPieces xd xa xb _ _ = p
        obtain ⟨_ | t, u⟩ := p
        · exact if_neg nofun
        · rfl

/-- A WSLD of no bytes touches no berth. -/
theorem settleBerths_zero (s : State) (d o : Nat) : s.settleBerths d o 0 = s := rfl
@[simp] theorem settleBerths_hart (s : State) (d o n : Nat) : (s.settleBerths d o n).hart = s.hart :=
  List.foldlRecOn (motive := fun (t : State) => t.hart = s.hart) _ _ rfl fun _ ht _ _ => ht

/-- The state behind a piece that started in `s` and whose bytes are written in `w`: the destination and the source have moved on, and the
length is shorter. -/
def State.afterPiece (s w : State) (xd xa xb : XReg) : State :=
  ((w.setX xa (s.x xa + 128)).setX xd (w.x xd + 128)).setX xb (w.x xb - 128)

/-- One piece that no fault stops. -/
theorem wsldPieces_one {s1 s2 : State} {ps : List (Place × Nat)} {v : Nat}
    (hp : s.locateAll (s.req .vector) .read (pageSpans (s.x xa) 128) = (.ok ps, s1)) (hr : s1.readAll (s.req .vector) ps = ((v, false), s2)) :
    wsldPieces xd xa xb 1 s = (none, s.afterPiece (s2.putWs (hidDie s2.hart.hid) (s2.x xd).toNat 128 v) xd xa xb) := by
  simp only [wsldPieces, hp, hr]
  rfl

/-- The instruction goes on with the next word, and leaves vectors and predicates alone. -/
theorem completes_afterPiece {i : Instr} {w : State} (hw : w.hart = s.hart) (he : exec i s = .next (s.afterPiece w xd xa xb).completed) :
    Completes i s (s.afterPiece w xd xa xb).completed ∧ (s.afterPiece w xd xa xb).completed.hart.vst = s.hart.vst
    ∧ (s.afterPiece w xd xa xb).completed.hart.p = s.hart.p := by
  refine ⟨⟨he, ?_, ?_, ?_, ?_, ?_, ?_⟩, ?_, ?_⟩
  all_goals simp [State.afterPiece, State.completed, State.completedAt, Hart.retire, hw]

section
variable {w : State} (hd : xd ≠ 0) (ha : xa ≠ 0) (hb : xb ≠ 0) (hda : xd ≠ xa) (hdb : xd ≠ xb) (hab : xa ≠ xb) (hw : w.hart = s.hart)
include hd ha hb hda hdb hab hw

theorem x_afterPiece : (s.afterPiece w xd xa xb).x xd = s.x xd + 128 ∧ (s.afterPiece w xd xa xb).x xa = s.x xa + 128
    ∧ (s.afterPiece w xd xa xb).x xb = s.x xb - 128 ∧ ∀ j, j ≠ xd → j ≠ xa → j ≠ xb → (s.afterPiece w xd xa xb).x j = s.x j := by
  have hx (j : XReg) : w.x j = s.x j := by rw [State.x, State.x, hw]
  unfold State.afterPiece
  refine ⟨?_, ?_, ?_, fun j h1 h2 h3 => ?_⟩
  · rw [State.x_setX_other hdb, State.x_setX_self hd, hx]
  · rw [State.x_setX_other hab, State.x_setX_other hda.symm, State.x_setX_self ha]
  · rw [State.x_setX_self hb, hx]
  · rw [State.x_setX_other h3, State.x_setX_other h1, State.x_setX_other h2, hx]

/-- A piece as the statement describes it: the registers, the bytes, and that the instruction goes on with the next word. -/
theorem piece_completes {i : Instr} {v : Nat} {s2 : State} (hn : (s.x xb).toNat = 128) (ho : (s.x xd).toNat % 128 = 0)
    (hr : (s.x xd).toNat + 128 ≤ 2 ^ 29) (hp : s2.putWs (hidDie s.hart.hid) (s.x xd).toNat 128 v = w)
    (he : exec i s = .next (s.afterPiece w xd xa xb).completed) :
    ∃ u, Completes i s u ∧ u.x xd = s.x xd + 128 ∧ u.x xa = s.x xa + 128 ∧ u.x xb = 0
      ∧ (∀ j, j ≠ xd → j ≠ xa → j ≠ xb → u.x j = s.x j) ∧ u.hart.vst = s.hart.vst ∧ u.hart.p = s.hart.p
      ∧ SameOutside s2 u (wsBase (hidDie s.hart.hid) + (s.x xd).toNat) 128
      ∧ ∀ j, j < 128 → (u.rawByte (wsBase (hidDie s.hart.hid) + (s.x xd).toNat + j)).toNat = v / 256 ^ j % 256
        ∧ (u.byte (wsBase (hidDie s.hart.hid) + (s.x xd).toNat + j) = u.rawByte (wsBase (hidDie s.hart.hid) + (s.x xd).toNat + j)
          ∨ u.byte (wsBase (hidDie s.hart.hid) + (s.x xd).toNat + j) = s2.byte (wsBase (hidDie s.hart.hid) + (s.x xd).toNat + j)) := by
  obtain ⟨-, hout, hin⟩ := putWs_spec (s := s2) (n := 128) (v := v) (d := hidDie s.hart.hid) (o := (s.x xd).toNat) (by omega) (by decide)
    (by decide) hr
  rw [hp] at hout hin
  obtain ⟨hxd, hxa, hxb, hxj⟩ := x_afterPiece hd ha hb hda hdb hab hw
  have hz : s.x xb - 128 = 0 := by
    rw [show s.x xb = 128#64 from BitVec.eq_of_toNat_eq hn]
    decide
  have hbyte (b : Nat) : (s.afterPiece w xd xa xb).completed.byte b = w.byte b := byte_of_frame rfl b
  have hraw (b : Nat) : (s.afterPiece w xd xa xb).completed.rawByte b = w.rawByte b := rfl
  obtain ⟨hc, hvst, hpr⟩ := completes_afterPiece hw he
  refine ⟨_, hc, hxd, hxa, hxb.trans hz, hxj, hvst, hpr, fun b hbo => (hbyte b).trans (hout b hbo), fun j hj => ?_⟩
  obtain ⟨hj1, hj2⟩ := hin j hj
  rw [hbyte, hraw]
  exact ⟨by rw [hj1, BitVec.toNat_ofNat], hj2⟩
end

/-- WSLD (O43). -/
theorem weightsAreLoaded : Spec.WeightsAreLoaded := by
  intro s g xd xa xb tk hv hg
  have hm := isMgmt_of_vReady hv
  refine ⟨fun hl => loaderOnly_refused hm hl _, fun hl => ⟨fun hw => ?_, fun hw ha => ?_, fun hw ha a hlo hhi hna hbelow => ?_, fun hw ha hmine => ?_⟩⟩
  · rw [exec_wsld hv hg hl, wsldBody, if_pos hw]
    rfl
  · rw [exec_wsld hv hg hl, wsldBody, if_neg hw, if_pos ha]
    rfl
  · rw [exec_wsld hv hg hl, wsldBody, if_neg hw, if_neg (not_not.2 ha), wsldFault_eq_some hlo hhi hna hbelow]
    rfl
  · have hexec : exec (.wsld g xd xa xb tk) s = finish (wsldEnd (wsldPieces xd xa xb ((s.x xb).toNat / 128)
        (s.settleBerths (hidDie s.hart.hid) (s.x xd).toNat (s.x xb).toNat))) := by
      rw [exec_wsld hv hg hl, wsldBody, if_neg hw, if_neg (not_not.2 ha), wsldFault_eq_none hmine]
    refine ⟨fun hn => ?_, fun ps s1 v s2 hn hd0 ha0 hb0 hda hdb hab hp hr h1 h2 => ?_, fun s1 h => ?_, fun t s1 _ h => ?_⟩
    · rw [hexec, hn]
      rfl
    · have hh := settleBerths_hart s (hidDie s.hart.hid) (s.x xd).toNat (s.x xb).toNat
      generalize s.settleBerths (hidDie s.hart.hid) (s.x xd).toNat (s.x xb).toNat = s0 at hexec hp hh
      have hq : s.req .vector = s0.req .vector := by rw [State.req, State.req, hh]
      have hx (j : XReg) : s0.x j = s.x j := by rw [State.x, State.x, hh]
      have hone := wsldPieces_one (xd := xd) (xb := xb) (by rw [← hq, hx]; exact hp) (by rw [← hq]; exact hr)
      have hx2 : s2.x xd = s.x xd := by rw [State.x, State.x, h2]
      simp only [not_or, not_not, not_lt] at hw
      have hhart := (putWs_spec (s := s2) (n := 128) (v := v) (d := hidDie s.hart.hid) (o := (s.x xd).toNat) (by omega) (by decide)
        (by decide) (by omega)).1
      refine piece_completes hd0 ha0 hb0 hda hdb hab (hhart.trans h2) hn hw.1 (by omega) rfl ?_
      rw [hexec, hn, hone, h2, hx2, State.afterPiece, State.afterPiece, hx]
      rfl
    · rw [hexec, h]
      rfl
    · rw [hexec, h]
      rfl
end

/-! ## Ageing and refresh (R255, R257) -/

section
variable {s : State} {d e : Nat}

theorem die_updDie_other {f : Die → Die} (he : e ≠ d) : (s.updDie d f).die e = s.die e := by
  unfold State.die State.updDie
  split
  case isFalse => rfl
  case isTrue h =>
    split
    case isTrue hd => exact Vector.getElem_set_ne hd h he.symm
    case isFalse => rfl
theorem byte_updDie {f : Die → Die} (a : Nat) : (s.updDie d f).byte a = s.byte a := by
  unfold State.updDie
  split
  · exact byte_of_frame rfl a
  · rfl

/-- The period of ageing (R257): AGE lies in bits [37:32] of WSCTL. -/
theorem wsctl_age (w : Word) : (w.extractLsb' 32 6).toNat = w.toNat / 2 ^ 32 % 64 := by
  rw [BitVec.extractLsb'_toNat, Nat.shiftRight_eq_div_pow]

/-- Ageing halves every count. -/
def ageDie (x : Die) : Die := { x with berths := x.berths.map (fun (b : Berth) => { b with count := b.count / 2 }) }

theorem exec_berthAgeing (hi : s.input = .unit d) : exec .berthAgeing s =
    if s.cycleOf d % 2 ^ ((s.die d).wsctl.toNat / 2 ^ 32 % 64) = 0 then .next (s.updDie d ageDie) else .next s := by
  change execBerthAgeing s = _
  rw [execBerthAgeing, hi]
  dsimp only
  rw [wsctl_age]
  rfl

theorem berth_aged (hd : d < 10) (b : Nat) : (s.updDie d ageDie).berth d b = { s.berth d b with count := (s.berth d b).count / 2 } := by
  unfold State.berth
  rw [die_updDie_self hd]
  split
  · exact Vector.getElem_map ..
  · rfl
end

/-- BERTH_AGEING and REFRESH_SLOT_END (O43). -/
theorem weightStoreEvents : Spec.WeightStoreEvents := by
  intro s d hd
  refine ⟨fun hi => ?_, ?_⟩
  · rw [exec_berthAgeing hi]
    by_cases h : s.cycleOf d % 2 ^ ((s.die d).wsctl.toNat / 2 ^ 32 % 64) = 0
    · exact ⟨_, if_pos h, updDie_hart, byte_updDie, fun _ => berth_aged hd, fun hne => absurd h hne, fun e he => die_updDie_other he⟩
    · exact ⟨s, if_neg h, rfl, fun _ => rfl, fun h0 => absurd h0 h, fun _ => rfl, fun _ _ => rfl⟩
  · by_cases h : s.time % 2000 < 1600
    · exact ⟨_, if_pos h, rfl, byte_of_frame rfl, (if_pos h).symm⟩
    · exact ⟨s, if_neg h, rfl, fun _ => rfl, (if_neg h).symm⟩

/-- Settles O43: the three parts. -/
theorem weightStore : Obligations.WeightStore := ⟨berths, weightsAreLoaded, weightStoreEvents⟩

end Sys2Proof.Machine
end

section
/-! SUPPORT. The parts of the state after reset (R256, R276, R283): O55. -/

namespace Sys2Proof.Machine
open Sys2Proof

theorem die_reset {d : Nat} (hd : d < 10) : State.reset.die d = Die.reset := by
  rw [State.die, dif_pos hd]
  exact Vector.getElem_replicate ..

theorem queue_reset {q : Nat} : State.reset.queue q = {} := by
  unfold State.queue
  split
  · exact Vector.getElem_replicate ..
  · rfl

theorem frame_reset {d f : Nat} (hd : d < 10) : State.reset.frame d f = {} := by
  rw [State.frame, die_reset hd]
  rfl

theorem inv_reset : State.reset.Inv :=
  ⟨rfl, ⟨fun _ h => (List.not_mem_nil h).elim, fun _ h => (List.not_mem_nil h).elim⟩, fun _ h => (List.not_mem_nil h).elim⟩

theorem getD_toList_replicate {α : Type} {n k : Nat} {v w : α} (hk : k < n) : (Vector.replicate n v).toList.getD k w = v := by
  rw [Vector.toList_replicate, List.getD_eq_getElem?_getD, List.getElem?_replicate_of_lt hk]
  rfl

/-- Settles O55: each register holds what the tables of the reset values say, read off the definition of the reset state. -/
theorem resetState : Obligations.ResetState := by
  refine ⟨inv_reset, rfl, rfl, rfl, rfl, rfl, rfl, rfl, rfl, rfl, rfl, by decide, rfl, rfl, rfl, ?_, rfl, rfl, fun n => getD_toList_replicate, rfl,
    rfl, by decide, rfl, fun t => getD_toList_replicate, rfl, rfl, rfl, rfl, rfl, rfl, rfl, rfl, rfl, rfl, fun d hd => ?_, fun q _ => ?_, rfl, rfl⟩
  · rw [die_reset (by decide)]; rfl
  · have hw : Die.reset.wsctl = 256#16 ++ 20#16 ++ 0xFFFFFFFF#32 := by decide
    have hf (f : Nat) := frame_reset (f := f) hd
    rw [die_reset hd]
    exact ⟨rfl, rfl, rfl, rfl, rfl, hw, fun f _ => by rw [hf]; exact ⟨rfl, rfl, rfl, rfl⟩⟩
  · rw [queue_reset]
    exact ⟨rfl, rfl, rfl, rfl, rfl⟩
end Sys2Proof.Machine
end

section
/-! SUPPORT. How an instruction of the vector queue issues and ends when nothing hinders it, and what one that writes vector registers leaves
(R39, R88, R92, R158, R167, R169): the rules that the vector and matrix instructions of O28, O29, O31 and O41 share. -/

namespace Sys2Proof.Machine
open Sys2Proof Sys2Proof.Spec

/-! ## Elements that take part -/

section
variable {h : Hart} {g : Hdr}

theorem takes_of_fresh (hr : h.reissue = false) : h.takes g = h.active g.grd := by
  funext e
  rw [Hart.takes, hr]
  rfl

theorem actives_of_fresh (hr : h.reissue = false) (n : Nat) : h.actives g n = activesOf h g n := by
  rw [Hart.actives, takes_of_fresh hr, activesOf]

theorem mem_activesOf {n e : Nat} : e ∈ activesOf h g n ↔ e < n ∧ h.active g.grd e = true := by
  simp [activesOf]

theorem stopsAfter_of_fresh (hf : h.Fresh) (n : Nat) : h.stopsAfter n = none := by
  obtain ⟨-, -, hs⟩ := hf
  rw [Hart.stopsAfter, hs]

/-- No register holds more than 32768 elements (R154). -/
theorem mvl_le (t : Tag) (h : Hart) : mvl t h.nregs ≤ 32768 := by
  have hb : Config.vstBytes / h.nregs ≤ 16384 := by
    have h8 : 8 ≤ h.nregs := Nat.le_mul_of_pos_right 8 (Nat.two_pow_pos _)
    exact Nat.div_le_of_le_mul (by change 131072 ≤ _; omega)
  unfold mvl
  dsimp only
  generalize Config.vstBytes / h.nregs = b at hb
  cases t <;> simp [Tag.isBlock, tagBlockBits, tagWidth] <;> omega

theorem n_le_of_lenOk {vs : List Nat} (hl : h.lenOk vs = true) {v : Nat} (hv : v ∈ vs) : h.n ≤ 32768 := by
  have hx := List.all_eq_true.1 hl v hv
  rw [Bool.and_eq_true, decide_eq_true_eq] at hx
  exact hx.2.trans (mvl_le ..)

/-- Under `p0` negated no element is active (R39). -/
theorem active_never (hp : g.pg = 0) (hn : g.pn = true) {e : Nat} (he : e < 32768) : h.active g.grd e = false := by
  have h0 : h.getP g.pg = BitVec.allOnes 32768 := if_pos hp
  have hg : h.active g.grd e = ((h.getP g.pg).getLsbD e != g.pn) := rfl
  rw [hg, h0, hn, BitVec.getLsbD_allOnes, decide_eq_true he]
  rfl

theorem activesOf_never (hp : g.pg = 0) (hn : g.pn = true) {n : Nat} (hle : n ≤ 32768) : activesOf h g n = [] := by
  rw [activesOf, List.filter_eq_nil_iff]
  intro e he
  rw [active_never hp hn ((List.mem_range.1 he).trans_le hle)]
  exact Bool.false_ne_true
end

/-! ## Issue -/

section
variable {s : State} {g : Hdr} {nm : Names} {i : Instr} {ok : State → Bool} {body : State → Eff}

theorem reissue_of_fresh {h : Hart} (hf : h.Fresh) : h.reissue = false := hf.2.1

theorem sound_of_vReady {vs : List Nat} {tk : Option (BitVec 3)} {dst : List Nat} (h : s.VReady g vs tk dst) : s.hart.Sound := h.1.1
theorem fresh_of_vReady {vs : List Nat} {tk : Option (BitVec 3)} {dst : List Nat} (h : s.VReady g vs tk dst) : s.hart.Fresh := h.2.1

/-- The registers that an instruction names exist, and no earlier work uses them. -/
theorem free_of_vReady {vs : List Nat} {tk : Option (BitVec 3)} {dst : List Nat} (h : s.VReady g vs tk dst) {v : Nat} (hv : v ∈ vs) :
    v < s.hart.nregs ∧ s.hart.regBusy v = false := by
  obtain ⟨-, -, -, -, hvs, -⟩ := h
  have := List.all_eq_true.1 hvs v hv
  simpa using this

/-- The issue of an instruction whose guard decides the whole of it, under a true guard. -/
theorem vecIssue_whole_ready (h : s.VReady g nm.regs nm.tk nm.dst) (hw : nm.whole = true) (hp : nm.priv.allows s.hart.mode = true)
    (hg : s.hart.guard g.grd = true) (hok : ok s = true) : vecIssue i g nm ok body s = finish (body s) := by
  have hregs := fun v hv => free_of_vReady (v := v) h hv
  obtain ⟨⟨hs, hwm⟩, ⟨hm, -, -⟩, htk, -, -, hd⟩ := h
  have h1 : nm.regs.any (fun v => decide (s.hart.nregs ≤ v)) = false := List.any_eq_false.2 fun v hv => by simpa using (hregs v hv).1
  have h2 : nm.regs.any s.hart.regBusy = false := List.any_eq_false.2 fun v hv => by simp [(hregs v hv).2]
  simp only [vecIssue, decodeChecks, hm, hp, hwm, htk, hw, hg, h1, Hart.interlocked, h2, hd, hok, reading_sound hs, readingOr_sound hs]
  rfl

/-- The guard that is always false (R39): an instruction that does nothing under it clears `vstart`, or leaves it alone (R167, R169). -/
theorem vecIssue_never (h : s.Ready g.wm) (hf : s.hart.Fresh) (hp : g.pg = 0) (hn : g.pn = true) (hw : nm.whole = false)
    (ha : nm.always = false) (htk : nm.tk = none) (hpr : nm.priv.allows s.hart.mode = true) :
    vecIssue i g nm ok body s = finish (if nm.still then .done s else vdone s) := by
  obtain ⟨-, hwm⟩ := h
  obtain ⟨hm, -, -⟩ := hf
  simp [vecIssue, decodeChecks, hm, hpr, hwm, htk, hw, ha, hp, hn]

/-- One whose entry acts all the same (log 52) runs its body. -/
theorem vecIssue_never_always (h : s.Ready g.wm) (hf : s.hart.Fresh) (hp : g.pg = 0) (hn : g.pn = true) (hw : nm.whole = false)
    (ha : nm.always = true) (htk : nm.tk = none) (hpr : nm.priv.allows s.hart.mode = true) (hregs : ∀ v ∈ nm.regs, v < s.hart.nregs)
    (hok : ok s = true) (hil : s.hart.interlocked nm.regs nm.dst = false) : vecIssue i g nm ok body s = finish (body s) := by
  obtain ⟨-, hwm⟩ := h
  obtain ⟨hm, -, -⟩ := hf
  have h1 : nm.regs.any (fun v => decide (s.hart.nregs ≤ v)) = false := List.any_eq_false.2 fun v hv => by simpa using hregs v hv
  simp [vecIssue, decodeChecks, hm, hpr, hwm, htk, hw, ha, hp, hn, h1, hok, hil]
end

/-! ## The end of an instruction that writes vector registers -/

/-- `h'` is `h` but for vector register storage. -/
def OnlyStorage (h h' : Hart) : Prop :=
  ∃ (vst vpoi : BitVec 1048576) (vdirty : Word) (vcor : List Nat), h' = { h with vst, vpoi, vdirty, vcor }

theorem OnlyStorage.refl (h : Hart) : OnlyStorage h h := ⟨h.vst, h.vpoi, h.vdirty, h.vcor, rfl⟩
theorem OnlyStorage.trans {h h' h'' : Hart} (h1 : OnlyStorage h h') (h2 : OnlyStorage h' h'') : OnlyStorage h h'' := by
  obtain ⟨_, _, _, _, rfl⟩ := h1
  obtain ⟨_, _, _, _, rfl⟩ := h2
  exact ⟨_, _, _, _, rfl⟩
theorem onlyStorage_writeElems (h : Hart) (v w : Nat) (ws : Writes) : OnlyStorage h (h.writeElems v w ws) := by
  unfold Hart.writeElems Hart.freshen
  split
  · exact .refl h
  · split <;> exact ⟨_, _, _, _, rfl⟩

/-- `fcsr` with flags raised, and the generator advanced when a word was drawn (R88, R92). -/
def fcsrAfter (c : Word) (fl : Flags) (drew : Bool) : Word :=
  let c' := c ||| fl.setWidth 64
  if drew then seedNext (c.extractLsb' 32 32) ++ c'.extractLsb' 0 32 else c'
/-- The hart with the flags of its instruction raised, the generator advanced, and `vstart` cleared, unless the instruction leaves it alone
(R167, R169). -/
def Hart.ended (h : Hart) (fl : Flags) (drew still : Bool) : Hart :=
  { h with fcsr := fcsrAfter h.fcsr fl drew, vstart := if still then h.vstart else 0 }

/-- The state behind an instruction that leaves the hart as `h'` before it ends. -/
def State.vecEnd (s : State) (h' : Hart) (fl : Flags) (drew still : Bool) : State := { s with hart := h'.ended fl drew still }.completed

@[simp] theorem vstr_vecEnd (s : State) (h' : Hart) (fl : Flags) (drew still : Bool) (u : Nat) :
    (s.vecEnd h' fl drew still).hart.vstr u = h'.vstr u := rfl
@[simp] theorem elem_vecEnd (s : State) (h' : Hart) (fl : Flags) (drew still : Bool) (u e : Nat) :
    (s.vecEnd h' fl drew still).hart.elem u e = h'.elem u e := rfl

section
variable {s : State} {F : Hart → Hart} {fl : Flags} {drew still : Bool} {i : Instr} {h' : Hart}

/-- The flags do not reach the generator (R93). -/
theorem extractLsb'_or_flags (c : Word) (fl : Flags) : (c ||| fl.setWidth 64).extractLsb' 32 32 = c.extractLsb' 32 32 := by
  ext k hk
  simp [BitVec.getLsbD_of_ge fl (32 + k) (by omega)]

theorem raise_advanceSeed (t : State) : (t.raise fl).advanceSeed drew = { t with hart := t.hart.ended fl drew true } := by
  cases drew with
  | false => rfl
  | true =>
    have h : (t.hart.fcsr ||| fl.setWidth 64).extractLsb' 32 32 = t.hart.seed := extractLsb'_or_flags ..
    exact congrArg (fun v => ({ t with hart := { t.hart with
      fcsr := seedNext v ++ (t.hart.fcsr ||| fl.setWidth 64).extractLsb' 0 32 } } : State)) h

theorem finish_vdone (hr : s.hart.reissue = false) : finish (vdone s) = .next (s.upd (fun h => { h with vstart := 0 })).completed := by
  have h : (if s.hart.reissue then 0 else s.hart.fm) = s.hart.fm := by rw [hr]; rfl
  exact congrArg (fun v => Host.Outcome.next ({ s with hart := { s.hart with vstart := 0, fm := v } } : State).completed) h

theorem finish_done_raise : finish (.done (((s.upd F).raise fl).advanceSeed drew)) = .next (s.vecEnd (F s.hart) fl drew true) := by
  rw [raise_advanceSeed]
  rfl

theorem finish_vdone_raise (hr : (F s.hart).reissue = false) :
    finish (vdone (((s.upd F).raise fl).advanceSeed drew)) = .next (s.vecEnd (F s.hart) fl drew false) := by
  rw [raise_advanceSeed]
  exact finish_vdone hr

/-- What an instruction that only wrote vector registers leaves. -/
theorem completes_vecEnd (hx : exec i s = .next (s.vecEnd h' fl drew still)) (ho : OnlyStorage s.hart h') :
    Completes i s (s.vecEnd h' fl drew still) ∧ OnlyVectors s (s.vecEnd h' fl drew still) := by
  obtain ⟨_, _, _, _, rfl⟩ := ho
  exact ⟨⟨hx, rfl, rfl, rfl, rfl, rfl, rfl⟩, rfl, rfl, rfl, rfl, rfl, rfl, rfl, rfl, rfl, byte_of_frame rfl⟩

variable {vd w : Nat} {ws : Writes} {es : List Nat} {f : Nat → Nat}

/-- An instruction that wrote fields of one register, which stand there as `f` says. -/
theorem vectorResult_of_writes (hx : exec i s = .next (s.vecEnd (s.hart.writeElems vd w ws) fl drew still)) (hv : vd < s.hart.nregs)
    (hw : tagWidth (s.hart.tag vd) = w) (hfit : ∀ x ∈ ws, x.1 * w + w ≤ s.hart.regBits)
    (hes : ∀ b e, elemAt w (applyWrites w b ws) e = if e ∈ es then f e % 2 ^ w else elemAt w b e) :
    vectorResult i s vd es f fl drew still := by
  subst hw
  obtain ⟨hc, ho⟩ := completes_vecEnd hx (onlyStorage_writeElems ..)
  refine ⟨_, hc, ho, fun e => ?_, fun u _ hu => ?_, Hart.writeElems_vtag .., Hart.writeElems_vqin .., Hart.writeElems_vqout .., ?_, ?_⟩
  · rw [elem_vecEnd, Hart.elem, writeElems_tag, vstr_writeElems hv _ _ hfit, if_pos rfl, hes, Hart.elem]
  · rw [vstr_vecEnd, vstr_writeElems hv _ _ hfit, if_neg hu]
  · change (if still then (s.hart.writeElems ..).vstart else 0) = _
    rw [Hart.writeElems_vstart]
  · change fcsrAfter (s.hart.writeElems ..).fcsr fl drew = fcsrAfter s.hart.fcsr fl drew
    rw [Hart.writeElems_fcsr]

/-- One that wrote `f e` to each listed field `e`. -/
theorem vectorResult_of_map (hx : exec i s = .next (s.vecEnd (s.hart.writeElems vd w (es.map (fun e => (e, f e)))) fl drew still))
    (hv : vd < s.hart.nregs) (hw : tagWidth (s.hart.tag vd) = w) (hfit : ∀ e ∈ es, e * w + w ≤ s.hart.regBits) :
    vectorResult i s vd es f fl drew still := by
  refine vectorResult_of_writes hx hv hw (fun x hx => ?_) (fun b e => elemAt_applyWrites w es f b e)
  obtain ⟨e, he, rfl⟩ := List.mem_map.1 hx
  exact hfit e he
end

/-! ## Running elements (R158, R181) -/

section
variable {s : State} {g : Hdr} {i : Instr} {o : ElemOp}

/-- Running an element operation that no poison and no trap from outside stops. -/
theorem runElems_eq (hf : s.hart.Fresh) (hb : ∀ e, o.bad e = false) :
    runElems i g o s = vdone (((s.upd (fun h => h.writeElems o.vd o.w ((activesOf s.hart g s.hart.n).map (fun e => (e, (o.f e).1))))).raise
      ((activesOf s.hart g s.hart.n).foldl (fun a e => a ||| (o.f e).2) 0)).advanceSeed (o.draws && !(activesOf s.hart g s.hart.n).isEmpty)) := by
  have hs : (if o.stop then s.hart.stopsAfter (activesOf s.hart g s.hart.n).length else none) = none := by
    rw [stopsAfter_of_fresh hf, ite_self]
  have hany : (activesOf s.hart g s.hart.n).any o.bad = false := by simp [hb]
  simp only [runElems, actives_of_fresh (reissue_of_fresh hf), hany, hs, ElemOp.perform, List.map_map, List.foldl_map]
  rfl

/-- An instruction whose body runs an element operation on its active elements. -/
theorem vectorResult_of_runElems {vs : List Nat} (hf : s.hart.Fresh) (hx : exec i s = finish (runElems i g o s)) (hb : ∀ e, o.bad e = false)
    (hv : o.vd < s.hart.nregs) (hw : tagWidth (s.hart.tag o.vd) = o.w) (hl : s.hart.lenOk vs = true)
    (hm : o.vd ∈ vs) (hblk : (s.hart.tag o.vd).isBlock = false) :
    vectorResult i s o.vd (activesOf s.hart g s.hart.n) (fun e => (o.f e).1)
      ((activesOf s.hart g s.hart.n).foldl (fun a e => a ||| (o.f e).2) 0) (o.draws && !(activesOf s.hart g s.hart.n).isEmpty) := by
  rw [runElems_eq hf hb, finish_vdone_raise (by simpa using reissue_of_fresh hf)] at hx
  refine vectorResult_of_map hx hv hw fun e he => ?_
  rw [← hw]
  exact fits_of_lenOk hl hm hblk (mem_activesOf.1 he).1
end
end Sys2Proof.Machine
end

section
/-! SUPPORT. Integer elements, and sums of them: the reduction tree and the running result of an addition on integer tags (R74, R91, R96, R198,
R199). -/

namespace Sys2Proof.Machine
open Sys2Proof Sys2Proof.Spec

/-! ## Integer elements (R74, R91) -/

section
variable {t : Tag} (hi : t.isInt = true)
include hi

theorem isBlock_of_isInt : t.isBlock = false := by
  revert hi
  cases t <;> decide

theorem ofTag_of_isInt : Fp.ofTag t = none := by
  revert hi
  cases t <;> decide

theorem ne_e8m0_of_isInt : t ≠ .e8m0 := by
  rintro rfl
  exact absurd hi (by decide)

theorem tagValue_int (b : Nat) : tagValue t b = .int (indexVal t b) := by
  unfold indexVal tagValue
  rw [ofTag_of_isInt hi]
  dsimp only
  rw [if_neg (ne_e8m0_of_isInt hi)]
  split <;> rfl

theorem deliver_int (m : RMode) (sat : Bool) (draw : BitVec 32) (i : Int) : deliver t m sat draw (.int i) = narrowInt t sat i := by
  unfold deliver
  rw [ofTag_of_isInt hi]
  exact if_neg (ne_e8m0_of_isInt hi)

/-- An element is its bits modulo 2 to the width. -/
theorem indexVal_emod (b : Nat) : indexVal t b % (2 ^ tagWidth t : Nat) = (b % 2 ^ tagWidth t : Nat) := by
  have h := tagValue_int hi b
  unfold tagValue at h
  split at h
  · exact nomatch h
  · split at h
    · split at h <;> exact nomatch h
    · dsimp only at h
      split at h
      · rw [← Val.int.inj h]
        simp
      · rw [← Val.int.inj h]
        simp

theorem sum_indexVal_emod (l : List Nat) (f : Nat → Nat) :
    (l.map (fun e => indexVal t (f e))).sum % (2 ^ tagWidth t : Nat) = ((l.map f).sum % 2 ^ tagWidth t : Nat) := by
  induction l with
  | nil => rfl
  | cons e l ih =>
    rw [List.map_cons, List.map_cons, List.sum_cons, List.sum_cons, Int.add_emod, ih, indexVal_emod hi]
    push_cast
    rw [← Int.add_emod]

theorem intBits_sum (l : List Nat) (f : Nat → Nat) :
    intBits (tagWidth t) (l.map (fun e => indexVal t (f e))).sum = (l.map f).sum % 2 ^ tagWidth t := by
  rw [intBits, sum_indexVal_emod hi, Int.toNat_natCast]

theorem narrowInt_zero (sat : Bool) : (narrowInt t sat 0).1 = 0 := by
  revert hi
  cases t <;> cases sat <;> decide
end

/-! ## The reduction tree (R96) -/

theorem splitPoint_bounds {n fuel : Nat} (h2 : 2 ≤ n) (hn : n ≤ 2 ^ (fuel + 1)) :
    1 ≤ splitPoint n ∧ splitPoint n < n ∧ splitPoint n ≤ 2 ^ fuel ∧ n - splitPoint n ≤ 2 ^ fuel := by
  have hlt : n - 1 < 2 ^ ((n - 1).log2 + 1) := Nat.lt_log2_self
  have hle : 2 ^ (n - 1).log2 ≤ n - 1 := Nat.log2_self_le (by omega)
  have hk : (n - 1).log2 < fuel + 1 := (Nat.log2_lt (by omega)).2 (by omega)
  have hpow : 2 ^ (n - 1).log2 ≤ 2 ^ fuel := Nat.pow_le_pow_right (by decide) (by omega)
  have hpos := Nat.two_pow_pos (n - 1).log2
  rw [Nat.pow_succ] at hlt
  unfold splitPoint
  omega

/-- What holds of every leaf as a range of one, and passes from two neighbouring ranges to both together, holds of the tree. -/
theorem reduceTree_induct {α : Type} {node : α → α → Nat → α} {leaf : Nat → α} (P : Nat → Nat → α → Prop) (hleaf : ∀ k, P k 1 (leaf k))
    (hnode : ∀ lo m k a b, P lo m a → P (lo + m) k b → P lo (m + k) (node a b (lo + m))) (fuel lo n : Nat) (h1 : 1 ≤ n) (hn : n ≤ 2 ^ fuel) :
    P lo n (reduceTree node leaf fuel lo n) := by
  induction fuel generalizing lo n with
  | zero =>
    obtain rfl : n = 1 := by omega
    exact hleaf lo
  | succ fuel ih =>
    unfold reduceTree
    split
    · obtain rfl : n = 1 := by omega
      exact hleaf lo
    · obtain ⟨hm1, hmn, hm, hk⟩ := splitPoint_bounds (by omega) hn
      have h := hnode lo (splitPoint n) (n - splitPoint n) _ _ (ih lo _ hm1 hm) (ih (lo + splitPoint n) _ (by omega) hk)
      rwa [Nat.add_sub_cancel' hmn.le] at h

theorem reduceAll_induct {α : Type} {node : α → α → Nat → α} {leaf : Nat → α} (P : Nat → Nat → α → Prop) (hleaf : ∀ k, P k 1 (leaf k))
    (hnode : ∀ lo m k a b, P lo m a → P (lo + m) k b → P lo (m + k) (node a b (lo + m))) {n : Nat} (h1 : 1 ≤ n) :
    P 0 n (reduceAll node leaf n) :=
  reduceTree_induct P hleaf hnode _ 0 n h1 Nat.lt_log2_self.le

/-! ## Sums of integer elements -/

section
variable {c : RedCtx} {src : Nat} {act : Nat → Bool}

/-- The sum of the active ones among some elements. -/
def RedCtx.total (c : RedCtx) (src : Nat) (act : Nat → Bool) (es : List Nat) : Int :=
  ((es.filter act).map (fun e => indexVal c.st (elemAt (tagWidth c.st) src e))).sum

theorem total_append (es fs : List Nat) : c.total src act (es ++ fs) = c.total src act es + c.total src act fs := by
  simp [RedCtx.total]

variable (hop : c.op = .add) (hi : c.st.isInt = true)
include hop hi

theorem leaf_add (b : Nat) : c.leaf b = .int (indexVal c.st b) := by
  rw [RedCtx.leaf, hop]
  exact tagValue_int hi b

theorem node_add {a b : Val × Flags} {i j : Int} (ha : a.1 = .int i) (hb : b.1 = .int j) (d : Nat) : (c.node a b d).1 = .int (i + j) := by
  rw [RedCtx.node, hop, ha, hb, hi]
  rfl

theorem out_add (hd : c.dt = c.st) (i : Int) (d : Nat) : c.out (.int i) d = narrowInt c.dt c.sat i := by
  unfold RedCtx.out
  rw [hop]
  exact deliver_int (hd ▸ hi) ..

/-- VRED.add on integers of one tag: the sum of the active elements of the row. -/
theorem redRow_add (hd : c.dt = c.st) {vl : Nat} (h1 : 1 ≤ vl) (r : Nat) :
    (redRow c src act vl r).1 = (narrowInt c.dt c.sat (c.total src act (List.range' (r * vl) vl))).1 := by
  have hleaf (k : Nat) : ((if act (r * vl + k) then c.leaf (elemAt (tagWidth c.st) src (r * vl + k)) else redIdent c.op c.st) : Val) =
      .int (c.total src act (List.range' (r * vl + k) 1)) := by
    by_cases ha : act (r * vl + k) = true
    · simp [ha, leaf_add hop hi, RedCtx.total]
    · simp [ha, hop, redIdent, hi, RedCtx.total]
  have h := reduceAll_induct (node := fun a b k => c.node a b (r * vl + k))
    (leaf := fun k => ((if act (r * vl + k) then c.leaf (elemAt (tagWidth c.st) src (r * vl + k)) else redIdent c.op c.st), (0 : Flags)))
    (fun lo n x => x.1 = .int (c.total src act (List.range' (r * vl + lo) n))) hleaf
    (fun lo m k a b ha hb => by
      rw [node_add hop hi ha hb, ← total_append, ← Nat.add_assoc, List.range'_append_1]) h1
  rw [redRow]
  dsimp only at h ⊢
  rw [h, out_add hop hi hd]
  rfl
end
end Sys2Proof.Machine
end

section
/-! SUPPORT. Compare, select, and what vector instructions do under the guard that is always false (R39, R161, R167, R169, R196 to R198, R306):
O28. -/

namespace Sys2Proof.Machine
open Sys2Proof Sys2Proof.Spec

/-! ## Predicates -/

section
variable {h : Hart} {i j : PReg} {v : BitVec 32768}

theorem getP_setP_self (hi : i ≠ 0) : (h.setP i v).getP i = v := by
  rw [Hart.getP, if_neg hi, Hart.setP, if_neg hi]
  exact Vector.getElem_set_self ..

theorem getP_setP_other (hj : j ≠ i) : (h.setP i v).getP j = h.getP j := by
  have hne : i.toNat ≠ j.toNat := fun e => hj (BitVec.eq_of_toNat_eq e.symm)
  rw [Hart.getP, Hart.getP, Hart.setP]
  split
  · rfl
  · split
    · rfl
    · exact Vector.getElem_set_ne i.isLt j.isLt hne

theorem getLsbD_putBit (n : Nat) (b : Bool) (e : Nat) (he : e < 32768) : (putBit v n b).getLsbD e = if e = n then b else v.getLsbD e := by
  by_cases hn : e = n
  · subst hn
    cases b <;> simp [putBit, setBit, clearBit, he]
  · cases b <;> simp [putBit, setBit, clearBit, he, hn]

/-- Bits of a predicate computed by one function: each listed bit is the new one, every other stays. -/
theorem getLsbD_putBits (es : List Nat) (f : Nat → Bool) (v : BitVec 32768) {e : Nat} (he : e < 32768) :
    (putBits v (es.map (fun k => (k, f k)))).getLsbD e = if e ∈ es then f e else v.getLsbD e := by
  induction es generalizing v with
  | nil => rfl
  | cons k es ih =>
    rw [putBits, List.map_cons, List.foldl_cons, ← putBits, ih, getLsbD_putBit k _ e he]
    by_cases hk : e = k
    · subst hk
      simp
    · simp [hk]
end

/-- Writing a predicate changes predicates only. -/
theorem setP_eq (h : Hart) (i : PReg) (v : BitVec 32768) : ∃ p pcor pbad, h.setP i v = { h with p, pcor, pbad } := by
  unfold Hart.setP
  split
  · exact ⟨h.p, h.pcor, h.pbad, rfl⟩
  · exact ⟨_, _, _, rfl⟩

/-- What an instruction leaves that wrote vector registers and a predicate. -/
theorem completes_setP {s : State} {h' : Hart} {i : Instr} {pd : PReg} {v : BitVec 32768}
    (hx : exec i s = .next ({ s with hart := { h'.setP pd v with vstart := 0 } } : State).completed) (ho : OnlyStorage s.hart h') :
    ∃ t, Completes i s t ∧ SameMemory s t ∧ t.hart.x = s.hart.x ∧ t.hart.fcsr = s.hart.fcsr ∧ t.rest = s.rest
      ∧ (t.hart.vst = h'.vst ∧ t.hart.regs = h'.regs ∧ t.hart.vtag = h'.vtag ∧ t.hart.vqin = s.hart.vqin ∧ t.hart.vqout = s.hart.vqout
        ∧ t.hart.vstart = 0)
      ∧ (∀ q, q ≠ pd → t.pred q = s.pred q) ∧ (pd ≠ 0 → t.pred pd = v) := by
  have hself := getP_setP_self (h := h') (i := pd) (v := v)
  have hother := fun q hq => getP_setP_other (h := h') (i := pd) (j := q) (v := v) hq
  obtain ⟨p, pcor, pbad, he⟩ := setP_eq h' pd v
  rw [he] at hx hself
  simp only [he] at hother
  obtain ⟨_, _, _, _, rfl⟩ := ho
  exact ⟨_, ⟨hx, rfl, rfl, rfl, rfl, rfl, rfl⟩, byte_of_frame rfl, rfl, rfl, rfl, ⟨rfl, rfl, rfl, rfl, rfl, rfl⟩, hother, hself⟩

/-! ## Compare and select -/

section
variable {s : State} {g : Hdr}

/-- VCMP (R196). -/
theorem exec_vcmp {c : VCond} {pd : PReg} {a b : VSrc} (hr : s.VReady g [a.v.toNat, b.v.toNat] (dst := []))
    (hl : s.hart.lenOk [a.v.toNat, b.v.toNat] = true) (ht : s.hart.tag b.v.toNat = s.hart.tag a.v.toNat) (ha : (s.hart.tag a.v.toNat).isArith = true)
    (hu : ¬(c = .un ∧ (s.hart.tag a.v.toNat).isInt = true)) :
    exec (.vcmp g c pd a b) s = .next ((s.setP pd (putBits (s.pred pd) ((activesOf s.hart g s.hart.n).map (fun e =>
      (e, vcondHolds c (tagValue (s.hart.tag a.v.toNat) (s.hart.elem a.v.toNat (a.rep.index e)))
        (tagValue (s.hart.tag a.v.toNat) (s.hart.elem b.v.toNat (b.rep.index e)))))))).upd (fun h => { h with vstart := 0 })).completed := by
  have hs := sound_of_vReady hr
  have hf := fresh_of_vReady hr
  refine (vecIssue_ready hr rfl rfl _ _ _ ?_).trans ?_
  · simp only [hl, ht, ha, beq_self_eq_true, Bool.and_self, Bool.true_and, Bool.not_eq_true', Bool.and_eq_false_iff, beq_eq_false_iff_ne]
    simpa [or_iff_not_imp_left] using hu
  · simp only [touchV_sound hs, vpoiStr_sound hs, badAt_zero, Bool.or_self, actives_of_fresh (reissue_of_fresh hf)]
    rw [if_neg (by simp), finish_vdone (by simpa using reissue_of_fresh hf)]
    simp only [Hart.elem, ht]
    rfl

/-- An element-wise instruction with register sources (R158, R181). -/
theorem elementwise_of_issueV3 {i : Instr} {p : V3Op} {P : State → V3Op} {ok : Tag → Tag → Bool} {ps : List PReg} (hx : exec i s = issueV3 i g P ok ps s)
    (hP : P s = p) (hq : p.o.q = false) (hblk : ∀ st dt, ok st dt = true → dt.isBlock = false) : elementwise i s g p ok := by
  subst hP
  rintro ⟨hr, hl, ht, hok⟩
  have hs := sound_of_vReady hr
  have hf := fresh_of_vReady hr
  refine ⟨fun _ => ?_, fun h => ?_⟩
  · have hrun : exec i s = finish (runElems i g ⟨(P s).vd.toNat, tagWidth (s.hart.tag (P s).vd.toNat), fun _ => false,
        fun e => (P s).f e (sources s.hart (P s) e).1 (sources s.hart (P s) e).2.1 (sources s.hart (P s) e).2.2,
        !(P s).o.a.replicates (P s).vd && !(P s).o.b.replicates (P s).vd, (P s).draws⟩ s) := by
      rw [hx, issueV3, vecIssue_ready hr rfl rfl _ _ _ (by simp [hl, ht, hok]), runV3]
      simp only [hq, touchV_sound hs, vpoiStr_sound hs, badAt_zero, Bool.and_false, Bool.or_false, Bool.not_false, Bool.and_true, ite_self,
        Bool.false_eq_true, if_false]
      rfl
    exact vectorResult_of_runElems hf hrun (fun _ => rfl) (free_of_vReady hr List.mem_cons_self).1 rfl
      hl List.mem_cons_self (hblk _ _ hok)
  · exact absurd (hq.symm.trans h) Bool.false_ne_true

/-- VCMP and VSEL. -/
theorem compareAndSelect : CompareAndSelect := by
  intro s g c pd pc vd a b
  refine ⟨fun hr hl ht ha hu => ?_, ?_⟩
  · have hx := exec_vcmp hr hl ht ha (pd := pd) hu
    obtain ⟨u, hc, hm, hx, hfl, -, ⟨hvst, -⟩, hother, hself⟩ := completes_setP hx (.refl _)
    refine ⟨u, hc, hvst, hx, hfl, hm, hother, fun hpd e he => ?_⟩
    rw [hself hpd, getLsbD_putBits _ _ _ he]
    simp only [mem_activesOf]
  · refine elementwise_of_issueV3 (ok := fun st dt => st == dt && !st.isBlock) (P := fun s =>
      { vd := vd, o := ⟨false, a, b⟩, c := none, draws := false
        f := fun e x y _ => (if (s.hart.getP pc).getLsbD e then x else y, 0) }) rfl rfl rfl fun st dt h => ?_
    simp only [Bool.and_eq_true, beq_iff_eq, Bool.not_eq_true'] at h
    exact h.1 ▸ h.2
end
section
variable {s : State} {g : Hdr}

/-- VRED, once it is issued: one element per row (R198). -/
theorem vectorResult_vred {op : ROp} {vd va : VReg} {sat : Bool} {rnd : BitVec 2} (hs : s.hart.Sound) (hf : s.hart.Fresh)
    (hissue : ∀ body, vecIssue (.vred g op vd va sat rnd) g { regs := [vd.toNat, va.toNat], always := true }
      (fun s => s.hart.lenOk [vd.toNat, va.toNat] && (redCtx op vd va sat rnd s.hart).ok) body s = finish (body s))
    (hv : vd.toNat < s.hart.nregs) (hl : s.hart.lenOk [vd.toNat, va.toNat] = true) (hb : (s.hart.tag vd.toNat).isBlock = false)
    (hvl : 0 < s.hart.vl) :
    let c := redCtx op vd va sat rnd s.hart
    let row (r : Nat) : Nat × Flags := redRow c (s.hart.vstr va.toNat) (s.hart.active g.grd) s.hart.vl r
    vectorResult (.vred g op vd va sat rnd) s vd.toNat (List.range s.hart.vh) (fun r => (row r).1)
      ((List.range s.hart.vh).foldl (fun a r => a ||| (row r).2) 0)
      (c.m == .sr && !(c.st.isInt && c.dt.isInt) && !(activesOf s.hart g s.hart.n).isEmpty) := by
  have hr := reissue_of_fresh hf
  refine vectorResult_of_map (w := tagWidth (s.hart.tag vd.toNat)) ((hissue _).trans ?_) hv rfl fun r hrow => ?_
  · simp only [touchV_sound hs, vpoiStr_sound hs, actives_of_fresh hr, takes_of_fresh hr, List.map_map, List.foldl_map]
    rw [if_neg (by simp), finish_vdone_raise (by simpa using hr)]
    rfl
  · have hlt : r < s.hart.n := (List.mem_range.1 hrow).trans_le (Nat.le_mul_of_pos_left _ hvl)
    exact fits_of_lenOk hl List.mem_cons_self hb hlt

/-- The pass-queue form with no active element passes the carry of `vqin` on (R161). -/
theorem runV3_queue_never {p : V3Op} {i : Instr} (hq : p.o.q = true) (hs : s.hart.Sound) (hf : s.hart.Fresh) (hes : activesOf s.hart g s.hart.n = []) :
    let carry : Word := BitVec.ofNat 64 (s.hart.vqin.toNat % 2 ^ tagWidth (s.hart.tag p.vd.toNat))
    runV3 i g p s = vdone (s.upd (fun h => { h with vqin := carry, vqout := carry })) := by
  have h0 (c : Word) : c ||| (0 : Flags).setWidth 64 = c := BitVec.or_zero
  unfold runV3
  simp only [hq, touchV_sound hs, ite_self, if_true, actives_of_fresh (reissue_of_fresh hf), hes, List.any_nil, Bool.false_eq_true, if_false,
    stopsAfter_of_fresh hf, V3Op.carryRun, List.isEmpty_nil, Bool.not_true, Bool.and_false, State.advanceSeed, State.raise, h0]
  rfl

/-- A non-blocking instruction without elements enters its queue, or waits for a place there (R295, R306, R307). -/
theorem entersNb_of_body {i : Instr} (kind : NbKind) (v w : Nat) {t : VmTail} (hf : s.hart.Fresh)
    (hx : exec i s = finish (enqueueNb (nbOf i kind v w t [] s) s)) : entersNb i s t.tc [] := by
  have hr := reissue_of_fresh hf
  refine ⟨fun h => ⟨nbOf i kind v w t [] s, rfl, rfl, rfl, rfl, rfl, ?_⟩, fun h => ?_⟩
  · rw [hx, enqueueNb, if_neg (by simpa [Hart.nbFull] using h)]
    exact finish_vdone (s := s.upd _) hr
  · rw [hx, enqueueNb, if_pos (by simpa [Hart.nbFull] using h)]
    rfl

theorem moved_never (hp : g.pg = 0) (hn : g.pn = true) (hr : s.hart.reissue = false) (hle : s.hart.n ≤ 32768) (t : Tag) : s.hart.moved g t = [] := by
  unfold Hart.moved
  split
  · rw [List.filter_eq_nil_iff, takes_of_fresh hr]
    intro e he
    obtain ⟨b, hb, rfl⟩ := List.mem_map.1 he
    rw [active_never hp hn (by have := List.mem_range.1 hb; omega)]
    exact Bool.false_ne_true
  · rw [actives_of_fresh hr, activesOf_never hp hn hle]
end

section
variable {s : State} {g : Hdr} {vd va : VReg} {sat : Bool} {rnd : BitVec 2} (hr : s.Ready g.wm) (hf : s.hart.Fresh) (hp : g.pg = 0)
  (hn : g.pn = true)
include hr hf hp hn

section
variable (hvd : vd.toNat < s.hart.nregs) (hva : va.toNat < s.hart.nregs) (hbd : s.hart.regBusy vd.toNat = false)
  (hba : s.hart.regBusy va.toNat = false) (hmx : s.hart.mxReads vd.toNat = false) (hl : s.hart.lenOk [vd.toNat, va.toNat] = true)
  (ht : s.hart.tag va.toNat = s.hart.tag vd.toNat) (ha : (s.hart.tag va.toNat).isArith = true)
include hvd hva hbd hba hmx

theorem vecIssue_two_never (i : Instr) (ok : State → Bool) (body : State → Eff) (hok : ok s = true) :
    vecIssue i g { regs := [vd.toNat, va.toNat], always := true } ok body s = finish (body s) :=
  vecIssue_never_always hr hf hp hn rfl rfl rfl rfl (by simp [hvd, hva]) hok (by simp [Hart.interlocked, hbd, hba, hmx])

include hl ht ha

/-- A reduction by addition still writes its rows: the sum of nothing. -/
theorem vred_add_never (hi : (s.hart.tag va.toNat).isInt = true) (hvl : 0 < s.hart.vl) :
    ∃ t, Completes (.vred g .add vd va sat rnd) s t ∧ ∀ r, r < s.hart.vh → t.hart.elem vd.toNat r = 0 := by
  have hid : (s.hart.tag vd.toNat).isInt = true := ht ▸ hi
  obtain ⟨t, hc, -, he, -⟩ := vectorResult_vred (op := .add) (va := va) (sat := sat) (rnd := rnd) hr.1 hf
    (fun _ => vecIssue_two_never hr hf hp hn hvd hva hbd hba hmx _ _ _ (by simp [hl, redCtx, RedCtx.ok, hi, ha, bitwise, ← ht])) hvd hl
    (isBlock_of_isInt hid) hvl
  refine ⟨t, hc, fun r hrow => ?_⟩
  have hnone : (List.range' (r * s.hart.vl) s.hart.vl).filter (s.hart.active g.grd) = [] := by
    rw [List.filter_eq_nil_iff]
    intro e he
    rw [List.mem_range'_1] at he
    have hlt : e < s.hart.n := he.2.trans_le (by rw [← Nat.succ_mul, Nat.mul_comm]; exact Nat.mul_le_mul_left _ hrow)
    rw [active_never hp hn (hlt.trans_le (n_le_of_lenOk hl List.mem_cons_self))]
    exact Bool.false_ne_true
  have hz : (redRow (redCtx .add vd va sat rnd s.hart) (s.hart.vstr va.toNat) (s.hart.active g.grd) s.hart.vl r).1 = 0 := by
    rw [redRow_add rfl hi ht.symm hvl, RedCtx.total, hnone]
    exact narrowInt_zero hid sat
  rw [he, if_pos (List.mem_range.2 hrow)]
  dsimp only
  rw [hz, Nat.zero_mod]

theorem vadd_queue_never :
    let carry : Word := BitVec.ofNat 64 (s.hart.vqin.toNat % 2 ^ tagWidth (s.hart.tag vd.toNat))
    exec (.vadd g vd ⟨true, ⟨0, .none⟩, ⟨va, .none⟩⟩ sat rnd) s =
      .next (s.upd (fun h => { h with vqin := carry, vqout := carry, vstart := 0 })).completed := by
  have hes := activesOf_never (h := s.hart) hp hn (n_le_of_lenOk hl List.mem_cons_self)
  refine (vecIssue_two_never hr hf hp hn hvd hva hbd hba hmx _ _ _ ?_).trans ?_
  · simp [arith, V3Op.regs, V3Op.tagsOk, V3Op.srcTag, hl, ← ht, ha, arithTags]
  · rw [runV3_queue_never rfl hr.1 hf hes]
    exact finish_vdone (s := s.upd _) (reissue_of_fresh hf)
end

/-- Non-blocking unit-stride loads and stores. -/
theorem unitStride_never {xa : XReg} {t : VmTail} (hnb : t.nb = true) (hvd : vd.toNat < s.hart.nregs) (hb : s.hart.regBusy vd.toNat = false)
    (hmx : s.hart.mxReads vd.toNat = false) (hu : s.hart.unitOk vd.toNat false = true) :
    entersNb (.vld g vd xa t) s t.tc [] ∧ entersNb (.vst g vd xa t) s t.tc [] := by
  have hl : s.hart.lenOk [vd.toNat] = true := by
    rw [Hart.unitOk, Bool.and_eq_true, Bool.and_eq_true] at hu
    exact hu.1.1
  have hmoved := moved_never (s := s) hp hn (reissue_of_fresh hf) (n_le_of_lenOk hl List.mem_cons_self) (s.hart.tag vd.toNat)
  have hissue (i : Instr) (dst : List Nat) (bad : State → Eff) (hd : dst.any s.hart.mxReads = false) (body : State → Eff) :
      vecIssue i g { regs := [vd.toNat], dst := dst, xs := [xa], tk := vmToken t, always := t.nb, bad := some bad }
        (fun s => s.hart.unitOk vd.toNat false) body s = finish (body s) :=
    vecIssue_never_always hr hf hp hn rfl hnb (by simp [vmToken, hnb]) rfl (by simpa using hvd) hu (by simp [Hart.interlocked, hb, hd])
  refine ⟨entersNb_of_body .load vd.toNat (memBits (s.hart.tag vd.toNat)) hf ((hissue _ _ _ (by simp [hmx]) _).trans ?_),
    entersNb_of_body .store vd.toNat (memBits (s.hart.tag vd.toNat)) hf ((hissue _ [] _ rfl _).trans ?_)⟩
  · simp only [loadVm, Hart.unitElems, hmoved, List.map_nil, hnb, if_true]
  · simp only [storeVm, touchV_sound hr.1, Hart.unitElems, Hart.withData, hmoved, List.map_nil, hnb, if_true]
end

/-- The instructions of the statement under the guard that is always false. -/
theorem alwaysFalseGuards : AlwaysFalseGuards := by
  intro s g vd va vb sat rnd hr hf hp hn
  have hv := finish_vdone (reissue_of_fresh hf)
  refine ⟨⟨?_, ?_, ?_⟩, fun hvd hva hbd hba hmx hl ht hi ha => ⟨fun hvl => ?_, ?_⟩, fun xa t hnb hvd hb hmx hu => ?_⟩
  · exact (vecIssue_never hr hf hp hn rfl rfl rfl rfl).trans hv
  · exact vecIssue_never hr hf hp hn rfl rfl rfl rfl
  · exact (vecIssue_never hr hf hp hn rfl rfl rfl rfl).trans hv
  · exact vred_add_never hr hf hp hn hvd hva hbd hba hmx hl ht ha hi hvl
  · exact vadd_queue_never hr hf hp hn hvd hva hbd hba hmx hl ht ha
  · exact unitStride_never hr hf hp hn hnb hvd hb hmx hu

/-- Settles O28: comparison and selection element by element, and what issues under the guard that is always false. -/
theorem compareSelectAndFalseGuards : Obligations.CompareSelectAndFalseGuards := ⟨compareAndSelect, alwaysFalseGuards⟩
end Sys2Proof.Machine
end

section
/-! SUPPORT. Reductions, running results and top elements of rows (R96, R198 to R200): O29. -/

namespace Sys2Proof.Machine
open Sys2Proof Sys2Proof.Spec

/-! ## Rows and written fields -/

/-- The elements of a tile, row by row. -/
theorem range_rows (vl vh : Nat) : (List.range vh).flatMap (fun r => (List.range vl).map (r * vl + ·)) = List.range (vl * vh) := by
  induction vh with
  | zero => rfl
  | succ vh ih => rw [List.range_succ, List.flatMap_append, ih, Nat.mul_succ, List.range_add, Nat.mul_comm vl]; simp

theorem row_eq_range' (r vl : Nat) : (List.range vl).map (r * vl + ·) = List.range' (r * vl) vl := List.range'_eq_map_range.symm

theorem row_lt {r c vl vh : Nat} (hr : r < vh) (hc : c < vl) : r * vl + c < vl * vh :=
  calc r * vl + c < (r + 1) * vl := by rw [Nat.succ_mul]; omega
    _ ≤ vl * vh := by rw [Nat.mul_comm]; exact Nat.mul_le_mul_left _ hr
theorem row_div {r c vl : Nat} (hc : c < vl) : (r * vl + c) / vl = r := by
  rw [Nat.mul_comm, Nat.mul_add_div (by omega), Nat.div_eq_of_lt hc, Nat.add_zero]
theorem row_mod {r c vl : Nat} (hc : c < vl) : (r * vl + c) % vl = c := by
  rw [Nat.mul_comm, Nat.mul_add_mod, Nat.mod_eq_of_lt hc]

/-- The fields at the first `k` columns of each row. -/
theorem flatMap_rows {α : Type} {vl vh k : Nat} (hk : k ≤ vl) (φ : Nat → Nat → α) :
    (List.range vh).flatMap (fun r => (List.range k).map (fun c => (r * vl + c, φ r c))) =
      ((List.range vh).flatMap (fun r => (List.range k).map (r * vl + ·))).map (fun e => (e, φ (e / vl) (e % vl))) := by
  rw [List.map_flatMap]
  refine congrArg (List.flatMap · _) (funext fun r => ?_)
  rw [List.map_map]
  refine List.map_congr_left fun c hc => ?_
  have hc : c < vl := (List.mem_range.1 hc).trans_le hk
  simp [row_div hc, row_mod hc]

theorem mem_rows {vl vh k e : Nat} (hk : k ≤ vl) :
    e ∈ (List.range vh).flatMap (fun r => (List.range k).map (r * vl + ·)) ↔ e < vl * vh ∧ e % vl < k := by
  simp only [List.mem_flatMap, List.mem_map, List.mem_range]
  constructor
  · rintro ⟨r, hr, c, hc, rfl⟩
    exact ⟨row_lt hr (hc.trans_le hk), (row_mod (hc.trans_le hk)).trans_lt hc⟩
  · rintro ⟨he, hm⟩
    exact ⟨e / vl, Nat.div_lt_of_lt_mul he, e % vl, hm, by rw [Nat.mul_comm]; exact Nat.div_add_mod e vl⟩

theorem lookup_of_mem {α : Type} {ws : List (Nat × α)} (hn : (ws.map Prod.fst).Nodup) {e : Nat} {v : α} (h : (e, v) ∈ ws) : ws.lookup e = some v := by
  induction ws with
  | nil => exact nomatch h
  | cons x ws ih =>
    rw [List.map_cons, List.nodup_cons] at hn
    obtain rfl | h := List.mem_cons.1 h
    · simp
    · have hne : e ≠ x.1 := fun he => hn.1 (he ▸ List.mem_map_of_mem h)
      rw [List.lookup_cons, beq_eq_false_iff_ne.2 hne]
      exact ih hn.2 h

/-- Writes of distinct fields, each as the list says. -/
theorem writes_eq_map {ws : Writes} (hn : (ws.map Prod.fst).Nodup) : ws = (ws.map Prod.fst).map (fun e => (e, (ws.lookup e).getD 0)) := by
  rw [List.map_map]
  refine (List.map_id ws).symm.trans (List.map_congr_left fun x hx => ?_)
  simp [lookup_of_mem hn hx]

/-! ## Running results (R199) -/

section
variable {c : RedCtx} {src : Nat} {act : Nat → Bool}

/-- The fields that a scan writes are the active ones, in order. -/
theorem scanRow_fields (es : List Nat) (a : Val) : (scanRow c src act es a).1.map Prod.fst = es.filter act := by
  induction es generalizing a with
  | nil => rfl
  | cons e es ih =>
    rw [scanRow]
    by_cases h : act e = true
    · simp [h, ih]
    · simp [h, ih]

theorem scans_fields (vl vh : Nat) (a : Val) :
    ((((List.range vh).map (fun r => scanRow c src act ((List.range vl).map (r * vl + ·)) a)).flatMap (·.1)).map Prod.fst) =
      (List.range (vl * vh)).filter act := by
  rw [← range_rows, List.filter_flatMap, List.flatMap_map, List.map_flatMap]
  exact congrArg (List.flatMap · _) (funext fun r => scanRow_fields ..)

/-- VSCAN.add on integers of one tag delivers at an active element the sum up to it. -/
theorem mem_scanRow_add (hop : c.op = .add) (hi : c.st.isInt = true) (hd : c.dt = c.st) {e : Nat} (he : act e = true) (fs : List Nat)
    (es : List Nat) (a : Int) :
    (e, (narrowInt c.dt c.sat (a + c.total src act (es ++ [e]))).1) ∈ (scanRow c src act (es ++ e :: fs) (.int a)).1 := by
  induction es generalizing a with
  | nil =>
    rw [List.nil_append, List.nil_append, scanRow, if_pos he, leaf_add hop hi]
    have hn := node_add (a := (.int a, 0)) hop hi rfl rfl (j := indexVal c.st (elemAt (tagWidth c.st) src e)) (b := (.int _, 0)) e
    dsimp only
    rw [hn, out_add hop hi hd]
    simp [RedCtx.total, he]
  | cons k es ih =>
    rw [List.cons_append, List.cons_append, scanRow]
    have ht (fs : List Nat) : c.total src act (k :: fs) = c.total src act [k] + c.total src act fs := total_append [k] fs
    by_cases hk : act k = true
    · have h1 : c.total src act [k] = indexVal c.st (elemAt (tagWidth c.st) src k) := by simp [RedCtx.total, hk]
      have hn := node_add (a := (.int a, 0)) hop hi rfl rfl (j := indexVal c.st (elemAt (tagWidth c.st) src k)) (b := (.int _, 0)) k
      rw [if_pos hk, leaf_add hop hi, ht, h1, ← Int.add_assoc]
      dsimp only
      rw [hn]
      exact List.mem_cons_of_mem _ (ih _)
    · have h0 : c.total src act [k] = 0 := by simp [RedCtx.total, hk]
      rw [if_neg hk, ht, h0, Int.zero_add]
      exact ih a
end

section
variable {s : State} {g : Hdr} {op : ROp} {vd va : VReg} {sat : Bool} {rnd : BitVec 2}

theorem isBlock_of_isArith {t : Tag} (h : t.isArith = true) : t.isBlock = false := by
  revert h
  cases t <;> decide

/-- The tags that a reduction accepts are no block tags (R198). -/
theorem isBlock_of_redOk {h : Hart} (hok : (redCtx op vd va sat rnd h).ok = true) : (h.tag vd.toNat).isBlock = false := by
  simp only [RedCtx.ok, Bool.and_eq_true] at hok
  exact isBlock_of_isArith hok.1.1.2

theorem vectorResult_vscan (hr : s.VReady g [vd.toNat, va.toNat]) (hl : s.hart.lenOk [vd.toNat, va.toNat] = true)
    (hok : (redCtx op vd va sat rnd s.hart).ok = true) :
    let c := redCtx op vd va sat rnd s.hart
    let scans := (List.range s.hart.vh).map (fun r => scanRow c (s.hart.vstr va.toNat) (s.hart.active g.grd)
      ((List.range s.hart.vl).map (r * s.hart.vl + ·)) (redIdent c.op c.st))
    vectorResult (.vscan g op vd va sat rnd) s vd.toNat (activesOf s.hart g s.hart.n) (fun e => ((scans.flatMap (·.1)).lookup e).getD 0)
      (scans.foldl (fun a r => a ||| r.2) 0) (c.m == .sr && !(c.st.isInt && c.dt.isInt) && !(activesOf s.hart g s.hart.n).isEmpty) := by
  intro c scans
  have hs := sound_of_vReady hr
  have hf := reissue_of_fresh (fresh_of_vReady hr)
  have hfields : (scans.flatMap (·.1)).map Prod.fst = activesOf s.hart g s.hart.n := scans_fields ..
  have hmap := writes_eq_map (ws := scans.flatMap (·.1)) (by rw [hfields]; exact List.nodup_range.filter _)
  rw [hfields] at hmap
  refine vectorResult_of_map (w := tagWidth (s.hart.tag vd.toNat)) ?_ (free_of_vReady hr List.mem_cons_self).1 rfl fun e he =>
    fits_of_lenOk hl List.mem_cons_self (isBlock_of_redOk hok) (mem_activesOf.1 he).1
  rw [← hmap]
  refine (vecIssue_ready hr rfl rfl _ _ _ (by rw [hl, hok]; rfl)).trans ?_
  simp only [touchV_sound hs, vpoiStr_sound hs, actives_of_fresh hf, takes_of_fresh hf]
  rw [if_neg (by simp), finish_vdone_raise (by simpa using hf)]
  rfl

variable (hi : (s.hart.tag va.toNat).isInt = true) (hd : s.hart.tag vd.toNat = s.hart.tag va.toNat)
include hi hd

theorem redOk_add (ha : (s.hart.tag va.toNat).isArith = true) : (redCtx .add vd va sat rnd s.hart).ok = true := by
  simp [redCtx, RedCtx.ok, hd, hi, ha, bitwise]

/-- A sum that wraps is the sum of the bits modulo 2 to the width (R91). -/
theorem narrowInt_total (act : Nat → Bool) (es : List Nat) :
    (narrowInt (s.hart.tag vd.toNat) false ((redCtx .add vd va false rnd s.hart).total (s.hart.vstr va.toNat) act es)).1
        % 2 ^ tagWidth (s.hart.tag vd.toNat) =
      ((es.filter act).map (fun e => s.hart.elem va.toNat e)).sum % 2 ^ tagWidth (s.hart.tag vd.toNat) := by
  rw [hd]
  have h : intBits (tagWidth (s.hart.tag va.toNat)) ((redCtx .add vd va false rnd s.hart).total (s.hart.vstr va.toNat) act es) =
      ((es.filter act).map (fun e => s.hart.elem va.toNat e)).sum % 2 ^ tagWidth (s.hart.tag va.toNat) := intBits_sum hi ..
  exact (congrArg (· % _) h).trans (Nat.mod_mod ..)

theorem vred_add_sum (hr : s.VReady g [vd.toNat, va.toNat]) (hl : s.hart.lenOk [vd.toNat, va.toNat] = true) (hvl : 0 < s.hart.vl)
    (ha : (s.hart.tag va.toNat).isArith = true) : ∃ t, exec (.vred g .add vd va false rnd) s = .next t ∧ ∀ r, r < s.hart.vh →
      t.hart.elem vd.toNat r = (((((List.range s.hart.vl).map (r * s.hart.vl + ·)).filter (s.hart.active g.grd)).map
        (fun e => s.hart.elem va.toNat e)).sum) % 2 ^ tagWidth (s.hart.tag vd.toNat) := by
  have hok := redOk_add (sat := false) (rnd := rnd) hi hd ha
  obtain ⟨t, hc, -, he, -⟩ := vectorResult_vred (sound_of_vReady hr) (fresh_of_vReady hr)
    (fun _ => vecIssue_ready hr rfl rfl _ _ _ (by rw [hl, hok]; rfl)) (free_of_vReady hr List.mem_cons_self).1 hl (isBlock_of_redOk hok) hvl
  refine ⟨t, hc.1, fun r hrow => ?_⟩
  rw [he, if_pos (List.mem_range.2 hrow)]
  dsimp only
  rw [redRow_add rfl hi hd hvl, row_eq_range']
  exact narrowInt_total hi hd _ _

theorem vscan_add_sum (hr : s.VReady g [vd.toNat, va.toNat]) (hl : s.hart.lenOk [vd.toNat, va.toNat] = true)
    (ha : (s.hart.tag va.toNat).isArith = true) :
    ∃ t, exec (.vscan g .add vd va false rnd) s = .next t ∧ ∀ e ∈ activesOf s.hart g s.hart.n,
      t.hart.elem vd.toNat e = (((((List.range (e % s.hart.vl + 1)).map (e / s.hart.vl * s.hart.vl + ·)).filter (s.hart.active g.grd)).map
        (fun e => s.hart.elem va.toNat e)).sum) % 2 ^ tagWidth (s.hart.tag vd.toNat) := by
  obtain ⟨t, hc, -, he, -⟩ := vectorResult_vscan hr hl (redOk_add (sat := false) (rnd := rnd) hi hd ha)
  refine ⟨t, hc.1, fun e hmem => ?_⟩
  obtain ⟨hlt, hact⟩ := mem_activesOf.1 hmem
  have hvl : 0 < s.hart.vl := Nat.pos_of_mul_pos_right (Nat.zero_lt_of_lt hlt)
  set r := e / s.hart.vl
  set k := e % s.hart.vl
  have hk : k < s.hart.vl := Nat.mod_lt _ hvl
  have hek : e = r * s.hart.vl + k := by rw [Nat.mul_comm]; exact (Nat.div_add_mod ..).symm
  -- the row of `e`: the columns before it, itself, the columns behind it
  have hrow : (List.range s.hart.vl).map (r * s.hart.vl + ·) =
      List.range' (r * s.hart.vl) k ++ e :: List.range' (e + 1) (s.hart.vl - k - 1) := by
    rw [row_eq_range', hek, ← List.range'_succ, List.range'_append_1, show k + (s.hart.vl - k - 1 + 1) = s.hart.vl by omega]
  have hpre : (List.range (k + 1)).map (r * s.hart.vl + ·) = List.range' (r * s.hart.vl) k ++ [e] := by
    rw [← List.range'_eq_map_range, List.range'_1_concat, ← hek]
  have hin := mem_scanRow_add (c := redCtx .add vd va false rnd s.hart) (src := s.hart.vstr va.toNat) rfl hi hd hact
    (List.range' (e + 1) (s.hart.vl - k - 1)) (List.range' (r * s.hart.vl) k) 0
  rw [← hrow, ← hpre, Int.zero_add] at hin
  have hz : redIdent .add (s.hart.tag va.toNat) = .int 0 := by rw [redIdent, hi]; rfl
  have hlook := lookup_of_mem (ws := ((List.range s.hart.vh).map (fun r => scanRow (redCtx .add vd va false rnd s.hart) (s.hart.vstr va.toNat)
    (s.hart.active g.grd) ((List.range s.hart.vl).map (r * s.hart.vl + ·)) (redIdent .add (s.hart.tag va.toNat)))).flatMap (·.1))
    (by rw [scans_fields]; exact List.nodup_range.filter _)
    (List.mem_flatMap.2 ⟨_, List.mem_map_of_mem (List.mem_range.2 (Nat.div_lt_of_lt_mul hlt)), hz ▸ hin⟩)
  rw [he, if_pos hmem]
  dsimp only
  refine (congrArg (fun o => Option.getD o 0 % 2 ^ tagWidth (s.hart.tag vd.toNat)) hlook).trans ?_
  exact narrowInt_total hi hd _ _
end

/-- VRED and VSCAN. -/
theorem reductionsAndScans : ReductionsAndScans := by
  intro s g op vd va sat rnd hr hl hvl h c src row scans drew es hok
  refine ⟨?_, vectorResult_vscan hr hl hok, fun hi hd hsat => ?_⟩
  · exact vectorResult_vred (sound_of_vReady hr) (fresh_of_vReady hr) (fun _ => vecIssue_ready hr rfl rfl _ _ _ (by rw [hl, hok]; rfl))
      (free_of_vReady hr List.mem_cons_self).1 hl (isBlock_of_redOk hok) hvl
  · subst hsat
    have ha : (h.tag va.toNat).isArith = true := by
      simp only [RedCtx.ok, Bool.and_eq_true] at hok
      exact hok.1.1.1
    exact ⟨vred_add_sum hi hd hr hl hvl ha, vscan_add_sum hi hd hr hl ha⟩

/-! ## Top elements (R200) -/

theorem mem_sortBy {α : Type} {before : α → α → Bool} {l : List α} {x : α} : x ∈ sortBy before l ↔ x ∈ l := by
  have hins (y : α) (l : List α) : x ∈ sortBy.ins before y l ↔ x = y ∨ x ∈ l := by
    induction l with
    | nil => rw [sortBy.ins, List.mem_cons]
    | cons z l ih =>
      rw [sortBy.ins]
      split
      · rw [List.mem_cons]
      · rw [List.mem_cons, List.mem_cons, ih, or_left_comm]
  induction l with
  | nil => rfl
  | cons y l ih => exact (hins y _).trans ((or_congr_right ih).trans List.mem_cons.symm)

theorem filterMap_of_not {α β : Type} (p q : α → Bool) (f : α → β) (l : List α) :
    (l.filter p).filterMap (fun x => if q x then none else some (f x)) = (l.filter (fun x => p x && !q x)).map f := by
  induction l with
  | nil => rfl
  | cons x l ih => cases hp : p x <;> cases hq : q x <;> simp [hp, hq, ih]

theorem zipIdx_map_range {α : Type} (n : Nat) (f : Nat → α) : ((List.range n).map f).zipIdx = (List.range n).map (fun r => (f r, r)) :=
  List.ext_getElem (by simp) (by simp)

theorem vstr_congr {h h' : Hart} (hv : h'.vst = h.vst) (hr : h'.regs = h.regs) (u : Nat) : h'.vstr u = h.vstr u := by
  rw [Hart.vstr, Hart.vstr, hv, Hart.regBits, Hart.regBits, Hart.nregs, Hart.nregs, hr]
theorem elem_congr {h h' : Hart} (hv : h'.vst = h.vst) (hr : h'.regs = h.regs) (ht : h'.vtag = h.vtag) (u e : Nat) : h'.elem u e = h.elem u e := by
  rw [Hart.elem, Hart.elem, vstr_congr hv hr, Hart.tag, Hart.tag, ht]

section
variable {s : State} {g : Hdr} {vd va : VReg} {xb : XReg} {pm : PReg} {mx : Bool}

/-- The value of an element of the source. -/
def Hart.exactAt (h : Hart) (v e : Nat) : Exact := (tagValue (h.tag v) (h.elem v e)).exact
/-- The columns of a row that VMAXI and VMINI choose, in order. -/
def Hart.topsAt (h : Hart) (g : Hdr) (mx : Bool) (v k r : Nat) : List Nat :=
  (topCols mx (((List.range h.vl).filter (fun c => h.active g.grd (r * h.vl + c) && !(h.exactAt v (r * h.vl + c)).isNan)).map
    (fun c => (c, h.exactAt v (r * h.vl + c))))).take k

theorem lt_of_mem_topsAt {h : Hart} {v k r c : Nat} (hc : c ∈ h.topsAt g mx v k r) : c < h.vl := by
  obtain ⟨x, hx, rfl⟩ := List.mem_map.1 (List.mem_of_mem_take hc)
  obtain ⟨d, hd, rfl⟩ := List.mem_map.1 (mem_sortBy.1 hx)
  exact List.mem_range.1 (List.mem_filter.1 hd).1

theorem intMax_lt (t : Tag) : t.intMax < (2 ^ tagWidth t : Nat) := by
  cases t <;> decide

/-- A column number, and all ones, fit into the destination. -/
theorem getD_topsAt_lt {h : Hart} {t : Tag} (hmax : (h.vl : Int) - 1 ≤ t.intMax) (v k r j : Nat) :
    (h.topsAt g mx v k r).getD j (2 ^ tagWidth t - 1) < 2 ^ tagWidth t := by
  have hpos := Nat.two_pow_pos (tagWidth t)
  rw [List.getD_eq_getElem?_getD]
  cases hj : (h.topsAt g mx v k r)[j]? with
  | none => exact Nat.sub_one_lt_of_lt hpos
  | some c =>
    have hc := lt_of_mem_topsAt (List.mem_of_getElem? hj)
    have hi := intMax_lt t
    exact_mod_cast (show (c : Int) < (2 ^ tagWidth t : Nat) by omega)

/-- The first `k` columns of every row. -/
def firstCols (vl vh k : Nat) : List Nat := (List.range vh).flatMap (fun r => (List.range k).map (r * vl + ·))

theorem exec_topk (hr : s.VReady g [vd.toNat, va.toNat]) (hl : s.hart.lenOk [vd.toNat, va.toNat] = true) (ha : (s.hart.tag va.toNat).isArith = true)
    (hix : Tag.isIndex (s.hart.tag vd.toNat) = true) (hmax : (s.hart.vl : Int) - 1 ≤ (s.hart.tag vd.toNat).intMax) :
    let h := s.hart
    let k := min (s.x xb).toNat h.vl
    let wd := tagWidth (h.tag vd.toNat)
    exec (if mx then .vmaxi g vd va xb pm else .vmini g vd va xb pm) s = .next ({ s with hart :=
      { (h.writeElems vd.toNat wd ((firstCols h.vl h.vh k).map (fun e => (e, (h.topsAt g mx va.toNat k (e / h.vl)).getD (e % h.vl) (2 ^ wd - 1))))).setP pm
          (putBits (s.pred pm) ((List.range h.n).map (fun e => (e, (h.topsAt g mx va.toNat k (e / h.vl)).contains (e % h.vl)))))
        with vstart := 0 } } : State).completed := by
  intro h k wd
  have hs := sound_of_vReady hr
  have hf := reissue_of_fresh (fresh_of_vReady hr)
  have hx : exec (if mx then .vmaxi g vd va xb pm else .vmini g vd va xb pm) s =
      topkIssue (if mx then .vmaxi g vd va xb pm else .vmini g vd va xb pm) mx g vd va xb pm s := by cases mx <;> rfl
  refine hx.trans ((vecIssue_ready hr rfl rfl _ _ _ (by simp [hl, ha, hix, hmax])).trans ?_)
  simp only [touchV_sound hs, vpoiStr_sound hs, actives_of_fresh hf, takes_of_fresh hf, filterMap_of_not, zipIdx_map_range, List.flatMap_map]
  rw [if_neg (by simp), finish_vdone (by simpa using hf), flatMap_rows (min_le_right ..), flatMap_rows le_rfl, range_rows]
  rfl

end

/-- VMAXI and VMINI. -/
theorem topElements : TopElements := by
  intro s g vd va xb pm mx hr hl ha hix hmax h wd k value tops
  have hv := (free_of_vReady hr List.mem_cons_self).1
  have hint : (h.tag vd.toNat).isInt = true := by
    rw [Tag.isIndex, Bool.and_eq_true] at hix
    exact hix.1
  have hfit : ∀ x ∈ (firstCols h.vl h.vh k).map (fun e => (e, (h.topsAt g mx va.toNat k (e / h.vl)).getD (e % h.vl) (2 ^ wd - 1))),
      x.1 * wd + wd ≤ h.regBits := by
    intro x hx
    obtain ⟨e, he, rfl⟩ := List.mem_map.1 hx
    exact fits_of_lenOk hl List.mem_cons_self (isBlock_of_isInt hint) ((mem_rows (min_le_right ..)).1 he).1
  obtain ⟨t, hc, hm, hx, hfl, hrest, ⟨hvst, hregs, htag, hqi, hqo, hvs⟩, hother, hself⟩ :=
    completes_setP (exec_topk (xb := xb) (pm := pm) (mx := mx) hr hl ha hix hmax) (onlyStorage_writeElems ..)
  have hstr (u : Nat) (hu : u ≠ vd.toNat) : t.hart.vstr u = h.vstr u := by
    rw [vstr_congr hvst hregs, vstr_writeElems hv _ _ hfit, if_neg hu]
  refine ⟨t, hc, hm, hx, hfl, hrest, ⟨fun u _ hu => hstr u (fun he => hu (List.mem_singleton.2 he)), htag.trans (Hart.writeElems_vtag ..), hqi, hqo, hvs⟩,
    fun e he => ?_, fun hpm e he => ?_, hother⟩
  · rw [elem_congr hvst hregs htag, Hart.elem, writeElems_tag, vstr_writeElems hv _ _ hfit, if_pos rfl, elemAt_applyWrites]
    have hk : e ∈ firstCols h.vl h.vh k ↔ e % h.vl < k := (mem_rows (min_le_right ..)).trans (and_iff_right he)
    by_cases hlt : e % h.vl < k
    · rw [if_pos (hk.2 hlt), if_pos hlt]
      exact Nat.mod_eq_of_lt (getD_topsAt_lt hmax ..)
    · rw [if_neg (mt hk.1 hlt), if_neg hlt, Hart.elem]
  · rw [hself hpm, getLsbD_putBits _ _ _ he]
    exact if_congr List.mem_range rfl rfl

/-- Settles O29: rows by the reduction tree and by running results, and the columns that VMAXI and VMINI choose. -/
theorem reductionsScansAndTopElements : Obligations.ReductionsScansAndTopElements := ⟨reductionsAndScans, topElements⟩
end Sys2Proof.Machine
end

section
/-! SUPPORT. Conversions and quantisation (R82, R162, R207 to R210): O31. -/

namespace Sys2Proof.Machine
open Sys2Proof Sys2Proof.Spec

/-! ## Places in a register -/

section
variable {h : Hart} {t : Tag} {v : Nat}

theorem bytes_le_regBits (h : Hart) : 8 * (Config.vstBytes / h.nregs) ≤ h.regBits := Nat.mul_div_le_mul_div_assoc 8 Config.vstBytes h.nregs

/-- A field below MVL lies inside the register (R154). -/
theorem fits_of_lt_mvl (hb : t.isBlock = false) {e : Nat} (he : e < mvl t h.nregs) : e * tagWidth t + tagWidth t ≤ h.regBits := by
  have hle : mvl t h.nregs * tagWidth t ≤ 8 * (Config.vstBytes / h.nregs) := by
    unfold mvl
    dsimp only
    rw [hb, if_neg Bool.false_ne_true]
    split
    · exact (Nat.zero_mul _).trans_le (Nat.zero_le _)
    · exact Nat.div_mul_le_self _ _
  calc e * tagWidth t + tagWidth t = (e + 1) * tagWidth t := (Nat.succ_mul ..).symm
    _ ≤ mvl t h.nregs * tagWidth t := Nat.mul_le_mul_right _ he
    _ ≤ h.regBits := hle.trans (bytes_le_regBits h)

theorem tagBlockBits_eq (t : Tag) : tagBlockBits t = 8 * (tagBlockBits t / 8) := by
  cases t <;> rfl

/-- A whole block of a tile that passes the length check lies inside the register (R154, R155). -/
theorem fits_block_of_lenOk {vs : List Nat} (hl : h.lenOk vs = true) (hv : v ∈ vs) (hb : (h.tag v).isBlock = true) {b : Nat} (hlt : b < h.n / 32) :
    b * tagBlockBits (h.tag v) + tagBlockBits (h.tag v) ≤ h.regBits := by
  have hx := List.all_eq_true.1 hl v hv
  rw [Bool.and_eq_true, decide_eq_true_eq] at hx
  have hm := hx.2
  unfold mvl at hm
  dsimp only at hm
  rw [if_pos hb] at hm
  have hle : (b + 1) * (tagBlockBits (h.tag v) / 8) ≤ Config.vstBytes / h.nregs :=
    (Nat.mul_le_mul_right _ (by omega)).trans (Nat.div_mul_le_self _ _)
  have hbits := bytes_le_regBits h
  rw [← Nat.succ_mul, tagBlockBits_eq, Nat.mul_left_comm]
  exact (Nat.mul_le_mul_left 8 hle).trans hbits
end

theorem othersKept_vecEnd {s : State} {h' : Hart} {fl : Flags} {drew : Bool} {vds : List Nat} (ho : OnlyStorage s.hart h')
    (hv : ∀ u, u ∉ vds → h'.vstr u = s.hart.vstr u) : othersKept s (s.vecEnd h' fl drew false) vds := by
  obtain ⟨_, _, _, _, rfl⟩ := ho
  exact ⟨fun u _ hu => hv u hu, rfl, rfl, rfl, rfl⟩

/-! ## VCVT (R208) -/

section
variable {s : State} {g : Hdr} {vd : VReg} {a : VSrc} {sat : Bool} {rnd : BitVec 2}

@[simp] theorem srcBad_zero (t : Tag) (e : Nat) : srcBad t 0 e = false := rfl

theorem cvt_ok (hl : s.hart.lenOk [vd.toNat, a.v.toNat] = true)
    (hrep : (s.hart.tag a.v.toNat).isBlock = true ∨ (s.hart.tag vd.toNat).isBlock = true → a.rep = .none)
    (hn : (s.hart.tag vd.toNat).isBlock = true → s.hart.n % 32 = 0) :
    (s.hart.lenOk [vd.toNat, a.v.toNat] && (!((s.hart.tag a.v.toNat).isBlock || (s.hart.tag vd.toNat).isBlock) || a.rep == .none)
      && (!(s.hart.tag vd.toNat).isBlock || s.hart.n % 32 == 0)) = true := by
  have h1 : (!((s.hart.tag a.v.toNat).isBlock || (s.hart.tag vd.toNat).isBlock) || a.rep == .none) = true := by
    rw [Bool.or_eq_true, Bool.not_eq_true', beq_iff_eq, ← Bool.not_eq_true, Bool.or_eq_true]
    exact (em _).symm.imp_right hrep
  have h2 : (!(s.hart.tag vd.toNat).isBlock || s.hart.n % 32 == 0) = true := by
    rw [Bool.or_eq_true, Bool.not_eq_true', beq_iff_eq, ← Bool.not_eq_true]
    exact (em _).symm.imp_right hn
  rw [hl, h1, h2]
  rfl

variable (hr : s.VReady g [vd.toNat, a.v.toNat]) (hl : s.hart.lenOk [vd.toNat, a.v.toNat] = true)
  (hrep : (s.hart.tag a.v.toNat).isBlock = true ∨ (s.hart.tag vd.toNat).isBlock = true → a.rep = .none)
include hr hl hrep

/-- VCVT to an element tag runs its elements. -/
theorem vectorResult_vcvt (hb : (s.hart.tag vd.toNat).isBlock = false) :
    let h := s.hart
    let one (e : Nat) : Nat × Flags := cvtElem (h.tag a.v.toNat) (h.tag vd.toNat) (h.rmode rnd) sat (drawWord h.seed e) (h.vstr a.v.toNat) (a.rep.index e)
    vectorResult (.vcvt g vd a sat rnd) s vd.toNat (activesOf h g h.n) (fun e => (one e).1) ((activesOf h g h.n).foldl (fun f e => f ||| (one e).2) 0)
      (cvtDraws (h.tag a.v.toNat) (h.tag vd.toNat) (h.rmode rnd) && !(activesOf h g h.n).isEmpty) := by
  intro h one
  have hs := sound_of_vReady hr
  have hf := fresh_of_vReady hr
  have hx : exec (.vcvt g vd a sat rnd) s = finish (runElems (.vcvt g vd a sat rnd) g
      ⟨vd.toNat, tagWidth (h.tag vd.toNat), fun _ => false, one, !(h.tag a.v.toNat).isBlock && !a.replicates vd,
        cvtDraws (h.tag a.v.toNat) (h.tag vd.toNat) (h.rmode rnd)⟩ s) := by
    refine (vecIssue_ready hr rfl rfl _ _ _ (cvt_ok hl hrep (by simp [hb]))).trans ?_
    simp only [touchBits_sound hs, vpoiStr_sound hs, srcBad_zero, hb]
    rfl
  exact vectorResult_of_runElems hf hx (fun _ => rfl) (free_of_vReady hr List.mem_cons_self).1 rfl hl List.mem_cons_self hb

/-- VCVT to a block tag: each block whose first element is active (R82, R208). -/
theorem vcvt_blocks (hb : (s.hart.tag vd.toNat).isBlock = true) (hn : s.hart.n % 32 = 0) :
    let h := s.hart
    let dt := h.tag vd.toNat
    ∃ t, Completes (.vcvt g vd a sat rnd) s t ∧ OnlyVectors s t
      ∧ (∀ b, elemAt (tagBlockBits dt) (t.hart.vstr vd.toNat) b = if b < h.n / 32 ∧ h.active g.grd (32 * b) = true
          then (cvtBlock (h.tag a.v.toNat) dt (h.rmode rnd) h.seed (h.vstr a.v.toNat) b).1 % 2 ^ tagBlockBits dt
          else elemAt (tagBlockBits dt) (h.vstr vd.toNat) b)
      ∧ othersKept s t [vd.toNat] := by
  intro h dt
  have hs := sound_of_vReady hr
  have hf := reissue_of_fresh (fresh_of_vReady hr)
  have hv := (free_of_vReady hr List.mem_cons_self).1
  set bs := (List.range (h.n / 32)).filter (fun b => h.active g.grd (32 * b))
  set ws : Writes := bs.map (fun b => (b, (cvtBlock (h.tag a.v.toNat) dt (h.rmode rnd) h.seed (h.vstr a.v.toNat) b).1))
  have hmem (b : Nat) : b ∈ bs ↔ b < h.n / 32 ∧ h.active g.grd (32 * b) = true := by simp [bs]
  have hfit : ∀ x ∈ ws, x.1 * tagBlockBits dt + tagBlockBits dt ≤ h.regBits := by
    intro x hx
    obtain ⟨b, hbs, rfl⟩ := List.mem_map.1 hx
    exact fits_block_of_lenOk hl List.mem_cons_self hb ((hmem b).1 hbs).1
  have hx : exec (.vcvt g vd a sat rnd) s = .next (s.vecEnd (h.writeElems vd.toNat (tagBlockBits dt) ws)
      (bs.foldl (fun f b => f ||| (cvtBlock (h.tag a.v.toNat) dt (h.rmode rnd) h.seed (h.vstr a.v.toNat) b).2) 0)
      (cvtDraws (h.tag a.v.toNat) dt (h.rmode rnd) && !bs.isEmpty) false) := by
    refine (vecIssue_ready hr rfl rfl _ _ _ (cvt_ok hl hrep fun _ => hn)).trans ?_
    simp only [touchBits_sound hs, vpoiStr_sound hs, srcBad_zero, hb, takes_of_fresh hf, if_true, List.map_map, List.foldl_map]
    rw [if_neg (by simp), finish_vdone_raise (by simpa using hf)]
    rfl
  obtain ⟨hc, ho⟩ := completes_vecEnd hx (onlyStorage_writeElems ..)
  refine ⟨_, hc, ho, fun b => ?_, othersKept_vecEnd (onlyStorage_writeElems ..) fun u hu => ?_⟩
  · rw [vstr_vecEnd, vstr_writeElems hv _ _ hfit, if_pos rfl, elemAt_applyWrites]
    exact if_congr (hmem b) rfl rfl
  · rw [vstr_writeElems hv _ _ hfit, if_neg (fun he => hu (List.mem_singleton.2 he))]
end

/-- VCVT. -/
theorem vectorConversions : VectorConversions := by
  intro s g vd a sat rnd hr hl h st dt m src es one hrep
  exact ⟨vectorResult_vcvt hr hl hrep, vcvt_blocks hr hl hrep⟩

/-! ## Blocks of quantised elements (R209) -/

/-- Whether an element of a block makes its scale 255 (R209). -/
def Exact.spoils (x : Exact) : Bool := x.isNan || x.isInf
/-- The scale of a block of reals (R209). -/
def quantScale (emax : Int) (xs : List Exact) : Int :=
  match maxIlog xs with
  | none => 127
  | some l => min 254 (max 0 (l - emax + 127))

theorem quantScale_bounds (emax : Int) (xs : List Exact) : 0 ≤ quantScale emax xs ∧ quantScale emax xs ≤ 254 := by
  unfold quantScale
  split <;> omega

section
variable {dt : Tag} {emax : Int} {m : RMode} {seed : BitVec 32} {x : Nat → Exact}

/-- What VQNT makes of element `e` of a block: 0 where an element spoils the block, else the element divided by the scale, saturating. -/
def quantElem (dt : Tag) (emax : Int) (m : RMode) (seed : BitVec 32) (x : Nat → Exact) (blk : List Nat) (e : Nat) : Nat :=
  if blk.any (fun e => (x e).spoils) then 0
  else (deliver dt m true (drawWord seed e) (.real ((x e).scale (127 - quantScale emax (blk.map x))))).1

theorem any_spoils (blk : List Nat) :
    (blk.map (fun e => (e, x e))).any (fun e => e.2.isNan || e.2.isInf) = blk.any (fun e => (x e).spoils) := by
  rw [List.any_map]
  rfl

/-- One block of VQNT, by its elements. -/
theorem quantBlock_spoilt {blk : List Nat} (h : blk.any (fun e => (x e).spoils) = true) :
    quantBlock dt emax m seed (blk.map (fun e => (e, x e))) = (255, blk.map (fun e => (e, 0)), fNV, false) := by
  rw [quantBlock, any_spoils, if_pos h, List.map_map]
  rfl
theorem quantBlock_scaled {blk : List Nat} (h : blk.any (fun e => (x e).spoils) = false) :
    let r (e : Nat) := deliver dt m true (drawWord seed e) (.real ((x e).scale (127 - quantScale emax (blk.map x))))
    quantBlock dt emax m seed (blk.map (fun e => (e, x e))) =
      ((quantScale emax (blk.map x)).toNat, blk.map (fun e => (e, (r e).1)), blk.foldl (fun f e => f ||| (r e).2) 0, true) := by
  intro r
  rw [quantBlock, any_spoils, if_neg (Bool.eq_false_iff.1 h)]
  simp only [List.map_map, List.foldl_map]
  rfl

theorem quantBlock_scale (blk : List Nat) : (quantBlock dt emax m seed (blk.map (fun e => (e, x e)))).1 =
    if blk.any (fun e => (x e).spoils) then 255 else (quantScale emax (blk.map x)).toNat := by
  by_cases h : blk.any (fun e => (x e).spoils) = true
  · rw [quantBlock_spoilt h, if_pos h]
  · rw [quantBlock_scaled (Bool.eq_false_iff.2 h), if_neg h]

theorem quantBlock_writes (blk : List Nat) : (quantBlock dt emax m seed (blk.map (fun e => (e, x e)))).2.1 =
    blk.map (fun e => (e, quantElem dt emax m seed x blk e)) := by
  by_cases h : blk.any (fun e => (x e).spoils) = true
  · simp only [quantBlock_spoilt h, quantElem, if_pos h]
  · simp only [quantBlock_scaled (Bool.eq_false_iff.2 h), quantElem, if_neg h]
end

section
variable {s : State} {g : Hdr} {vd va vs : VReg} {rnd : BitVec 2} {emax : Int}

/-- The active elements of block `b` (R209). -/
def Hart.blockOf (h : Hart) (g : Hdr) (b : Nat) : List Nat := ((List.range h.blkSize).map (b * h.blkSize + ·)).filter (h.active g.grd)
/-- The blocks with an active element. -/
def Hart.quantBlocks (h : Hart) (g : Hdr) : List Nat := (List.range (h.n / h.blkSize)).filter (fun b => !(h.blockOf g b).isEmpty)

theorem blkSize_pos (h : Hart) : 0 < h.blkSize := Nat.mul_pos (by decide) (Nat.two_pow_pos _)

theorem mem_blockOf {h : Hart} {b e : Nat} : e ∈ h.blockOf g b ↔ e / h.blkSize = b ∧ h.active g.grd e = true := by
  rw [Hart.blockOf, List.mem_filter, List.mem_map]
  refine and_congr_left fun _ => ⟨?_, ?_⟩
  · rintro ⟨i, hi, rfl⟩
    exact row_div (List.mem_range.1 hi)
  · rintro rfl
    exact ⟨e % h.blkSize, List.mem_range.2 (Nat.mod_lt _ (blkSize_pos h)), by rw [Nat.mul_comm]; exact Nat.div_add_mod ..⟩

theorem mem_quantBlocks {h : Hart} {b : Nat} : b ∈ h.quantBlocks g ↔ b < h.n / h.blkSize ∧ h.blockOf g b ≠ [] := by
  simp [Hart.quantBlocks]

/-- The blocks of VQNT, each with its number. -/
def Hart.quantised (h : Hart) (g : Hdr) (dt : Tag) (emax : Int) (m : RMode) (x : Nat → Exact) : List (Nat × Nat × Writes × Flags × Bool) :=
  (h.quantBlocks g).map (fun b => (b, quantBlock dt emax m h.seed ((h.blockOf g b).map (fun e => (e, x e)))))

/-- The elements that VQNT writes, and the fields they get. -/
def Hart.quantElems (h : Hart) (g : Hdr) : List Nat := (h.quantBlocks g).flatMap (h.blockOf g)
def Hart.quantValue (h : Hart) (g : Hdr) (dt : Tag) (emax : Int) (m : RMode) (x : Nat → Exact) (e : Nat) : Nat :=
  quantElem dt emax m h.seed x (h.blockOf g (e / h.blkSize)) e
/-- The scale of block `b`. -/
def Hart.quantCode (h : Hart) (g : Hdr) (emax : Int) (x : Nat → Exact) (b : Nat) : Nat :=
  if (h.blockOf g b).any (fun e => (x e).spoils) then 255 else (quantScale emax ((h.blockOf g b).map x)).toNat

section
variable {h : Hart} {dt : Tag} {m : RMode} {x : Nat → Exact}

theorem quantised_writes : (h.quantised g dt emax m x).flatMap (fun b => b.2.2.1) = (h.quantElems g).map (fun e => (e, h.quantValue g dt emax m x e)) := by
  rw [Hart.quantised, Hart.quantElems, List.flatMap_map, List.map_flatMap]
  refine congrArg List.flatten (List.map_congr_left fun b _ => (quantBlock_writes _).trans (List.map_congr_left fun e he => ?_))
  rw [Hart.quantValue, (mem_blockOf.1 he).1]

theorem quantised_scales : (h.quantised g dt emax m x).map (fun b => (b.1, b.2.1)) = (h.quantBlocks g).map (fun b => (b, h.quantCode g emax x b)) := by
  rw [Hart.quantised, List.map_map]
  exact List.map_congr_left fun b _ => congrArg (Prod.mk b) (quantBlock_scale _)

theorem mem_quantElems {e : Nat} : e ∈ h.quantElems g ↔ e / h.blkSize < h.n / h.blkSize ∧ h.active g.grd e = true := by
  simp only [Hart.quantElems, List.mem_flatMap, mem_quantBlocks, mem_blockOf]
  refine ⟨?_, fun ⟨hb, ha⟩ => ⟨_, ⟨hb, List.ne_nil_of_mem (mem_blockOf.2 ⟨rfl, ha⟩)⟩, rfl, ha⟩⟩
  rintro ⟨b, ⟨hb, -⟩, rfl, ha⟩
  exact ⟨hb, ha⟩

/-- The hart behind VQNT. -/
def Hart.afterVqnt (h : Hart) (g : Hdr) (vd vs : Nat) (emax : Int) (m : RMode) (x : Nat → Exact) : Hart :=
  (h.writeElems vd (tagWidth (h.tag vd)) ((h.quantElems g).map (fun e => (e, h.quantValue g (h.tag vd) emax m x e)))).writeElems vs 8
    ((h.quantBlocks g).map (fun b => (b, h.quantCode g emax x b)))
end

/-- VQNT (R209). -/
theorem exec_vqnt (hr : s.VReady g [vd.toNat, va.toNat, vs.toNat]) (hl : s.hart.lenOk [vd.toNat, va.toNat] = true)
    (hsc : s.hart.scaleOk vs.toNat = true) (hmx : s.hart.mxReads vs.toNat = false) (hw : isWide (s.hart.tag va.toNat) = true)
    (he : emaxOf (s.hart.tag vd.toNat) = some emax) :
    let h := s.hart
    let bs := h.quantised g (h.tag vd.toNat) emax (h.rmode rnd) (h.exactAt va.toNat)
    exec (.vqnt g vd va vs rnd) s = .next (s.vecEnd (h.afterVqnt g vd.toNat vs.toNat emax (h.rmode rnd) (h.exactAt va.toNat))
      (bs.foldl (fun f b => f ||| b.2.2.2.1) 0) (h.rmode rnd == .sr && bs.any (fun b => b.2.2.2.2)) false) := by
  intro h bs
  have hs := sound_of_vReady hr
  have hf := reissue_of_fresh (fresh_of_vReady hr)
  have hr' : s.VReady g [vd.toNat, va.toNat, vs.toNat] none [vd.toNat, vs.toNat] := by
    obtain ⟨h1, h2, h3, h4, h5, h6⟩ := hr
    exact ⟨h1, h2, h3, h4, h5, by simpa [hmx] using h6⟩
  have hok : (s.hart.lenOk [vd.toNat, va.toNat] && isWide (s.hart.tag va.toNat)
      && (emaxOf (s.hart.tag vd.toNat)).isSome && s.hart.scaleOk vs.toNat) = true := by rw [hl, hw, he, hsc]; rfl
  refine (vecIssue_ready (nm := { regs := [vd.toNat, va.toNat, vs.toNat], dst := [vd.toNat, vs.toNat] }) hr' rfl rfl _ _ _ hok).trans ?_
  have hbs : (List.range (h.n / h.blkSize)).filterMap (fun b => if (h.blockOf g b).isEmpty then none else
      some (b, quantBlock (h.tag vd.toNat) emax (h.rmode rnd) h.seed ((h.blockOf g b).map (fun e => (e, h.exactAt va.toNat e))))) = bs :=
    (congrArg (List.filterMap _) (List.filter_true _).symm).trans (filterMap_of_not (fun _ => true) ..)
  simp only [touchV_sound hs, vpoiStr_sound hs, takes_of_fresh hf, he, Option.getD_some]
  rw [if_neg (by simp)]
  refine (congrArg (fun bs => finish (vdone (((s.upd fun h' => (h'.writeElems vd.toNat (tagWidth (h.tag vd.toNat)) (bs.flatMap (fun b => b.2.2.1))).writeElems
    vs.toNat 8 (bs.map (fun b => (b.1, b.2.1)))).raise (bs.foldl (fun f b => f ||| b.2.2.2.1) 0)).advanceSeed
    (h.rmode rnd == .sr && bs.any (fun b => b.2.2.2.2))))) hbs).trans ?_
  rw [finish_vdone_raise (by simpa using hf), quantised_writes, quantised_scales]
  rfl

section
variable {h : Hart} {vd vs : Nat} {m : RMode} {x : Nat → Exact}

theorem scaleOk_iff {v : Nat} : h.scaleOk v = true ↔ h.tag v = .e8m0 ∧ h.vl % h.blkSize = 0 ∧ h.n / h.blkSize ≤ mvl .e8m0 h.nregs := by
  simp [Hart.scaleOk, and_assoc]

theorem onlyStorage_afterVqnt (g : Hdr) : OnlyStorage h (h.afterVqnt g vd vs emax m x) := (onlyStorage_writeElems ..).trans (onlyStorage_writeElems ..)

theorem lt_n_of_mem_quantElems {e : Nat} (he : e ∈ h.quantElems g) : e < h.n := by
  have hb := (mem_quantElems.1 he).1
  exact lt_of_not_ge fun hge => absurd (Nat.div_le_div_right hge) (Nat.not_le.2 hb)

variable (hd : vd < h.nregs) (hv : vs < h.nregs) (hfit : ∀ e ∈ h.quantElems g, e * tagWidth (h.tag vd) + tagWidth (h.tag vd) ≤ h.regBits)
  (hscl : ∀ b ∈ h.quantBlocks g, b * 8 + 8 ≤ h.regBits)
include hd hv hfit hscl

/-- What stands in each register behind VQNT. -/
theorem vstr_afterVqnt (u : Nat) (hne : vs ≠ vd) : (h.afterVqnt g vd vs emax m x).vstr u =
    if u = vs then applyWrites 8 (h.vstr vs) ((h.quantBlocks g).map (fun b => (b, h.quantCode g emax x b)))
    else if u = vd then applyWrites (tagWidth (h.tag vd)) (h.vstr vd) ((h.quantElems g).map (fun e => (e, h.quantValue g (h.tag vd) emax m x e)))
    else h.vstr u := by
  have hfit' : ∀ y ∈ (h.quantElems g).map (fun e => (e, h.quantValue g (h.tag vd) emax m x e)),
      y.1 * tagWidth (h.tag vd) + tagWidth (h.tag vd) ≤ h.regBits := by
    intro y hy
    obtain ⟨e, he, rfl⟩ := List.mem_map.1 hy
    exact hfit e he
  have hin := vstr_writeElems hd (tagWidth (h.tag vd)) ((h.quantElems g).map (fun e => (e, h.quantValue g (h.tag vd) emax m x e))) hfit'
  rw [Hart.afterVqnt, vstr_writeElems (by rwa [Hart.nregs, Hart.writeElems_regs]), hin, hin, if_neg hne]
  intro y hy
  obtain ⟨b, hb, rfl⟩ := List.mem_map.1 hy
  rw [Hart.regBits, Hart.nregs, Hart.writeElems_regs]
  exact hscl b hb

variable (hne : vs ≠ vd)
include hne

theorem elem_afterVqnt_scale (ht : h.tag vs = .e8m0) (b : Nat) : (h.afterVqnt g vd vs emax m x).elem vs b =
    if b ∈ h.quantBlocks g then h.quantCode g emax x b % 2 ^ 8 else h.elem vs b := by
  have htag : (h.afterVqnt g vd vs emax m x).tag vs = .e8m0 := by simp [Hart.afterVqnt, ht]
  rw [Hart.elem, htag, vstr_afterVqnt hd hv hfit hscl vs hne, if_pos rfl]
  exact (elemAt_applyWrites ..).trans (by rw [Hart.elem, ht]; rfl)

theorem elem_afterVqnt (e : Nat) : (h.afterVqnt g vd vs emax m x).elem vd e =
    if e ∈ h.quantElems g then h.quantValue g (h.tag vd) emax m x e % 2 ^ tagWidth (h.tag vd) else h.elem vd e := by
  have htag : (h.afterVqnt g vd vs emax m x).tag vd = h.tag vd := by simp [Hart.afterVqnt]
  rw [Hart.elem, htag, vstr_afterVqnt hd hv hfit hscl vd hne, if_neg hne.symm, if_pos rfl]
  exact elemAt_applyWrites ..
end

theorem isBlock_of_emaxOf {t : Tag} {emax : Int} (h : emaxOf t = some emax) : t.isBlock = false := by
  revert h
  cases t <;> simp [emaxOf, Tag.isBlock]

theorem quantCode_lt (h : Hart) (x : Nat → Exact) (b : Nat) : h.quantCode g emax x b < 2 ^ 8 := by
  have := quantScale_bounds emax ((h.blockOf g b).map x)
  unfold Hart.quantCode
  split <;> omega
end

/-- VQNT. -/
theorem vqnt_blocks {s : State} {g : Hdr} {vd va vs : VReg} {rnd : BitVec 2} {emax : Int} (hr : s.VReady g [vd.toNat, va.toNat, vs.toNat])
    (hl : s.hart.lenOk [vd.toNat, va.toNat] = true) (hsc : s.hart.scaleOk vs.toNat = true) (hmx : s.hart.mxReads vs.toNat = false)
    (hw : isWide (s.hart.tag va.toNat) = true) (he : emaxOf (s.hart.tag vd.toNat) = some emax) :
    let h := s.hart
    let x := h.exactAt va.toNat
    ∃ t, Completes (.vqnt g vd va vs rnd) s t ∧ OnlyVectors s t ∧ othersKept s t [vd.toNat, vs.toNat]
      ∧ (∀ b, t.hart.elem vs.toNat b = if b ∈ h.quantBlocks g then h.quantCode g emax x b else h.elem vs.toNat b)
      ∧ ∀ e, t.hart.elem vd.toNat e = if e ∈ h.quantElems g
          then h.quantValue g (h.tag vd.toNat) emax (h.rmode rnd) x e % 2 ^ tagWidth (h.tag vd.toNat) else h.elem vd.toNat e := by
  intro h x
  obtain ⟨ht, -, hn⟩ := scaleOk_iff.1 hsc
  have hd := (free_of_vReady hr (v := vd.toNat) (by simp)).1
  have hv := (free_of_vReady hr (v := vs.toNat) (by simp)).1
  have hne : vs.toNat ≠ vd.toNat := by
    intro heq
    rw [← heq, ht] at he
    cases he
  have hfit : ∀ e ∈ h.quantElems g, e * tagWidth (h.tag vd.toNat) + tagWidth (h.tag vd.toNat) ≤ h.regBits := fun e hm =>
    fits_of_lenOk hl List.mem_cons_self (isBlock_of_emaxOf he) (lt_n_of_mem_quantElems hm)
  have hscl : ∀ b ∈ h.quantBlocks g, b * 8 + 8 ≤ h.regBits := fun b hb =>
    fits_of_lt_mvl (t := .e8m0) rfl ((mem_quantBlocks.1 hb).1.trans_le hn)
  obtain ⟨hc, ho⟩ := completes_vecEnd (exec_vqnt hr hl hsc hmx hw he) (onlyStorage_afterVqnt g)
  refine ⟨_, hc, ho, othersKept_vecEnd (onlyStorage_afterVqnt g) fun u hu => ?_, fun b => ?_, fun e => ?_⟩
  · obtain ⟨h1, h2⟩ : u ≠ vd.toNat ∧ u ≠ vs.toNat := by simpa using hu
    rw [vstr_afterVqnt hd hv hfit hscl u hne, if_neg h2, if_neg h1]
  · rw [elem_vecEnd, elem_afterVqnt_scale hd hv hfit hscl hne ht, Nat.mod_eq_of_lt (quantCode_lt ..)]
  · rw [elem_vecEnd, elem_afterVqnt hd hv hfit hscl hne]

/-- VDQNT. -/
theorem vectorResult_vdqnt {s : State} {g : Hdr} {vd va vs : VReg} {sat : Bool} {rnd : BitVec 2} (hr : s.VReady g [vd.toNat, va.toNat, vs.toNat])
    (hl : s.hart.lenOk [vd.toNat, va.toNat] = true) (hsc : s.hart.scaleOk vs.toNat = true) (ha : (s.hart.tag vd.toNat).isArith = true)
    (he : (emaxOf (s.hart.tag va.toNat)).isSome = true) :
    let h := s.hart
    let m := h.rmode rnd
    let one (e : Nat) : Nat × Flags := deliver (h.tag vd.toNat) m sat (drawWord h.seed e)
      (.real (scaled (h.exactAt va.toNat e) (h.elem vs.toNat (e / h.blkSize))))
    let es := activesOf h g h.n
    vectorResult (.vdqnt g vd va vs sat rnd) s vd.toNat es (fun e => (one e).1) (es.foldl (fun f e => f ||| (one e).2) 0) (m == .sr && !es.isEmpty) := by
  intro h m one es
  have hs := sound_of_vReady hr
  obtain ⟨ht, -⟩ := scaleOk_iff.1 hsc
  have hok : (s.hart.lenOk [vd.toNat, va.toNat] && (s.hart.tag vd.toNat).isArith
      && (emaxOf (s.hart.tag va.toNat)).isSome && s.hart.scaleOk vs.toNat) = true := by rw [hl, ha, he, hsc]; rfl
  have hone : one = fun e => deliver (h.tag vd.toNat) m sat (drawWord h.seed e) (.real (scaled (h.exactAt va.toNat e)
      (elemAt 8 (h.vstr vs.toNat) (e / h.blkSize)))) := by
    funext e
    change deliver _ _ _ _ (.real (scaled _ (elemAt (tagWidth (h.tag vs.toNat)) _ _))) = _
    rw [ht]
    rfl
  have hx : exec (.vdqnt g vd va vs sat rnd) s = finish (runElems (.vdqnt g vd va vs sat rnd) g
      ⟨vd.toNat, tagWidth (h.tag vd.toNat), fun _ => false, one, true, m == .sr⟩ s) := by
    refine (vecIssue_ready hr rfl rfl _ _ _ hok).trans ?_
    simp only [touchV_sound hs, vpoiStr_sound hs, hone]
    rfl
  exact vectorResult_of_runElems (fresh_of_vReady hr) hx (fun _ => rfl) (free_of_vReady hr List.mem_cons_self).1 rfl hl List.mem_cons_self
    (isBlock_of_isArith ha)

/-- VQNT and VDQNT. -/
theorem quantisation : Quantisation := by
  intro s g vd va vs sat rnd hr hl hsc h dt m n x block
  refine ⟨fun emax hmx hw he => ?_, vectorResult_vdqnt hr hl hsc⟩
  obtain ⟨t, hc, ho, hk, hscale, helem⟩ := vqnt_blocks (rnd := rnd) hr hl hsc hmx hw he
  refine ⟨t, hc, ho, hk, fun b hb => ⟨fun hnil => ?_, fun hne hany => ⟨?_, fun e hm => ?_⟩, fun hne hany => ⟨?_, fun e hm => ?_⟩,
    fun e h1 h2 hm => ?_⟩⟩
  · rw [hscale, if_neg fun hq => (mem_quantBlocks.1 hq).2 hnil]
  · rw [hscale, if_pos (mem_quantBlocks.2 ⟨hb, hne⟩), Hart.quantCode]
    exact if_pos hany
  · obtain ⟨rfl, ha⟩ := mem_blockOf.1 hm
    rw [helem, if_pos (mem_quantElems.2 ⟨hb, ha⟩), Hart.quantValue, quantElem]
    exact congrArg (· % _) (if_pos hany)
  · rw [hscale, if_pos (mem_quantBlocks.2 ⟨hb, hne⟩), Hart.quantCode]
    exact if_neg (Bool.eq_false_iff.1 hany)
  · obtain ⟨rfl, ha⟩ := mem_blockOf.1 hm
    rw [helem, if_pos (mem_quantElems.2 ⟨hb, ha⟩), Hart.quantValue, quantElem]
    exact congrArg (· % _) (if_neg (Bool.eq_false_iff.1 hany))
  · rw [helem, if_neg fun hq => hm ?_]
    have hdiv : e / n = b := Nat.div_eq_of_lt_le h1 (by rwa [Nat.succ_mul])
    exact mem_blockOf.2 ⟨hdiv, (mem_quantElems.1 hq).2⟩

/-- Settles O31: VCVT runs its elements or its blocks, VQNT writes the elements and the scales of its blocks into two registers of different
tags, and VDQNT runs its elements with the scale of their block. -/
theorem conversionsAndQuantisation : Obligations.ConversionsAndQuantisation := ⟨vectorConversions, quantisation⟩
end Sys2Proof.Machine
end

section
/-! SUPPORT. Instructions that read a tile (R237, R239): O41. -/

namespace Sys2Proof.Machine
open Sys2Proof Sys2Proof.Spec

/-! ## A tile region as it is read -/

section
variable {s : State}

theorem meetTile_noErrs (he : s.errs = []) (t vl vh : Nat) (wr : Bool) : s.meetTile t vl vh wr = s := by
  rw [State.meetTile, he]
  rfl

/-- The bits of element `e` of a tile region whose rows hold `vl` elements, and whether they are poisoned. -/
def State.tileRaw (s : State) (t vl e : Nat) : Nat := s.bytes (s.tilePa t (e / vl) (e % vl)) 4
def State.tileBad (s : State) (t vl e : Nat) : Bool := s.poisonedAt (s.tilePa t (e / vl) (e % vl)) 4

theorem tileRegion_eq (t vl vh : Nat) : s.tileRegion t vl vh = (List.range (vl * vh)).map (fun e => (s.tileRaw t vl e, s.tileBad t vl e)) := by
  rw [Nat.mul_comm]
  rfl

theorem bytes_lt (a n : Nat) : s.bytes a n < 256 ^ n := by
  induction n generalizing a with
  | zero => exact Nat.one_pos
  | succ n ih =>
    have hb := (s.byte a).isLt
    have := ih (a + 1)
    rw [State.bytes, Nat.pow_succ]
    omega
end

theorem tileRaw_lt (s : State) (t vl e : Nat) : s.tileRaw t vl e < 2 ^ 32 := bytes_lt _ 4

section
variable {s : State} {g : Hdr} {vd : VReg} {ta : AReg} {tk : Option (BitVec 3)}

theorem tileFits_iff : decide (ta.toNat < s.tiles ∧ s.hart.vl ≤ 32 ∧ s.hart.vh ≤ 64) = true ↔ tileFits s ta := decide_eq_true_iff

/-! ## MACC.ST (R237) -/

section
variable {xs : XReg} (hg : s.hart.guard g.grd = true) (hf : tileFits s ta) (he : s.errs = []) (hr : s.VReady g [vd.toNat] tk)
  (hl : s.hart.lenOk [vd.toNat] = true) (ht : s.hart.tag vd.toNat = if s.tileInt ta.toNat then .si32 else .fp32)
include hg hf he hr hl ht

theorem exec_maccSt : exec (.maccSt g vd ta xs tk) s = finish (
    let h := s.hart
    let es := List.range (h.vl * h.vh)
    if h.tileBusy ta.toNat then .wait s
    else if es.any (s.tileBad ta.toNat h.vl) then wordTrap .poison (.maccSt g vd ta xs tk) s
    else .done ((s.upd (fun h => h.writeElems vd.toNat 32 (es.map (fun e => (e, s.tileRaw ta.toNat s.hart.vl e))))).setX xs
      (BitVec.ofNat 64 (s.tileStat ta.toNat)))) := by
  have hok : (s.hart.lenOk [vd.toNat] && decide (ta.toNat < s.tiles ∧ s.hart.vl ≤ 32 ∧ s.hart.vh ≤ 64)
      && s.hart.tag vd.toNat == (if s.tileInt ta.toNat then .si32 else .fp32)) = true := by
    rw [hl, tileFits_iff.2 hf, ht, beq_self_eq_true]
    rfl
  refine (vecIssue_whole_ready (nm := { regs := [vd.toNat], tk := tk, whole := true }) hr rfl rfl hg hok).trans ?_
  simp only [meetTile_noErrs he, tileRegion_eq, zipIdx_map_range, List.map_map, List.any_map]
  rfl

end

/-- An instruction that writes vector registers and one scalar register, and leaves `vstart` alone. -/
theorem completes_storage_setX {i : Instr} {h' : Hart} {xs : XReg} {v : Word} (ho : OnlyStorage s.hart h')
    (hx : exec i s = .next (({ s with hart := h' } : State).setX xs v).completed) :
    ∃ t, Completes i s t ∧ t.hart.vst = h'.vst ∧ t.hart.regs = h'.regs ∧ (xs ≠ 0 → t.x xs = v) ∧ (∀ j, j ≠ xs → t.x j = s.x j)
      ∧ t.hart.p = s.hart.p ∧ t.hart.tok = s.hart.tok ∧ t.hart.vtag = s.hart.vtag ∧ t.hart.fcsr = s.hart.fcsr ∧ t.hart.mq = s.hart.mq
      ∧ t.rest = s.rest ∧ t.mem = s.mem := by
  obtain ⟨_, _, _, _, rfl⟩ := ho
  exact ⟨_, ⟨hx, by simp, by simp, by simp, by simp, by simp, by simp⟩, by simp, by simp, fun h => State.x_setX_self h, fun j h => State.x_setX_other h,
    by simp, by simp, by simp, by simp, by simp, rfl, rfl⟩

theorem maccSt_delivers {xs : XReg} (hg : s.hart.guard g.grd = true) (hf : tileFits s ta) (he : s.errs = []) (hr : s.VReady g [vd.toNat] tk)
    (hl : s.hart.lenOk [vd.toNat] = true) (ht : s.hart.tag vd.toNat = if s.tileInt ta.toNat then .si32 else .fp32)
    (hq : s.hart.tileBusy ta.toNat = false) (hb : (List.range (s.hart.vl * s.hart.vh)).any (s.tileBad ta.toNat s.hart.vl) = false) :
    ∃ t, Completes (.maccSt g vd ta xs tk) s t
      ∧ (∀ e, t.hart.elem vd.toNat e = if e < s.hart.vl * s.hart.vh then s.tileRaw ta.toNat s.hart.vl e else s.hart.elem vd.toNat e)
      ∧ (∀ u, u < s.hart.nregs → u ≠ vd.toNat → t.hart.vstr u = s.hart.vstr u) ∧ (xs ≠ 0 → t.x xs = BitVec.ofNat 64 (s.tileStat ta.toNat))
      ∧ (∀ j, j ≠ xs → t.x j = s.x j) ∧ t.hart.p = s.hart.p ∧ t.hart.tok = s.hart.tok ∧ t.hart.vtag = s.hart.vtag ∧ t.hart.fcsr = s.hart.fcsr
      ∧ t.hart.mq = s.hart.mq ∧ t.rest = s.rest ∧ t.mem = s.mem := by
  have hw : tagWidth (s.hart.tag vd.toNat) = 32 := by
    rw [ht]
    split <;> rfl
  have hblk : (s.hart.tag vd.toNat).isBlock = false := by
    rw [ht]
    split <;> rfl
  have hv := (free_of_vReady hr List.mem_cons_self).1
  have hfit : ∀ e ∈ List.range (s.hart.vl * s.hart.vh), e * tagWidth (s.hart.tag vd.toNat) + tagWidth (s.hart.tag vd.toNat) ≤ s.hart.regBits :=
    fun e hm => fits_of_lenOk hl List.mem_cons_self hblk (List.mem_range.1 hm)
  have hx := exec_maccSt (xs := xs) hg hf he hr hl ht
  simp only [hq, hb, Bool.false_eq_true, if_false, ← hw] at hx
  obtain ⟨t, hc, hvst, hregs, h1, h2, h3, h4, h5, h6⟩ := completes_storage_setX (onlyStorage_writeElems ..) hx
  refine ⟨t, hc, fun e => ?_, fun u _ hu => ?_, h1, h2, h3, h4, h5, h6⟩
  · rw [elem_congr hvst hregs (h5.trans (Hart.writeElems_vtag ..).symm), elem_writeElems hv _ _ hfit, hw, Nat.mod_eq_of_lt (tileRaw_lt ..)]
    exact if_congr List.mem_range rfl rfl
  · rw [vstr_congr hvst hregs, vstr_writeElems hv _ _ (by simpa using hfit), if_neg hu]

/-! ## MEPI (R239) -/

section
variable {vb vs : VReg} {sat : Bool} {rnd act : BitVec 2} {scl bia : Bool}

/-- The operands of MEPI that lie in vector registers (R239). -/
def mepiRegs (vd vb vs : VReg) (scl bia : Bool) : List Nat :=
  vd.toNat :: (if scl then [vs.toNat] else []) ++ (if bia then [vb.toNat] else [])
/-- An operand of MEPI for the column of element `e`. -/
def Hart.mepiCol (h : Hart) (on : Bool) (v e : Nat) : Option Exact := if on then some (fp32.value (h.elem v (e % h.vl))) else none
/-- What MEPI forms for element `e`, and what it delivers. -/
def State.mepiVal (s : State) (ta : AReg) (vb vs : VReg) (rnd act : BitVec 2) (scl bia : Bool) (e : Nat) : Val × Flags :=
  mepiValue (s.hart.rmode rnd == .rdn) (s.tileStat ta.toNat / 256 % 2 == 1) act (s.hart.mepiCol scl vs.toNat e) (s.hart.mepiCol bia vb.toNat e)
    (s.tileRaw ta.toNat s.hart.vl e)
def State.mepiOut (s : State) (vd : VReg) (ta : AReg) (vb vs : VReg) (sat : Bool) (rnd act : BitVec 2) (scl bia : Bool) (e : Nat) : Nat × Flags :=
  deliver (s.hart.tag vd.toNat) (s.hart.rmode rnd) sat (drawWord s.hart.seed e) (s.mepiVal ta vb vs rnd act scl bia e).1

theorem mepiCol_eq {h : Hart} {on : Bool} {v : VReg} (ht : on = true → h.tag v.toNat = .fp32) (e : Nat) :
    (if on then some (fp32.value (elemAt 32 (h.vstr v.toNat) (e % h.vl))) else none) = h.mepiCol on v.toNat e := by
  cases on with
  | false => rfl
  | true =>
    rw [Hart.mepiCol, Hart.elem, ht rfl]
    rfl

theorem any_badAt_zero (w : Nat) (l : List Nat) : l.any (badAt w 0) = false := List.any_eq_false.2 fun _ _ => Bool.false_ne_true

theorem exec_mepi (hg : s.hart.guard g.grd = true) (hf : tileFits s ta) (he : s.errs = []) (hr : s.VReady g (mepiRegs vd vb vs scl bia) tk)
    (hl : s.hart.lenOk (mepiRegs vd vb vs scl bia) = true) (ht : mepiTag (s.hart.tag vd.toNat) = true)
    (hs : scl = true → s.hart.tag vs.toNat = .fp32) (hb : bia = true → s.hart.tag vb.toNat = .fp32) :
    exec (.mepi g vd ta vb vs tk sat rnd act scl bia) s = finish (
    let h := s.hart
    let es := List.range (h.vl * h.vh)
    let out := s.mepiOut vd ta vb vs sat rnd act scl bia
    if h.tileBusy ta.toNat then .wait s
    else if es.any (s.tileBad ta.toNat h.vl) then wordTrap .poison (.mepi g vd ta vb vs tk sat rnd act scl bia) s
    else .done (((s.upd (fun h => h.writeElems vd.toNat (tagWidth (s.hart.tag vd.toNat)) (es.map (fun e => (e, (out e).1))))).raise
      (es.foldl (fun f e => f ||| ((s.mepiVal ta vb vs rnd act scl bia e).2 ||| (out e).2)) 0)).advanceSeed
      (h.rmode rnd == .sr && !(s.tileStat ta.toNat / 256 % 2 == 1 && !scl && !bia && (h.tag vd.toNat).isInt)))) := by
  have hsd := sound_of_vReady hr
  have hsc : (!scl || s.hart.tag vs.toNat == .fp32) = true := by
    cases scl with
    | false => rfl
    | true => simpa using hs rfl
  have hbi : (!bia || s.hart.tag vb.toNat == .fp32) = true := by
    cases bia with
    | false => rfl
    | true => simpa using hb rfl
  have hok : (s.hart.lenOk (mepiRegs vd vb vs scl bia) && decide (ta.toNat < s.tiles ∧ s.hart.vl ≤ 32 ∧ s.hart.vh ≤ 64)
      && mepiTag (s.hart.tag vd.toNat) && (!scl || s.hart.tag vs.toNat == .fp32) && (!bia || s.hart.tag vb.toNat == .fp32)) = true := by
    rw [hl, tileFits_iff.2 hf, ht, hsc, hbi]
    rfl
  refine (vecIssue_whole_ready (nm := { regs := mepiRegs vd vb vs scl bia, tk := tk, whole := true }) hr rfl rfl hg hok).trans ?_
  simp only [meetTile_noErrs he, touchV_sound hsd, ite_self, vpoiStr_sound hsd, any_badAt_zero, Bool.and_false, Bool.or_false,
    tileRegion_eq, zipIdx_map_range, List.map_map, List.any_map, List.foldl_map, mepiCol_eq hs, mepiCol_eq hb]
  rfl

theorem isBlock_of_mepiTag {t : Tag} (h : mepiTag t = true) : t.isBlock = false := by
  revert h
  cases t <;> simp [mepiTag, Tag.isArith, Tag.isNarrow, Tag.isBlock]

theorem mepi_delivers (hg : s.hart.guard g.grd = true) (hf : tileFits s ta) (he : s.errs = []) (hr : s.VReady g (mepiRegs vd vb vs scl bia) tk)
    (hl : s.hart.lenOk (mepiRegs vd vb vs scl bia) = true) (ht : mepiTag (s.hart.tag vd.toNat) = true)
    (hs : scl = true → s.hart.tag vs.toNat = .fp32) (hb : bia = true → s.hart.tag vb.toNat = .fp32)
    (hq : s.hart.tileBusy ta.toNat = false) (hp : (List.range (s.hart.vl * s.hart.vh)).any (s.tileBad ta.toNat s.hart.vl) = false) :
    let es := List.range (s.hart.vl * s.hart.vh)
    let out := s.mepiOut vd ta vb vs sat rnd act scl bia
    vectorResult (.mepi g vd ta vb vs tk sat rnd act scl bia) s vd.toNat es (fun e => (out e).1)
      (es.foldl (fun f e => f ||| ((s.mepiVal ta vb vs rnd act scl bia e).2 ||| (out e).2)) 0)
      (s.hart.rmode rnd == .sr && !(s.tileStat ta.toNat / 256 % 2 == 1 && !scl && !bia && (s.hart.tag vd.toNat).isInt)) (still := true) := by
  intro es out
  have hx := exec_mepi (sat := sat) (rnd := rnd) (act := act) hg hf he hr hl ht hs hb
  simp only [hq, hp, Bool.false_eq_true, if_false] at hx
  rw [finish_done_raise] at hx
  exact vectorResult_of_map hx (free_of_vReady hr List.mem_cons_self).1 rfl fun e hm =>
    fits_of_lenOk hl List.mem_cons_self (isBlock_of_mepiTag ht) (List.mem_range.1 hm)
end

/-- Settles O41: both instructions meet the tile region as memory holds it, and then write what they read or form of it. -/
theorem tilesAreRead : Obligations.TilesAreRead := by
  intro s g vd ta vb vs xs tk sat rnd act scl bia hg hf he h n raw bad poison
  refine ⟨fun hr hl ht => ⟨fun hq => ?_, fun hq hb => ?_, fun hq hb => maccSt_delivers hg hf he hr hl ht hq hb⟩,
    fun hr hl ht hs hb => ⟨fun hq => ?_, fun hq hp => ?_, fun hq hp => mepi_delivers hg hf he hr hl ht hs hb hq hp⟩⟩
  · exact (exec_maccSt hg hf he hr hl ht).trans (congrArg finish (if_pos hq))
  · exact (exec_maccSt hg hf he hr hl ht).trans (congrArg finish ((if_neg (Bool.eq_false_iff.1 hq)).trans (if_pos hb)))
  · exact (exec_mepi hg hf he hr hl ht hs hb).trans (congrArg finish (if_pos hq))
  · exact (exec_mepi hg hf he hr hl ht hs hb).trans (congrArg finish ((if_neg (Bool.eq_false_iff.1 hq)).trans (if_pos hp)))
end
end Sys2Proof.Machine
end

section
/-! SUPPORT. Bytes and poison behind writes whose places are known, where every mark is past (R4, R280): the rules that the work of the matrix
queue (O42) rests on. -/

namespace Sys2Proof.Machine
open Sys2Proof Sys2Proof.Spec

section
variable {s t u : State} {a b k n v : Nat}

/-! ## What a number of bytes reads as -/

theorem bytes_congr (h : ∀ b, a ≤ b → b < a + n → t.byte b = s.byte b) : t.bytes a n = s.bytes a n := by
  induction n generalizing a with
  | zero => rfl
  | succ n ih =>
    rw [State.bytes, State.bytes, h a le_rfl (by omega), ih fun b h1 h2 => h b (by omega) (by omega)]

theorem anyUnit_congr (h : t.poison = s.poison) : t.anyUnit k n = s.anyUnit k n := by
  induction n generalizing k with
  | zero => rfl
  | succ n ih => rw [State.anyUnit, State.anyUnit, State.unitBad, State.unitBad, h, ih]

theorem poisonedAt_congr (h : t.poison = s.poison) : t.poisonedAt a n = s.poisonedAt a n := by
  rw [State.poisonedAt, State.poisonedAt, anyUnit_congr h]

theorem stringAt_congr (hb : ∀ b, t.byte b = s.byte b) (hp : t.poison = s.poison) : t.stringAt a n = s.stringAt a n := by
  rw [State.stringAt, State.stringAt, bytes_congr fun b _ _ => hb b]
  simp only [poisonedAt_congr hp]

/-! ## Bytes behind a write -/

theorem marksPast_putByte (h : s.MarksPast) (v : Byte) : (s.putByte a v).MarksPast :=
  ⟨fun r hr => (h.1 r hr).trans (Nat.le_succ _), fun x hx c hc => (h.2 x hx c hc).trans (Nat.le_succ _)⟩

/-- A byte that is written now is determinate, since no mark is of a later time (R4). -/
theorem byte_putByte_self (h : s.MarksPast) (v : Byte) : (s.putByte a v).byte a = v := by
  have hn : (s.putByte a v).indetMark a = none := by
    rw [State.indetMark, List.find?_eq_none]
    intro r hr hc
    obtain ⟨-, -, hl⟩ := of_decide_eq_true hc
    have hw : lastWrite a (s.putByte a v).written = s.wno + 1 := if_pos rfl
    have := h.1 r hr
    omega
  rw [State.byte, hn, rawByte_putByte, if_pos rfl]

theorem byte_putBytes_other (h : b < a ∨ a + n ≤ b) : (s.putBytes a n v).byte b = s.byte b := wrote_putBytes.byte_other h

theorem bytes_putBytes (h : s.MarksPast) : (s.putBytes a n v).bytes a n = v % 256 ^ n := by
  induction n generalizing s a v with
  | zero => rw [pow_zero, Nat.mod_one]; rfl
  | succ n ih =>
    rw [State.putBytes, State.bytes, ih (marksPast_putByte h _), byte_putBytes_other (.inl (Nat.lt_succ_self a)), byte_putByte_self h,
      BitVec.toNat_ofNat, pow_succ' 256 n, Nat.mod_mul]

/-! ## Poison behind a write -/

theorem unitBad_setUnits {c : Bool} : (s.setUnits a c n).unitBad k = if a ≤ k ∧ k < a + n then c else s.unitBad k := by
  induction n generalizing s a with
  | zero => rw [if_neg (by omega)]; rfl
  | succ n ih =>
    have hset : ({ s with poison := Tab.set (fun _ => false) s.poison a c } : State).unitBad k = if k = a then c else s.unitBad k := Tab.get_set ..
    rw [State.setUnits, ih, hset]
    by_cases hk : k = a
    · rw [if_neg (by omega), if_pos hk, if_pos (by omega)]
    · rw [if_neg hk]
      exact if_congr (by omega) rfl rfl

section
variable (hr : regionOf a = .acc) (ha : a % 4 = 0)
include hr ha

/-- An element of the accumulator store is one unit. -/
theorem unitSpan_acc : unitSpan a 4 = (a / 4, 1) := by
  rw [unitSpan, if_pos hr, show (a + 4 - 1) / 4 - a / 4 + 1 = 1 by omega]

theorem poisonedAt_acc : s.poisonedAt a 4 = s.unitBad (a / 4) := by
  rw [State.poisonedAt, if_neg (by decide), unitSpan_acc hr ha, State.anyUnit, State.anyUnit, Bool.or_false]

theorem poisonAt_acc : s.poisonAt a 4 = s.setUnits (a / 4) true 1 := by
  rw [State.poisonAt, if_neg (by decide), unitSpan_acc hr ha]

theorem clearWhole_acc : s.clearWhole a 4 = s.setUnits (a / 4) false 1 := by
  have hlo : (a + 3) / 4 = a / 4 := by omega
  have hn : (a + 4) / 4 - a / 4 = 1 := by omega
  rw [State.clearWhole, if_pos hr, hlo]
  dsimp only
  rw [hn]
end

/-! ## States that differ in memory only -/

/-- `t` is `s` but for bytes, poison and the counts of the dies. -/
def OnlyMemory (s t : State) : Prop :=
  ∃ mem written wno poison dies, s.wno ≤ wno ∧ t = { s with mem := mem, written := written, wno := wno, poison := poison, dies := dies }

theorem OnlyMemory.refl (s : State) : OnlyMemory s s := ⟨_, _, _, _, _, le_rfl, rfl⟩
theorem OnlyMemory.trans (h : OnlyMemory s t) (h' : OnlyMemory t u) : OnlyMemory s u := by
  obtain ⟨_, _, _, _, _, h1, rfl⟩ := h
  obtain ⟨_, _, _, _, _, h2, rfl⟩ := h'
  exact ⟨_, _, _, _, _, h1.trans h2, rfl⟩

theorem OnlyMemory.marksPast (h : OnlyMemory s t) (hm : s.MarksPast) : t.MarksPast := by
  obtain ⟨_, _, _, _, _, hw, rfl⟩ := h
  exact ⟨fun r hr => (hm.1 r hr).trans hw, fun x hx c hc => (hm.2 x hx c hc).trans hw⟩

theorem onlyMemory_putBytes : OnlyMemory s (s.putBytes a n v) := by
  induction n generalizing s a v with
  | zero => exact .refl s
  | succ n ih => exact .trans ⟨_, _, _, _, _, Nat.le_succ _, rfl⟩ ih

theorem onlyMemory_setUnits {c : Bool} : OnlyMemory s (s.setUnits a c n) := by
  obtain ⟨p, hp⟩ := setUnits_eq s a n c
  exact ⟨_, _, _, _, _, le_rfl, hp⟩

theorem byte_setUnits {c : Bool} (b : Nat) : (s.setUnits a c n).byte b = s.byte b := by
  obtain ⟨p, hp⟩ := setUnits_eq s a n c
  rw [hp]
  exact byte_of_frame rfl b

theorem poison_putBytes : (s.putBytes a n v).poison = s.poison := by
  induction n generalizing s a v with
  | zero => rfl
  | succ n ih => exact ih

/-! ## A list of places written one after the other -/

/-- Every step of a fold keeps what a step keeps. -/
theorem onlyMemory_foldl {f : State → Nat → State} {l : List Nat} (hf : ∀ u, ∀ e ∈ l, OnlyMemory s u → OnlyMemory u (f u e)) :
    OnlyMemory s (l.foldl f s) := by
  induction l using List.reverseRecOn with
  | nil => exact .refl s
  | append_singleton l e ih =>
    rw [List.foldl_append]
    have := ih fun u e he => hf u e (List.mem_append_left _ he)
    exact this.trans (hf _ e (by simp) this)

/-- Elements that lie apart, each written with its value: each reads as its value, and no other byte changes. -/
theorem bytes_foldl {f : State → Nat → State} {A w : Nat → Nat} (hm : s.MarksPast) (hw : ∀ e < n, w e < 256 ^ 4)
    (hA : ∀ e < n, ∀ e' < n, e ≠ e' → A e + 4 ≤ A e' ∨ A e' + 4 ≤ A e)
    (hf : ∀ u, ∀ e < n, OnlyMemory s u → OnlyMemory u (f u e) ∧ ∀ b, (f u e).byte b = (u.putBytes (A e) 4 (w e)).byte b) :
    (∀ e < n, ((List.range n).foldl f s).bytes (A e) 4 = w e)
      ∧ ∀ b, (∀ e < n, b < A e ∨ A e + 4 ≤ b) → ((List.range n).foldl f s).byte b = s.byte b := by
  induction n with
  | zero => exact ⟨nofun, fun _ _ => rfl⟩
  | succ n ih =>
    obtain ⟨hin, hout⟩ := ih (fun e he => hw e (by omega)) (fun e he e' he' => hA e (by omega) e' (by omega))
      fun u e he => hf u e (by omega)
    have hmem : OnlyMemory s ((List.range n).foldl f s) := onlyMemory_foldl fun u e he hu => (hf u e (by simp at he; omega) hu).1
    rw [List.range_succ, List.foldl_append, List.foldl_cons, List.foldl_nil]
    generalize (List.range n).foldl f s = u at hin hout hmem
    obtain ⟨-, hb⟩ := hf u n n.lt_succ_self hmem
    refine ⟨fun e he => ?_, fun b hn => ?_⟩
    · rw [bytes_congr fun b _ _ => hb b]
      by_cases hen : e = n
      · subst hen
        rw [bytes_putBytes (hmem.marksPast hm), Nat.mod_eq_of_lt (hw e he)]
      · have hapart := hA e he n n.lt_succ_self hen
        rw [bytes_congr fun b h1 h2 => byte_putBytes_other (by omega), hin e (by omega)]
    · rw [hb, byte_putBytes_other (hn n n.lt_succ_self), hout b fun e he => hn e (by omega)]

/-- Units marked or cleared one after the other. -/
theorem unitBad_foldl {f : State → Nat → State} {U : Nat → Nat} {c : Nat → Bool} {bad : Bool}
    (hf : ∀ u, ∀ e < n, OnlyMemory s u → OnlyMemory u (f u e)
      ∧ ∀ k, (f u e).unitBad k = if U e = k ∧ c e = true then bad else u.unitBad k) (k : Nat) :
    ((List.range n).foldl f s).unitBad k = if ∃ e < n, U e = k ∧ c e = true then bad else s.unitBad k := by
  induction n with
  | zero => rw [if_neg (by simp)]; rfl
  | succ n ih =>
    have ih := ih fun u e he => hf u e (by omega)
    have hmem : OnlyMemory s ((List.range n).foldl f s) := onlyMemory_foldl fun u e he hu => (hf u e (by simp at he; omega) hu).1
    rw [List.range_succ, List.foldl_append, List.foldl_cons, List.foldl_nil, (hf _ n n.lt_succ_self hmem).2, ih]
    by_cases hn : U n = k ∧ c n = true
    · rw [if_pos hn, if_pos ⟨n, n.lt_succ_self, hn⟩]
    · rw [if_neg hn]
      refine if_congr ⟨fun ⟨e, he, h⟩ => ⟨e, by omega, h⟩, fun ⟨e, he, h⟩ => ⟨e, ?_, h⟩⟩ rfl rfl
      have : e ≠ n := by rintro rfl; exact hn h
      omega
end
end Sys2Proof.Machine
end

section
/-! SUPPORT. Steps of an accumulator element (R94, R95, R228): what the matrix queue computes is what O42 writes out, and fits 32 bits. -/

namespace Sys2Proof.Machine
open Sys2Proof Sys2Proof.Spec

/-! ## FP32 bits fit 32 bits -/

/-- At a quantum no finer than the one that leaves 24 bits, the quotient has 24 bits. -/
theorem quant_lt {m : Nat} {e q : Int} (h : (m.log2 : Int) + e - 23 ≤ q) : (quant m e q).1 < 2 ^ 24 := by
  have hm : m < 2 ^ (m.log2 + 1) := Nat.lt_log2_self
  unfold quant
  split
  next hq =>
    calc m * 2 ^ (e - q).toNat < 2 ^ (m.log2 + 1) * 2 ^ (e - q).toNat := Nat.mul_lt_mul_of_pos_right hm (Nat.two_pow_pos _)
      _ = 2 ^ (m.log2 + 1 + (e - q).toNat) := (Nat.pow_add ..).symm
      _ ≤ 2 ^ 24 := Nat.pow_le_pow_right (by decide) (by omega)
  next hq =>
    refine Nat.div_lt_of_lt_mul (hm.trans_le ?_)
    rw [← Nat.pow_add]
    exact Nat.pow_le_pow_right (by decide) (by omega)

theorem fp32_overflowBits_lt (mode : RMode) (sat neg : Bool) : fp32.overflowBits mode sat neg < 2 ^ 32 := by
  cases mode <;> cases sat <;> cases neg <;> decide

/-- The signed bits of a magnitude below 2^31. -/
theorem fp32_signBit_add_lt (neg : Bool) {b : Nat} (h : b < 2 ^ 31) : fp32.signBit neg + b < 2 ^ 32 := by
  have hs : fp32.signBit neg ≤ 2 ^ 31 := by cases neg <;> decide
  omega

/-- The quantum of an FP32 result (R75, R83). -/
def fp32Quantum (m : Nat) (e : Int) : Int := max ((m.log2 : Int) + e - 23) (-149)

/-- The bits of a rounded nonzero real: those of an overflow, or a significand of 24 bits that may have been rounded up, and its exponent. -/
theorem fp32_round_fin {m : Nat} (hm : m ≠ 0) (mode : RMode) (sat neg sticky : Bool) (draw : BitVec 32) (e : Int) :
    ∃ big ≤ 2 ^ 24, (fp32.round mode sat draw (.fin neg m e sticky)).1 =
      if 104 < fp32Quantum m e ∨ (fp32Quantum m e = 104 ∧ 2 ^ 24 - 1 < big) then fp32.overflowBits mode sat neg
      else fp32.signBit neg + if big < 2 ^ 23 then big else ((fp32Quantum m e + 149).toNat + 1) * 2 ^ 23 + big - 2 ^ 23 := by
  have hn : (quant m e (fp32Quantum m e)).1 < 2 ^ 24 := quant_lt (le_max_left ..)
  refine ⟨if roundsUp mode neg draw (quant m e (fp32Quantum m e)).1 (quant m e (fp32Quantum m e)).2.1 (quant m e (fp32Quantum m e)).2.2 sticky
    then (quant m e (fp32Quantum m e)).1 + 1 else (quant m e (fp32Quantum m e)).1, by split <;> omega, ?_⟩
  have hmax : fp32.maxBits / 2 ^ fp32.m = 254 := by decide
  have hsig : 2 ^ fp32.m + fp32.maxBits % 2 ^ fp32.m = 2 ^ 24 - 1 := by decide
  have hqmin : 1 - (fp32.bias : Int) - fp32.m = -149 := by decide
  rw [Fp.round, if_neg hm]
  dsimp only
  rw [hmax, hsig, hqmin, apply_ite Prod.fst]
  rfl

theorem fp32_round_lt (mode : RMode) (sat : Bool) (draw : BitVec 32) (x : Exact) : (fp32.round mode sat draw x).1 < 2 ^ 32 := by
  cases x with
  | nan => exact (by decide : fp32.nanBits < 2 ^ 32)
  | inf neg => exact fp32_signBit_add_lt neg (b := (2 ^ fp32.e - 1) * 2 ^ fp32.m) (by decide)
  | fin neg m e sticky =>
    by_cases hm : m = 0
    · rw [Fp.round, if_pos hm]
      exact fp32_signBit_add_lt neg (b := 0) (by decide)
    · obtain ⟨big, hbig, h⟩ := fp32_round_fin hm mode sat neg sticky draw e
      rw [h]
      split
      · exact fp32_overflowBits_lt ..
      next hover =>
        refine fp32_signBit_add_lt neg ?_
        have hlow : -149 ≤ fp32Quantum m e := le_max_right ..
        split <;> omega

/-! ## One step -/

theorem matStep_lt {acc : Nat} (h : acc < 2 ^ 32) (ps : List Exact) : (matStep acc ps).1 < 2 ^ 32 := by
  unfold matStep
  dsimp only
  split
  · exact (by decide : fp32.nanBits < 2 ^ 32)
  split
  · exact fp32_round_lt ..
  split
  · exact fp32_round_lt ..
  split
  · exact h
  · exact fp32_round_lt ..

theorem toNat_ofInt_eq_intBits (i : Int) : (BitVec.ofInt 32 i).toNat = intBits 32 i := BitVec.toNat_ofInt ..

theorem tagSigned_eq (acc : Nat) : mmaStep.tagSigned acc =
    if 2 ^ 31 ≤ acc % 2 ^ 32 then ((acc % 2 ^ 32 : Nat) : Int) - (2 ^ 32 : Nat) else (acc % 2 ^ 32 : Nat) := by
  rw [mmaStep.tagSigned, BitVec.toInt_eq_toNat_cond, BitVec.toNat_ofNat]
  split <;> split <;> omega

theorem satInt_si32 (z : Int) : (satInt .si32 z).1 = max (-2 ^ 31) (min (2 ^ 31 - 1) z) := by
  have hmin : Tag.intMin .si32 = -2 ^ 31 := by decide
  have hmax : Tag.intMax .si32 = 2 ^ 31 - 1 := by decide
  rw [satInt, hmin, hmax]
  split
  · dsimp only; omega
  split <;> (dsimp only; omega)

/-- A step on an SI32 element adds and narrows (R95). -/
theorem matStepInt_fst (sat : Bool) (acc : Nat) (sum : Int) : (matStepInt sat acc sum).1 =
    (if sat then BitVec.ofInt 32 (max (-2 ^ 31) (min (2 ^ 31 - 1) (mmaStep.tagSigned acc + sum)))
      else BitVec.ofInt 32 (mmaStep.tagSigned acc + sum)).toNat := by
  rw [matStepInt, ← tagSigned_eq]
  cases sat with
  | false => exact (toNat_ofInt_eq_intBits _).symm
  | true =>
    refine .trans ?_ (toNat_ofInt_eq_intBits _).symm
    rw [← satInt_si32]
    rfl

/-! ## Products of integers -/

/-- An operand of integers: each element is the exact value of one. -/
def IntOperand (b : Operand) : Prop := ∀ k, ∃ i : Int, (b k).1 = .ofInt i

theorem srcValue_int {t : Tag} (ht : t.isInt = true) (bits e : Nat) : ∃ i : Int, srcValue t bits e = .int i := by
  rw [srcValue, isBlock_of_isInt ht, if_neg Bool.false_ne_true, tagValue]
  revert ht
  cases t <;> simp [Tag.isInt, Fp.ofTag] <;> split <;> exact ⟨_, rfl⟩

theorem intOperand_stringOperand {t : Tag} (ht : t.isInt = true) (bits poi blk sc scP : Nat) : IntOperand (stringOperand t bits poi false blk sc scP) := by
  intro k
  obtain ⟨i, hi⟩ := srcValue_int ht bits k
  exact ⟨i, congrArg Val.exact hi⟩

theorem intOperand_operandB {s : State} {o : MmaOp} (ht : o.tag.isInt = true) (hs : o.scl = false) : IntOperand (s.operandB o) := by
  unfold State.operandB
  split
  · rw [hs]
    exact intOperand_stringOperand ht _ _ _ _ _
  · dsimp only
    rw [hs]
    exact intOperand_stringOperand ht _ _ _ _ _

/-- The product that the matrix unit forms of two reals, as an integer. -/
def mxProduct (x y : Exact) : Int :=
  match x, y with
  | .fin n m e _, .fin n' m' e' _ => if n != n' then -((m * m' * 2 ^ (e + e').toNat : Nat) : Int) else ((m * m' * 2 ^ (e + e').toNat : Nat) : Int)
  | _, _ => 0

/-- It is the product of the two integers, where the second has no exponent. -/
theorem mxProduct_ofInt (x : Exact) (i : Int) : mxProduct x (.ofInt i) = mmaStep.intOf x * mmaStep.intOf (.ofInt i) := by
  cases x with
  | nan => exact (Int.zero_mul _).symm
  | inf n => exact (Int.zero_mul _).symm
  | fin n m e st =>
    have he : (e + 0).toNat = e.toNat := by rw [Int.add_zero]
    simp only [mxProduct, Exact.ofInt, mmaStep.intOf, he]
    cases n <;> cases decide (i < 0) <;> simp <;> ring

/-! ## All steps of an element -/

section
variable {o : MmaOp} {a b : Operand} {r c : Nat}

/-- The positions of step `st`. -/
def stepAt (vl ks st : Nat) : List Nat := ((List.range ks).map (st * ks + ·)).filter (fun k => decide (k < vl))

theorem stepsOf_eq (vl ks : Nat) : stepsOf vl ks = (List.range' 0 ((vl + ks - 1) / ks)).map (stepAt vl ks) := by
  rw [← List.range_eq_range']
  rfl

theorem mmaStep_lt {acc : Nat} (h : acc < 2 ^ 32) (ks : List Nat) : mmaStep o a b r c acc ks < 2 ^ 32 := by
  unfold mmaStep
  dsimp only
  split
  · split <;> exact BitVec.isLt _
  · exact matStep_lt h _

theorem foldl_mmaStep_lt {acc : Nat} (h : acc < 2 ^ 32) (l : List (List Nat)) : l.foldl (mmaStep o a b r c) acc < 2 ^ 32 := by
  induction l generalizing acc with
  | nil => exact h
  | cons ks l ih => exact ih (mmaStep_lt h ks)

/-- Each step of the matrix queue is one of those that O42 writes out. -/
theorem mmaElem_fst (hint : o.tag.isInt = true → IntOperand b) (ks n st : Nat) (x : Nat × Nat) :
    (mmaElem o a b ks r c n st x).1 = ((List.range' st n).map (stepAt o.vl ks)).foldl (mmaStep o a b r c) x.1 := by
  induction n generalizing st x with
  | zero => rfl
  | succ n ih =>
    obtain ⟨acc, stat⟩ := x
    rw [mmaElem, List.range'_succ, List.map_cons, List.foldl_cons]
    dsimp only
    rw [ih]
    congr 1
    unfold mmaStep
    dsimp only
    split
    next ht =>
      have hsum : ((stepAt o.vl ks st).map (fun k => mxProduct (a (r * o.vl + k)).1 (b (c * o.vl + k)).1)).foldl (· + ·) (0 : Int) =
          ((stepAt o.vl ks st).map (fun k => mmaStep.intOf (a (r * o.vl + k)).1 * mmaStep.intOf (b (c * o.vl + k)).1)).sum := by
        rw [List.sum_eq_foldl]
        refine congrArg (List.foldl _ _) (List.map_congr_left fun k _ => ?_)
        obtain ⟨i, hi⟩ := hint ht (c * o.vl + k)
        rw [hi, mxProduct_ofInt]
      rw [← hsum, ← matStepInt_fst]
      rfl
    · rfl
end
end Sys2Proof.Machine
end

section
/-! SUPPORT. The work of the matrix queue on a tile (R216, R218, R220, R222, R228, R236, R238): O42. -/

namespace Sys2Proof.Machine
open Sys2Proof Sys2Proof.Spec

/-! ## Where a tile and its status word lie (R216, R218) -/

section
variable {s u : State} {t vl vh e : Nat}

theorem coreKey_lt {h : Hart} (hc : h.isCompute = true) : coreKey h.hid / 128 < 8 := by
  have hd : hidDie h.hid < 8 := of_decide_eq_true hc
  have hcl : hidCluster h.hid < 32 := BitVec.isLt _
  have hco : hidCore h.hid < 4 := BitVec.isLt _
  unfold coreKey clusterKey
  omega

theorem accSlot_mod (s : State) : s.accSlot % 4 = 0 := by
  unfold State.accSlot
  omega

/-- The slot of a core lies in the accumulator store of its die. -/
theorem regionOf_accSlot (hc : s.hart.isCompute = true) {off : Nat} (ho : off < 2 ^ 21) : regionOf (s.accSlot + off) = .acc := by
  have hk := coreKey_lt hc
  have hlt : coreKey s.hart.hid % 128 < 128 := Nat.mod_lt _ (by decide)
  have hoff : paOff (s.accSlot + off) = 0x11000000000 + coreKey s.hart.hid % 128 * 2 ^ 21 + off := by
    unfold paOff State.accSlot
    omega
  have hdie : paDie (s.accSlot + off) < 8 := by
    unfold paDie State.accSlot
    omega
  unfold regionOf
  dsimp only
  rw [if_pos hdie, hoff, if_neg (by omega), if_neg (by omega), if_neg (by omega), if_neg (by omega), if_pos (by omega)]

theorem paOff_accSlot {off : Nat} (ho : off < 2 ^ 21) : paOff (s.accSlot + off) % 2 ^ 21 = off := by
  have hlt : coreKey s.hart.hid % 128 < 128 := Nat.mod_lt _ (by decide)
  unfold paOff State.accSlot
  omega

/-- The address of element `e` of a region whose rows hold `vl` elements. -/
def State.tileAt (s : State) (t vl e : Nat) : Nat := s.tilePa t (e / vl) (e % vl)

/-- The offset of that element in the core's slot. -/
def State.tileOff (s : State) (t vl e : Nat) : Nat := (s.accRange s.hart.hid).1 + 8192 * t + 128 * (e / vl) + 4 * (e % vl)

theorem tileAt_eq (s : State) (t vl e : Nat) : s.tileAt t vl e = s.accSlot + s.tileOff t vl e := by
  unfold State.tileAt State.tilePa State.tileOff
  omega

theorem tileAt_mod (hp : tilePlaced s t) (vl e : Nat) : s.tileAt t vl e % 4 = 0 := by
  obtain ⟨-, -, h4, -⟩ := hp
  have := accSlot_mod s
  rw [tileAt_eq, State.tileOff]
  omega

/-- Different elements lie apart. -/
theorem tileAt_apart (h0 : 0 < vl) (hvl : vl ≤ 32) {e e' : Nat} (hne : e ≠ e') :
    s.tileAt t vl e + 4 ≤ s.tileAt t vl e' ∨ s.tileAt t vl e' + 4 ≤ s.tileAt t vl e := by
  have hc : e % vl < vl := Nat.mod_lt _ h0
  have hc' : e' % vl < vl := Nat.mod_lt _ h0
  have hplace : ¬(e / vl = e' / vl ∧ e % vl = e' % vl) := fun ⟨h1, h2⟩ => hne (by rw [← Nat.div_add_mod e vl, h1, h2, Nat.div_add_mod])
  rw [tileAt_eq, tileAt_eq, State.tileOff, State.tileOff]
  omega

section
variable (hp : tilePlaced s t) (hvl : vl ≤ 32) (hvh : vh ≤ 64)
include hp hvl hvh

theorem tileOff_lt (he : e < vl * vh) : s.tileOff t vl e + 4 ≤ 0x1C0000 := by
  obtain ⟨-, -, -, hend⟩ := hp
  have h0 : 0 < vl := Nat.pos_of_mul_pos_right (Nat.zero_lt_of_lt he)
  have hrow : e / vl < vh := Nat.div_lt_of_lt_mul he
  have hcol : e % vl < vl := Nat.mod_lt _ h0
  unfold State.tileOff
  omega

theorem regionOf_tileAt (he : e < vl * vh) : regionOf (s.tileAt t vl e) = .acc := by
  have := tileOff_lt hp hvl hvh he
  rw [tileAt_eq]
  exact regionOf_accSlot hp.1 (by omega)

/-- An element of a tile holds every bit (R218 cuts status words only). -/
theorem heldBits_tileAt (he : e < vl * vh) (n v : Nat) : heldBits (s.tileAt t vl e) n v = v := by
  have hlt := tileOff_lt hp hvl hvh he
  have hoff : paOff (s.tileAt t vl e) % 2 ^ 21 = s.tileOff t vl e := by
    rw [tileAt_eq]
    exact paOff_accSlot (by omega)
  rw [heldBits, if_neg fun h => by omega]

/-- The status words lie behind all tiles. -/
theorem tileAt_lt_statPa (he : e < vl * vh) (t' : Nat) : s.tileAt t vl e + 4 ≤ s.statPa t' := by
  have := tileOff_lt hp hvl hvh he
  rw [tileAt_eq, State.statPa]
  omega
end

end

/-! ## A region behind the work on it -/

section
variable {s w : State} {t vl vh : Nat}

theorem OnlyMemory.tileAt (h : OnlyMemory s w) (t vl e : Nat) : w.tileAt t vl e = s.tileAt t vl e := by
  obtain ⟨_, _, _, _, _, _, rfl⟩ := h
  rfl
theorem OnlyMemory.statPa (h : OnlyMemory s w) (t : Nat) : w.statPa t = s.statPa t := by
  obtain ⟨_, _, _, _, _, _, rfl⟩ := h
  rfl

/-- Elements of a region poisoned one after the other where `c` says so. -/
def State.poisonWhere (s : State) (t vl n : Nat) (c : Nat → Bool) : State :=
  (List.range n).foldl (fun u e => if c e then u.poisonAt (u.tileAt t vl e) 4 else u) s

theorem poisonAt_eq (u : State) (a n : Nat) : ∃ q, u.poisonAt a n = { u with poison := q } := by
  unfold State.poisonAt
  split
  · exact ⟨u.poison, rfl⟩
  · exact setUnits_eq ..

theorem poisonStep_eq (u : State) (a : Nat) (c : Bool) : ∃ q, (if c then u.poisonAt a 4 else u) = { u with poison := q } := by
  split
  · exact poisonAt_eq ..
  · exact ⟨u.poison, rfl⟩

theorem onlyMemory_poisonStep (u : State) (a : Nat) (c : Bool) : OnlyMemory u (if c then u.poisonAt a 4 else u) := by
  obtain ⟨q, hq⟩ := poisonStep_eq u a c
  exact ⟨_, _, _, _, _, le_rfl, hq⟩

theorem poisonWhere_eq (s : State) (t vl n : Nat) (c : Nat → Bool) : ∃ q, s.poisonWhere t vl n c = { s with poison := q } := by
  unfold State.poisonWhere
  generalize List.range n = l
  induction l generalizing s with
  | nil => exact ⟨s.poison, rfl⟩
  | cons e l ih =>
    obtain ⟨q, hq⟩ := poisonStep_eq s (s.tileAt t vl e) (c e)
    obtain ⟨q', hq'⟩ := ih { s with poison := q }
    exact ⟨q', (congrArg (List.foldl _ · l) hq).trans hq'⟩

/-- Behind some work the elements of a region read as `v` and are poisoned as `p` says, and no byte outside the region and the tile's status
word changed. -/
structure Filled (s w : State) (t vl vh : Nat) (v : Nat → Nat) (p : Nat → Bool) : Prop where
  only : OnlyMemory s w
  elem : ∀ e < vl * vh, w.bytes (s.tileAt t vl e) 4 = v e
  bad : ∀ e < vl * vh, w.poisonedAt (s.tileAt t vl e) 4 = p e
  other : ∀ b, (∀ e < vl * vh, b < s.tileAt t vl e ∨ s.tileAt t vl e + 4 ≤ b) → b < s.statPa t ∨ s.statPa t + 8 ≤ b → w.byte b = s.byte b

theorem Filled.frame {v : Nat → Nat} {p : Nat → Bool} (h : Filled s w t vl vh v p) (h0 : 0 < vl) : onlyTile s w t vl vh := fun a ha hs =>
  h.other a (fun _ he => ha _ _ (Nat.div_lt_of_lt_mul he) (Nat.mod_lt _ h0)) hs

/-- The region as O42 speaks of it, by rows and columns. -/
theorem Filled.at {v : Nat → Nat} {p : Nat → Bool} (h : Filled s w t vl vh v p) {r c : Nat} (hr : r < vh) (hc : c < vl) :
    w.bytes (w.tilePa t r c) 4 = v (r * vl + c) ∧ w.poisonedAt (w.tilePa t r c) 4 = p (r * vl + c) := by
  have hpa : w.tilePa t r c = s.tileAt t vl (r * vl + c) := by
    rw [← h.only.tileAt, State.tileAt, row_div hc, row_mod hc]
  rw [hpa]
  exact ⟨h.elem _ (row_lt hr hc), h.bad _ (row_lt hr hc)⟩

variable {v : Nat → Nat} {p : Nat → Bool} (hp : tilePlaced s t) (hvl : vl ≤ 32) (hvh : vh ≤ 64)
include hp hvl hvh

theorem poisonedAt_tileAt {e : Nat} (he : e < vl * vh) (u : State) : u.poisonedAt (s.tileAt t vl e) 4 = u.unitBad (s.tileAt t vl e / 4) :=
  poisonedAt_acc (regionOf_tileAt hp hvl hvh he) (tileAt_mod hp vl e)

/-- The region and the status word behind the write of the status word (R218). -/
theorem Filled.putStat (h : Filled s w t vl vh v p) (hm : s.MarksPast) (f : Nat) (si : Bool) :
    Filled s (w.putStat t f si) t vl vh v p ∧ (w.putStat t f si).tileStat t = (f % 64 &&& 0x37) + if si then 256 else 0 := by
  have hw : OnlyMemory w (w.putStat t f si) := onlyMemory_putBytes
  have hpa := h.only.statPa t
  refine ⟨⟨h.only.trans hw, fun e he => ?_, fun e he => ?_, fun b hb hs => ?_⟩, ?_⟩
  · have hlt := tileAt_lt_statPa hp hvl hvh he t
    rw [← h.elem e he]
    exact bytes_congr fun b h1 h2 => byte_putBytes_other (by omega)
  · rw [← h.bad e he]
    exact poisonedAt_congr poison_putBytes
  · rw [← h.other b hb hs]
    exact byte_putBytes_other (by omega)
  · have hlt : f % 64 &&& 0x37 ≤ 0x37 := Nat.and_le_right
    rw [State.tileStat, hw.statPa, State.putStat, bytes_putBytes (h.only.marksPast hm), Nat.mod_eq_of_lt]
    split <;> omega

variable (h0 : 0 < vl)
include h0

/-- The elements written one after the other, with their poison cleared (R236). -/
theorem filled_stores (hm : s.MarksPast) (hv : ∀ e < vl * vh, v e < 256 ^ 4) :
    Filled s ((List.range (vl * vh)).foldl (fun u e => u.store (s.tileAt t vl e) 4 (v e)) s) t vl vh v (fun _ => false) := by
  have hstep (u : State) (e : Nat) (he : e < vl * vh) :
      u.store (s.tileAt t vl e) 4 (v e) = (u.putBytes (s.tileAt t vl e) 4 (v e)).setUnits (s.tileAt t vl e / 4) false 1 := by
    rw [State.store, heldBits_tileAt hp hvl hvh he, clearWhole_acc (regionOf_tileAt hp hvl hvh he) (tileAt_mod hp vl e)]
  have honly (u : State) (e : Nat) (he : e < vl * vh) : OnlyMemory u (u.store (s.tileAt t vl e) 4 (v e)) := by
    rw [hstep u e he]
    exact onlyMemory_putBytes.trans onlyMemory_setUnits
  obtain ⟨hin, hout⟩ := bytes_foldl hm hv (fun e _ e' _ => tileAt_apart (s := s) (t := t) h0 hvl) fun u e he _ => ⟨honly u e he, fun b => by
    rw [hstep u e he, byte_setUnits]⟩
  refine ⟨onlyMemory_foldl fun u e he _ => honly u e (List.mem_range.1 he), hin, fun e he => ?_, fun b hb _ => hout b hb⟩
  rw [poisonedAt_tileAt hp hvl hvh he, unitBad_foldl (U := fun e => s.tileAt t vl e / 4) (c := fun _ => true) (bad := false), if_pos ⟨e, he, rfl, rfl⟩]
  intro u e he _
  refine ⟨honly u e he, fun k => ?_⟩
  rw [hstep u e he, unitBad_setUnits, State.unitBad, poison_putBytes]
  exact if_congr (by simp; omega) rfl rfl

omit hp hvh in
/-- The elements written one after the other, with their poison kept (R228). -/
theorem filled_writes (hm : s.MarksPast) (hv : ∀ e < vl * vh, v e < 256 ^ 4) {s1 : State} (h1 : OnlyMemory s s1) (hb : ∀ b, s1.byte b = s.byte b)
    (hpo : s1.poison = s.poison) :
    Filled s ((List.range (vl * vh)).foldl (fun u e => u.putBytes (u.tileAt t vl e) 4 (v e)) s1) t vl vh v
      (fun e => s.poisonedAt (s.tileAt t vl e) 4) := by
  have honly (u : State) (e : Nat) : OnlyMemory u (u.putBytes (u.tileAt t vl e) 4 (v e)) := onlyMemory_putBytes
  obtain ⟨hin, hout⟩ := bytes_foldl (f := fun u e => u.putBytes (u.tileAt t vl e) 4 (v e)) (h1.marksPast hm) hv
    (fun e _ e' _ => tileAt_apart (s := s) (t := t) h0 hvl) fun u e _ hu => ⟨honly u e, fun b => by rw [(h1.trans hu).tileAt]⟩
  refine ⟨h1.trans (onlyMemory_foldl fun u e _ _ => honly u e), hin, fun e _ => poisonedAt_congr ?_, fun b hb' _ => (hout b hb').trans (hb b)⟩
  refine .trans ?_ hpo
  generalize List.range (vl * vh) = l
  clear hin hout hb hpo h1
  induction l generalizing s1 with
  | nil => rfl
  | cons e l ih => exact ih.trans poison_putBytes

/-- Elements poisoned one after the other (R220). -/
theorem Filled.poison (h : Filled s w t vl vh v p) (c : Nat → Bool) :
    Filled s (w.poisonWhere t vl (vl * vh) c) t vl vh v (fun e => p e || c e) ∧ (w.poisonWhere t vl (vl * vh) c).tileStat t = w.tileStat t := by
  have hbad (e : Nat) (he : e < vl * vh) : (w.poisonWhere t vl (vl * vh) c).unitBad (s.tileAt t vl e / 4) =
      if c e then true else w.unitBad (s.tileAt t vl e / 4) := by
    rw [State.poisonWhere, unitBad_foldl (U := fun e => s.tileAt t vl e / 4) (c := c) (bad := true)]
    · refine if_congr ⟨fun ⟨e', _, hu, hc⟩ => ?_, fun hc => ⟨e, he, rfl, hc⟩⟩ rfl rfl
      by_cases hne : e' = e
      · exact hne ▸ hc
      · have := tileAt_apart (s := s) (t := t) h0 hvl hne
        have := tileAt_mod hp vl e
        have := tileAt_mod hp vl e'
        omega
    · intro u e he hu
      refine ⟨onlyMemory_poisonStep .., fun k => ?_⟩
      by_cases hc : c e = true
      · rw [if_pos hc, (h.only.trans hu).tileAt, poisonAt_acc (regionOf_tileAt hp hvl hvh he) (tileAt_mod hp vl e), unitBad_setUnits]
        exact if_congr (by simp [hc]; omega) rfl rfl
      · rw [if_neg hc, if_neg fun hx => hc hx.2]
  obtain ⟨q, hq⟩ := poisonWhere_eq w t vl (vl * vh) c
  have hbyte (b : Nat) : (w.poisonWhere t vl (vl * vh) c).byte b = w.byte b := by
    rw [hq]
    exact byte_of_frame rfl b
  have honly : OnlyMemory w (w.poisonWhere t vl (vl * vh) c) := ⟨_, _, _, _, _, le_rfl, hq⟩
  refine ⟨⟨h.only.trans honly, fun e he => ?_, fun e he => ?_, fun b hb hs => ?_⟩, ?_⟩
  · rw [← h.elem e he]
    exact bytes_congr fun b _ _ => hbyte b
  · rw [poisonedAt_tileAt hp hvl hvh he, hbad e he, ← h.bad e he, poisonedAt_tileAt hp hvl hvh he]
    cases c e <;> simp
  · rw [hbyte, h.other b hb hs]
  · rw [State.tileStat, State.tileStat, honly.statPa]
    exact bytes_congr fun b _ _ => hbyte b
end
end Sys2Proof.Machine
end

section
/-! SUPPORT. MATRIX_QUEUE_EXECUTE (R221, R222, R228): O42. -/

namespace Sys2Proof.Machine
open Sys2Proof Sys2Proof.Spec

/-! ## MACC.LD and MACC.Z (R236, R238) -/

section
variable {s : State} {t vl vh : Nat}

theorem putTile_eq (s : State) (t vl bits n : Nat) : s.putTile t vl bits n =
    (List.range n).foldl (fun u e => u.store (s.tileAt t vl e) 4 (elemAt 32 bits e)) s := by
  induction n with
  | zero => rfl
  | succ n ih =>
    rw [List.range_succ, List.foldl_append, List.foldl_cons, List.foldl_nil, ← ih, State.putTile, State.tileAt]

theorem filled_putTile (hm : s.MarksPast) (hp : tilePlaced s t) (h0 : 0 < vl) (hvl : vl ≤ 32) (hvh : vh ≤ 64) (bits f : Nat) (si : Bool) :
    let w := (s.putTile t vl bits (vl * vh)).putStat t f si
    Filled s w t vl vh (elemAt 32 bits) (fun _ => false) ∧ w.tileStat t = (f % 64 &&& 0x37) + if si then 256 else 0 := by
  rw [putTile_eq]
  exact (filled_stores hp hvl hvh h0 hm fun e _ => elemAt_lt 32 bits e).putStat hp hvl hvh hm f si

/-- The status bits that a word keeps (R218). -/
theorem statBits_mod (n : Nat) : n % 64 &&& 0x37 = n &&& 0x37 := by
  have h : (n &&& 0x37) % 2 ^ 6 = n % 2 ^ 6 &&& 0x37 % 2 ^ 6 := Nat.and_mod_two_pow
  have hle : n &&& 0x37 ≤ 0x37 := Nat.and_le_right
  rw [Nat.mod_eq_of_lt (hle.trans_lt (by decide))] at h
  exact h.symm
end

/-! ## MMA (R220, R228) -/

section
variable {s : State} {o : MmaOp}

theorem updDie_eq (s : State) (d : Nat) (f : Die → Die) : ∃ ds, s.updDie d f = { s with dies := ds } := by
  unfold State.updDie
  split
  · exact ⟨_, rfl⟩
  · exact ⟨s.dies, rfl⟩

theorem meetErrors_noErrs (he : s.errs = []) (l : Option LaunchId) (pa n : Nat) (wr : Bool) : s.meetErrors l pa n wr = s := by
  rw [State.meetErrors, he]
  rfl

/-- Without stored errors, the reads of an MMA change the counts of berths only (R257). -/
theorem mmaReads_noErrs (he : s.errs = []) (o : MmaOp) : ∃ ds, s.mmaReads o = { s with dies := ds } := by
  have hempty : s.errs.isEmpty = true := by rw [he]; rfl
  rcases o with ⟨_, _, _, _, _, _, _, a, b, _, _, _, _, _⟩
  cases a <;> cases b <;> simp only [State.mmaReads, hempty, if_true, meetErrors_noErrs he]
  case reg.reg => exact ⟨s.dies, rfl⟩
  case unf.reg => exact ⟨s.dies, rfl⟩
  case reg.ws => exact updDie_eq ..
  case unf.ws => exact updDie_eq ..

variable {d : Vector Die 10}

theorem seen_dies : ({ s with dies := d } : State).seen = { s.seen with dies := d } := by
  unfold State.seen
  split <;> rfl

theorem stringAt_dies (a n : Nat) : ({ s with dies := d } : State).stringAt a n = s.stringAt a n := stringAt_congr (byte_of_frame rfl) rfl

theorem operandA_dies : ({ s with dies := d } : State).operandA o = s.operandA o := by
  unfold State.operandA
  rw [seen_dies]
  simp only [stringAt_dies]

theorem operandB_dies : ({ s with dies := d } : State).operandB o = s.operandB o := by
  unfold State.operandB
  simp only [stringAt_dies]

theorem tileRaw_dies (t vl e : Nat) : ({ s with dies := d } : State).tileRaw t vl e = s.tileRaw t vl e := bytes_congr fun b _ _ => byte_of_frame rfl b

/-- What the steps of an MMA make of element `e` of its tile: its bits, and the status that they set. -/
def State.mmaResult (s : State) (o : MmaOp) (e : Nat) : Nat × Nat :=
  let ks := (stepK o.tag).getD 1
  mmaElem o (s.operandA o) (s.operandB o) ks (e / 32) (e % 32) ((o.vl + ks - 1) / ks) 0 (s.tileRaw o.tile 32 e, 0)
/-- Whether a poisoned operand reaches element `e` (R220). -/
def State.mmaBad (s : State) (o : MmaOp) (e : Nat) : Bool :=
  ((List.range o.vh).filter (fun r => (List.range o.vl).any (fun k => (s.operandA o (r * o.vl + k)).2))).contains (e / 32)
    || ((List.range 32).filter (fun c => (List.range o.vl).any (fun k => (s.operandB o (c * o.vl + k)).2))).contains (e % 32)

section
variable (he : s.errs = []) (o : MmaOp)
include he

/-- What the reads of an MMA leave alone. -/
theorem mmaReads_errs : (s.mmaReads o).errs = [] := by
  obtain ⟨ds, h⟩ := mmaReads_noErrs he o
  rw [h]
  exact he
theorem onlyMemory_mmaReads : OnlyMemory s (s.mmaReads o) := by
  obtain ⟨ds, h⟩ := mmaReads_noErrs he o
  exact ⟨_, _, _, _, ds, le_rfl, h⟩
theorem byte_mmaReads (b : Nat) : (s.mmaReads o).byte b = s.byte b := by
  obtain ⟨ds, h⟩ := mmaReads_noErrs he o
  rw [h]
  exact byte_of_frame rfl b
theorem poison_mmaReads : (s.mmaReads o).poison = s.poison := by
  obtain ⟨ds, h⟩ := mmaReads_noErrs he o
  rw [h]
theorem operandA_mmaReads : (s.mmaReads o).operandA o = s.operandA o := by
  obtain ⟨ds, h⟩ := mmaReads_noErrs he o
  rw [h, operandA_dies]
theorem operandB_mmaReads : (s.mmaReads o).operandB o = s.operandB o := by
  obtain ⟨ds, h⟩ := mmaReads_noErrs he o
  rw [h, operandB_dies]
theorem tileRaw_mmaReads (t vl e : Nat) : (s.mmaReads o).tileRaw t vl e = s.tileRaw t vl e := by
  obtain ⟨ds, h⟩ := mmaReads_noErrs he o
  rw [h, tileRaw_dies]

theorem tileStat_mmaReads (t : Nat) : (s.mmaReads o).tileStat t = s.tileStat t := by
  rw [State.tileStat, (onlyMemory_mmaReads he o).statPa]
  exact bytes_congr fun b _ _ => byte_mmaReads he o b

theorem mma_eq : s.mma o =
    (((List.range (32 * o.vh)).foldl (fun (u : State) e => u.putBytes (u.tileAt o.tile 32 e) 4 (s.mmaResult o e).1) (s.mmaReads o)).putStat
      o.tile ((List.range (32 * o.vh)).foldl (fun f e => f ||| (s.mmaResult o e).2) (s.tileStat o.tile % 64)) o.tag.isInt).poisonWhere
      o.tile 32 (32 * o.vh) (s.mmaBad o) := by
  unfold State.mma
  simp only [meetTile_noErrs (mmaReads_errs he o), operandA_mmaReads he, operandB_mmaReads he, tileRegion_eq, tileRaw_mmaReads he,
    tileStat_mmaReads he, List.map_map, zipIdx_map_range, List.foldl_map]
  rfl
end

theorem mmaResult_fst (hint : o.tag.isInt = true → IntOperand (s.operandB o)) {r c : Nat} (hc : c < 32) :
    (s.mmaResult o (r * 32 + c)).1 =
      (stepsOf o.vl ((stepK o.tag).getD 1)).foldl (mmaStep o (s.operandA o) (s.operandB o) r c) (s.bytes (s.tilePa o.tile r c) 4) := by
  rw [State.mmaResult, mmaElem_fst hint, ← stepsOf_eq, State.tileRaw, row_div hc, row_mod hc]

theorem mmaResult_lt (hint : o.tag.isInt = true → IntOperand (s.operandB o)) (e : Nat) : (s.mmaResult o e).1 < 256 ^ 4 := by
  rw [State.mmaResult, mmaElem_fst hint]
  exact foldl_mmaStep_lt (tileRaw_lt ..) _

theorem mmaBad_at {r c : Nat} (hr : r < o.vh) (hc : c < 32) : s.mmaBad o (r * 32 + c) =
    (List.range o.vl).any (fun k => (s.operandA o (r * o.vl + k)).2 || (s.operandB o (c * o.vl + k)).2) := by
  rw [Bool.eq_iff_iff, State.mmaBad, row_div hc, row_mod hc]
  simp [hr, hc, and_or_left, exists_or]

theorem filled_mma (he : s.errs = []) (hm : s.MarksPast) (hp : tilePlaced s o.tile) (hvh : o.vh ≤ 64)
    (hint : o.tag.isInt = true → IntOperand (s.operandB o)) :
    Filled s (s.mma o) o.tile 32 o.vh (fun e => (s.mmaResult o e).1) (fun e => s.poisonedAt (s.tileAt o.tile 32 e) 4 || s.mmaBad o e)
      ∧ (s.mma o).tileStat o.tile / 256 % 2 = if o.tag.isInt then 1 else 0 := by
  have hw := filled_writes (t := o.tile) (vl := 32) (vh := o.vh) le_rfl (by decide) hm (fun e _ => mmaResult_lt hint e) (onlyMemory_mmaReads he o)
    (byte_mmaReads he o) (poison_mmaReads he o)
  obtain ⟨hs, hstat⟩ := hw.putStat hp le_rfl hvh hm
    ((List.range (32 * o.vh)).foldl (fun f e => f ||| (s.mmaResult o e).2) (s.tileStat o.tile % 64)) o.tag.isInt
  obtain ⟨hf, hkeep⟩ := hs.poison hp le_rfl hvh (by decide) (s.mmaBad o)
  rw [mma_eq he]
  refine ⟨hf, ?_⟩
  rw [hkeep, hstat]
  generalize List.foldl (fun f e => f ||| (s.mmaResult o e).2) (s.tileStat o.tile % 64) (List.range (32 * o.vh)) = f
  have hle : f % 64 &&& 0x37 ≤ 0x37 := Nat.and_le_right
  split <;> omega
end

/-! ## The queue (R221, R222) -/

section
variable {s w : State} {q : MxOp} {rest : List MxOp} {h : Hart}

/-- What a piece of work does to the state, the queue apart. -/
def State.perform (s : State) : MxWork → State
  | .mma o => s.mma o
  | .ld t vl vh si status bits => ((s.meetTile t vl vh true).putTile t vl bits (vl * vh)).putStat t status.toNat si
  | .zero t si => ((s.meetTile t 32 64 true).putTile t 32 0 2048).putStat t 0 si

/-- A state with another hart in focus. -/
def State.withHart (w : State) (h : Hart) : State := { w with hart := h }

/-- The hart behind a piece of work: the work is out of its queue, and its token clear. -/
def Hart.dequeued (h : Hart) (q : MxOp) (rest : List MxOp) : Hart :=
  { h with mq := rest, tok := match q.tk with
      | some k => h.tok &&& ~~~BitVec.twoPow 8 k.toNat
      | none => h.tok }

/-- Work changes memory only, whatever tile it names. -/
theorem onlyMemory_store (a n v : Nat) : OnlyMemory s (s.store a n v) := by
  refine .trans (onlyMemory_putBytes (a := a) (n := n) (v := heldBits a n v)) ?_
  unfold State.store State.clearWhole
  split <;> exact onlyMemory_setUnits
theorem onlyMemory_putTile (t vl bits n : Nat) : OnlyMemory s (s.putTile t vl bits n) := by
  rw [putTile_eq]
  exact onlyMemory_foldl fun u e _ _ => onlyMemory_store ..
theorem onlyMemory_putStat (t f : Nat) (si : Bool) : OnlyMemory s (s.putStat t f si) := onlyMemory_putBytes
theorem onlyMemory_poisonWhere (t vl n : Nat) (c : Nat → Bool) : OnlyMemory s (s.poisonWhere t vl n c) := by
  obtain ⟨p, hp⟩ := poisonWhere_eq s t vl n c
  exact ⟨_, _, _, _, _, le_rfl, hp⟩
theorem onlyMemory_mma (he : s.errs = []) (o : MmaOp) : OnlyMemory s (s.mma o) := by
  rw [mma_eq he]
  refine .trans ?_ (onlyMemory_poisonWhere ..)
  refine .trans ?_ (onlyMemory_putStat ..)
  exact .trans (onlyMemory_mmaReads he o) (onlyMemory_foldl fun _ _ _ _ => onlyMemory_putBytes)

theorem perform_ld (he : s.errs = []) (t vl vh : Nat) (si : Bool) (status : BitVec 8) (bits : Nat) :
    s.perform (.ld t vl vh si status bits) = (s.putTile t vl bits (vl * vh)).putStat t status.toNat si := by
  rw [State.perform, meetTile_noErrs he]
theorem perform_zero (he : s.errs = []) (t : Nat) (si : Bool) : s.perform (.zero t si) = (s.putTile t 32 0 (32 * 64)).putStat t 0 si := by
  rw [State.perform, meetTile_noErrs he]

theorem onlyMemory_perform (he : s.errs = []) (k : MxWork) : OnlyMemory s (s.perform k) := by
  cases k with
  | mma o => exact onlyMemory_mma he o
  | ld t vl vh si status bits =>
    rw [perform_ld he]
    exact (onlyMemory_putTile ..).trans (onlyMemory_putStat ..)
  | zero t si =>
    rw [perform_zero he]
    exact (onlyMemory_putTile ..).trans (onlyMemory_putStat ..)

/-- The queue goes on behind its first work, unless a hart that ends has no other (R359). -/
theorem matrixNext_of_mq (hq : s.hart.mq = q :: rest) : s.matrixNext =
    let w := s.perform q.work
    let u := w.withHart (w.hart.dequeued q rest)
    if rest.isEmpty ∧ u.hart.run = .ending then u.endHart u.hart.hid else u := by
  obtain ⟨k, tk⟩ := q
  rw [State.matrixNext, hq]
  cases tk <;> rfl

theorem matrixNext_eq (hq : s.hart.mq = q :: rest) (ho : OnlyMemory s (s.perform q.work)) (hrun : rest = [] → s.hart.run ≠ .ending) :
    s.matrixNext = (s.perform q.work).withHart (s.hart.dequeued q rest) := by
  have hhart : (s.perform q.work).hart = s.hart := by
    obtain ⟨_, _, _, _, _, -, hw⟩ := ho
    rw [hw]
  have hend : ¬(rest.isEmpty ∧ s.hart.run = .ending) := fun ⟨h1, h2⟩ => hrun (List.isEmpty_iff.1 h1) h2
  rw [matrixNext_of_mq hq]
  dsimp only
  rw [hhart]
  exact if_neg hend

theorem exec_matrixQueueExecute (hin : s.input = .hart s.hart.hid.toNat) (hq : s.hart.mq = q :: rest) (ho : OnlyMemory s (s.perform q.work))
    (hrun : rest = [] → s.hart.run ≠ .ending) :
    exec .matrixQueueExecute s = .next ((s.perform q.work).withHart (s.hart.dequeued q rest)) := by
  have hx : exec .matrixQueueExecute s = .next (s.onHart (BitVec.ofNat 20 s.hart.hid.toNat) State.matrixNext) := by
    change execMatrixQueueExecute s = _
    rw [execMatrixQueueExecute, hin]
  have hfocus (u : State) : u.focus u.hart.hid = u := if_pos rfl
  rw [hx, State.onHart, BitVec.ofNat_toNat, BitVec.setWidth_eq, hfocus, matrixNext_eq hq ho hrun]
  exact congrArg _ (hfocus ((s.perform q.work).withHart (s.hart.dequeued q rest)))

/-! ## What O42 says of the state behind the work -/

section
variable (hh : h.hid = w.hart.hid)

theorem byte_withHart (w : State) (h : Hart) (b : Nat) : (w.withHart h).byte b = w.byte b := byte_of_frame rfl b
theorem bytes_withHart (w : State) (h : Hart) (a n : Nat) : (w.withHart h).bytes a n = w.bytes a n :=
  bytes_congr fun b _ _ => byte_withHart w h b
theorem poisonedAt_withHart (w : State) (h : Hart) (a n : Nat) : (w.withHart h).poisonedAt a n = w.poisonedAt a n :=
  poisonedAt_congr rfl

include hh
theorem tilePa_withHart (t r c : Nat) : (w.withHart h).tilePa t r c = w.tilePa t r c := by
  unfold State.tilePa State.accSlot
  rw [show (w.withHart h).hart.hid = w.hart.hid from hh]
  rfl
theorem tileStat_withHart (t : Nat) : (w.withHart h).tileStat t = w.tileStat t := by
  unfold State.tileStat State.statPa State.accSlot
  rw [show (w.withHart h).hart.hid = w.hart.hid from hh, bytes_withHart]
end

theorem hid_dequeued (ho : OnlyMemory s w) : (s.hart.dequeued q rest).hid = w.hart.hid := by
  obtain ⟨_, _, _, _, _, -, rfl⟩ := ho
  rfl

/-- The elements of a region where the hart's queue has gone on. -/
theorem Filled.at_withHart {t vl vh : Nat} {v : Nat → Nat} {p : Nat → Bool} (hf : Filled s w t vl vh v p) (hh : h.hid = w.hart.hid)
    {r c : Nat} (hr : r < vh) (hc : c < vl) :
    let u := w.withHart h
    u.bytes (u.tilePa t r c) 4 = v (r * vl + c) ∧ u.poisonedAt (u.tilePa t r c) 4 = p (r * vl + c) := by
  intro u
  rw [tilePa_withHart hh, bytes_withHart, poisonedAt_withHart]
  exact hf.at hr hc

theorem Filled.frame_withHart {t vl vh : Nat} {v : Nat → Nat} {p : Nat → Bool} (hf : Filled s w t vl vh v p) (h0 : 0 < vl) (h : Hart) :
    onlyTile s (w.withHart h) t vl vh := fun a h1 h2 => (byte_withHart w h a).trans (hf.frame h0 a h1 h2)
end

/-- Settles O42: the work writes its region element by element, then the status word; the queue goes on behind it. -/
theorem matrixWork : Obligations.MatrixWork := by
  intro s q rest hin hq hm he hrun
  have ho := onlyMemory_perform he q.work
  have hh : (s.hart.dequeued q rest).hid = (s.perform q.work).hart.hid := hid_dequeued ho
  refine ⟨_, exec_matrixQueueExecute hin hq ho hrun, rfl, ?_, ?_⟩
  · obtain ⟨_, _, _, _, _, -, hw⟩ := ho
    rw [hw, State.withHart]
  generalize s.hart.dequeued q rest = h at hh
  obtain ⟨k, tk⟩ := q
  cases k with
  | ld t vl vh si status bits =>
    intro hp hvl hvh h0
    dsimp only at hh ⊢
    rw [perform_ld he] at hh ⊢
    obtain ⟨hf, hstat⟩ := filled_putTile hm hp h0 hvl hvh bits status.toNat si
    refine ⟨fun r c hr hc => hf.at_withHart hh hr hc, ?_, hf.frame_withHart h0 h⟩
    rw [tileStat_withHart hh, hstat, statBits_mod]
  | zero t si =>
    intro hp
    dsimp only at hh ⊢
    rw [perform_zero he] at hh ⊢
    obtain ⟨hf, hstat⟩ := filled_putTile hm hp (vl := 32) (vh := 64) (by decide) le_rfl le_rfl 0 0 si
    refine ⟨fun r c hr hc => (hf.at_withHart hh hr hc).1.trans ?_, ?_, hf.frame_withHart (by decide) h⟩
    · simp [elemAt]
    · rw [tileStat_withHart hh, hstat]
      simp
  | mma o =>
    intro hp hvh hs a b
    have hint : o.tag.isInt = true → IntOperand (s.operandB o) := fun ht =>
      intOperand_operandB ht (Bool.eq_false_iff.2 fun hscl => Bool.eq_false_iff.1 (hs hscl) ht)
    obtain ⟨hf, hstat⟩ := filled_mma he hm hp hvh hint
    refine ⟨fun r c hr hc => ?_, (congrArg (· / 256 % 2) (tileStat_withHart hh o.tile)).trans hstat, hf.frame_withHart (by decide) h⟩
    obtain ⟨hv, hb⟩ := hf.at_withHart hh hr hc
    refine ⟨hv.trans (mmaResult_fst hint hc), hb.trans ?_⟩
    rw [mmaBad_at hr hc, State.tileAt, row_div hc, row_mod hc]
end Sys2Proof.Machine
end

section
/-! SUPPORT. Launching, giving way and aborting outside the invariant `State.Named` (O22, O23, O51): variants of the state `misnamed`, in which
a trap that becomes pending on "hart 5" puts the hart that is listed there in the place of the hart in focus. -/

namespace Sys2Proof.Machine
open Sys2Proof

/-! ## What the frame of an instruction says of the instructions ahead -/

/-- The hart in focus has nothing performed ahead behind an instruction that kept the hart and then completed, if it had nothing before. -/
theorem SameHart.ahead_completed {s t : State} (h : SameHart s t) (hs : s.hart.ahead = []) (xd : XReg) (v : Word) :
    (t.setX xd v).completed.hart.ahead = [] := by
  have ht : t.hart.ahead = [] := (congrArg Hart.ahead h).trans hs
  simp [ht]

/-- Whether the next state of an outcome has one instruction performed ahead: the second of the two that the hart listed under number 5 had. -/
def nextAheadOne (o : Host.Outcome State Fault Refusal) : Bool := nextShows (fun u => u.hart.ahead.length == 1) o

/-- An instruction that puts the hart listed under number 5 in the place of the hart in focus does not keep that hart. -/
theorem not_sameHart_of_nextAheadOne {s t : State} {o : Host.Outcome State Fault Refusal} {xd : XReg} {v : Word} (hs : s.hart.ahead = [])
    (ho : nextAheadOne o = true) (ht : o = .next (t.setX xd v).completed) : ¬SameHart s t := by
  intro h
  subst ht
  have hl : (t.setX xd v).completed.hart.ahead.length = 1 := beq_iff_eq.1 ho
  rw [h.ahead_completed hs xd v] at hl
  exact absurd hl (by decide)

/-! ## LNCH meets an error in the packet (R123, R285) -/

/-- The stored error lies in the packet, 64 bytes of zeros at address 0; its queue 0 is enabled, and has room. -/
def misnamedLaunching : State := (misnamed 0).updQueue 0 (fun q => { q with en := true, qseq := 1 })
/-- The packet as LNCH reads it. -/
def misnamedPacket : Except MemFault (Nat × Bool) × State := misnamedLaunching.load (misnamedLaunching.req .scalar) (misnamedLaunching.x 0) 64

theorem misnamedLaunching_ready : misnamedLaunching.Ready 0 ∧ misnamedLaunching.hart.isMgmt = false
    ∧ misnamedLaunching.hart.guard (Hdr.plain 0).grd = true ∧ misnamedLaunching.NoFlips ∧ (misnamedLaunching.x 0).toNat % 64 = 0
    ∧ misnamedLaunching.hart.ahead = [] := by decide +kernel

/-- The packet is not poisoned, its queue is of the hart's tenant, and it is not refused. -/
theorem misnamedPacket_accepted : misnamedPacket.1.toOption = some (0, false)
    ∧ (misnamedPacket.2.queue (pkQueue 0)).tenant = misnamedPacket.2.hart.tenant
    ∧ misnamedPacket.2.refusal 0 (pkQueue 0) (misnamedPacket.2.hart.mode == .s) = none := by decide +kernel

theorem lnch_nextAheadOne : nextAheadOne (exec (.lnch (.plain 0) 0 0) misnamedLaunching) = true := by decide +kernel

/-- Refutes O22: outside the invariant `State.Named`, which the statement does not ask for, the error that LNCH meets as it reads its packet
replaces the hart in focus, so the frame `SameHart` fails. -/
theorem not_launchesEnterTheirQueues : ¬ Obligations.LaunchesEnterTheirQueues := by
  rintro ⟨h, -⟩
  obtain ⟨hr, hm, hg, hf, hal, ha⟩ := misnamedLaunching_ready
  obtain ⟨hp, ht, hc⟩ := misnamedPacket_accepted
  obtain ⟨-, -, hload⟩ := h misnamedLaunching misnamedPacket.2 (.plain 0) 0 0 0 hr hm hg hf
  obtain ⟨t, l, hexec, -, -, -, -, -, -, -, -, -, hsame, -⟩ := ((hload hal (eq_ok_of_toOption hp)).2 ht).2 hc
  exact not_sameHart_of_nextAheadOne ha lnch_nextAheadOne hexec hsame

/-! ## YIELD gives way (R128) -/

/-- Each cluster is full of a gang of the hart's launch, and the hart's own gang in cluster 0 lists harts 0 and 5 as live; a launch of queue 1
waits for a place. -/
def misnamedYielding : State :=
  let s := misnamed 0
  { s with
    gangs := (List.range 256).flatMap (fun c => s.gangs.map (fun g => { g with num := c, cl := c, live := if c = 0 then [0, 5] else [] }))
    launches := s.launches ++ s.launches.map (fun l => { l with lid := ⟨1, 0⟩ }) }
theorem misnamedYielding_ready : misnamedYielding.Ready 0 ∧ misnamedYielding.hart.guard (Hdr.plain 0).grd = true
    ∧ misnamedYielding.hart.ahead = [] := by decide +kernel

theorem misnamedYielding_givesWay : ∃ gg ∈ misnamedYielding.gangOf misnamedYielding.hart.hid,
    ∃ l ∈ misnamedYielding.hart.launch.bind misnamedYielding.launchOf, ∃ o ∈ misnamedYielding.yieldFor gg l,
      gg.st = .resident ∧ gg ∈ misnamedYielding.gangs := by decide +kernel

theorem yield_nextAheadOne : nextAheadOne (exec (.yield (.plain 0) 0) misnamedYielding) = true := by decide +kernel

/-- Refutes O23: outside the invariant `State.Named`, which the statement does not ask for, the PREEMPT that YIELD makes pending on the live
harts of its gang replaces the hart in focus, so the frame `SameHart` fails. -/
theorem not_gangInstructions : ¬ Obligations.GangInstructions := by
  rintro ⟨-, -, h, -⟩
  obtain ⟨hr, hg, ha⟩ := misnamedYielding_ready
  obtain ⟨gg, hgg, l, hl, o, ho, hst, hmem⟩ := misnamedYielding_givesWay
  obtain ⟨-, -, hgives⟩ := (h misnamedYielding (.plain 0) 0 hr hg).2 gg l hgg hl
  obtain ⟨t, hexec, -, hsame, -⟩ := hgives o hst ho hmem
  exact not_sameHart_of_nextAheadOne ha yield_nextAheadOne hexec hsame

/-! ## QABORT aborts a running launch (R108, R310) -/

/-- The launch of the hart's gang is PLACING and is named by a QABORT; the gang lists harts 0 and 5 as live, and the hart that stands under
number 5 is one instruction further. -/
def misnamedAborting : State :=
  let s := misnamed 0
  { s with
    input := .work 0 0 0
    rest := [(5, { misnamedHart with pc := 0x108 })]
    launches := s.launches.map (fun l => { l with st := .placing })
    gangs := s.gangs.map (fun g => { g with live := [0, 5] }) }

theorem misnamedAborting_live : ∃ l ∈ misnamedAborting.launchOf ⟨0, 0⟩, l.st = .placing
    ∧ ∃ g ∈ misnamedAborting.gangs, g.lid = ⟨0, 0⟩ ∧ g.st ≠ .parked ∧ (0#20).toNat ∈ g.live ∧ (misnamedAborting.getHart 0).hid = 0 := by
  decide +kernel

theorem qabort_moves_pc : nextShows (fun u => (u.getHart 0).pc == 0x108) (exec .qabort misnamedAborting) = true
    ∧ (misnamedAborting.getHart 0).pc = 0x100 := by decide +kernel

/-- Refutes O51: outside the invariant `State.Named`, which the statement does not ask for, the LAUNCH_ABORT that QABORT makes pending on
"hart 5" replaces the hart in focus, so that hart does not keep its program counter. -/
theorem not_schedulerDecides : ¬ Obligations.SchedulerDecides := by
  rintro ⟨-, -, -, h⟩
  obtain ⟨l, hl, hst, g, hgm, hlid, hpk, hlive, hhid⟩ := misnamedAborting_live
  obtain ⟨hu, hpc⟩ := qabort_moves_pc
  obtain ⟨habort, -⟩ := h misnamedAborting 0 0 0 l
  obtain ⟨-, -, -, hrunning⟩ := habort rfl
  obtain ⟨u, hexec, -, -, -, hharts⟩ := hrunning hl (.inl hst)
  obtain ⟨-, -, -, -, -, hkeeps⟩ := hharts g hgm hlid hpk 0 hlive hhid
  rw [hexec] at hu
  have hmoved : (u.getHart 0).pc = 0x108 := beq_iff_eq.1 hu
  rw [hkeeps, hpc] at hmoved
  exact absurd hmoved (by decide)

/-- None of the three states satisfies the part `State.Named` of the invariant. -/
theorem not_named_misnamedVariants : ¬misnamedLaunching.Named ∧ ¬misnamedYielding.Named ∧ ¬misnamedAborting.Named := by decide +kernel

end Sys2Proof.Machine
end

section
/-! SUPPORT. The hardwired registers, addresses, and the results of the integer instructions (R44, R130, R131, R137 to R141, R145): O5, O2
and O1. -/

namespace Sys2Proof.Machine
open Sys2Proof Sys2Proof.Spec

/-! ## Registers (R130, R131) -/

/-- Settles O5, by the laws of reads behind writes. -/
theorem hardwiredRegisters : Obligations.HardwiredRegisters := fun _ _ _ _ _ _ _ =>
  ⟨rfl, rfl, rfl, rfl, State.x_setX_self, State.x_setX_other, getP_setP_self, getP_setP_other, Hart.setX_p .., Hart.setP_x ..⟩

/-! ## Addresses (R45, R145) -/

/-- The SI format as a number (R44). -/
theorem toNat_encSI (op : BitVec 8) (g : Hdr) (d a : BitVec 6) (fn : BitVec 4) (imm : BitVec 27) :
    (encSI op g d a fn imm).toNat = op.toNat * 2 ^ 56 + g.pg.toNat * 2 ^ 52 + g.pn.toNat * 2 ^ 51 + g.wm.toNat * 2 ^ 43
      + d.toNat * 2 ^ 37 + a.toNat * 2 ^ 31 + fn.toNat * 2 ^ 27 + imm.toNat := by
  simp only [encSI, encHead, toNat_append_add, BitVec.toNat_ofBool]
  ring

/-- The immediate field of an indexed address (R45): index register, zeros, scale. -/
theorem toNat_indexField (xb : XReg) (k : BitVec 2) : (xb ++ 0#19 ++ k : BitVec 27).toNat = xb.toNat * 2 ^ 21 + k.toNat := by
  simp only [toNat_append_add, BitVec.toNat_ofNat]
  omega

/-- Settles O2: the word is its fields, and the body is one effect. -/
theorem addressesAreComputed : Obligations.AddressesAreComputed := by
  intro s g xd xa xb imm k
  refine ⟨toNat_encSI .., ?_, fun h => ⟨issue_done h .., ?_⟩⟩
  · rw [← toNat_indexField]
    exact toNat_encSI ..
  · have hk : 1#64 <<< k.toNat = BitVec.ofNat 64 (2 ^ k.toNat) := BitVec.eq_of_toNat_eq (by simp [Nat.one_shiftLeft])
    rw [← hk]
    exact issue_done h ..

/-! ## ALU (R137) -/

theorem slt_iff (a b : Word) : a.slt b = true ↔ a.toInt < b.toInt := decide_eq_true_iff
theorem ult_iff (a b : Word) : a.ult b = true ↔ a.toNat < b.toNat := decide_eq_true_iff

section
variable {β : Type} [LinearOrder β] {f : Word → β} (hf : ∀ a b, f a = f b → a = b) (a b : Word)
include hf

/-- Of two words with equal values it does not matter which one is the lesser. -/
theorem lesser_eq : (if f a < f b then a else b) = if f a ≤ f b then a else b := by
  obtain h | h | h := lt_trichotomy (f a) (f b)
  · rw [if_pos h, if_pos h.le]
  · rw [hf a b h, ite_self, ite_self]
  · rw [if_neg h.not_gt, if_neg h.not_ge]
theorem greater_eq : (if f a < f b then b else a) = if f a ≤ f b then b else a := by
  obtain h | h | h := lt_trichotomy (f a) (f b)
  · rw [if_pos h, if_pos h.le]
  · rw [hf a b h, ite_self, ite_self]
  · rw [if_neg h.not_gt, if_neg h.not_ge]
end

theorem aluMin_eq (a b : Word) : aluMin a b = if a.toInt ≤ b.toInt then a else b :=
  (if_congr (slt_iff a b) rfl rfl).trans (lesser_eq (fun _ _ => BitVec.eq_of_toInt_eq) a b)
theorem aluMax_eq (a b : Word) : aluMax a b = if a.toInt ≤ b.toInt then b else a :=
  (if_congr (slt_iff a b) rfl rfl).trans (greater_eq (fun _ _ => BitVec.eq_of_toInt_eq) a b)
theorem aluMinu_eq (a b : Word) : aluMinu a b = if a.toNat ≤ b.toNat then a else b :=
  (if_congr (ult_iff a b) rfl rfl).trans (lesser_eq (fun _ _ => BitVec.eq_of_toNat_eq) a b)
theorem aluMaxu_eq (a b : Word) : aluMaxu a b = if a.toNat ≤ b.toNat then b else a :=
  (if_congr (ult_iff a b) rfl rfl).trans (greater_eq (fun _ _ => BitVec.eq_of_toNat_eq) a b)
theorem aluSlt_eq (a b : Word) : aluSlt a b = if a.toInt < b.toInt then 1 else 0 := if_congr (slt_iff a b) rfl rfl
theorem aluSltu_eq (a b : Word) : aluSltu a b = if a.toNat < b.toNat then 1 else 0 := if_congr (ult_iff a b) rfl rfl

theorem shamt_eq (b : Word) : shamt b = b.toNat % 64 := by simp [shamt]

/-! ## Multiply and divide (R138) -/

theorem mul_eq (a b : Word) : a * b = BitVec.ofNat 64 (a.toNat * b.toNat) := BitVec.eq_of_toNat_eq (BitVec.toNat_mul a b)
theorem mulh_eq (a b : Word) : mulh a b = BitVec.ofInt 64 (a.toInt * b.toInt / 2 ^ 64) := rfl
theorem remS_eq (a b : Word) : remS a b = if b = 0 then a else BitVec.ofInt 64 (a.toInt.tmod b.toInt) := by
  rw [remS, ← Int.tmod_def]

/-! ## Bits (R139, R141) -/

theorem foldl_or_eq (bs : List Nat) (r : Word) : bs.foldl (fun r i => r ||| BitVec.twoPow 64 i) r = r ||| wordOf bs := by
  induction bs generalizing r with
  | nil => exact BitVec.or_zero.symm
  | cons i bs ih => rw [wordOf, List.foldl_cons, List.foldl_cons, ih, ih (0 ||| _), BitVec.or_assoc, BitVec.ofNat_eq_ofNat, BitVec.zero_or]

theorem wordOf_cons (i : Nat) (bs : List Nat) : wordOf (i :: bs) = BitVec.twoPow 64 i ||| wordOf bs := by
  rw [wordOf, List.foldl_cons, foldl_or_eq, BitVec.ofNat_eq_ofNat, BitVec.zero_or]

theorem getLsbD_wordOf (bs : List Nat) {i : Nat} (hi : i < 64) : (wordOf bs).getLsbD i = decide (i ∈ bs) := by
  induction bs with
  | nil => simp [wordOf]
  | cons j bs ih =>
    rw [wordOf_cons, BitVec.getLsbD_or, ih, BitVec.getLsbD_twoPow, Bool.eq_iff_iff]
    simp only [Bool.or_eq_true, Bool.and_eq_true, decide_eq_true_eq, List.mem_cons]
    exact or_congr_left (by omega)

theorem mem_setBits (b : Word) {i : Nat} (hi : i < 64) : i ∈ setBits b ↔ b.getLsbD i = true := by
  simp [setBits, hi]

/-- The word of the chosen members of a list, one at a time. -/
theorem wordOf_filter_map_cons (p : Nat × Nat) (ps : List (Nat × Nat)) (c : Nat × Nat → Bool) (f : Nat × Nat → Nat) :
    wordOf (((p :: ps).filter c).map f) = (if c p then BitVec.twoPow 64 (f p) else 0) ||| wordOf ((ps.filter c).map f) := by
  rw [List.filter_cons]
  split
  · rw [List.map_cons, wordOf_cons]
  · exact (BitVec.zero_or ..).symm

section
variable (a b : Word)

/-- The set bits of B from position `i` on, below `i + n`, with their ranks from `j` on. -/
def rankedBits (n i j : Nat) : List (Nat × Nat) := ((List.range' i n).filter (fun k => b.getLsbD k)).zipIdx j

theorem rankedBits_succ (n i j : Nat) :
    rankedBits b (n + 1) i j = if b.getLsbD i then (i, j) :: rankedBits b n (i + 1) (j + 1) else rankedBits b n (i + 1) j := by
  rw [rankedBits, List.range'_succ, List.filter_cons]
  split <;> rfl

theorem rankedBits_all : rankedBits b 64 0 0 = (setBits b).zipIdx := by
  rw [rankedBits, ← List.range_eq_range', setBits]

theorem bextGo_eq (n i j : Nat) : bextGo a b n i j = wordOf (((rankedBits b n i j).filter (fun p => a.getLsbD p.1)).map (·.2)) := by
  induction n generalizing i j with
  | zero => rfl
  | succ n ih =>
    rw [bextGo, rankedBits_succ, ih, ih]
    split
    · rw [wordOf_filter_map_cons]
    · rfl

theorem bdepGo_eq (n i j : Nat) : bdepGo a b n i j = wordOf (((rankedBits b n i j).filter (fun p => a.getLsbD p.2)).map (·.1)) := by
  induction n generalizing i j with
  | zero => rfl
  | succ n ih =>
    rw [bdepGo, rankedBits_succ, ih, ih]
    split
    · rw [wordOf_filter_map_cons]
    · rfl

theorem bext_eq : bext a b = wordOf (((setBits b).zipIdx.filter (fun p => a.getLsbD p.1)).map (·.2)) := by
  rw [bext, bextGo_eq, rankedBits_all]
theorem bdep_eq : bdep a b = wordOf (((setBits b).zipIdx.filter (fun p => a.getLsbD p.2)).map (·.1)) := by
  rw [bdep, bdepGo_eq, rankedBits_all]

theorem clz_eq : clz a = if a = 0 then 64 else BitVec.ofNat 64 (63 - a.toNat.log2) := by
  rw [clz, clzN, Nat.mod_eq_of_lt a.isLt, apply_ite (BitVec.ofNat 64)]
  exact if_congr (by rw [← BitVec.toNat_inj]; rfl) rfl rfl
theorem ctz_eq : ctz a = BitVec.ofNat 64 ((setBits a).headD 64) := by
  rw [ctz, firstFrom_eq_find?, ← List.range_eq_range', ← List.head?_filter, List.headD_eq_head?_getD, setBits]
theorem popc_eq : popc a = BitVec.ofNat 64 (setBits a).length := by rw [popc, countLow_eq_length, setBits]

theorem reverse_eq : a.reverse = wordOf ((setBits a).map (fun i => 63 - i)) := by
  ext i hi
  have hmem : i ∈ (setBits a).map (fun k => 63 - k) ↔ a.getLsbD (63 - i) = true := by
    rw [List.mem_map, ← mem_setBits a (by omega)]
    constructor
    · rintro ⟨k, hk, rfl⟩
      have : k < 64 := List.mem_range.1 (List.mem_filter.1 hk).1
      rwa [show 63 - (63 - k) = k by omega]
    · exact fun h => ⟨63 - i, h, by omega⟩
  rw [← BitVec.getLsbD_eq_getElem, ← BitVec.getLsbD_eq_getElem, getLsbD_wordOf _ hi, BitVec.getLsbD_reverse, BitVec.getMsbD,
    decide_eq_true hi, Bool.true_and, Bool.eq_iff_iff, decide_eq_true_iff]
  exact hmem.symm

theorem pamk_eq : 0#12 ++ a.extractLsb' 0 11 ++ b.extractLsb' 0 41 = BitVec.ofNat 64 (a.toNat % 2 ^ 11 * 2 ^ 41 + b.toNat % 2 ^ 41) := by
  apply BitVec.eq_of_toNat_eq
  simp only [toNat_append_add, BitVec.extractLsb'_toNat, BitVec.toNat_ofNat, Nat.shiftRight_zero]
  omega
theorem pax_eq : (a.extractLsb' 41 11).setWidth 64 = BitVec.ofNat 64 (a.toNat / 2 ^ 41 % 2 ^ 11) := by
  apply BitVec.eq_of_toNat_eq
  simp [BitVec.extractLsb'_toNat, Nat.shiftRight_eq_div_pow]
/-- LIH keeps the low 37 bits (R140). -/
theorem lih_eq (imm : BitVec 27) : imm ++ a.extractLsb' 0 37 = BitVec.ofNat 64 (imm.toNat * 2 ^ 37 + a.toNat % 2 ^ 37) := by
  apply BitVec.eq_of_toNat_eq
  simp only [toNat_append_add, BitVec.extractLsb'_toNat, BitVec.toNat_ofNat, Nat.shiftRight_zero]
  omega
end

/-! ## The tables of results -/

/-- An instruction on two registers writes what `f` gives for them, and does nothing else. -/
def RegResult (op : Hdr → XReg → XReg → XReg → Instr) (f : Word → Word → Word) : Prop :=
  ∀ (s : State) (g : Hdr) (xd xa xb : XReg), s.Ready g.wm → exec (op g xd xa xb) s = guarded s g (s.setX xd (f (s.x xa) (s.x xb)))
/-- The same of an instruction on a register and the sign-extended immediate. -/
def ImmResult (op : Hdr → XReg → XReg → BitVec 27 → Instr) (f : Word → Word → Word) : Prop :=
  ∀ (s : State) (g : Hdr) (xd xa : XReg) (imm : BitVec 27), s.Ready g.wm →
    exec (op g xd xa imm) s = guarded s g (s.setX xd (f (s.x xa) (imm.signExtend 64)))
/-- The same of an instruction on one register. -/
def OneResult (op : Hdr → XReg → XReg → Instr) (f : Word → Word) : Prop :=
  ∀ (s : State) (g : Hdr) (xd xa : XReg), s.Ready g.wm → exec (op g xd xa) s = guarded s g (s.setX xd (f (s.x xa)))

theorem regResult {op : Hdr → XReg → XReg → XReg → Instr} {f f' : Word → Word → Word} (hf : ∀ a b, f a b = f' a b)
    (hx : ∀ g xd xa xb s, exec (op g xd xa xb) s = regReg (op g xd xa xb) g xd xa xb f s := by intros; rfl) : RegResult op f' := by
  intro s g xd xa xb h
  rw [hx, ← hf]
  exact issue_done h ..
theorem immResult {op : Hdr → XReg → XReg → BitVec 27 → Instr} {f f' : Word → Word → Word} (hf : ∀ a b, f a b = f' a b)
    (hx : ∀ g xd xa imm s, exec (op g xd xa imm) s = regImm (op g xd xa imm) g xd xa imm f s := by intros; rfl) : ImmResult op f' := by
  intro s g xd xa imm h
  rw [hx, ← hf]
  exact issue_done h ..
theorem oneResult {op : Hdr → XReg → XReg → Instr} {f f' : Word → Word} (hf : ∀ a, f a = f' a)
    (hx : ∀ g xd xa s, exec (op g xd xa) s = regOne (op g xd xa) g xd xa f s := by intros; rfl) : OneResult op f' := by
  intro s g xd xa h
  rw [hx, ← hf]
  exact issue_done h ..

/-- A shift by the count of R137. -/
theorem shift_eq (f : Word → Nat → Word) (a b : Word) : f a (shamt b) = f a (b.toNat % 64) := by rw [shamt_eq]

/-- The instructions on two registers, in the order of the table. -/
theorem registerResults : Spec.RegisterResults := by
  suffices h : ∀ p ∈ regOps, RegResult p.1 p.2 from h
  simp only [regOps, List.forall_mem_cons]
  exact ⟨regResult fun _ _ => rfl, regResult fun _ _ => rfl, regResult fun _ _ => rfl, regResult fun _ _ => rfl,
    regResult fun _ _ => rfl, regResult fun _ _ => rfl,
    regResult (shift_eq _), regResult (shift_eq _), regResult (shift_eq _), regResult (shift_eq _),
    regResult aluMin_eq, regResult aluMax_eq, regResult aluMinu_eq, regResult aluMaxu_eq, regResult aluSlt_eq, regResult aluSltu_eq,
    regResult mul_eq, regResult mulh_eq, regResult (f := mulhu) fun _ _ => rfl,
    regResult (f := divS) fun _ _ => rfl, regResult (f := divU) fun _ _ => rfl, regResult remS_eq, regResult (f := remU) fun _ _ => rfl,
    regResult bext_eq, regResult bdep_eq, regResult pamk_eq, List.forall_mem_nil _⟩

/-- The same with an immediate: the ALU again. -/
theorem immediateResults : Spec.ImmediateResults := by
  suffices h : ∀ p ∈ immOps, ImmResult p.1 p.2 from h
  simp only [immOps, List.forall_mem_cons]
  exact ⟨immResult fun _ _ => rfl, immResult fun _ _ => rfl, immResult fun _ _ => rfl, immResult fun _ _ => rfl,
    immResult fun _ _ => rfl, immResult fun _ _ => rfl,
    immResult (shift_eq _), immResult (shift_eq _), immResult (shift_eq _), immResult (shift_eq _),
    immResult aluMin_eq, immResult aluMax_eq, immResult aluMinu_eq, immResult aluMaxu_eq, immResult aluSlt_eq, immResult aluSltu_eq,
    List.forall_mem_nil _⟩

/-- The counts and the constants. -/
theorem constantsAndCounts : Spec.ConstantsAndCounts := by
  intro s g xd xa h
  refine ⟨?_, fun imm => issue_done h .., fun imm => ?_⟩
  · suffices hone : ∀ p ∈ oneOps, OneResult p.1 p.2 from fun p hp => hone p hp s g xd xa h
    simp only [oneOps, List.forall_mem_cons]
    exact ⟨oneResult clz_eq, oneResult ctz_eq, oneResult popc_eq, oneResult reverse_eq, oneResult pax_eq, List.forall_mem_nil _⟩
  · rw [← lih_eq]
    exact issue_done h ..

/-- Settles O1: the three parts. -/
theorem integerResults : Obligations.IntegerResults := ⟨registerResults, immediateResults, constantsAndCounts⟩

end Sys2Proof.Machine
end

section
/-! SUPPORT. Scalar floating point (R86 to R88, R92, R147 to R150): results rounded once with their flags, minima and maxima by the injectivity of the
patterns, conversions and compares: O9 and O10. -/

namespace Sys2Proof.Machine
open Sys2Proof Sys2Proof.Spec

/-! ## Flags and the generator (R88, R92) -/

/-- A flag changes no bit of the generator. -/
theorem seed_raise (c : Word) (f : Flags) : (c ||| f.setWidth 64).extractLsb' 32 32 = c.extractLsb' 32 32 := by
  ext i hi
  simp [BitVec.getLsbD_of_ge f (32 + i) (by omega)]

/-- `fcsr` behind a result: its flags, and the generator one step on where the instruction has drawn. -/
def Hart.fcsrAfter (h : Hart) (f : Flags) (draws : Bool) : Word :=
  if draws then seedNext h.seed ++ (h.fcsr ||| f.setWidth 64).extractLsb' 0 32 else h.fcsr ||| f.setWidth 64

theorem fpEffect_eq (s : State) (f : Flags) (m : RMode) (b : Bool) :
    s.fpEffect f m b = s.upd (fun h => { h with fcsr := s.hart.fcsrAfter f (b && m == .sr) }) := by
  rw [State.fpEffect, State.advanceSeed, Hart.fcsrAfter]
  split
  · have hs : (s.raise f).hart.seed = s.hart.seed := seed_raise ..
    rw [State.upd, hs]
    rfl
  · rfl

/-! ## Arithmetic (R147, R148) -/

theorem fx_eq (s : State) (sgl : Bool) (i : XReg) : s.fx sgl i = fpIn s sgl i := by
  cases sgl with
  | true => rfl
  | false => exact congrArg fp64.value (Nat.mod_eq_of_lt (s.x i).isLt)

theorem putFp_eq (s : State) (sgl : Bool) (rnd : BitVec 2) (xd : XReg) (r : Exact × Flags) : s.putFp sgl rnd xd r = fpResult s sgl rnd xd r := by
  rw [State.putFp, fpResult]
  simp only [fpEffect_eq, Hart.fcsrAfter, Bool.true_and, beq_iff_eq, fpOf]

/-- The arithmetic instructions: one effect each, on the values of their registers. -/
theorem floatingPointArithmetic : Spec.FloatingPointArithmetic := by
  intro s g sgl xd xa xb xc rnd h d
  simp only [← fx_eq, ← putFp_eq]
  refine ⟨?_, issue_done h .., issue_done h ..⟩
  simp only [fpOps, List.forall_mem_cons]
  exact ⟨issue_done h .., issue_done h .., issue_done h .., issue_done h .., List.forall_mem_nil _⟩

/-! ## Minima and maxima (R86) -/

section
variable (f : Fp) (x y : Nat)

/-- The three fields of a pattern (R75). -/
def Fp.frac : Nat := x % 2 ^ f.m
def Fp.expo : Nat := x / 2 ^ f.m % 2 ^ f.e
def Fp.sign : Nat := x / 2 ^ (f.e + f.m) % 2

variable {f x y}

/-- A pattern is its fields. -/
theorem pattern_eq (hx : x < 2 ^ f.width) : x = f.sign x * 2 ^ (f.e + f.m) + f.expo x * 2 ^ f.m + f.frac x := by
  have hs : f.sign x = x / 2 ^ f.m / 2 ^ f.e := by
    rw [Fp.sign, Nat.div_div_eq_div_mul, ← pow_add, Nat.add_comm f.m, Nat.mod_eq_of_lt]
    rwa [Nat.div_lt_iff_lt_mul (Nat.two_pow_pos _), ← pow_succ']
  rw [hs, pow_add, ← Nat.mul_assoc, ← Nat.add_mul, Fp.expo, Nat.div_add_mod', Fp.frac, Nat.div_add_mod']

theorem value_eq : f.value x =
    if f.expo x = 0 then (if f.frac x = 0 then .zero (f.sign x == 1) else .fin (f.sign x == 1) (f.frac x) (1 - (f.bias : Int) - f.m) false)
    else if f.sp = .ieee ∧ f.expo x = 2 ^ f.e - 1 then (if f.frac x = 0 then .inf (f.sign x == 1) else .nan)
    else if f.sp = .nanOnly ∧ f.expo x = 2 ^ f.e - 1 ∧ f.frac x = 2 ^ f.m - 1 then .nan
    else .fin (f.sign x == 1) (2 ^ f.m + f.frac x) ((f.expo x : Int) - f.bias - f.m) false := rfl

/-- An infinity is its sign. -/
theorem value_eq_inf {n : Bool} (h : f.value x = .inf n) : n = (f.sign x == 1) ∧ f.expo x = 2 ^ f.e - 1 ∧ f.frac x = 0 := by
  rw [value_eq] at h
  split_ifs at h with h1 h2 h3 h4 h5
  · cases h
  · cases h
    exact ⟨rfl, h3.2, h4⟩

/-- A real is its sign and its magnitude in the normal form of the layout: a mantissa without the hidden bit, at the lowest exponent unless it is 0, or
one with the hidden bit. -/
theorem value_eq_fin {n st : Bool} {k : Nat} {e : Int} (h : f.value x = .fin n k e st) :
    n = (f.sign x == 1) ∧ ((f.expo x = 0 ∧ k = f.frac x ∧ (0 < k → e = 1 - f.bias - f.m))
      ∨ (0 < f.expo x ∧ k = 2 ^ f.m + f.frac x ∧ e = f.expo x - f.bias - f.m)) := by
  rw [value_eq] at h
  split_ifs at h with h1 h2 h3 h4 h5
  · cases h
    exact ⟨rfl, .inl ⟨h1, h2.symm, nofun⟩⟩
  · cases h
    exact ⟨rfl, .inl ⟨h1, rfl, fun _ => rfl⟩⟩
  · cases h
    exact ⟨rfl, .inr ⟨Nat.pos_of_ne_zero h1, rfl, rfl⟩⟩

/-- Magnitudes in normal form that are equal have one mantissa and one exponent. -/
theorem scaled_inj {m k l : Nat} {q d e : Int} (hd : q ≤ d) (hk : k < 2 ^ (m + 1)) (hk' : 2 ^ m ≤ k ∨ d = q)
    (he : q ≤ e) (hl : l < 2 ^ (m + 1)) (hl' : 2 ^ m ≤ l ∨ e = q)
    (h : k * 2 ^ (d - min d e).toNat = l * 2 ^ (e - min d e).toNat) : k = l ∧ (0 < k → d = e) := by
  -- the one with the higher exponent has its hidden bit, so its magnitude is beyond the other's
  have beyond {k l : Nat} {d e : Int} (hde : d < e) (hl : 2 ^ m ≤ l) (hk : k < 2 ^ (m + 1))
      (h : k * 2 ^ (d - d).toNat = l * 2 ^ (e - d).toNat) : False := by
    obtain ⟨j, hj⟩ : ∃ j, (e - d).toNat = j + 1 := ⟨(e - d).toNat - 1, by omega⟩
    rw [hj, sub_self, Int.toNat_zero, pow_zero, mul_one, pow_succ] at h
    have : 2 ^ m * 2 ≤ l * (2 ^ j * 2) := Nat.mul_le_mul hl (Nat.le_mul_of_pos_left 2 (Nat.two_pow_pos j))
    rw [pow_succ] at hk
    omega
  obtain hde | rfl | hde := lt_trichotomy d e
  · rw [min_eq_left hde.le] at h
    exact (beyond hde (by omega) hk h).elim
  · exact ⟨Nat.eq_of_mul_eq_mul_right (Nat.two_pow_pos _) h, fun _ => rfl⟩
  · rw [min_eq_right hde.le] at h
    exact (beyond hde (by omega) hl h.symm).elim

/-- Equal numbers with signs are equal magnitudes, and the same sign but for 0. -/
theorem signed_inj {a b : Bool} {v w : Nat} (h : (if a then -(v : Int) else v) = if b then -(w : Int) else w) : v = w ∧ (a = b ∨ v = 0) := by
  cases a <;> cases b <;> simp at h ⊢ <;> omega

theorem cmp?_fin_eq {n n' st st' : Bool} {k l : Nat} {d e : Int} (h : (Exact.fin n k d st).cmp? (.fin n' l e st') = some .eq) :
    k * 2 ^ (d - min d e).toNat = l * 2 ^ (e - min d e).toNat ∧ (n = n' ∨ k = 0) := by
  obtain ⟨hv, hn⟩ := signed_inj (compare_eq_iff_eq.1 (Option.some.inj h))
  exact ⟨hv, hn.imp_right fun h0 => (Nat.mul_eq_zero.1 h0).resolve_right (Nat.two_pow_pos _).ne'⟩

theorem sign_eq (h : (f.sign x == 1) = (f.sign y == 1)) : f.sign x = f.sign y := by
  have hx : f.sign x < 2 := Nat.mod_lt _ two_pos
  have hy : f.sign y < 2 := Nat.mod_lt _ two_pos
  rw [Bool.eq_iff_iff, beq_iff_eq, beq_iff_eq] at h
  omega

theorem frac_lt : f.frac x < 2 ^ f.m := Nat.mod_lt _ (Nat.two_pow_pos _)

/-- Equal values of a layout have equal magnitudes, and the same sign but for zeros. -/
theorem fields_eq_of_cmp_eq (h : (f.value x).cmp? (f.value y) = some .eq) :
    f.expo x = f.expo y ∧ f.frac x = f.frac y ∧ (f.sign x = f.sign y ∨ (f.expo x = 0 ∧ f.frac x = 0)) := by
  cases hx : f.value x with
  | nan => rw [hx] at h; exact nomatch h
  | inf a =>
    cases hy : f.value y with
    | nan => rw [hx, hy] at h; exact nomatch h
    | fin => rw [hx, hy] at h; cases a <;> exact nomatch h
    | inf b =>
      obtain ⟨ha, hex, hfx⟩ := value_eq_inf hx
      obtain ⟨hb, hey, hfy⟩ := value_eq_inf hy
      have hab : a = b := by
        by_contra hne
        rw [hx, hy, Exact.cmp?, if_neg hne] at h
        cases a <;> exact nomatch h
      exact ⟨hex.trans hey.symm, hfx.trans hfy.symm, .inl (sign_eq (ha.symm.trans (hab.trans hb)))⟩
  | fin n k d st =>
    cases hy : f.value y with
    | nan => rw [hx, hy] at h; exact nomatch h
    | inf b => rw [hx, hy] at h; cases b <;> exact nomatch h
    | fin n' l e st' =>
      obtain ⟨ha, hkx⟩ := value_eq_fin hx
      obtain ⟨hb, hky⟩ := value_eq_fin hy
      have hfx := frac_lt (f := f) (x := x)
      have hfy := frac_lt (f := f) (x := y)
      have h2 : 2 ^ (f.m + 1) = 2 ^ f.m * 2 := pow_succ ..
      rw [hx, hy] at h
      obtain ⟨hv, hn⟩ := cmp?_fin_eq h
      obtain rfl | hk := Nat.eq_zero_or_pos k
      · have hl : l = 0 := (Nat.mul_eq_zero.1 ((Nat.zero_mul _).symm.trans hv).symm).resolve_right (Nat.two_pow_pos _).ne'
        omega
      · have hl : 0 < l := Nat.pos_of_mul_pos_right (hv ▸ Nat.mul_pos hk (Nat.two_pow_pos _))
        obtain ⟨hkl, hde⟩ := scaled_inj (m := f.m) (q := 1 - f.bias - f.m) (by omega) (by omega) (by omega) (by omega) (by omega) (by omega) hv
        have hs := sign_eq (ha.symm.trans ((hn.resolve_right hk.ne').trans hb))
        have := hde hk
        omega

/-- A magnitude of 0 is zero with the pattern's sign. -/
theorem isNeg_value_zero (he : f.expo x = 0) (hf : f.frac x = 0) : (f.value x).isNeg = (f.sign x == 1) := by
  rw [value_eq, if_pos he, if_pos hf]
  rfl

/-- Of two equal values, the minimum is the greater pattern and the maximum the lesser: they differ at most in being −0 and +0. -/
theorem firstWins_of_eq (hx : x < 2 ^ f.width) (hy : y < 2 ^ f.width) (h : (f.value x).cmp? (f.value y) = some .eq) (lt : Bool) :
    (if (f.value x).firstWins (!lt) (f.value y) then x else y) = if lt then max x y else min x y := by
  obtain ⟨he, hf, hs⟩ := fields_eq_of_cmp_eq h
  have hx := pattern_eq hx
  have hy := pattern_eq hy
  rw [← he, ← hf] at hy
  by_cases hxy : x = y
  · rw [hxy, ite_self, max_self, min_self, ite_self]
  · have hsne : f.sign x ≠ f.sign y := fun hs => hxy (by rw [hx, hy, hs])
    obtain ⟨h0e, h0f⟩ := hs.resolve_left hsne
    have hsx : f.sign x < 2 := Nat.mod_lt _ two_pos
    have hsy : f.sign y < 2 := Nat.mod_lt _ two_pos
    rw [h0e, h0f] at hx hy
    rw [Exact.firstWins, h, isNeg_value_zero h0e h0f]
    obtain ⟨h0, h1⟩ | ⟨h1, h0⟩ : f.sign x = 0 ∧ f.sign y = 1 ∨ f.sign x = 1 ∧ f.sign y = 0 := by omega
    · have hle : x ≤ y := by rw [hx, h0]; omega
      rw [h0, max_eq_right hle, min_eq_left hle]
      cases lt <;> rfl
    · have hle : y ≤ x := by rw [hy, h0]; omega
      rw [h1, max_eq_left hle, min_eq_right hle]
      cases lt <;> rfl

/-- Values that compare are no NaN. -/
theorem not_isNan_of_cmp? {a b : Exact} {o : Ordering} (h : a.cmp? b = some o) : a.isNan = false ∧ b.isNan = false := by
  cases a with
  | nan => exact nomatch h
  | inf | fin =>
    cases b with
    | nan => exact nomatch h
    | inf | fin => exact ⟨rfl, rfl⟩

theorem minMaxBits_of_cmp? {a b : Exact} {o : Ordering} (h : a.cmp? b = some o) (mx : Bool) (n : Nat) :
    minMaxBits mx n a b x y = if a.firstWins mx b then x else y := by
  obtain ⟨ha, hb⟩ := not_isNan_of_cmp? h
  rw [minMaxBits, ha, hb]
  rfl

/-- What the model delivers as minimum or maximum of two patterns is what R86 says. -/
theorem minMaxOf_minMaxBits (hx : x < 2 ^ f.width) (hy : y < 2 ^ f.width) (lt : Bool) :
    minMaxOf f lt x y (minMaxBits (!lt) f.nanBits (f.value x) (f.value y) x y) := by
  refine ⟨fun ha hb => ?_, fun ha hb => ?_, fun ha hb => ?_, fun h => ?_, fun h => ?_, fun h => ?_⟩
  · rw [minMaxBits, ha, hb]; rfl
  · rw [minMaxBits, ha, hb]; rfl
  · rw [minMaxBits, ha, hb]; rfl
  · rw [minMaxBits_of_cmp? h, Exact.firstWins, h]
    cases lt <;> rfl
  · rw [minMaxBits_of_cmp? h, Exact.firstWins, h]
    cases lt <;> rfl
  · rw [minMaxBits_of_cmp? h, firstWins_of_eq hx hy h]
end

/-- FMIN and FMAX: one effect each, with the bits that the rule of minima delivers. -/
theorem minimumAndMaximum : Spec.MinimumAndMaximum := by
  intro s g sgl xd xa xb h w pick
  have hpick (lt : Bool) : pick lt (s.fpMinMax sgl (!lt) xa xb) := by
    cases sgl <;> exact minMaxOf_minMaxBits (Nat.mod_lt _ (Nat.two_pow_pos _)) (Nat.mod_lt _ (Nat.two_pow_pos _)) lt
  exact ⟨⟨_, issue_done h .., hpick true⟩, ⟨_, issue_done h .., hpick false⟩⟩

/-- Settles O9: the two parts. -/
theorem floatingPointResults : Obligations.FloatingPointResults := ⟨floatingPointArithmetic, minimumAndMaximum⟩

/-! ## Conversions and compares (R149, R150) -/

/-- What FCVT makes of the state: the flags, one step of the generator where a word was drawn, and the extended result. -/
def State.fcvtTo (s : State) (dst src : Tag) (m : RMode) (xd : XReg) (r : Nat × Flags) : State :=
  (s.upd (fun h => { h with fcsr := s.hart.fcsrAfter r.2 (convRounds dst src && m == .sr) })).setX xd (extendResult dst r.1)

theorem exec_fcvt {s : State} {g : Hdr} (h : s.Ready g.wm) (dst src : Tag) (rnd : BitVec 2) (xd xa : XReg) :
    exec (.fcvt g dst src rnd xd xa) s = guarded s g (s.fcvtTo dst src (s.hart.rmode rnd) xd
      (fcvtBits dst src (s.hart.rmode rnd) (drawWord s.hart.seed 0) ((s.x xa).toNat % 2 ^ tagWidth src))) := by
  rw [State.fcvtTo, ← fpEffect_eq]
  exact issue_done h ..

/-- A conversion of an integer to its own tag changes nothing. -/
theorem fcvtBits_int {t : Tag} (h : t.isInt = true) (m : RMode) (draw : BitVec 32) (b : Nat) : fcvtBits t t m draw b = (b, 0) := by
  have hf : Fp.ofTag t = none := by cases t <;> cases h <;> rfl
  rw [fcvtBits, if_pos rfl, hf]

theorem fcvtTo_self (s : State) (t : Tag) (m : RMode) (xd : XReg) (b : Nat) : s.fcvtTo t t m xd (b, 0) = s.setX xd (extendResult t b) := by
  have hc : s.hart.fcsrAfter 0 (convRounds t t && m == .sr) = s.hart.fcsr := by
    rw [convRounds, bne_self_eq_false, Bool.false_and, Bool.false_and]
    exact BitVec.or_zero
  rw [State.fcvtTo, hc]
  rfl

/-- The integer that a register holds, extended from its own width (R149). -/
theorem extendResult_raw (t : Tag) (x : Word) : extendResult t (x.toNat % 2 ^ tagWidth t) =
    if t = .si32 then (x.setWidth 32).signExtend 64 else BitVec.ofNat 64 (x.toNat % 2 ^ tagWidth t) := by
  rw [extendResult]
  by_cases ht : t = .si32
  · have hx : BitVec.ofNat 32 (x.toNat % 2 ^ tagWidth t) = x.setWidth 32 := BitVec.eq_of_toNat_eq (by simp [ht, tagWidth])
    rw [if_pos ht, if_pos ht, hx]
  · rw [if_neg ht, if_neg ht]

theorem fcondHolds_eq (c : FCond) (a b : Exact) : fcondHolds c a b = fcond c (a.cmp? b) := by
  unfold fcondHolds
  cases a.cmp? b with
  | none => cases c <;> rfl
  | some o => cases c <;> cases o <;> rfl

/-- Settles O10: each body is one effect. -/
theorem conversionsAndCompares : Obligations.ConversionsAndCompares := by
  intro s g dst src rnd xd xa xb pd h
  refine ⟨?_, fun hi => ?_, fun c sgl => ?_⟩
  · intro m raw hne r c draws
    have hd : (convRounds dst src && m == .sr) = draws := by rw [convRounds, bne_iff_ne.2 hne, Bool.true_and]
    have hb : fcvtBits dst src m (drawWord s.hart.seed 0) raw = r := if_neg hne
    rw [exec_fcvt h, hb, State.fcvtTo, hd]
    rfl
  · rw [exec_fcvt h, fcvtBits_int hi, fcvtTo_self, extendResult_raw]
  · rw [← fx_eq, ← fx_eq, ← fcondHolds_eq]
    exact issue_done h ..
end Sys2Proof.Machine
end

section
/-! SUPPORT. The CSRs (R93, R134 to R136, R151, R361): which access a mode has, what a read returns and what a write makes of the state; and the four
instructions by the access alone: O11. -/

namespace Sys2Proof.Machine
open Sys2Proof Sys2Proof.Spec

/-! ## Access (R134, R135) -/

/-- The numbers of the CSRs. -/
def csrNums : List Nat :=
  [0x001, 0x008, 0x009, 0x00A, 0x00B, 0x00C, 0x00D, 0x00E, 0x010, 0x018, 0x019, 0x01A, 0x020, 0x021, 0x030, 0x031, 0x032,
   0x100, 0x101, 0x102, 0x103, 0x104, 0x110]

theorem csrs_nums (s : State) : (csrs s).map (·.1) = csrNums := rfl

theorem mem_csrNums {s : State} {p : Nat × Word} (hp : p ∈ csrs s) : p.1 ∈ csrNums := csrs_nums s ▸ List.mem_map_of_mem hp

/-- The access that a mode has to a CSR. -/
theorem csrAcc_eq {n : Nat} (hn : n ∈ csrNums) (m : Mode) :
    csrAcc n m = some (if n ∈ csrRO m then .ro else if 0x100 ≤ n ∧ m = .u then .no else .rw) := by
  have all : ∀ n ∈ csrNums, csrAcc n m = some (if n ∈ csrRO m then .ro else if 0x100 ≤ n ∧ m = .u then .no else .rw) := by
    cases m <;> decide
  exact all n hn

/-- A number that is not listed is no CSR. -/
theorem csrAcc_none {n : Nat} (hn : n ∉ csrNums) (m : Mode) : csrAcc n m = none := by
  unfold csrAcc
  split
  case h_24 => rfl
  all_goals exact absurd (by decide) hn

theorem lacksCsr_eq (h : Hart) (n : Nat) : h.lacksCsr n = true ↔ h.isMgmt = true ∧ 8 ≤ n ∧ n ≤ 16 := by
  rw [Hart.lacksCsr, Bool.and_eq_true, decide_eq_true_eq]

/-- A CSR that the hart in focus has in its mode is there, and read-only where the mode says so. -/
theorem csrHere_acc {h : Hart} {n : Nat} (hn : n ∈ csrNums) (hh : csrHere h n) :
    h.lacksCsr n = false ∧ csrAcc n h.mode = some (if n ∈ csrRO h.mode then .ro else .rw) := by
  obtain ⟨hu, hv⟩ := hh
  refine ⟨Bool.eq_false_iff.2 fun hl => ?_, ?_⟩
  · obtain ⟨hm, hr⟩ := (lacksCsr_eq h n).1 hl
    exact hv hm hr
  · rw [csrAcc_eq hn, if_neg (c := 0x100 ≤ n ∧ h.mode = .u) fun hc => hu hc.1 hc.2]

/-! ## Values (R93, R136, R361) -/

theorem toNat_csr {n : Nat} (hn : n ∈ csrNums) : (BitVec.ofNat 12 n).toNat = n := by
  have all : ∀ n ∈ csrNums, (BitVec.ofNat 12 n).toNat = n := by decide
  exact all n hn

/-- `vcfg` as a word (R166). -/
theorem vcfg_eq (regs nxt blk : BitVec 2) :
    (0#52 ++ blk ++ 0#4 ++ nxt ++ 0#2 ++ regs : Word) = BitVec.ofNat 64 (regs.toNat + 16 * nxt.toNat + 1024 * blk.toNat) := by
  apply BitVec.eq_of_toNat_eq
  simp only [toNat_append_add, BitVec.toNat_ofNat]
  omega

/-- A read returns what the table of the CSRs says. -/
theorem csr_eq (s : State) : ∀ p ∈ csrs s, s.csr p.1 = p.2 := by
  simp only [csrs, List.forall_mem_cons, ← vcfg_eq]
  exact ⟨rfl, rfl, rfl, rfl, rfl, rfl, rfl, rfl, rfl, rfl, rfl, rfl, rfl, rfl, rfl, rfl, rfl, rfl, rfl, rfl, rfl, rfl, rfl, List.forall_mem_nil _⟩

/-- `fcsr` behind a write. -/
theorem fcsrStore_eq (old v : Word) : fcsrStore old v = fcsrIn old v := rfl

/-- A write makes of the state what the table of the stores says. -/
theorem setCsr_eq (s : State) (v : Word) : ∀ p ∈ csrStores, s.setCsr p.1 v = p.2 s v := by
  simp only [csrStores, List.forall_mem_cons]
  exact ⟨rfl, rfl, rfl, rfl, rfl, rfl, rfl, rfl, rfl, rfl, rfl, rfl, rfl, List.forall_mem_nil _⟩

/-! ## The instructions (R151) -/

section
variable {s : State} {g : Hdr} {xd xa : XReg} {n : BitVec 12} {i : Instr} {xs : List XReg} {wr rw : Bool} {new : State → Word → Word}

/-- What a trap with the instruction word leaves. -/
theorem finish_wordTrap (c : Cause) : finish (wordTrap c i s) = .next (s.takeTrap { cause := c, epc := s.hart.pc, val := encode i }) := rfl

theorem csrIssue_rw (h : s.Ready g.wm) (hl : s.hart.lacksCsr n.toNat = false) (ha : csrAcc n.toNat s.hart.mode = some .rw) :
    csrIssue i g xd n xs wr rw new s =
      guarded s g ((if rw then s.setCsr n.toNat (new s (s.csr n.toNat)) else s).setX xd (s.csr n.toNat)) := by
  rw [csrIssue, hl, ha]
  exact issue_done h ..

theorem csrIssue_ro (h : s.Ready g.wm) (hl : s.hart.lacksCsr n.toNat = false) (ha : csrAcc n.toNat s.hart.mode = some .ro) :
    csrIssue i g xd n xs false rw new s = guarded s g (s.setX xd (s.csr n.toNat)) := by
  rw [csrIssue, hl, ha]
  exact issue_done h ..

theorem csrIssue_lacks (hl : s.hart.lacksCsr n.toNat = true) : csrIssue i g xd n xs wr rw new s = finish (wordTrap .illegalInstr i s) := by
  rw [csrIssue, if_pos hl]

theorem csrIssue_none (ha : csrAcc n.toNat s.hart.mode = none) : csrIssue i g xd n xs wr rw new s = finish (wordTrap .illegalInstr i s) := by
  rw [csrIssue, ha]
  exact ite_self _

theorem csrIssue_no (hl : s.hart.lacksCsr n.toNat = false) (ha : csrAcc n.toNat s.hart.mode = some .no) :
    csrIssue i g xd n xs wr rw new s = finish (wordTrap .privilege i s) := by
  rw [csrIssue, hl, ha]
  rfl

theorem csrIssue_write_ro (ha : csrAcc n.toNat s.hart.mode = some .ro) : csrIssue i g xd n xs true rw new s = finish (wordTrap .illegalInstr i s) := by
  rw [csrIssue, ha]
  exact ite_self _
end

section
variable (s : State) (g : Hdr) (xd xa : XReg) (n : BitVec 12)
theorem exec_csrr : exec (.csrr g xd n) s = csrIssue (.csrr g xd n) g xd n [] false false (fun _ old => old) s := rfl
theorem exec_csrw : exec (.csrw g xd n xa) s = csrIssue (.csrw g xd n xa) g xd n [xa] true true (fun s _ => s.x xa) s := rfl
theorem exec_csrs : exec (.csrs g xd n xa) s = csrIssue (.csrs g xd n xa) g xd n [xa] (xa != 0) true (fun s old => old ||| s.x xa) s := rfl
theorem exec_csrc : exec (.csrc g xd n xa) s = csrIssue (.csrc g xd n xa) g xd n [xa] (xa != 0) true (fun s old => old &&& ~~~s.x xa) s := rfl
end

/-- Reads of every CSR. -/
theorem csrReads : Spec.CsrReads := by
  intro s g xd h p hp hh
  have hn := mem_csrNums hp
  have hk := toNat_csr hn
  obtain ⟨hl, ha⟩ := csrHere_acc hn hh
  have hv := csr_eq s p hp
  generalize BitVec.ofNat 12 p.1 = n at hk ⊢
  rw [← hk] at hl ha hv ⊢
  rw [← hv, exec_csrr, exec_csrs, exec_csrc, bne_self_eq_false]
  split at ha
  · exact ⟨csrIssue_ro h hl ha, fun _ => ⟨csrIssue_ro h hl ha, csrIssue_ro h hl ha⟩⟩
  · exact ⟨csrIssue_rw h hl ha, fun hro => absurd hro ‹_›⟩

/-- Writes of every CSR that the mode may write. -/
theorem csrWrites : Spec.CsrWrites := by
  intro s g xd xa h p hp q hq hpq hh hro
  have hn : p.1 ∈ csrNums := hpq ▸ mem_csrNums hq
  have hk := toNat_csr hn
  obtain ⟨hl, ha⟩ := csrHere_acc hn hh
  have hv := csr_eq s q hq
  rw [if_neg hro] at ha
  simp only [← setCsr_eq s _ p hp]
  generalize BitVec.ofNat 12 p.1 = n at hk ⊢
  rw [← hpq, ← hk] at hv
  rw [← hk] at hl ha ⊢
  rw [← hv, exec_csrw, exec_csrs, exec_csrc]
  exact ⟨csrIssue_rw h hl ha, csrIssue_rw h hl ha, csrIssue_rw h hl ha⟩

/-- The four CSR instructions are one, but for what they write; CSRW writes, and so do CSRS and CSRC with another register than `x0`. -/
theorem exec_csr {s : State} {g : Hdr} {xd xa : XReg} {n : BitVec 12} {i : Instr}
    (hi : i = .csrr g xd n ∨ i = .csrw g xd n xa ∨ i = .csrs g xd n xa ∨ i = .csrc g xd n xa) :
    ∃ xs wr rw new, exec i s = csrIssue i g xd n xs wr rw new s ∧ (i = .csrw g xd n xa ∨ (i ≠ .csrr g xd n ∧ xa ≠ 0) → wr = true) := by
  obtain rfl | rfl | rfl | rfl := hi
  · exact ⟨_, _, _, _, exec_csrr .., fun hw => hw.elim (fun h => Instr.noConfusion h) fun h => absurd rfl h.1⟩
  · exact ⟨_, _, _, _, exec_csrw .., fun _ => rfl⟩
  · exact ⟨_, _, _, _, exec_csrs .., fun hw => hw.elim (fun h => Instr.noConfusion h) fun h => bne_iff_ne.2 h.2⟩
  · exact ⟨_, _, _, _, exec_csrc .., fun hw => hw.elim (fun h => Instr.noConfusion h) fun h => bne_iff_ne.2 h.2⟩

theorem mem_csrNums_of_csrRO {n : Nat} {m : Mode} (hn : n ∈ csrRO m) : n ∈ csrNums := by
  have all : ∀ k ∈ csrRO m, k ∈ csrNums := by cases m <;> decide
  exact all n hn

/-- The CSRs that U mode does not have are no vector CSRs. -/
theorem csrAcc_privileged {n : Nat} (hn : n ∈ [0x100, 0x101, 0x102, 0x103, 0x104, 0x110]) : csrAcc n .u = some .no ∧ 16 < n := by
  have all : ∀ k ∈ [0x100, 0x101, 0x102, 0x103, 0x104, 0x110], csrAcc k .u = some .no ∧ 16 < k := by decide
  exact all n hn

/-- Where CSR instructions trap: neither the guard nor the tokens are looked at. -/
theorem csrTraps : Spec.CsrTraps := by
  intro s g xd xa n i hi trap
  obtain ⟨xs, wr, rw, new, hx, hw⟩ := exec_csr (s := s) hi
  simp only [trap, hx, ← finish_wordTrap]
  refine ⟨fun hn => csrIssue_none (csrAcc_none hn _), fun hm h8 h16 => csrIssue_lacks ((lacksCsr_eq _ _).2 ⟨hm, h8, h16⟩), fun hu hn => ?_,
    fun hn hc => ?_⟩
  · obtain ⟨ha, hk⟩ := csrAcc_privileged hn
    have hl : s.hart.lacksCsr n.toNat = false := Bool.eq_false_iff.2 fun hl => absurd ((lacksCsr_eq _ _).1 hl).2.2 hk.not_ge
    exact csrIssue_no hl (hu ▸ ha)
  · obtain rfl := hw hc
    exact csrIssue_write_ro (by rw [csrAcc_eq (mem_csrNums_of_csrRO hn), if_pos hn])

/-- Settles O11: the three parts. -/
theorem csrAccesses : Obligations.CsrAccesses := ⟨csrReads, csrWrites, csrTraps⟩
end Sys2Proof.Machine
end

section
/-! SUPPORT. Errors that strike a store or a register, and scrubbing (R130, R278, R279, R420): the first part of O48. -/

namespace Sys2Proof.Machine
open Sys2Proof

/-! ## An error at a place that holds none (R278) -/

section
variable {s : State} {a : ErrAt} {mask : Nat}

theorem errMask_fresh (h : ∀ e ∈ s.errs, e.at_ ≠ a) : s.errMask a = 0 := by
  have hn : s.errs.find? (fun x => x.at_ == a) = none := List.find?_eq_none.2 fun e he => by simpa using h e he
  rw [State.errMask, hn]
  rfl

theorem putErr_fresh (h : ∀ e ∈ s.errs, e.at_ ≠ a) (hm : 0 < mask) (esc : Bool) : s.putErr a mask esc = { s with errs := ⟨a, mask, esc⟩ :: s.errs } := by
  have hf : s.errs.filter (fun x => x.at_ != a) = s.errs := List.filter_eq_self.2 fun e he => bne_iff_ne.2 (h e he)
  rw [State.putErr, hf, if_neg hm.ne']

/-- Dropping the copies with an error at the place drops nothing. -/
theorem undoErrs_fresh (h : ∀ e ∈ s.errs, e.at_ ≠ a) : s.undoErrs (fun e => e.at_ == a) = s := by
  have hn : s.errs.filter (fun e => e.at_ == a && e.esc) = [] := List.filter_eq_nil_iff.2 fun e he => by simp [h e he]
  have hf : s.errs.filter (fun e => !(e.at_ == a)) = s.errs := List.filter_eq_self.2 fun e he => bne_iff_ne.2 (h e he)
  rw [State.undoErrs, hn, List.foldl_nil, State.dropErrs, hf]

/-- The bad bits of a place that held none. -/
theorem struck_fresh {n : Nat} (h : ∀ e ∈ s.errs, e.at_ ≠ a) (hm : mask < 2 ^ n) : s.errMask a ^^^ mask % 2 ^ n = mask := by
  rw [errMask_fresh h, Nat.zero_xor, Nat.mod_eq_of_lt hm]

theorem strikeHbm_fresh {g : Nat} (hr : regionOf (64 * g) = .hbm) (h : ∀ e ∈ s.errs, e.at_ ≠ .hbm g) (h0 : 0 < mask) (hm : mask < 2 ^ 512) :
    s.strikeHbm g mask false = { s with errs := ⟨.hbm g, mask, decide (s.lineCls (g / 2) = .n)⟩ :: s.errs } := by
  rw [State.strikeHbm, if_neg (by simp [h0.ne', hr]), struck_fresh h hm, putErr_fresh h h0]
  cases s.lineCls (g / 2) <;> simp

theorem strikeCopy_fresh {w : Nat} (hq : hasLine s.quay (w / 16) = true) (hc : s.lineCls (w / 16) ≠ .n) (h : ∀ e ∈ s.errs, e.at_ ≠ .quay w)
    (h0 : 0 < mask) (hm : mask < 2 ^ 64) : s.strikeCopy w mask false = { s with errs := ⟨.quay w, mask, false⟩ :: s.errs } := by
  rw [State.strikeCopy, if_neg (by simp [h0.ne', hq])]
  dsimp only
  rw [struck_fresh h hm, undoErrs_fresh h, putErr_fresh h h0]
  cases hcls : s.lineCls (w / 16) with
  | n => exact absurd hcls hc
  | f | d => rfl

theorem strikeLocal_fresh {w : Nat} (hr : regionOf (8 * w) = .ws) (h : ∀ e ∈ s.errs, e.at_ ≠ .local_ w) (h0 : 0 < mask) (hm : mask < 2 ^ 64) :
    s.strikeLocal w mask false = { s with errs := ⟨.local_ w, mask, false⟩ :: s.errs } := by
  rw [State.strikeLocal, hr, if_neg (by simp [h0.ne']), struck_fresh h hm]
  exact putErr_fresh h h0 false
end

/-! ## Errors that the code of a line misses (R278) -/

section
variable {s : State} {pa mask n b : Nat}

theorem rawByte_flipBytes : (s.flipBytes pa mask n).rawByte b =
    if pa ≤ b ∧ b < pa + n then s.rawByte b ^^^ BitVec.ofNat 8 (mask / 256 ^ (b - pa)) else s.rawByte b := by
  induction n generalizing s pa mask with
  | zero => rw [if_neg (by omega)]; rfl
  | succ n ih =>
    have hbyte : (if mask % 256 = 0 then s
        else { s with mem := Tab.set Memory.unlisted s.mem pa (s.rawByte pa ^^^ BitVec.ofNat 8 mask) }).rawByte b =
        if b = pa then s.rawByte b ^^^ BitVec.ofNat 8 mask else s.rawByte b := by
      split
      · rename_i h0
        have hz : BitVec.ofNat 8 mask = 0 := BitVec.eq_of_toNat_eq h0
        rw [hz, BitVec.ofNat_eq_ofNat, BitVec.xor_zero, ite_self]
      · rw [State.rawByte, Tab.get_set]
        split
        · rename_i hb
          rw [hb]
        · rfl
    rw [State.flipBytes, ih, hbyte]
    by_cases hb : b = pa
    · rw [if_neg (by omega), if_pos hb, if_pos (by omega), hb, Nat.sub_self, pow_zero, Nat.div_one]
    · rw [if_neg hb]
      refine if_ctx_congr (by omega) (fun h => ?_) fun _ => rfl
      rw [Nat.div_div_eq_div_mul, ← pow_succ', show b - (pa + 1) + 1 = b - pa by omega]

theorem loadGran_rawByte (line : Nat) : (s.loadGran line).rawByte b = s.rawByte b := by
  rw [State.loadGran]
  split
  · rfl
  · rw [setUnits_rawByte, setUnits_rawByte]

theorem meetGran_missed {l : Option LaunchId} {e : StoredErr} (he : e.esc = true) : s.meetGran l e = s.flipBytes e.pa e.mask 64 := by
  rw [State.meetGran, if_pos he]

/-- A line that is read from HBM shows the bits of the one stored error that its code misses. -/
theorem rawByte_fetchLine_missed {g i : Nat} (he : s.errs = [⟨.hbm g, mask, true⟩]) (hi : i < 64) :
    (s.fetchLine none (g / 2)).rawByte (64 * g + i) = s.rawByte (64 * g + i) ^^^ BitVec.ofNat 8 (mask / 256 ^ i) := by
  have hf : s.errs.filter (StoredErr.inHbm (g / 2)) = [⟨.hbm g, mask, true⟩] := by simp [he, StoredErr.inHbm]
  rw [State.fetchLine, hf, List.foldl_cons, List.foldl_nil, meetGran_missed rfl, loadGran_rawByte]
  refine (rawByte_flipBytes (pa := 64 * g) (n := 64)).trans ?_
  rw [if_pos (by omega), Nat.add_sub_cancel_left]
  rfl
end
/-! ## Registers (R130, R278) -/

/-- A number has at most one bit, or its highest bit is also one of its predecessor. -/
theorem and_pred_ne_zero_iff {m : Nat} (hm : m ≠ 0) : m &&& (m - 1) ≠ 0 ↔ m ≠ 2 ^ m.log2 := by
  have hle : 2 ^ m.log2 ≤ m := Nat.log2_self_le hm
  have hlt : m < 2 ^ (m.log2 + 1) := Nat.lt_log2_self
  constructor
  · intro h hp
    rw [hp, Nat.and_two_pow_sub_one_eq_mod, Nat.mod_self] at h
    exact h rfl
  · intro hne h0
    have h1 : m.testBit m.log2 = true := Nat.testBit_of_two_pow_le_and_two_pow_add_one_gt hle hlt
    have h2 : (m - 1).testBit m.log2 = true := Nat.testBit_of_two_pow_le_and_two_pow_add_one_gt (by omega) (by omega)
    have := congrArg (·.testBit m.log2) h0
    simp [Nat.testBit_and, h1, h2] at this

/-- A word with bad bits has more than one of them, or is a power of two. -/
theorem doubleBad_word {mask : Nat} (h0 : 0 < mask) (hm : mask < 2 ^ 64) :
    doubleBad mask 1 = !(List.range 64).any (fun i => mask == 2 ^ i) := by
  have he : elemAt 64 mask 0 = mask := by rw [elemAt_def, Nat.zero_mul, pow_zero, Nat.div_one, Nat.mod_eq_of_lt hm]
  have hany : (List.range 64).any (fun i => mask == 2 ^ i) = true ↔ mask = 2 ^ mask.log2 := by
    rw [List.any_eq_true]
    constructor
    · rintro ⟨i, -, hi⟩
      rw [beq_iff_eq.1 hi, Nat.log2_two_pow]
    · exact fun h => ⟨mask.log2, List.mem_range.2 ((Nat.log2_lt h0.ne').2 hm), beq_iff_eq.2 h⟩
  have hd : doubleBad mask 1 = true ↔ mask &&& (mask - 1) ≠ 0 := by
    simp [doubleBad, List.range_one, he, h0.ne']
  rw [Bool.eq_iff_iff, hd, and_pred_ne_zero_iff h0.ne', Bool.not_eq_true', Bool.eq_false_iff, Ne, Ne, hany]

/-- A hart that is found under a number is found changed under it, where the change keeps its number. -/
theorem getHart_updHart {s : State} {hid : BitVec 20} {f : Hart → Hart} (hh : (f (s.getHart hid)).hid = hid) :
    (s.updHart hid f).getHart hid = f (s.getHart hid) := by
  rw [State.updHart, State.setHart, hh]
  by_cases hs : s.hart.hid = hid
  · rw [if_pos hs]
    exact if_pos hh
  · rw [if_neg hs, State.getHart, if_neg hs]
    exact (Tab.get_set ..).trans (if_pos rfl)

theorem updHart_eq (s : State) (hid : BitVec 20) (f : Hart → Hart) : ∃ h r, s.updHart hid f = { s with hart := h, rest := r } := by
  rw [State.updHart, State.setHart]
  split
  · exact ⟨_, s.rest, rfl⟩
  · exact ⟨s.hart, _, rfl⟩

section
variable {h : Hart} {k mask : Nat}

/-- A hart whose scalar register has been struck by an error of these bad bits. -/
def Hart.withStruck (h : Hart) (k mask : Nat) : Hart :=
  { h with struck := Tab.set (fun _ => 0) h.struck (struckAt 3 k) mask
           xcor := setBit h.xcor k
           xbad := if doubleBad mask 1 then setBit h.xbad k else h.xbad }

theorem strike_fresh (hc : h.xcor.getLsbD k = false) (hb : h.xbad.getLsbD k = false) (hm : mask < 2 ^ 64) :
    h.strike 3 k mask = h.withStruck k mask := by
  have hx : h.strike 3 k mask = h.withStruck k (0 ||| mask % 2 ^ (64 * 1)) := by
    unfold Hart.strike
    dsimp only
    rw [hc, hb]
    rfl
  rw [hx, Nat.zero_or, Nat.mod_eq_of_lt hm]
end

/-! ## The events (R278, R279) -/

section
variable {s : State} {hid : BitVec 20} {g k mask : Nat}

theorem exec_strikeHbm (hin : s.input = .nums [0, hid.toNat, g, mask, 0]) : exec .storedDataError s = .next (s.strikeHbm g mask false) := by
  change execStoredDataError s = _
  rw [execStoredDataError, hin]
  rfl

theorem exec_strikeCopy (hin : s.input = .nums [1, hid.toNat, g, mask, 0]) : exec .storedDataError s = .next (s.strikeCopy g mask false) := by
  change execStoredDataError s = _
  rw [execStoredDataError, hin]
  rfl

theorem exec_strikeLocal (hin : s.input = .nums [2, hid.toNat, g, mask, 0]) : exec .storedDataError s = .next (s.strikeLocal g mask false) := by
  change execStoredDataError s = _
  rw [execStoredDataError, hin]
  rfl

theorem exec_strike (hin : s.input = .nums [3, hid.toNat, k, mask, 0]) (h0 : 0 < mask) :
    exec .storedDataError s = .next (s.updHart hid (fun h => h.strike 3 k mask)) := by
  have hx : exec .storedDataError s = .next (if mask = 0 then s else s.updHart (BitVec.ofNat 20 hid.toNat) (fun h => h.strike 3 k mask)) := by
    change execStoredDataError s = _
    rw [execStoredDataError, hin]
    rfl
  rw [hx, if_neg h0.ne', BitVec.ofNat_toNat, BitVec.setWidth_eq]

theorem exec_strikeState (hin : s.input = .nums [6, hid.toNat, k, mask, 0]) (h0 : 0 < mask) :
    exec .storedDataError s = .next (s.strikeState k mask) := by
  have hx : exec .storedDataError s = .next (if mask = 0 then s else s.strikeState k mask) := by
    change execStoredDataError s = _
    rw [execStoredDataError, hin]
    rfl
  rw [hx, if_neg h0.ne']

/-- An error that strikes a sound scalar register stands in it, and poisons it where it has more than one bit. -/
theorem strike_register (hin : s.input = .nums [3, hid.toNat, k, mask, 0]) (h0 : 0 < mask) (hm : mask < 2 ^ 64)
    (hh : (s.getHart hid).hid = hid) (hc : (s.getHart hid).xcor.getLsbD k = false) (hb : (s.getHart hid).xbad.getLsbD k = false) :
    ∃ u : State, exec .storedDataError s = .next u ∧ u.getHart hid = (s.getHart hid).withStruck k mask ∧ u.mem = s.mem ∧ u.errs = s.errs := by
  have hu : (s.updHart hid (fun h => h.strike 3 k mask)).getHart hid = (s.getHart hid).withStruck k mask := by
    have hs := strike_fresh hc hb hm
    rw [getHart_updHart (by rw [hs]; exact hh), hs]
  obtain ⟨h, r, he⟩ := updHart_eq s hid (fun h => h.strike 3 k mask)
  refine ⟨_, exec_strike hin h0, hu, ?_, ?_⟩ <;> rw [he]

/-- An error in device state is recorded, and is a machine fault where it has more than one bit (R279). -/
theorem strikeState_eq (h0 : 0 < mask) (hm : mask < 2 ^ 64) : s.strikeState k mask =
    if (List.range 64).any (fun i => mask == 2 ^ i) then s.logErr k 0 .f 0 else (s.logErr k 0xFF .f 0).machineFault := by
  rw [State.strikeState, doubleBad_word h0 hm]
  cases (List.range 64).any (fun i => mask == 2 ^ i) <;> rfl

theorem logErr_mem {d a : Nat} {c : BitVec 8} {cls : Cls} : (s.logErr d c cls a).mem = s.mem := by
  unfold State.logErr State.updDie; split <;> rfl
theorem logErr_gran {d a : Nat} {c : BitVec 8} {cls : Cls} : (s.logErr d c cls a).gran = s.gran := by
  unfold State.logErr State.updDie; split <;> rfl
theorem logErr_errs {d a : Nat} {c : BitVec 8} {cls : Cls} : (s.logErr d c cls a).errs = s.errs := by
  unfold State.logErr State.updDie; split <;> rfl

/-- A granule that is poisoned in HBM, its stored error gone. -/
def State.scrubbed (s : State) (g : Nat) : State :=
  { s with gran := Tab.set (fun _ => false) s.gran g true, errs := s.errs.filter (fun e => e.at_ != ErrAt.hbm g) }

/-- Scrubbing a granule whose line the quay holds leaves a record in the die's log. -/
theorem exec_scrub (hin : s.input = .unit g) (hr : regionOf (64 * g) = .hbm) (hc : s.lineCls (g / 2) ≠ .n) (hq : hasLine s.quay (g / 2) = true) :
    exec .scrubError s = .next ((s.scrubbed g).logErr (paDie (64 * g)) 7 (s.lineCls (g / 2)) (s.pkg.toNat * 2 ^ 45 + 64 * g)) := by
  change execScrubError s = _
  rw [execScrubError, hin]
  dsimp only
  rw [if_neg (by simp [hr, hc]), hq, Bool.true_or, if_pos rfl, ← hin]
  rfl

theorem withStruck_xbad (h : Hart) (h0 : 0 < mask) (hm : mask < 2 ^ 64) : (h.withStruck k mask).xbad =
    if (List.range 64).any (fun i => mask == 2 ^ i) then h.xbad else h.xbad ||| BitVec.twoPow 68 k := by
  change (if doubleBad mask 1 = true then setBit h.xbad k else h.xbad) = _
  rw [doubleBad_word h0 hm]
  cases (List.range 64).any (fun i => mask == 2 ^ i) <;> rfl
end

/-- Errors that strike, and scrubbing: each event is one change of the state. -/
theorem storedErrors : Spec.StoredErrors := by
  intro s k hid g mask h0 hm
  refine ⟨fun hin hr he => ?_, fun he i hi => rawByte_fetchLine_missed he hi, fun hin hq hc he hm => ?_, fun hin hr he hm => ?_,
    fun hin _ hm hh hc hb => ?_, fun hin hm => ?_, fun hin hr hc hq hd => ?_⟩
  · rw [exec_strikeHbm hin, strikeHbm_fresh hr he h0 hm]
  · rw [exec_strikeCopy hin, strikeCopy_fresh hq hc he h0 hm]
  · rw [exec_strikeLocal hin, strikeLocal_fresh hr he h0 hm]
  · obtain ⟨u, hx, hu, hmem, herrs⟩ := strike_register hin h0 hm hh hc hb
    refine ⟨u, hx, ?_, ?_, ?_, ?_, hmem, herrs⟩ <;> rw [hu]
    · rfl
    · exact (Tab.get_set ..).trans (if_pos rfl)
    · exact withStruck_xbad _ h0 hm
    · rfl
  · rw [exec_strikeState hin h0, strikeState_eq h0 hm]
    rfl
  · refine ⟨_, exec_scrub hin hr hc hq, updDie_hart, logErr_mem, ?_, fun e he => ?_, congrArg Die.log (die_updDie_self hd)⟩
    · rw [logErr_gran, State.scrubbed, Tab.get_set, if_pos rfl]
    · rw [logErr_errs] at he
      exact ⟨(List.mem_filter.1 he).1, bne_iff_ne.1 (List.mem_filter.1 he).2⟩

end Sys2Proof.Machine
end

section
/-! SUPPORT. The slots of pages in transit (R349): what a write of their state does, and the move of a line, where the caches serve a package that
stores no error: the second part of O48. -/

namespace Sys2Proof.Machine
open Sys2Proof

/-! ## Slots -/

/-- Writes a slot of a die. -/
def State.putSlot (s : State) (d i : Nat) (hi : i < 16) (t : Transit) : State := s.updDie d (fun x => { x with slots := x.slots.set i t hi })

section
variable {s : State} {d i k : Nat} {hi : i < 16} {t : Transit}

theorem putSlot_slots (hd : d < 10) : ((s.putSlot d i hi t).die d).slots = (s.die d).slots.set i t hi := congrArg Die.slots (die_updDie_self hd)

theorem putSlot_hart : (s.putSlot d i hi t).hart = s.hart := updDie_hart

theorem putSlot_mem : (s.putSlot d i hi t).mem = s.mem := by
  unfold State.putSlot State.updDie; split <;> rfl

theorem putSlot_byte (c : Nat) : (s.putSlot d i hi t).byte c = s.byte c := by
  obtain ⟨ds, h⟩ := updDie_eq s d fun x => { x with slots := x.slots.set i t hi }
  rw [State.putSlot, h]
  exact byte_of_frame rfl c

/-- The package, die and frame of a page number (R271, R349). -/
def pageOf (p : BitVec 36) : Nat × Nat × Nat := (p.toNat / 2 ^ 29, p.toNat / 2 ^ 25 % 16, p.toNat % 2 ^ 25 / 2 ^ 14)

/-- A slot whose pages may be exchanged (R349): both in HBM of this package, the new one on the slot's die, in frames of one tenant and class. -/
def State.Movable (s : State) (d : Nat) (t : Transit) : Prop :=
  (pageOf t.old).1 = s.pkg.toNat ∧ (pageOf t.new).1 = s.pkg.toNat ∧ (pageOf t.new).2.1 = d ∧ (pageOf t.old).2.1 < 8
    ∧ regionOf (t.old.toNat % 2 ^ 29 * 2 ^ 16) = .hbm ∧ regionOf (t.new.toNat % 2 ^ 29 * 2 ^ 16) = .hbm
    ∧ (s.frame (pageOf t.old).2.1 (pageOf t.old).2.2).tenant = (s.frame (pageOf t.new).2.1 (pageOf t.new).2.2).tenant
    ∧ (s.frame (pageOf t.old).2.1 (pageOf t.old).2.2).cls = (s.frame (pageOf t.new).2.1 (pageOf t.new).2.2).cls ∧ t.old ≠ t.new

theorem page_package (p : Nat) : p * 2 ^ 16 / 2 ^ 45 = p / 2 ^ 29 := by omega
theorem page_die (p : Nat) : p * 2 ^ 16 / 2 ^ 41 % 16 = p / 2 ^ 25 % 16 := by omega
theorem page_frame (p : Nat) : p * 2 ^ 16 % 2 ^ 41 / 2 ^ 30 = p % 2 ^ 25 / 2 ^ 14 := by omega
theorem page_offset (p : Nat) : p * 2 ^ 16 % 2 ^ 45 = p % 2 ^ 29 * 2 ^ 16 := by omega

theorem state_start : (1#2 ++ 0#62 : Word).extractLsb' 62 2 = 1 := by decide
theorem state_free : (0 : Word).extractLsb' 62 2 = 0 := by decide

theorem exec_migrationStart (hin : s.input = .work d i k) : exec .migrationStart s = .next (s.writeMigctl d i (1#2 ++ 0#62)) := by
  change execMigrationStart s = _
  rw [execMigrationStart, hin]
theorem exec_migrationFree (hin : s.input = .work d i k) : exec .migrationFree s = .next (s.writeMigctl d i 0) := by
  change execMigrationFree s = _
  rw [execMigrationFree, hin]
theorem exec_migrationLineMove (hin : s.input = .work d i k) : exec .migrationLineMove s = .next (s.moveLine d i) := by
  change execMigrationLineMove s = _
  rw [execMigrationLineMove, hin]

/-- MIGCTL.STATE written 01 to an idle slot (R349). -/
theorem writeMigctl_start (ht : (s.die d).slots[i].st = 0) [Decidable (s.Movable d (s.die d).slots[i])] :
    s.writeMigctl d i (1#2 ++ 0#62) = s.putSlot d i hi (if s.Movable d (s.die d).slots[i] then { (s.die d).slots[i] with st := 1, err := false, ptr := 0 }
      else { (s.die d).slots[i] with err := true }) := by
  rw [State.writeMigctl, dif_pos hi]
  dsimp only
  rw [if_pos ⟨state_start, ht⟩]
  simp only [State.writeMigctl.a2die, page_package, page_die, page_frame, page_offset]
  rw [apply_ite (s.putSlot d i hi)]
  exact if_congr (by simp [State.Movable, pageOf, and_assoc]) rfl rfl

/-- Another state than idle stays. -/
theorem writeMigctl_start_busy (ht : (s.die d).slots[i].st ≠ 0) : s.writeMigctl d i (1#2 ++ 0#62) = s := by
  rw [State.writeMigctl, dif_pos hi]
  dsimp only
  rw [if_neg fun h => ht h.2, state_start, if_neg fun h => absurd h.1 (by decide)]

/-- MIGCTL.STATE written 00 (R349): a slot that is done becomes idle, any other stays. -/
theorem writeMigctl_free (ht : (s.die d).slots[i].st = 2) : s.writeMigctl d i 0 = s.putSlot d i hi { (s.die d).slots[i] with st := 0 } := by
  rw [State.writeMigctl, dif_pos hi]
  dsimp only
  rw [state_free, if_neg fun h => absurd h.1 (by decide), if_pos ⟨rfl, ht⟩]
  rfl
theorem writeMigctl_free_other (ht : (s.die d).slots[i].st ≠ 2) : s.writeMigctl d i 0 = s := by
  rw [State.writeMigctl, dif_pos hi]
  dsimp only
  rw [state_free, if_neg fun h => absurd h.1 (by decide), if_neg fun h => ht h.2]
end

/-! ## The caches of a package that stores no error (R247, R278, R292) -/

/-- No error is stored, and the dies are as given: what every operation of the caches keeps. -/
def Errorless (ds : Vector Die 10) (s : State) : Prop := s.errs = [] ∧ s.dies = ds

section
variable {ds : Vector Die 10} {s t : State} {line : Nat}

theorem Errorless.frame (h : Errorless ds s) (e : (t.errs, t.dies) = (s.errs, s.dies)) : Errorless ds t := by
  obtain ⟨he, hd⟩ := Prod.mk.inj e
  exact ⟨he.trans h.1, hd.trans h.2⟩
theorem Errorless.ite {c : Prop} [Decidable c] {a b : State} (ha : Errorless ds a) (hb : Errorless ds b) : Errorless ds (if c then a else b) := by
  split
  · exact ha
  · exact hb

theorem Errorless.set_gran (h : Errorless ds s) {g : Tab Bool} : Errorless ds { s with gran := g } := h
theorem Errorless.set_quay (h : Errorless ds s) {q : Tab Line} : Errorless ds { s with quay := q } := h
theorem Errorless.set_msc_pack (h : Errorless ds s) {q : Tab Line} {p : Tab (Nat × Nat)} : Errorless ds { s with msc := q, pack := p } := h
theorem Errorless.outdate (h : Errorless ds s) : Errorless ds (s.outdate line) := h

theorem Errorless.dropErrs (h : Errorless ds s) {c : StoredErr → Bool} : Errorless ds (s.dropErrs c) :=
  ⟨by rw [State.dropErrs, h.1]; rfl, h.2⟩
theorem Errorless.undoErrs (h : Errorless ds s) {c : StoredErr → Bool} : Errorless ds (s.undoErrs c) := by
  rw [State.undoErrs, h.1]
  exact h.dropErrs
theorem Errorless.findErrs (h : Errorless ds s) {l : Option LaunchId} {c : StoredErr → Bool} : Errorless ds (s.findErrs l c) := by
  rw [State.findErrs, h.1]
  exact h
theorem Errorless.setUnits (h : Errorless ds s) {u k : Nat} {b : Bool} : Errorless ds (s.setUnits u b k) := by
  obtain ⟨p, hp⟩ := setUnits_eq s u k b
  rw [hp]
  exact h
theorem Errorless.loadGran (h : Errorless ds s) : Errorless ds (s.loadGran line) := .ite h h.setUnits.setUnits
theorem Errorless.fetchLine (h : Errorless ds s) {l : Option LaunchId} : Errorless ds (s.fetchLine l line) := by
  rw [State.fetchLine, h.1]
  exact h.dropErrs.loadGran
theorem Errorless.backGran (h : Errorless ds s) {g : Nat} : Errorless ds (s.backGran g) := .ite h.set_gran.setUnits h.set_gran
theorem Errorless.writeBack (h : Errorless ds s) : Errorless ds (s.writeBack line) :=
  have h := h.findErrs.dropErrs
  .ite h h.backGran.backGran
theorem Errorless.dropMsc (h : Errorless ds s) : Errorless ds (s.dropMsc line) := .ite h.set_msc_pack h.set_msc_pack.undoErrs
theorem Errorless.backOld (h : Errorless ds s) {v : Line} : Errorless ds (s.backOld line v) := .ite h.dropErrs h.dropErrs.set_gran
theorem Errorless.evictMsc (h : Errorless ds s) {e : Nat × Line} : Errorless ds (s.evictMsc e) :=
  (Errorless.ite h (.ite h.backOld h.writeBack)).dropMsc
theorem Errorless.packLine (h : Errorless ds s) {v : Line} {k : Nat} : Errorless ds (State.packLine line v k s) := by
  induction k generalizing s with
  | zero =>
    unfold State.packLine
    dsimp only
    split
    · exact h
    · exact (Errorless.ite h.writeBack h).dropMsc
  | succ k ih =>
    unfold State.packLine
    dsimp only
    split
    · exact h
    · split
      · exact ih h.evictMsc
      · exact h
theorem Errorless.toMsc (h : Errorless ds s) {v : Line} : Errorless ds (s.toMsc line v) := by
  unfold State.toMsc
  split
  · split
    · exact h.evictMsc.packLine
    · exact h
  · exact h.packLine
theorem Errorless.evictQuay (h : Errorless ds s) {e : Nat × Line} : Errorless ds (s.evictQuay e) :=
  have h : Errorless ds (if e.2.dirty then s.findErrs none (StoredErr.inCopy e.1) else s.undoErrs (StoredErr.inCopy e.1)) := .ite h.findErrs h.undoErrs
  .ite h.set_quay.toMsc h.set_quay
theorem Errorless.trimQuay (h : Errorless ds s) {w k : Nat} : Errorless ds (State.trimQuay line w k s) := by
  induction k generalizing s with
  | zero => exact h
  | succ k ih =>
    unfold State.trimQuay
    dsimp only
    split
    · split
      · exact ih h.evictQuay
      · exact h
    · exact h
theorem Errorless.bringLine (h : Errorless ds s) {l : Option LaunchId} {p : BitVec 2} : Errorless ds (s.bringLine l line p) := by
  unfold State.bringLine
  split
  · exact h
  · exact h.fetchLine.toMsc
theorem Errorless.touchLine (h : Errorless ds s) {l : Option LaunchId} {p : BitVec 2} {w : Bool} : Errorless ds (s.touchLine l line p w) := by
  have h : Errorless ds (if ((s.quay.find? (fun e => e.1 == line)).map (·.2)).isSome then s
      else State.trimQuay line (15 - (s.die (line / 2 ^ 34)).wfrac) 17 (s.bringLine l line p)) := .ite h h.bringLine.trimQuay
  exact Errorless.frame (Errorless.ite h.outdate h) rfl
theorem Errorless.meetErrors (h : Errorless ds s) {l : Option LaunchId} {a k : Nat} {w : Bool} : Errorless ds (s.meetErrors l a k w) := by
  rw [State.meetErrors, if_pos (by rw [h.1]; rfl)]
  exact h
end
/-! ## The move of a line (R349) -/

theorem regionOf_hbm_iff (a : Nat) : regionOf a = .hbm ↔ paDie a < 8 ∧ paOff a < 2 ^ 37 := by
  unfold regionOf
  dsimp only
  split_ifs <;> simp <;> omega

theorem page_paDie {p o : Nat} (ho : o < 65536) : paDie (p * 2 ^ 16 + o) = p / 2 ^ 25 := by
  rw [paDie]
  omega
theorem page_paOff {p o : Nat} (ho : o < 65536) : paOff (p * 2 ^ 16 + o) = p % 2 ^ 25 * 2 ^ 16 + o := by
  rw [paOff]
  omega

/-- The lines of a page of HBM lie in HBM (R272). -/
theorem regionOf_page {p o : Nat} (h : regionOf (p * 2 ^ 16) = .hbm) (ho : o < 65536) : regionOf (p * 2 ^ 16 + o) = .hbm := by
  rw [← Nat.add_zero (p * 2 ^ 16), regionOf_hbm_iff, page_paDie (by decide), page_paOff (by decide)] at h
  obtain ⟨hd, hf⟩ := h
  rw [regionOf_hbm_iff, page_paDie ho, page_paOff ho]
  have h37 : 2 ^ 37 = 2 ^ 21 * 2 ^ 16 := by norm_num
  rw [Nat.add_zero, h37] at hf
  rw [h37]
  have hm : p % 2 ^ 25 + 1 ≤ 2 ^ 21 := Nat.lt_of_mul_lt_mul_right hf
  refine ⟨hd, (Nat.add_lt_add_left ho _).trans_le ?_⟩
  exact (Nat.succ_mul ..).symm.trans_le (Nat.mul_le_mul_right (2 ^ 16) hm)

section
variable {ds : Vector Die 10} {s t : State} {a b d i n : Nat}

theorem copyUnits_eq (s : State) (a b n : Nat) : ∃ p, s.copyUnits a b n = { s with poison := p } := by
  induction n generalizing s a b with
  | zero => exact ⟨s.poison, rfl⟩
  | succ n ih =>
    obtain ⟨p, hp⟩ := ih { s with poison := Tab.set (fun _ => false) s.poison b (s.unitBad a) } (a + 1) (b + 1)
    exact ⟨p, hp⟩

theorem putBytes_dies (s : State) (a n v : Nat) : (s.putBytes a n v).dies = s.dies := by
  induction n generalizing s a v with
  | zero => rfl
  | succ n ih => exact ih ..

theorem putBytes_hart (s : State) (a n v : Nat) : (s.putBytes a n v).hart = s.hart := by
  induction n generalizing s a v with
  | zero => rfl
  | succ n ih => exact ih ..

/-- The state in which the caches have served the read of one line and the write of another, for no launch. -/
def State.servedMove (s : State) (a b : Nat) : State :=
  (((s.touchLine none (a / 128) 0 false).meetErrors none a 128).touchLine none (b / 128) 0 true).meetErrors none b 128 true

theorem unseen_servedMove (he : s.errs = []) (a b : Nat) : s.Unseen (s.servedMove a b) := by
  have hf : s.NoFlips := by rw [State.NoFlips, he]; nofun
  exact ((Served.refl none s).touchLine id |>.meetErrors id |>.touchLine id |>.meetErrors id).quiet rfl hf |>.2

theorem dies_servedMove (he : s.errs = []) (a b : Nat) : (s.servedMove a b).dies = s.dies :=
  have h : Errorless s.dies s := ⟨he, rfl⟩
  h.touchLine.meetErrors.touchLine.meetErrors.2

/-- A line that is moved: bytes and poison of the target change, and nothing else but what no reader sees. -/
theorem moveLine_eq {hi : i < 16} (ht : (s.die d).slots[i].st = 1) (he : s.errs = []) :
    let a := (s.die d).slots[i].old.toNat % 2 ^ 29 * 2 ^ 16 + (s.die d).slots[i].ptr
    let b := (s.die d).slots[i].new.toNat % 2 ^ 29 * 2 ^ 16 + (s.die d).slots[i].ptr
    s.moveLine d i = (((s.servedMove a b).store b 128 (s.bytes a 128)).copyUnits (a / 4) (b / 4) 32).putSlot d i hi { (s.die d).slots[i] with
      ptr := (s.die d).slots[i].ptr + 128, st := if 65536 ≤ (s.die d).slots[i].ptr + 128 then 2 else 1 } := by
  intro a b
  have hread : ((s.touchLine none (a / 128) 0 false).meetErrors none a 128).bytes a 128 = s.bytes a 128 := by
    have hf : s.NoFlips := by rw [State.NoFlips, he]; nofun
    exact (((Served.refl none s).touchLine id |>.meetErrors id).quiet rfl hf).2.bytes a 128
  rw [State.moveLine, dif_pos hi]
  dsimp only
  rw [if_pos ht, hread, State.putSlot, State.servedMove]

/-- A store whose poison is copied afterwards: the bytes written read back, every other byte, the hart and the dies are as they were. -/
theorem copyUnits_store (hm : s.MarksPast) (hr : regionOf b ≠ .acc) {n v x y k : Nat} (hv : v < 256 ^ n) :
    ((s.store b n v).copyUnits x y k).hart = s.hart ∧ ((s.store b n v).copyUnits x y k).dies = s.dies
      ∧ ((s.store b n v).copyUnits x y k).bytes b n = v ∧ SameOutside s ((s.store b n v).copyUnits x y k) b n := by
  obtain ⟨p, hp⟩ := store_eq (s := s) (a := b) (n := n) (v := v) hr
  obtain ⟨q, hq⟩ := copyUnits_eq (s.store b n v) x y k
  have hbyte (c : Nat) : ((s.store b n v).copyUnits x y k).byte c = (s.putBytes b n v).byte c := by
    rw [hq, hp]
    exact byte_of_frame rfl c
  refine ⟨?_, ?_, ?_, fun c hc => (hbyte c).trans (byte_putBytes_other hc)⟩
  · rw [hq, hp]
    exact putBytes_hart ..
  · rw [hq, hp]
    exact putBytes_dies ..
  · rw [bytes_congr fun c _ _ => hbyte c, bytes_putBytes hm, Nat.mod_eq_of_lt hv]

end

/-- Pages in transit: the writes of a slot's state, and the move of a line. -/
theorem pagesMove : Spec.PagesMove := by
  intro s d i k hi hd hin t becomes page a b good
  have put (j : Instr) (t' : Transit) (hx : exec j s = .next (s.putSlot d i hi t')) : becomes j t' :=
    ⟨_, hx, putSlot_hart, putSlot_mem, putSlot_slots (by omega)⟩
  refine ⟨fun h0 => ?_, fun h0 => ?_, fun h2 => ?_, fun h2 => ?_, fun h1 => ?_, fun h1 he hm hp hlt hro hrn => ?_⟩
  · have hgood : good = s.Movable d (s.die d).slots[i] := rfl
    rw [hgood]
    classical
    refine ⟨fun hg => put _ _ ?_, fun hg => put _ _ ?_⟩ <;> rw [exec_migrationStart hin, writeMigctl_start h0]
    · rw [if_pos hg]
    · rw [if_neg hg]
  · rw [exec_migrationStart hin, writeMigctl_start_busy h0]
  · exact put _ _ ((exec_migrationFree hin).trans (congrArg _ (writeMigctl_free h2)))
  · rw [exec_migrationFree hin, writeMigctl_free_other h2]
  · rw [exec_migrationLineMove hin, State.moveLine, dif_pos hi]
    exact congrArg _ (if_neg h1)
  · intro src dst
    have hx := (exec_migrationLineMove hin).trans (congrArg _ (moveLine_eq h1 he))
    have hu := unseen_servedMove he src dst
    have hmv : (s.servedMove src dst).MarksPast := by rwa [State.MarksPast, hu.indet, hu.insts, hu.wno]
    obtain ⟨hh, hdies, hb, ho⟩ := copyUnits_store hmv (by rw [regionOf_page hrn hlt]; decide) (x := src / 4) (y := dst / 4) (k := 32) (bytes_lt src 128)
    have hend : 65536 ≤ t.ptr + 128 ↔ t.ptr = 65408 := by omega
    refine ⟨_, hx, putSlot_hart.trans (hh.trans hu.hart), (bytes_congr fun c _ _ => putSlot_byte c).trans hb,
      fun c hc => (putSlot_byte c).trans ((ho c hc).trans (hu.byte c)), (putSlot_slots (by omega)).trans ?_⟩
    rw [State.die, hdies, dies_servedMove he, if_congr hend rfl rfl]
    rfl

/-- Settles O48: the two parts. -/
theorem storedErrorsAndMigration : Obligations.StoredErrorsAndMigration := ⟨storedErrors, pagesMove⟩
end Sys2Proof.Machine
end

section
/-! SUPPORT. Vector configuration and lengths (R166, R171 to R173, R336): O24. -/

namespace Sys2Proof.Machine
open Sys2Proof Sys2Proof.Spec

/-- An instruction of the vector queue whose own checks fail raises ILLEGAL_OPERAND with its word (R61). -/
theorem vecIssue_illegal {s : State} {g : Hdr} {i : Instr} {nm : Names} {ok : State → Bool} {body : State → Eff} (h : s.VReady g nm.regs nm.tk nm.dst)
    (hw : nm.whole = false) (hp : nm.priv.allows s.hart.mode = true) (hok : ok s = false) :
    vecIssue i g nm ok body s = .next (s.takeTrap { cause := .illegalOperand, epc := s.hart.pc, val := encode i }) := by
  obtain ⟨⟨-, hwm⟩, ⟨hm, -, -⟩, htk, hg, -, -⟩ := h
  simp only [vecIssue, decodeChecks, hm, hp, hwm, htk, hw, hg, hok]
  simp [finish, wordTrap]

/-- VCFG and VTAG. -/
theorem vectorConfiguration : VectorConfiguration := by
  intro s wm xd regs blk vd t
  refine ⟨fun hr => ⟨fun hsame => ?_, fun hsh hne => ?_⟩, fun hr ht => ?_⟩
  · have hok : (!(s.shared && regs != s.hart.regs)) = true := by
      rcases hsame with h | h <;> simp [h]
    rw [← vcfg_eq]
    exact vecIssue_ready (nm := { regs := [] }) hr rfl rfl _ _ _ hok
  · exact vecIssue_illegal (nm := { regs := [] }) hr rfl rfl (by simp [hsh, hne])
  · exact vecIssue_ready (nm := { regs := [vd.toNat] }) hr rfl rfl _ _ _ ht

section
variable {s : State} {row : Bool} {xd xa : XReg} {t : BitVec 5} {tag : Tag}

/-- SETVL and SETVH once they are issued (R172). -/
theorem exec_setLength {wm : BitVec 8} (hr : s.VReady (.plain wm) []) (ht : Tag.ofCode? t = some tag) (hne : tag ≠ .none) :
    exec (.setvl wm xd xa t) s = finish (setLenEff true xd xa t s) ∧ exec (.setvh wm xd xa t) s = finish (setLenEff false xd xa t s) := by
  have hok : lenTagOk t = true := by simp [lenTagOk, ht, hne]
  exact ⟨vecIssue_ready (nm := { regs := [], xs := [xa] }) hr rfl rfl _ _ _ hok,
    vecIssue_ready (nm := { regs := [], xs := [xa] }) hr rfl rfl _ _ _ hok⟩

/-- With nothing to come into force the length is granted at once. -/
theorem setLenEff_settled (ht : Tag.ofCode? t = some tag) (h : s.hart.nxt = s.hart.regs) :
    setLenEff row xd xa t s = .done (setLength row xd (s.x xa).toNat tag s) := by
  rw [setLenEff, ht]
  exact if_pos h

/-- A pending reconfiguration comes into force first (R171). -/
theorem setLenEff_reconfigures (ht : Tag.ofCode? t = some tag) (h : s.hart.nxt ≠ s.hart.regs) (hw : s.hart.vecWork = false) :
    setLenEff row xd xa t s = .done (setLength row xd (s.x xa).toNat tag (s.upd (fun h => h.reconfigure s.cycle))) := by
  rw [setLenEff, ht]
  exact (if_neg h).trans (if_neg (Bool.eq_false_iff.1 hw))

/-- It waits for the earlier work on vector registers (R171). -/
theorem setLenEff_waits (h : s.hart.nxt ≠ s.hart.regs) (hw : s.hart.vecWork = true) : setLenEff row xd xa t s = .wait s :=
  (if_neg h).trans (if_pos hw)
end

/-- SETVL and SETVH. -/
theorem vectorLengths : VectorLengths := by
  intro s wm xd xa t tag hr ht hne lengths
  obtain ⟨hl, hh⟩ := exec_setLength (xd := xd) (xa := xa) hr ht hne
  refine ⟨fun h => ?_, fun h hw => ?_, fun h hw => ?_⟩
  · exact ⟨hl.trans (congrArg finish (setLenEff_settled ht h)), hh.trans (congrArg finish (setLenEff_settled ht h))⟩
  · exact ⟨hl.trans (congrArg finish (setLenEff_reconfigures ht h hw)), hh.trans (congrArg finish (setLenEff_reconfigures ht h hw))⟩
  · exact ⟨hl.trans (congrArg finish (setLenEff_waits h hw)), hh.trans (congrArg finish (setLenEff_waits h hw))⟩

/-- Settles O24: both parts are equations of the model's operations behind the issue. -/
theorem vectorConfigurationAndLengths : Obligations.VectorConfigurationAndLengths := ⟨vectorConfiguration, vectorLengths⟩
end Sys2Proof.Machine
end

section
/-! SUPPORT. Moves between registers, and between a register and a scalar (R174 to R179): O25. All of them write fields of one vector register and
leave `vstart` alone (R169). -/

namespace Sys2Proof.Machine
open Sys2Proof Sys2Proof.Spec

section
variable {s : State} {i j : Instr} {vd va w : Nat}

/-! ## What a move leaves -/

/-- An instruction of this chapter raises no flag, draws no word, and leaves `vstart` alone (R169). -/
theorem vecEnd_quiet (s : State) (h' : Hart) : s.vecEnd h' 0 false true = ({ s with hart := h' } : State).completed :=
  congrArg (fun c => ({ s with hart := { h' with fcsr := c } } : State).completed) BitVec.or_zero

theorem finish_done_upd (s : State) (F : Hart → Hart) : finish (.done (s.upd F)) = .next (s.vecEnd (F s.hart) 0 false true) := by
  rw [vecEnd_quiet]
  rfl

theorem vectorResult_of_nothing (hx : exec i s = .next s.completed) (hv : vd < s.hart.nregs) (f : Nat → Nat) :
    vectorResult i s vd [] f (still := true) :=
  vectorResult_of_map (hx.trans (congrArg _ (vecEnd_quiet s s.hart).symm)) hv rfl (by simp)

/-- An instruction that writes the low bits of one word to each listed element. -/
theorem vectorResult_of_constant {es : List Nat} {x : Nat} (hx : exec i s = .next (s.vecEnd (s.hart.writeElems vd (tagWidth (s.hart.tag vd))
      (es.map (fun e => (e, x % 2 ^ tagWidth (s.hart.tag vd))))) 0 false true)) (hv : vd < s.hart.nregs)
    (hfit : ∀ e ∈ es, e * tagWidth (s.hart.tag vd) + tagWidth (s.hart.tag vd) ≤ s.hart.regBits) :
    vectorResult i s vd es (fun _ => x) (still := true) := by
  refine vectorResult_of_writes hx hv rfl (fun y hy => ?_) fun b e => ?_
  · obtain ⟨e, he, rfl⟩ := List.mem_map.1 hy
    exact hfit e he
  · rw [elemAt_applyWrites, Nat.mod_mod]

/-- Moving fields without stored errors. -/
theorem moveElems_sound (hs : s.hart.Sound) (mv : List (Nat × Option Nat)) :
    moveElems i vd va w mv s = .done (s.upd (fun h => h.writeElems vd w (mv.map (fun m => (m.1, (m.2.map (elemAt w (s.hart.vstr va))).getD 0))))) := by
  have hb : (mv.any fun m => m.2.any fun e => badAt w 0 e) = false := by simp
  simp only [moveElems, touchV_sound hs, vpoiStr_sound hs, hb]
  rfl

/-- An instruction whose body moves element `src e` of one register, or zero, to each listed element `e` of another. -/
theorem vectorResult_of_moveElems {es : List Nat} {src : Nat → Option Nat} (hs : s.hart.Sound)
    (hx : exec i s = finish (moveElems j vd va (tagWidth (s.hart.tag vd)) (es.map (fun e => (e, src e))) s)) (hv : vd < s.hart.nregs)
    (ht : s.hart.tag vd = s.hart.tag va) (hfit : ∀ e ∈ es, e * tagWidth (s.hart.tag vd) + tagWidth (s.hart.tag vd) ≤ s.hart.regBits) :
    vectorResult i s vd es (fun e => ((src e).map (s.hart.elem va)).getD 0) (still := true) := by
  have he : s.hart.elem va = elemAt (tagWidth (s.hart.tag vd)) (s.hart.vstr va) := by
    funext e
    rw [Hart.elem, ht]
  rw [moveElems_sound hs, finish_done_upd, List.map_map] at hx
  rw [he]
  exact vectorResult_of_map hx hv rfl hfit
end

/-! ## Checks -/

theorem plainTag_of_lenOk {h : Hart} {vs : List Nat} {v : Nat} (hl : h.lenOk vs = true) (hv : v ∈ vs) (hb : (h.tag v).isBlock = false) :
    h.plainTag v = true := by
  have hx := List.all_eq_true.1 hl v hv
  rw [Bool.and_eq_true] at hx
  rw [Hart.plainTag, hx.1, hb]
  rfl

section
variable {s : State} {g : Hdr} {vd va : VReg}

theorem sliceOk_of_movable (hm : movable s g vd va) : sliceOk vd va s = true := by
  obtain ⟨-, hl, ht, hb⟩ := hm
  rw [sliceOk, hl, plainTag_of_lenOk hl List.mem_cons_self hb, ht, beq_self_eq_true]
  rfl

theorem fits_of_movable (hm : movable s g vd va) {e : Nat} (he : e < s.hart.n) :
    e * tagWidth (s.hart.tag vd.toNat) + tagWidth (s.hart.tag vd.toNat) ≤ s.hart.regBits := by
  obtain ⟨-, hl, -, hb⟩ := hm
  exact fits_of_lenOk hl List.mem_cons_self hb he

/-! ## VMOV and VBCAST (R175, R177) -/

/-- VMOV of elements. -/
theorem vectorResult_vmov {a : VSrc} (hm : movable s g vd a.v) : vectorResult (.vmov g vd a) s vd.toNat (activesOf s.hart g s.hart.n)
    (fun e => s.hart.elem a.v.toNat (a.rep.index e)) (still := true) := by
  have ⟨hr, hl, ht, hb⟩ := hm
  have hx : exec (.vmov g vd a) s = finish (moveElems (.vmov g vd a) vd.toNat a.v.toNat (tagWidth (s.hart.tag vd.toNat))
      ((activesOf s.hart g s.hart.n).map (fun e => (e, some (a.rep.index e)))) s) := by
    refine (vecIssue_ready hr rfl rfl _ _ _ (by simp [hl, ← ht, hb])).trans ?_
    rw [if_neg (Bool.eq_false_iff.1 hb)]
    rfl
  exact vectorResult_of_moveElems (sound_of_vReady hr) hx (free_of_vReady hr List.mem_cons_self).1 ht
    fun e he => fits_of_movable hm (mem_activesOf.1 he).1

/-- The blocks whose first element is active (R175). -/
def Hart.activeBlocks (h : Hart) (g : Hdr) : List Nat := (List.range (h.n / 32)).filter (fun b => h.active g.grd (32 * b))

theorem mem_activeBlocks {h : Hart} {b : Nat} : b ∈ h.activeBlocks g ↔ b < h.n / 32 ∧ h.active g.grd (32 * b) = true := by
  simp [Hart.activeBlocks]

/-- VMOV of whole blocks. -/
theorem vmov_blocks {a : VSrc} (hr : s.VReady g [vd.toNat, a.v.toNat]) (hl : s.hart.lenOk [vd.toNat, a.v.toNat] = true)
    (ht : s.hart.tag vd.toNat = s.hart.tag a.v.toNat) (hb : (s.hart.tag vd.toNat).isBlock = true) (hrep : a.rep = .none) (hn : s.hart.n % 32 = 0) :
    let w := tagBlockBits (s.hart.tag vd.toNat)
    ∃ t, Completes (.vmov g vd a) s t ∧ OnlyVectors s t
      ∧ (∀ b, elemAt w (t.hart.vstr vd.toNat) b =
          elemAt w (s.hart.vstr (if b < s.hart.n / 32 ∧ s.hart.active g.grd (32 * b) = true then a.v.toNat else vd.toNat)) b)
      ∧ ∀ u, u < s.hart.nregs → u ≠ vd.toNat → t.hart.vstr u = s.hart.vstr u := by
  intro w
  have hv := (free_of_vReady hr List.mem_cons_self).1
  set ws : Writes := (s.hart.activeBlocks g).map (fun b => (b, elemAt w (s.hart.vstr a.v.toNat) b))
  have hfit : ∀ x ∈ ws, x.1 * w + w ≤ s.hart.regBits := by
    intro x hx
    obtain ⟨b, hbs, rfl⟩ := List.mem_map.1 hx
    exact fits_block_of_lenOk hl List.mem_cons_self hb (mem_activeBlocks.1 hbs).1
  have hx : exec (.vmov g vd a) s = .next (s.vecEnd (s.hart.writeElems vd.toNat w ws) 0 false true) := by
    refine (vecIssue_ready hr rfl rfl _ _ _ (by simp [hl, ← ht, hrep, hn])).trans ?_
    rw [if_pos hb, moveElems_sound (sound_of_vReady hr), finish_done_upd, List.map_map]
    rfl
  obtain ⟨hc, ho⟩ := completes_vecEnd hx (onlyStorage_writeElems ..)
  refine ⟨_, hc, ho, fun b => ?_, fun u _ hu => ?_⟩
  · rw [vstr_vecEnd, vstr_writeElems hv _ _ hfit, if_pos rfl, elemAt_applyWrites, Nat.mod_eq_of_lt (elemAt_lt ..), if_congr mem_activeBlocks rfl rfl]
    split <;> rfl
  · rw [vstr_vecEnd, vstr_writeElems hv _ _ hfit, if_neg hu]

/-- VBCAST. -/
theorem vectorResult_vbcast {xa : XReg} (hr : s.VReady g [vd.toNat]) (hl : s.hart.lenOk [vd.toNat] = true) (hb : (s.hart.tag vd.toNat).isBlock = false) :
    vectorResult (.vbcast g vd xa) s vd.toNat (activesOf s.hart g s.hart.n) (fun _ => (s.x xa).toNat) (still := true) := by
  refine vectorResult_of_constant ?_ (free_of_vReady hr List.mem_cons_self).1 fun e he => fits_of_lenOk hl List.mem_cons_self hb (mem_activesOf.1 he).1
  refine (vecIssue_ready hr rfl rfl _ _ _ (by simp [hl, plainTag_of_lenOk hl List.mem_cons_self hb])).trans ?_
  rw [finish_done_upd]
  rfl
end

/-- VMOV and VBCAST. -/
theorem movesAndBroadcasts : MovesAndBroadcasts := by
  intro s g vd a xa
  exact ⟨vectorResult_vmov, vmov_blocks, vectorResult_vbcast, fun hr hf hp hn => vecIssue_never hr hf hp hn rfl rfl rfl rfl⟩

/-! ## VSLICE (R176) -/

/-- The positions of a slice lie inside the tile. -/
theorem slicePos_lt {col : Bool} {vl vh k j : Nat} (hk : k < if col then vl else vh) (hj : j < if col then vh else vl) :
    slicePos col vl k j < vl * vh := by
  cases col
  · exact row_lt hk hj
  · exact row_lt hj hk

/-- The element of the slice that stands at a position. -/
def sliceIndex (col : Bool) (vl k e : Nat) : Nat := if col then e / vl else e - k * vl

theorem sliceIndex_slicePos {col : Bool} {vl vh k : Nat} (hk : k < if col then vl else vh) (j : Nat) :
    sliceIndex col vl k (slicePos col vl k j) = j := by
  cases col
  · exact Nat.add_sub_cancel_left ..
  · exact row_div hk

/-- The positions that an insertion writes, each with the element that goes there. -/
theorem insertion_moves {col : Bool} {vl vh k len : Nat} (hk : k < if col then vl else vh) (act : Nat → Bool) :
    ((List.range len).map (fun j => (slicePos col vl k j, some j))).filter (fun m => act m.1) =
      (((List.range len).map (slicePos col vl k)).filter act).map (fun e => (e, some (sliceIndex col vl k e))) := by
  rw [List.filter_map, List.filter_map, List.map_map]
  refine List.map_congr_left fun j _ => ?_
  rw [Function.comp_apply, sliceIndex_slicePos hk]

theorem sliceLen_le {col : Bool} {vl vh : Nat} (h0 : 0 < vl) (h1 : 0 < vh) : (if col then vh else vl) ≤ vl * vh := by
  cases col
  · exact Nat.le_mul_of_pos_right _ h1
  · exact Nat.le_mul_of_pos_left _ h0

section
variable {s : State} {g : Hdr} {col : Bool} {vd va : VReg} {xb : XReg} (hm : movable s g vd va)
include hm

/-- VSLICE as it extracts, with an index inside the tile and outside: what is not there reads as zero. -/
theorem vectorResult_vsliceExtract (h0 : 0 < s.hart.vl) (h1 : 0 < s.hart.vh) {inside : Bool}
    (hin : decide ((s.x xb).toNat < if col then s.hart.vl else s.hart.vh) = inside) :
    vectorResult (.vsliceExtract g col vd va xb) s vd.toNat (activesOf s.hart g (if col then s.hart.vh else s.hart.vl))
      (fun j => ((if inside then some (slicePos col s.hart.vl (s.x xb).toNat j) else none).map (s.hart.elem va.toNat)).getD 0) (still := true) := by
  subst hin
  have ⟨hr, _, ht, _⟩ := hm
  refine vectorResult_of_moveElems (sound_of_vReady hr) (vecIssue_ready hr rfl rfl _ _ _ (sliceOk_of_movable hm))
    (free_of_vReady hr List.mem_cons_self).1 ht fun e he => ?_
  exact fits_of_movable hm ((mem_activesOf.1 he).1.trans_le (sliceLen_le h0 h1))

/-- VSLICE as it inserts: a move of the active positions, or of none. -/
theorem exec_vsliceInsert : exec (.vsliceInsert g col vd va xb) s = finish (moveElems (.vsliceInsert g col vd va xb) vd.toNat va.toNat
    (tagWidth (s.hart.tag vd.toNat)) (if decide ((s.x xb).toNat < if col then s.hart.vl else s.hart.vh) then
      ((List.range (if col then s.hart.vh else s.hart.vl)).map (fun j => (slicePos col s.hart.vl (s.x xb).toNat j, some j))).filter
        (fun m => s.hart.active g.grd m.1) else []) s) :=
  vecIssue_ready hm.1 rfl rfl _ _ _ (sliceOk_of_movable hm)

theorem vectorResult_vsliceInsert (hin : (s.x xb).toNat < if col then s.hart.vl else s.hart.vh) :
    vectorResult (.vsliceInsert g col vd va xb) s vd.toNat (((List.range (if col then s.hart.vh else s.hart.vl)).map
        (slicePos col s.hart.vl (s.x xb).toNat)).filter (s.hart.active g.grd))
      (fun e => s.hart.elem va.toNat (sliceIndex col s.hart.vl (s.x xb).toNat e)) (still := true) := by
  have ⟨hr, _, ht, _⟩ := hm
  have hx := exec_vsliceInsert (col := col) (xb := xb) hm
  rw [decide_eq_true hin, if_pos rfl, insertion_moves hin] at hx
  refine vectorResult_of_moveElems (sound_of_vReady hr) hx (free_of_vReady hr List.mem_cons_self).1 ht fun e he => ?_
  obtain ⟨j, hj, rfl⟩ := List.mem_map.1 (List.mem_filter.1 he).1
  exact fits_of_movable hm (slicePos_lt hin (List.mem_range.1 hj))

theorem vectorResult_vsliceInsert_outside (hin : ¬(s.x xb).toNat < if col then s.hart.vl else s.hart.vh) :
    vectorResult (.vsliceInsert g col vd va xb) s vd.toNat [] (fun _ => 0) (still := true) := by
  have ⟨hr, _⟩ := hm
  have hx := exec_vsliceInsert (col := col) (xb := xb) hm
  rw [decide_eq_false hin, if_neg Bool.false_ne_true, moveElems_sound (sound_of_vReady hr)] at hx
  exact vectorResult_of_nothing hx (free_of_vReady hr List.mem_cons_self).1 _
end

/-- VSLICE. -/
theorem slices : Slices := by
  intro s g col vd va xb hm h0 h1 k vl len at_ inside
  exact ⟨fun hin => vectorResult_vsliceExtract hm h0 h1 (decide_eq_true hin), fun hout => vectorResult_vsliceExtract hm h0 h1 (decide_eq_false hout),
    vectorResult_vsliceInsert hm, vectorResult_vsliceInsert_outside hm⟩

/-! ## VXT and VINS (R178, R179) -/

section
variable {s : State} {g : Hdr} {v : VReg} {xa xb xd : XReg} (hr : s.VReady g [v.toNat] (dst := [])) (hl : s.hart.lenOk [v.toNat] = true)
  (hb : (s.hart.tag v.toNat).isBlock = false)
include hr hl hb

theorem exec_vxt : exec (.vxt g xd v xb) s = finish (if !s.hart.active g.grd 0 then .done s else .done (s.setX xd
    (if (s.x xb).toNat < s.hart.n then elemWord (s.hart.tag v.toNat) (s.hart.elem v.toNat (s.x xb).toNat) else 0))) := by
  have hs := sound_of_vReady hr
  refine (vecIssue_ready (nm := { still := true, regs := [v.toNat], dst := [], xs := [xb] }) hr rfl rfl _ _ _
    (by simp [hl, plainTag_of_lenOk hl List.mem_cons_self hb])).trans ?_
  simp only [touchV_sound hs, vpoiStr_sound hs, badAt_zero]
  by_cases hlt : (s.x xb).toNat < s.hart.n
  · rw [if_neg (Nat.not_le.2 hlt), if_pos hlt]
    rfl
  · rw [if_pos (Nat.not_lt.1 hlt), if_neg hlt]

theorem vectorResult_vins (hmx : s.hart.mxReads v.toNat = false) :
    vectorResult (.vins g v xa xb) s v.toNat (if (s.x xb).toNat < s.hart.n ∧ s.hart.active g.grd (s.x xb).toNat = true then [(s.x xb).toNat] else [])
      (fun _ => (s.x xa).toNat) (still := true) := by
  have hv := (free_of_vReady hr List.mem_cons_self).1
  have hr' : s.VReady g [v.toNat] := by
    obtain ⟨h1, h2, h3, h4, h5, -⟩ := hr
    exact ⟨h1, h2, h3, h4, h5, by simpa using hmx⟩
  have hx : exec (.vins g v xa xb) s = finish (if decide ((s.x xb).toNat < s.hart.n) && s.hart.active g.grd (s.x xb).toNat then
      .done (s.upd (fun h => h.writeElems v.toNat (tagWidth (s.hart.tag v.toNat)) [((s.x xb).toNat, (s.x xa).toNat % 2 ^ tagWidth (s.hart.tag v.toNat))]))
      else .done s) :=
    vecIssue_ready (nm := { still := true, regs := [v.toNat], xs := [xa, xb] }) hr' rfl rfl _ _ _
      (by simp [hl, plainTag_of_lenOk hl List.mem_cons_self hb])
  split_ifs with hc
  · rw [if_pos (by simpa using hc), finish_done_upd] at hx
    exact vectorResult_of_constant hx hv fun e he => List.mem_singleton.1 he ▸ fits_of_lenOk hl List.mem_cons_self hb hc.1
  · rw [if_neg (by simpa using hc)] at hx
    exact vectorResult_of_nothing hx hv _
end

/-- VXT and VINS. -/
theorem extractAndInsert : ExtractAndInsert := by
  intro s g v xa xb xd
  refine ⟨fun hr hf hp hn => vecIssue_never hr hf hp hn rfl rfl rfl rfl, fun hr hl hb => ⟨fun ha => ?_, fun ha => ?_, vectorResult_vins hr hl hb⟩⟩
  · rw [exec_vxt hr hl hb, ha]
    rfl
  · rw [exec_vxt hr hl hb, ha]
    rfl

/-- Settles O25: every move writes fields of one register, each computed by one function of its place. -/
theorem vectorMoves : Obligations.VectorMoves := ⟨movesAndBroadcasts, slices, extractAndInsert⟩
end Sys2Proof.Machine
end

section
/-! SUPPORT. Element-wise instructions in their pass-queue form (R161), and integer results that wrap or saturate (R91): O26. -/

namespace Sys2Proof.Machine
open Sys2Proof Sys2Proof.Spec

/-! ## What passes from element to element (R161) -/

section
variable {f : Nat → Nat → Nat × Flags}

/-- The carry behind a list of elements. -/
def carryAfter (f : Nat → Nat → Nat × Flags) (es : List Nat) (c : Nat) : Nat := es.foldl (fun c e => (f e c).1) c

theorem carryAfter_take_succ {es : List Nat} {k : Nat} (hk : k < es.length) (c : Nat) :
    carryAfter f (es.take (k + 1)) c = (f es[k] (carryAfter f (es.take k) c)).1 := by
  rw [carryAfter, ← List.take_concat_get' es k hk, List.foldl_append]
  rfl

theorem carryRun_last (es : List Nat) (c : Nat) : (V3Op.carryRun f es c).2.2 = carryAfter f es c := by
  induction es generalizing c with
  | nil => rfl
  | cons e es ih => exact ih _

theorem carryRun_fields (es : List Nat) (c : Nat) : (V3Op.carryRun f es c).1.map Prod.fst = es := by
  induction es generalizing c with
  | nil => rfl
  | cons e es ih => exact congrArg (e :: ·) (ih _)

/-- Each element gets the carry behind it. -/
theorem mem_carryRun {es : List Nat} {k : Nat} (hk : k < es.length) (c : Nat) :
    (es[k], carryAfter f (es.take (k + 1)) c) ∈ (V3Op.carryRun f es c).1 := by
  induction es generalizing c k with
  | nil => exact absurd hk (Nat.not_lt_zero k)
  | cons e es ih =>
    cases k with
    | zero => exact List.mem_cons_self
    | succ k => exact List.mem_cons_of_mem _ (ih (Nat.lt_of_succ_lt_succ hk) _)
end

/-! ## The pass-queue form -/

section
variable {s : State} {g : Hdr} {p : V3Op} {i : Instr}

/-- What a pass-queue instruction makes of element `e` and of the carry before it. -/
def queueStep (h : Hart) (p : V3Op) (e c : Nat) : Nat × Flags := p.f e c (sources h p e).2.1 (sources h p e).2.2
/-- The fields, flags and last carry of the active elements, from `vqin` on. -/
def queueRun (h : Hart) (g : Hdr) (p : V3Op) : Writes × Flags × Nat :=
  V3Op.carryRun (queueStep h p) (activesOf h g h.n) (h.vqin.toNat % 2 ^ tagWidth (h.tag p.vd.toNat))
/-- The hart with a carry in both pass queue registers. -/
def Hart.passes (h : Hart) (c : Nat) : Hart := { h with vqin := BitVec.ofNat 64 c, vqout := BitVec.ofNat 64 c }
/-- The hart behind the elements of a pass-queue instruction. -/
def Hart.afterQueue (h : Hart) (g : Hdr) (p : V3Op) : Hart :=
  (h.writeElems p.vd.toNat (tagWidth (h.tag p.vd.toNat)) (queueRun h g p).1).passes (queueRun h g p).2.2

theorem runV3_queue (hq : p.o.q = true) (hs : s.hart.Sound) (hf : s.hart.Fresh) :
    runV3 i g p s = vdone (((s.upd (fun h => h.afterQueue g p)).raise (queueRun s.hart g p).2.1).advanceSeed
      (p.draws && !(activesOf s.hart g s.hart.n).isEmpty)) := by
  unfold runV3
  simp only [hq, touchV_sound hs, vpoiStr_sound hs, badAt_zero, ite_self, if_true, actives_of_fresh (reissue_of_fresh hf), stopsAfter_of_fresh hf,
    Bool.not_true, Bool.and_false, Bool.or_self]
  rw [if_neg (by simp)]
  rfl

/-- What an instruction leaves that wrote vector registers and the pass queue registers. -/
theorem completes_passes {h' : Hart} {c : Nat} {fl : Flags} {drew still : Bool} (hx : exec i s = .next (s.vecEnd (h'.passes c) fl drew still))
    (ho : OnlyStorage s.hart h') :
    Completes i s (s.vecEnd (h'.passes c) fl drew still) ∧ OnlyVectors s (s.vecEnd (h'.passes c) fl drew still) := by
  obtain ⟨_, _, _, _, rfl⟩ := ho
  unfold Hart.passes at *
  exact ⟨⟨hx, rfl, rfl, rfl, rfl, rfl, rfl⟩, rfl, rfl, rfl, rfl, rfl, rfl, rfl, rfl, rfl, byte_of_frame rfl⟩

section
variable {h' : Hart} {c : Nat} {fl : Flags} {drew : Bool}

theorem vqin_vecEnd_passes : (s.vecEnd (h'.passes c) fl drew false).hart.vqin = BitVec.ofNat 64 c := rfl
theorem vqout_vecEnd_passes : (s.vecEnd (h'.passes c) fl drew false).hart.vqout = BitVec.ofNat 64 c := rfl
theorem vstart_vecEnd_passes : (s.vecEnd (h'.passes c) fl drew false).hart.vstart = 0 := rfl
theorem vtag_vecEnd_passes : (s.vecEnd (h'.passes c) fl drew false).hart.vtag = h'.vtag := rfl
end

theorem queueRun_fields (h : Hart) : (queueRun h g p).1.map Prod.fst = activesOf h g h.n := carryRun_fields ..
theorem queueRun_nodup (h : Hart) : ((queueRun h g p).1.map Prod.fst).Nodup := queueRun_fields h ▸ List.nodup_range.filter _

section
variable {h : Hart} (hl : h.lenOk p.regs = true) (hb : (h.tag p.vd.toNat).isBlock = false) (hv : p.vd.toNat < h.nregs)
include hl hb hv

theorem vstr_afterQueue (u : Nat) : (h.afterQueue g p).vstr u =
    if u = p.vd.toNat then applyWrites (tagWidth (h.tag p.vd.toNat)) (h.vstr p.vd.toNat) (queueRun h g p).1 else h.vstr u :=
  vstr_writeElems hv _ _ (fun _ hx => fits_of_lenOk hl List.mem_cons_self hb (mem_activesOf.1 (queueRun_fields h ▸ List.mem_map_of_mem hx)).1) u

theorem elem_afterQueue (e : Nat) : (h.afterQueue g p).elem p.vd.toNat e =
    if e ∈ activesOf h g h.n then ((queueRun h g p).1.lookup e).getD 0 % 2 ^ tagWidth (h.tag p.vd.toNat) else h.elem p.vd.toNat e := by
  have htag : (h.afterQueue g p).tag p.vd.toNat = h.tag p.vd.toNat := writeElems_tag ..
  have hmap := writes_eq_map (queueRun_nodup (g := g) (p := p) h)
  rw [queueRun_fields] at hmap
  rw [Hart.elem, htag, vstr_afterQueue hl hb hv, if_pos rfl, hmap, elemAt_applyWrites, ← hmap, Hart.elem]
end

/-- An element-wise instruction, with register sources or a pass-queue source (R158, R161, R181). -/
theorem elementwise_of_issue {P : State → V3Op} {ok : Tag → Tag → Bool} {ps : List PReg} (hx : exec i s = issueV3 i g P ok ps s)
    (hP : P s = p) (hblk : ∀ st dt, ok st dt = true → dt.isBlock = false) : elementwise i s g p ok := by
  cases hq : p.o.q with
  | false => exact elementwise_of_issueV3 hx hP hq hblk
  | true =>
    subst hP
    rintro ⟨hr, hl, ht, hok⟩
    have hf := fresh_of_vReady hr
    have hb := hblk _ _ hok
    have hv := (free_of_vReady hr List.mem_cons_self).1
    have hend : exec i s = .next (s.vecEnd (s.hart.afterQueue g (P s)) (queueRun s.hart g (P s)).2.1
        ((P s).draws && !(activesOf s.hart g s.hart.n).isEmpty) false) := by
      rw [hx, issueV3, vecIssue_ready hr rfl rfl _ _ _ (by simp [hl, ht, hok]), runV3_queue hq (sound_of_vReady hr) hf,
        finish_vdone_raise (by simpa [Hart.afterQueue, Hart.passes] using reissue_of_fresh hf)]
    obtain ⟨hc, ho⟩ := completes_passes hend (onlyStorage_writeElems ..)
    refine ⟨fun h => absurd (hq.symm.trans h) (by decide), fun _ => ⟨s.vecEnd (s.hart.afterQueue g (P s)) _ _ _, fun k =>
      carryAfter (queueStep s.hart (P s)) ((activesOf s.hart g s.hart.n).take k) (s.hart.vqin.toNat % 2 ^ tagWidth (s.hart.tag (P s).vd.toNat)),
      hc, ho, rfl, fun k hk => ⟨carryAfter_take_succ hk _, ?_⟩, fun e he => ?_, fun u _ hu => ?_, ?_,
      vqout_vecEnd_passes.trans vqin_vecEnd_passes.symm, vstart_vecEnd_passes, vtag_vecEnd_passes.trans (Hart.writeElems_vtag ..)⟩⟩
    · rw [elem_vecEnd, elem_afterQueue hl hb hv, if_pos (List.getElem_mem hk), lookup_of_mem (queueRun_nodup s.hart) (mem_carryRun hk _)]
      rfl
    · rw [elem_vecEnd, elem_afterQueue hl hb hv, if_neg he]
    · rw [vstr_vecEnd, vstr_afterQueue hl hb hv, if_neg hu]
    · refine vqin_vecEnd_passes.trans (congrArg (BitVec.ofNat 64) ?_)
      dsimp only
      rw [List.take_length]
      exact carryRun_last ..
end

/-! ## Arithmetic (R180, R185 to R191) -/

theorem isBlock_of_arithTags (st dt : Tag) (h : arithTags st dt = true) : dt.isBlock = false :=
  isBlock_of_isArith (Bool.and_eq_true_iff.1 h).2
theorem isBlock_of_intTags (st dt : Tag) (h : intTags st dt = true) : dt.isBlock = false := isBlock_of_isInt (Bool.and_eq_true_iff.1 h).2
theorem isBlock_of_sameIntTags (st dt : Tag) (h : sameIntTags st dt = true) : dt.isBlock = false := by
  simp only [sameIntTags, Bool.and_eq_true, beq_iff_eq] at h
  obtain ⟨⟨-, hi⟩, rfl⟩ := h
  exact isBlock_of_isInt hi
theorem isBlock_of_floatTags (st dt : Tag) (h : floatTags st dt = true) : dt.isBlock = false := by
  simp only [floatTags, Bool.and_eq_true] at h
  exact isBlock_of_isArith h.1.2

/-- The arithmetic instructions, each under the tag rule of its entry. -/
theorem vectorArithmetic : VectorArithmetic := by
  intro s g vd vc o a sat rnd
  have hA {i : Instr} {P : State → V3Op} (hx : exec i s = issueV3 i g P arithTags [] s) : elementwise i s g (P s) arithTags :=
    elementwise_of_issue hx rfl isBlock_of_arithTags
  have hF {i : Instr} {P : State → V3Op} (hx : exec i s = issueV3 i g P floatTags [] s) : elementwise i s g (P s) floatTags :=
    elementwise_of_issue hx rfl isBlock_of_floatTags
  simp only [roundedOps, unaryOps, fusedOps, List.forall_mem_cons]
  exact ⟨⟨hA rfl, hA rfl, hA rfl, hA rfl, hA rfl, hA rfl, nofun⟩, ⟨hA rfl, hA rfl, hF rfl, hF rfl, hF rfl, hF rfl, hF rfl, nofun⟩,
    ⟨hA rfl, hA rfl, hA rfl, nofun⟩, elementwise_of_issue rfl rfl isBlock_of_sameIntTags, elementwise_of_issue rfl rfl isBlock_of_intTags⟩

/-! ## Integers that wrap or saturate (R91) -/

/-- Two's complement, as the model computes it. -/
theorem toInt_ofNat_eq (w b : Nat) :
    (BitVec.ofNat w b).toInt = if 2 ^ (w - 1) ≤ b % 2 ^ w then ((b % 2 ^ w : Nat) : Int) - (2 ^ w : Nat) else (b % 2 ^ w : Nat) := by
  have hw : 2 ^ (w - 1) ≤ b % 2 ^ w ↔ ¬2 * (b % 2 ^ w) < 2 ^ w := by
    cases w with
    | zero => simp [Nat.mod_one]
    | succ w => rw [Nat.add_sub_cancel, Nat.pow_succ]; omega
  rw [BitVec.toInt_eq_toNat_cond, BitVec.toNat_ofNat, if_congr hw rfl rfl, ite_not]

/-- The value of an integer element (R74). -/
theorem indexVal_eq {t : Tag} (hi : t.isInt = true) (b : Nat) : indexVal t b =
    if t.isSigned = true then (BitVec.ofNat (tagWidth t) b).toInt else ((BitVec.ofNat (tagWidth t) b).toNat : Int) := by
  unfold indexVal tagValue
  rw [ofTag_of_isInt hi, toInt_ofNat_eq, BitVec.toNat_ofNat]
  dsimp only
  rw [if_neg (ne_e8m0_of_isInt hi)]
  by_cases hs : t.isSigned = true
  · by_cases hm : 2 ^ (tagWidth t - 1) ≤ b % 2 ^ tagWidth t
    · rw [if_pos ⟨hs, hm⟩, if_pos hs, if_pos hm]
    · rw [if_neg fun h => hm h.2, if_pos hs, if_neg hm]
  · rw [if_neg fun h => hs h.1, if_neg hs]

theorem intMin_le_intMax (t : Tag) : t.intMin ≤ t.intMax := by cases t <;> decide

/-- Clamping is the nearest value of the tag. -/
theorem satInt_fst (t : Tag) (i : Int) : (satInt t i).1 = max t.intMin (min t.intMax i) := by
  have h := intMin_le_intMax t
  unfold satInt
  split_ifs with h1 h2
  · exact (max_eq_left (by omega)).symm
  · change t.intMax = _
    omega
  · change i = _
    omega

theorem narrowInt_fst (t : Tag) (sat : Bool) (i : Int) :
    (narrowInt t sat i).1 = (BitVec.ofInt (tagWidth t) (if sat then max t.intMin (min t.intMax i) else i)).toNat := by
  cases sat with
  | false => exact (BitVec.toNat_ofInt ..).symm
  | true => rw [if_pos rfl, ← satInt_fst, BitVec.toNat_ofInt]; rfl

section
variable {s : State} {g : Hdr} {vd va vb : VReg} {sat : Bool} {rnd : BitVec 2} {tag : Tag} {i : Instr} {f : ArithFn} {op : Int → Int → Int}

/-- An operation on two integer registers of one tag. -/
theorem integer_result (hr : s.VReady g [vd.toNat, va.toNat, vb.toNat]) (hl : s.hart.lenOk [vd.toNat, va.toNat, vb.toNat] = true)
    (hd : s.hart.tag vd.toNat = tag) (ha : s.hart.tag va.toNat = tag) (hb : s.hart.tag vb.toNat = tag) (hi : tag.isInt = true)
    (har : tag.isArith = true) (hf : ∀ r x y z, f tag r (.int x) (.int y) z = (.int (op x y), 0))
    (he : elementwise i s g (arith f vd ⟨false, ⟨va, .none⟩, ⟨vb, .none⟩⟩ none sat rnd s) arithTags) :
    ∃ t, Completes i s t ∧ ∀ e, e < s.hart.n → s.hart.active g.grd e = true → t.hart.elem vd.toNat e =
      (narrowInt tag sat (op (indexVal tag (s.hart.elem va.toNat e)) (indexVal tag (s.hart.elem vb.toNat e)))).1 := by
  have hready : elementsReady s g (arith f vd ⟨false, ⟨va, .none⟩, ⟨vb, .none⟩⟩ none sat rnd s) arithTags := by
    refine ⟨hr, hl, ?_, ?_⟩
    · simp [arith, V3Op.tagsOk, V3Op.srcTag, ha, hb]
    · simp [arith, V3Op.srcTag, arithTags, hd, hb, har]
  obtain ⟨t, hc, -, helem, -⟩ := (he hready).1 rfl
  refine ⟨t, hc, fun e hlt hact => ?_⟩
  refine ((helem e).trans (if_pos (mem_activesOf.2 ⟨hlt, hact⟩))).trans ?_
  simp only [arith, sources, V3Op.srcTag, Rep.index, Hart.elem, hd, ha, hb, Bool.false_eq_true, if_false, tagValue_int hi, hf, deliver_int hi]
  rw [narrowInt_fst, Nat.mod_eq_of_lt (BitVec.isLt _)]
end

/-- VADD, VSUB and VMUL on integers. -/
theorem integerElementsWrapOrSaturate : IntegerElementsWrapOrSaturate := by
  intro s g vd va vb sat rnd tag hr hl hd ha hb hi har int out o result
  have hint {v : VReg} (hv : s.hart.tag v.toNat = tag) (e : Nat) : int (s.hart.elem v.toNat e) = indexVal tag (s.hart.elem v.toNat e) := by
    rw [indexVal_eq hi, BitVec.toNat_ofNat, Nat.mod_eq_of_lt (hv ▸ elemAt_lt ..)]
  have hresult {i : Instr} {f : ArithFn} (op : Int → Int → Int) (hf : ∀ r x y z, f tag r (.int x) (.int y) z = (.int (op x y), 0))
      (he : elementwise i s g (arith f vd o none sat rnd s) arithTags) : result i op := by
    obtain ⟨t, hc, helem⟩ := integer_result hr hl hd ha hb hi har hf he
    refine ⟨t, hc, fun e hlt hact => ?_⟩
    rw [helem e hlt hact, narrowInt_fst, ← hint ha, ← hint hb]
  exact ⟨hresult (· + ·) (fun _ _ _ _ => rfl) (elementwise_of_issue rfl rfl isBlock_of_arithTags),
    hresult (· - ·) (fun _ _ _ _ => rfl) (elementwise_of_issue rfl rfl isBlock_of_arithTags),
    hresult (· * ·) (fun _ _ _ _ => rfl) (elementwise_of_issue rfl rfl isBlock_of_arithTags)⟩

/-- Settles O26: the register form runs its elements, the pass-queue form hands the carry from one to the next, and integers are narrowed once. -/
theorem vectorArithmeticResults : Obligations.VectorArithmeticResults := ⟨vectorArithmetic, integerElementsWrapOrSaturate⟩
end Sys2Proof.Machine
end

section
/-! SUPPORT. Bit patterns: logic, shifts, counts (R192, R193) and interleaving (R194, R195): O27. The model computes on natural numbers; these are the
operations on patterns. -/

namespace Sys2Proof.Machine
open Sys2Proof Sys2Proof.Spec

/-! ## Sums of bits -/

/-- A bit times its weight. -/
theorem bit_mul (a m c : Nat) : a / 2 ^ m % 2 * c = if a.testBit m then c else 0 := by
  rw [Nat.testBit_eq_decide_div_mod_eq]
  rcases Nat.mod_two_eq_zero_or_one (a / 2 ^ m) with h | h <;> simp [h]

theorem foldl_add_eq_sum (l : List Nat) (f : Nat → Nat) : l.foldl (fun r k => r + f k) 0 = (l.map f).sum := by
  rw [List.sum_eq_foldl, List.foldl_map]

/-- The number whose bit `i`, below `n`, is `f i`. -/
def bitsOf (n : Nat) (f : Nat → Bool) : Nat := ((List.range n).map (fun i => if f i then 2 ^ i else 0)).sum

theorem bitsOf_succ (n : Nat) (f : Nat → Bool) : bitsOf (n + 1) f = bitsOf n f + if f n then 2 ^ n else 0 := by
  simp [bitsOf, List.range_succ]

theorem bitsOf_lt (n : Nat) (f : Nat → Bool) : bitsOf n f < 2 ^ n := by
  induction n with
  | zero => exact Nat.one_pos
  | succ n ih =>
    rw [bitsOf_succ, Nat.pow_succ]
    split_ifs <;> omega

/-- The bits that a field has room for (R194). -/
theorem bitsOf_mod (n w : Nat) (f : Nat → Bool) : bitsOf n f % 2 ^ w = bitsOf (min w n) f := by
  induction n with
  | zero => rw [Nat.min_zero]; exact Nat.zero_mod _
  | succ n ih =>
    by_cases h : n < w
    · rw [Nat.min_eq_right h, Nat.mod_eq_of_lt ((bitsOf_lt ..).trans_le (Nat.pow_le_pow_right (by decide) h))]
    · have hw : w ≤ n := Nat.not_lt.1 h
      have hdvd : 2 ^ w ∣ if f n then 2 ^ n else 0 := by
        split_ifs
        · exact Nat.pow_dvd_pow 2 hw
        · exact Nat.dvd_zero _
      rw [bitsOf_succ, Nat.add_mod, Nat.mod_eq_zero_of_dvd hdvd, Nat.add_zero, Nat.mod_mod, ih, Nat.min_eq_left hw, Nat.min_eq_left (by omega)]

/-! ## Shifts and rotations (R192) -/

section
variable {w : Nat} (x : BitVec w)

theorem signedBits_toNat : signedBits w x.toNat = x.toInt := by
  have h := toInt_ofNat_eq w x.toNat
  rw [BitVec.ofNat_toNat, BitVec.setWidth_eq, Nat.mod_eq_of_lt x.isLt] at h
  exact h.symm

theorem bSha_toNat (b : Nat) : bSha w x.toNat b = (x.sshiftRight (b % w)).toNat := by
  rw [bSha, signedBits_toNat, BitVec.sshiftRight, BitVec.toNat_ofInt, Int.shiftRight_eq_div_pow]
  rfl

theorem bShr_toNat (b : Nat) : bShr w x.toNat b = (x >>> (b % w)).toNat := by
  rw [bShr, BitVec.toNat_ushiftRight, Nat.shiftRight_eq_div_pow]

theorem bShl_toNat (b : Nat) : bShl w x.toNat b % 2 ^ w = (x <<< (b % w)).toNat := by
  rw [bShl, BitVec.toNat_shiftLeft, Nat.shiftLeft_eq]

/-- What a rotation shifts out at the top fills the place that it leaves below. -/
theorem bRot_toNat (b : Nat) : bRot w x.toNat b % 2 ^ w = (x.rotateLeft (b % w)).toNat := by
  rcases Nat.eq_zero_or_pos w with rfl | hw
  · exact (Nat.mod_one _).trans (BitVec.toNat_of_zero_length rfl _).symm
  have hk := Nat.mod_lt b hw
  rw [bRot]
  generalize b % w = k at hk
  have hpow : 2 ^ (w - k) * 2 ^ k = 2 ^ w := by rw [← Nat.pow_add, Nat.sub_add_cancel hk.le]
  have hhi : x.toNat * 2 ^ k % 2 ^ w = (x.toNat % 2 ^ (w - k)) <<< k := by rw [← hpow, Nat.mul_mod_mul_right, Nat.shiftLeft_eq]
  have hlo : x.toNat / 2 ^ (w - k) < 2 ^ k := Nat.div_lt_of_lt_mul (by rw [hpow]; exact x.isLt)
  have hrot : (x.rotateLeft k).toNat = x.toNat * 2 ^ k % 2 ^ w + x.toNat / 2 ^ (w - k) := by
    rw [BitVec.toNat_rotateLeft, Nat.mod_eq_of_lt hk, Nat.shiftLeft_eq, Nat.shiftRight_eq_div_pow, hhi, Nat.shiftLeft_add_eq_or_of_lt hlo]
  rw [← Nat.mod_add_mod, ← hrot, Nat.mod_eq_of_lt (BitVec.isLt _)]
end

/-! ## Counts and reversal (R193) -/

theorem popBits_eq (n a : Nat) : popBits n a = ((List.range n).filter (fun i => a.testBit i)).length := by
  rw [popBits]
  induction n with
  | zero => rfl
  | succ n ih =>
    have hbit := bit_mul a n 1
    rw [Nat.mul_one] at hbit
    rw [List.range_succ, List.foldl_append, List.filter_append, List.length_append, ih, List.foldl_cons, List.foldl_nil, hbit, List.filter_singleton]
    cases a.testBit n <;> rfl

theorem popBits_le (n a : Nat) : popBits n a ≤ n := by
  rw [popBits_eq]
  exact (List.length_filter_le ..).trans (by simp)

theorem leadZeros_le (w a : Nat) : leadZeros w a ≤ w := by
  unfold leadZeros
  split_ifs <;> omega

theorem leadZeros_toNat {w : Nat} (x : BitVec w) : leadZeros w x.toNat = if x = 0 then w else w - 1 - x.toNat.log2 :=
  if_congr (BitVec.toNat_inj (y := 0#w)) rfl rfl

theorem revBits_succ (n a : Nat) : revBits (n + 1) a = 2 * revBits n a + if a.testBit n then 1 else 0 := by
  have hbit := bit_mul a n 1
  rw [Nat.mul_one] at hbit
  rw [revBits, List.range_succ, List.foldl_append, List.foldl_cons, List.foldl_nil, hbit]
  rfl

theorem revBits_lt (n a : Nat) : revBits n a < 2 ^ n := by
  induction n with
  | zero => exact Nat.one_pos
  | succ n ih =>
    rw [revBits_succ, Nat.pow_succ]
    split_ifs <;> omega

theorem revBits_eq (n a : Nat) : revBits n a = ((List.range n).map (fun i => if a.testBit i then 2 ^ (n - 1 - i) else 0)).sum := by
  induction n with
  | zero => rfl
  | succ n ih =>
    rw [revBits_succ, ih, ← List.sum_map_mul_left, List.range_succ, List.map_append, List.sum_append]
    refine congrArg₂ (· + ·) (congrArg List.sum (List.map_congr_left fun i hi => ?_)) (by simp)
    have hi := List.mem_range.1 hi
    rw [mul_ite, Nat.mul_zero, ← Nat.pow_succ', show (n - 1 - i).succ = n + 1 - 1 - i by omega]

/-! ## Interleaving (R194, R195) -/

theorem bitsOf_rows (k n : Nat) (f : Nat → Bool) : bitsOf (n * k) f =
    ((List.range n).map (fun r => ((List.range k).map (fun c => if f (r * k + c) then 2 ^ (r * k + c) else 0)).sum)).sum := by
  rw [bitsOf, Nat.mul_comm, ← range_rows, List.map_flatMap, List.flatMap_def, List.sum_flatten, List.map_map]
  simp only [Function.comp_def, List.map_map]

/-- Bit `i` of source `j` goes to place `k * i + j`. -/
theorem bitil_eq {k n w : Nat} {src : Nat → Nat} (hsrc : ∀ j, src j < 2 ^ w) :
    bitil k n w src = bitsOf (n * k) (fun i => (src (i % k)).testBit (i / k)) := by
  rw [bitsOf_rows, bitil, foldl_add_eq_sum]
  refine congrArg List.sum (List.map_congr_left fun i _ => ?_)
  rw [foldl_add_eq_sum]
  refine congrArg List.sum (List.map_congr_left fun j hj => ?_)
  have hj := List.mem_range.1 hj
  rw [row_div hj, row_mod hj, Nat.mul_comm k]
  by_cases hi : i < w
  · rw [if_pos hi, bit_mul]
  · have hz : (src j).testBit i = false :=
      Nat.testBit_lt_two_pow ((hsrc j).trans_le (Nat.pow_le_pow_right (by decide) (Nat.not_lt.1 hi)))
    rw [if_neg hi, hz, Nat.zero_mul]
    rfl

/-- Field `j` takes every `k`th bit; what has no room in the destination is cut off. -/
theorem bitdl_eq (k n j a w : Nat) : bitdl k n j a % 2 ^ w = bitsOf (min w n) (fun i => a.testBit (k * i + j)) := by
  rw [← bitsOf_mod, bitdl, foldl_add_eq_sum]
  simp only [bit_mul]
  rfl

/-! ## The instructions -/

section
variable {s : State} {g : Hdr} {i : Instr}

/-- An element-wise instruction reads patterns of the width of its sources only; in the pass-queue form they are results of its own. -/
theorem elementwise_congr {p : V3Op} {ok : Tag → Tag → Bool} {f' : Nat → Nat → Nat → Nat → Nat × Flags} (h : elementwise i s g p ok)
    (hlt : p.o.q = true → ∀ e a b c, (p.f e a b c).1 < 2 ^ tagWidth (s.hart.tag p.vd.toNat))
    (hf : ok (p.srcTag s.hart) (s.hart.tag p.vd.toNat) = true → ∀ e a b c, a < 2 ^ tagWidth (p.srcTag s.hart) →
      b < 2 ^ tagWidth (p.srcTag s.hart) → c < 2 ^ tagWidth (p.srcTag s.hart) → p.f e a b c = f' e a b c) :
    elementwise i s g { p with f := f' } ok := by
  intro hready
  obtain ⟨hreg, hqueue⟩ := h hready
  obtain ⟨-, -, htags, hok⟩ := hready
  refine ⟨fun hq => ?_, fun hq => ?_⟩
  · have hsrc (e : Nat) := hf hok e _ _ _ (elemAt_lt _ (s.hart.vstr p.o.a.v.toNat) (p.o.a.rep.index e))
      (elemAt_lt _ (s.hart.vstr p.o.b.v.toNat) (p.o.b.rep.index e)) (elemAt_lt _ (s.hart.vstr ((p.c.map (·.toNat)).getD 0)) e)
    have hres := hreg hq
    simp only [sources, hsrc] at hres
    exact hres
  · obtain ⟨t, carry, hc, ho, h0, hstep, hrest⟩ := hqueue hq
    have hw : s.hart.tag p.vd.toNat = p.srcTag s.hart := by
      have hq : p.o.q = true := hq
      simp only [V3Op.tagsOk, hq, if_true, Bool.and_eq_true, beq_iff_eq] at htags
      exact htags.1
    have hcarry (k : Nat) (hk : k < (activesOf s.hart g s.hart.n).length) : carry k < 2 ^ tagWidth (p.srcTag s.hart) := by
      cases k with
      | zero => rw [h0, hw]; exact Nat.mod_lt _ (Nat.two_pow_pos _)
      | succ k => rw [(hstep k (Nat.lt_of_succ_lt hk)).1, ← hw]; exact hlt hq ..
    refine ⟨t, carry, hc, ho, h0, fun k hk => ⟨?_, (hstep k hk).2⟩, hrest⟩
    rw [(hstep k hk).1]
    exact congrArg Prod.fst (hf hok _ _ _ _ (hcarry k hk) (elemAt_lt ..) (elemAt_lt ..))

/-- An operation on bit patterns, as an operation on vectors of bits. -/
theorem elementwise_bitOp {vd : VReg} {o : VBin} {w : Nat} (F : Nat → Nat → Nat → Nat) (G : BitVec w → BitVec w → Nat)
    (hw : w = tagWidth (s.hart.tag vd.toNat)) (hx : exec i s = issueV3 i g (bitOp F vd o) sameIntTags [] s)
    (hG : ∀ x y : BitVec w, F w x.toNat y.toNat % 2 ^ w = G x y) :
    elementwise i s g (plainOp vd o none (fun _ x y _ => G (BitVec.ofNat w x) (BitVec.ofNat w y))) sameIntTags := by
  subst hw
  refine elementwise_congr (elementwise_of_issue hx rfl isBlock_of_sameIntTags) (fun _ _ _ _ _ => Nat.mod_lt _ (Nat.two_pow_pos _))
    fun hok e a b _ ha hb _ => Prod.ext ?_ rfl
  have hw : s.hart.tag vd.toNat = (bitOp F vd o s).srcTag s.hart := by
    simp only [sameIntTags, Bool.and_eq_true, beq_iff_eq] at hok
    exact hok.2
  rw [← hw] at ha hb
  have h := hG (BitVec.ofNat _ a) (BitVec.ofNat _ b)
  rw [BitVec.toNat_ofNat, BitVec.toNat_ofNat, Nat.mod_eq_of_lt ha, Nat.mod_eq_of_lt hb] at h
  exact h
end

/-- Logic, shifts, and the bit operations on one pattern. -/
theorem vectorBits : VectorBits := by
  intro s g vd o a w hw
  have hmod {n : Nat} {x : BitVec w} (h : n = x.toNat) : n % 2 ^ w = x.toNat := by rw [h, Nat.mod_eq_of_lt x.isLt]
  have hsmall {n : Nat} (h : n ≤ w) : n % 2 ^ w = n := Nat.mod_eq_of_lt (h.trans_lt Nat.lt_two_pow_self)
  simp only [patternOps, patternUnary, List.forall_mem_cons]
  refine ⟨⟨?_, ?_, ?_, ?_, ?_, ?_, ?_, nofun⟩, ?_, ?_, ?_, ?_, nofun⟩
  · exact elementwise_bitOp (fun _ a b => a &&& b) (fun x y => (x &&& y).toNat) hw rfl fun x y => hmod (BitVec.toNat_and x y).symm
  · exact elementwise_bitOp (fun _ a b => a ||| b) (fun x y => (x ||| y).toNat) hw rfl fun x y => hmod (BitVec.toNat_or x y).symm
  · exact elementwise_bitOp (fun _ a b => a ^^^ b) (fun x y => (x ^^^ y).toNat) hw rfl fun x y => hmod (BitVec.toNat_xor x y).symm
  · exact elementwise_bitOp bShl (fun x y => (x <<< (y.toNat % w)).toNat) hw rfl fun x y => bShl_toNat x y.toNat
  · exact elementwise_bitOp bShr (fun x y => (x >>> (y.toNat % w)).toNat) hw rfl fun x y => hmod (bShr_toNat x y.toNat)
  · exact elementwise_bitOp bSha (fun x y => (x.sshiftRight (y.toNat % w)).toNat) hw rfl fun x y => hmod (bSha_toNat x y.toNat)
  · exact elementwise_bitOp bRot (fun x y => (x.rotateLeft (y.toNat % w)).toNat) hw rfl fun x y => bRot_toNat x y.toNat
  · exact elementwise_bitOp (fun w a _ => 2 ^ w - 1 - a) (fun x _ => (~~~x).toNat) hw rfl fun x _ => hmod BitVec.toNat_not.symm
  · exact elementwise_bitOp (fun w a _ => leadZeros w a) (fun x _ => if x = 0 then w else w - 1 - x.toNat.log2) hw rfl
      fun x _ => (hsmall (leadZeros_le ..)).trans (leadZeros_toNat x)
  · exact elementwise_bitOp (fun w a _ => popBits w a) (fun x _ => ((List.range w).filter (fun i => x.getLsbD i)).length) hw rfl
      fun x _ => (hsmall (popBits_le ..)).trans (popBits_eq ..)
  · exact elementwise_bitOp (fun w a _ => revBits w a)
      (fun x _ => ((List.range w).map (fun i => if x.getLsbD i then 2 ^ (w - 1 - i) else 0)).sum) hw rfl
      fun x _ => (Nat.mod_eq_of_lt (revBits_lt ..)).trans (revBits_eq ..)

/-- The sources of VBITIL in their order. -/
def sourceOf (x y z : Nat) : Nat → Nat
  | 0 => x
  | 1 => y
  | _ => z

theorem sourceOf_eq (x y z j : Nat) : sourceOf x y z j = if j = 0 then x else if j = 1 then y else z := by
  match j with
  | 0 => rfl
  | 1 => rfl
  | _ + 2 => rfl

theorem sourceOf_lt {x y z n : Nat} (hx : x < n) (hy : y < n) (hz : z < n) (j : Nat) : sourceOf x y z j < n := by
  rw [sourceOf_eq]
  split_ifs <;> assumption

/-- What VBITIL and VBITDL do at an element. -/
def interleaveOp (k3 : Bool) (vd : VReg) (a b : VSrc) (vc : VReg) (s : State) : V3Op :=
  plainOp vd ⟨false, a, b⟩ (if k3 then some vc else none) fun _ x y z =>
    bitil (if k3 then 3 else 2) (tagWidth (s.hart.tag vd.toNat) / if k3 then 3 else 2) (tagWidth (s.hart.tag b.v.toNat)) (sourceOf x y z)
def deinterleaveOp (k3 : Bool) (vd : VReg) (a : VSrc) (jx : BitVec 2) (s : State) : V3Op :=
  plainOp vd (oneSrc a) none fun _ x _ _ =>
    bitdl (if k3 then 3 else 2) (tagWidth (s.hart.tag a.v.toNat) / if k3 then 3 else 2) jx.toNat x % 2 ^ tagWidth (s.hart.tag vd.toNat)

section
variable {s : State} {g : Hdr} {k3 : Bool} {vd vc : VReg} {a b : VSrc} {jx : BitVec 2}

theorem elementwise_vbitil : elementwise (.vbitil g k3 vd a b vc) s g (interleaveOp k3 vd a b vc s) intTags :=
  elementwise_of_issue (P := interleaveOp k3 vd a b vc) rfl rfl isBlock_of_intTags
theorem elementwise_vbitdl : elementwise (.vbitdl g k3 vd a jx) s g (deinterleaveOp k3 vd a jx s) intTags :=
  elementwise_of_issue (P := deinterleaveOp k3 vd a jx) rfl rfl isBlock_of_intTags
end

/-- VBITIL and VBITDL. -/
theorem bitInterleaving : BitInterleaving := by
  intro s g k3 vd vc a b jx k wd bit
  refine ⟨elementwise_congr elementwise_vbitil (fun h => absurd h Bool.false_ne_true) fun _ _ x y z hx hy hz => Prod.ext ?_ rfl,
    elementwise_congr elementwise_vbitdl (fun h => absurd h Bool.false_ne_true) fun _ _ _ _ _ _ _ _ => Prod.ext (bitdl_eq ..) rfl⟩
  refine (bitil_eq (sourceOf_lt hx hy hz)).trans ?_
  simp only [sourceOf_eq]
  rfl

/-- Settles O27: the model's arithmetic on patterns is the operation on vectors of bits, and interleaving takes sums of bits apart. -/
theorem vectorBitResults : Obligations.VectorBitResults := ⟨vectorBits, bitInterleaving⟩
end Sys2Proof.Machine
end

section
/-! SUPPORT. Slides, permutations, compression, expansion, counts and transposition (R201 to R206): O30. All of them write fields of one vector register
and clear `vstart`. -/

namespace Sys2Proof.Machine
open Sys2Proof Sys2Proof.Spec

section
variable {s : State} {i j : Instr} {vd va w : Nat} {es : List Nat} {f : Nat → Nat}

/-! ## What these instructions leave -/

theorem finish_vdone_upd {F : Hart → Hart} (hr : (F s.hart).reissue = false) :
    finish (vdone (s.upd F)) = .next (s.vecEnd (F s.hart) 0 false false) := by
  refine (finish_vdone hr).trans (congrArg (fun c => Host.Outcome.next ({ s with hart := { F s.hart with fcsr := c, vstart := 0 } } : State).completed) ?_)
  exact BitVec.or_zero.symm

/-- Only what a result says of the listed elements counts. -/
theorem vectorResult_congr {f' : Nat → Nat} {fl : Flags} {drew still : Bool} (h : vectorResult i s vd es f fl drew still) (hf : ∀ e ∈ es, f e = f' e) :
    vectorResult i s vd es f' fl drew still := by
  obtain ⟨t, hc, ho, he, hrest⟩ := h
  refine ⟨t, hc, ho, fun e => (he e).trans ?_, hrest⟩
  split_ifs with hmem
  · rw [hf e hmem]
  · rfl

/-- An instruction whose body moves element `src e` of one register, or zero, to each listed element `e` of another, and clears `vstart`. -/
theorem vectorResult_of_moveDone {src : Nat → Option Nat} (hs : s.hart.Sound) (hr : s.hart.reissue = false)
    (hx : exec i s = finish (moveDone j vd va (tagWidth (s.hart.tag vd)) (es.map (fun e => (e, src e))) s)) (hv : vd < s.hart.nregs)
    (ht : s.hart.tag vd = s.hart.tag va) (hfit : ∀ e ∈ es, e * tagWidth (s.hart.tag vd) + tagWidth (s.hart.tag vd) ≤ s.hart.regBits) :
    vectorResult i s vd es (fun e => ((src e).map (s.hart.elem va)).getD 0) := by
  have he : s.hart.elem va = elemAt (tagWidth (s.hart.tag vd)) (s.hart.vstr va) := by
    funext e
    rw [Hart.elem, ht]
  rw [moveDone, moveElems_sound hs, List.map_map] at hx
  rw [he]
  exact vectorResult_of_map (hx.trans (finish_vdone_upd (by simpa using hr))) hv rfl hfit
end

/-! ## Rows -/

section
variable {α : Type} {vl vh : Nat}

/-- Fields of the rows, computed row by row, or each from its place. -/
theorem flatMap_rows_congr {φ : Nat → List α} {cols : Nat → List Nat} {ψ : Nat → α}
    (h : ∀ r, r < vh → φ r = (cols r).map ψ) : (List.range vh).flatMap φ = ((List.range vh).flatMap cols).map ψ := by
  rw [List.map_flatMap]
  exact congrArg List.flatten (List.map_congr_left fun r hr => h r (List.mem_range.1 hr))

theorem mem_row {r e : Nat} : e ∈ (List.range vl).map (r * vl + ·) ↔ ∃ c, c < vl ∧ r * vl + c = e := by simp

theorem nodup_row (r : Nat) : ((List.range vl).map (r * vl + ·)).Nodup := row_eq_range' r vl ▸ List.nodup_range'

/-- A list with its places. -/
theorem zipIdx_eq_map_range (l : List Nat) : l.zipIdx = (List.range l.length).map (fun j => (l.getD j 0, j)) :=
  List.ext_getElem (by simp) fun j h1 h2 => by simp [List.getElem?_eq_getElem (show j < l.length by simpa using h1)]
theorem zipIdx_eq_map_idxOf {l : List Nat} (h : l.Nodup) : l.zipIdx = l.map (fun e => (e, l.idxOf e)) :=
  List.ext_getElem (by simp) fun j h1 h2 => by simp [h.idxOf_getElem]
end

section
variable {h : Hart} {g : Hdr} {r e : Nat}

/-- The active elements of a row, in order. -/
def Hart.activeRow (h : Hart) (g : Hdr) (r : Nat) : List Nat := ((List.range h.vl).map (r * h.vl + ·)).filter (h.active g.grd)

theorem rowActives_of_fresh (hr : h.reissue = false) : h.rowActives g = (List.range h.vh).map (fun r => (r, h.activeRow g r)) := by
  rw [Hart.rowActives, takes_of_fresh hr]
  rfl

theorem nodup_activeRow : (h.activeRow g r).Nodup := (nodup_row r).filter _

theorem length_activeRow_le : (h.activeRow g r).length ≤ h.vl := (List.length_filter_le ..).trans (by simp)

theorem div_of_mem_activeRow (he : e ∈ h.activeRow g r) : e / h.vl = r := by
  obtain ⟨c, hc, rfl⟩ := mem_row.1 (List.mem_filter.1 he).1
  exact row_div hc

/-- The active elements of the tile, row by row. -/
theorem flatMap_activeRow : (List.range h.vh).flatMap (h.activeRow g) = activesOf h g h.n := by
  rw [activesOf, Hart.n, ← range_rows, List.filter_flatMap]
  rfl

/-- An element of a row, or 0 from outside it (R201). -/
theorem elem_inRow (h : Hart) (v r : Nat) (c : Int) :
    ((inRow h.vl r c).map (h.elem v)).getD 0 = if 0 ≤ c ∧ c < h.vl then h.elem v (r * h.vl + c.toNat) else 0 := by
  rw [inRow]
  split_ifs <;> rfl

theorem vl_pos_of_lt (he : e < h.n) : 0 < h.vl := Nat.pos_of_mul_pos_right (Nat.zero_lt_of_lt he)

/-- What VCOMPR moves: to column `j` of a row its active element `j` (R204). -/
theorem compression_moves (hr : h.reissue = false) :
    (h.rowActives g).flatMap (fun x => x.2.zipIdx.map (fun y => (x.1 * h.vl + y.2, some y.1))) =
      ((List.range h.vh).flatMap (fun r => (List.range (h.activeRow g r).length).map (r * h.vl + ·))).map
        (fun e => (e, some ((h.activeRow g (e / h.vl)).getD (e % h.vl) 0))) := by
  rw [rowActives_of_fresh hr, List.flatMap_map]
  refine flatMap_rows_congr fun r _ => ?_
  dsimp only
  rw [zipIdx_eq_map_range, List.map_map, List.map_map]
  refine List.map_congr_left fun j hj => ?_
  have hj : j < h.vl := (List.mem_range.1 hj).trans_le length_activeRow_le
  rw [Function.comp_apply, Function.comp_apply, row_div hj, row_mod hj]

theorem lt_n_of_mem_compressed (he : e ∈ (List.range h.vh).flatMap (fun r => (List.range (h.activeRow g r).length).map (r * h.vl + ·))) : e < h.n := by
  obtain ⟨r, hr, he⟩ := List.mem_flatMap.1 he
  obtain ⟨j, hj, rfl⟩ := List.mem_map.1 he
  exact row_lt (List.mem_range.1 hr) ((List.mem_range.1 hj).trans_le length_activeRow_le)

/-- What VEXPD moves: to the active element `j` of a row its column `j` (R204). -/
theorem expansion_moves (hr : h.reissue = false) :
    (h.rowActives g).flatMap (fun x => x.2.zipIdx.map (fun y => (y.1, some (x.1 * h.vl + y.2)))) =
      (activesOf h g h.n).map (fun e => (e, some (e / h.vl * h.vl + (h.activeRow g (e / h.vl)).idxOf e))) := by
  rw [rowActives_of_fresh hr, List.flatMap_map, ← flatMap_activeRow]
  refine flatMap_rows_congr fun r _ => ?_
  dsimp only
  rw [zipIdx_eq_map_idxOf nodup_activeRow, List.map_map]
  refine List.map_congr_left fun e he => ?_
  rw [Function.comp_apply, div_of_mem_activeRow he]

/-- The set bits of a predicate at columns before each column of a row (R205). -/
theorem countBefore_range' (p : BitVec 32768) (b n k : Nat) :
    countBefore p (List.range' b n) k = (List.range n).map (fun c => (b + c, k + ((List.range c).filter (fun d => p.getLsbD (b + d))).length)) := by
  induction n generalizing b k with
  | zero => rfl
  | succ n ih =>
    rw [List.range'_succ, countBefore, ih, List.range_succ_eq_map, List.map_cons, List.map_map]
    refine congrArg₂ List.cons rfl (List.map_congr_left fun c _ => ?_)
    have hd : (fun d => p.getLsbD (b + d)) ∘ Nat.succ = fun d => p.getLsbD (b + 1 + d) := by
      funext d
      rw [Function.comp_apply, Nat.succ_eq_add_one, Nat.add_right_comm, Nat.add_assoc]
    rw [Function.comp_apply, Nat.succ_eq_add_one, List.range_succ_eq_map, List.filter_cons, List.filter_map, hd, Nat.add_zero b, Nat.add_right_comm b,
      Nat.add_assoc b]
    split_ifs
    · rw [List.length_cons, List.length_map, Nat.add_assoc, Nat.add_comm 1]
    · rw [List.length_map]

/-- The counts that VIOTA writes. -/
theorem iota_writes (hr : h.reissue = false) (p : BitVec 32768) :
    (((List.range h.vh).flatMap (fun r => countBefore p ((List.range h.vl).map (r * h.vl + ·)) 0)).filter (fun c => h.takes g c.1)) =
      (activesOf h g h.n).map (fun e => (e, ((List.range (e % h.vl)).filter (fun c => p.getLsbD (e / h.vl * h.vl + c))).length)) := by
  simp only [row_eq_range', countBefore_range', Nat.zero_add]
  rw [flatMap_rows (Nat.le_refl _) (fun r c => ((List.range c).filter (fun d => p.getLsbD (r * h.vl + d))).length), range_rows, List.filter_map,
    takes_of_fresh hr]
  rfl
end

/-! ## The instructions -/

section
variable {s : State} {g : Hdr} {vd va vb : VReg} {xb : XReg} {pa : PReg} (hm : movable s g vd va)
include hm

/-- A move between two registers, of elements listed under the tile's length. -/
theorem vectorResult_of_movable {i j : Instr} {mv : List (Nat × Option Nat)} {es : List Nat} {src : Nat → Option Nat} {f : Nat → Nat}
    (hx : exec i s = finish (moveDone j vd.toNat va.toNat (tagWidth (s.hart.tag vd.toNat)) mv s)) (hmv : mv = es.map (fun e => (e, src e)))
    (hes : ∀ e ∈ es, e < s.hart.n) (hf : ∀ e, e < s.hart.n → ((src e).map (s.hart.elem va.toNat)).getD 0 = f e) :
    vectorResult i s vd.toNat es f := by
  subst hmv
  have ⟨hr, _, ht, _⟩ := hm
  exact vectorResult_congr (vectorResult_of_moveDone (sound_of_vReady hr) (reissue_of_fresh (fresh_of_vReady hr)) hx
    (free_of_vReady hr List.mem_cons_self).1 ht fun e he => fits_of_movable hm (hes e he)) fun e he => hf e (hes e he)

/-- One whose elements are the active ones. -/
theorem vectorResult_of_actives {i j : Instr} {src : Nat → Option Nat} {f : Nat → Nat}
    (hx : exec i s = finish (moveDone j vd.toNat va.toNat (tagWidth (s.hart.tag vd.toNat)) ((s.hart.actives g s.hart.n).map (fun e => (e, src e))) s))
    (hf : ∀ e, e < s.hart.n → ((src e).map (s.hart.elem va.toNat)).getD 0 = f e) : vectorResult i s vd.toNat (activesOf s.hart g s.hart.n) f :=
  vectorResult_of_movable hm hx (by rw [actives_of_fresh (reissue_of_fresh (fresh_of_vReady hm.1))]) (fun _ he => (mem_activesOf.1 he).1) hf

theorem vectorResult_vslideUp : vectorResult (.vslideUp g vd va xb) s vd.toNat (activesOf s.hart g s.hart.n)
    (fun e => if (s.x xb).toNat ≤ e % s.hart.vl then s.hart.elem va.toNat (e - (s.x xb).toNat) else 0) := by
  refine vectorResult_of_actives hm (vecIssue_ready hm.1 rfl rfl _ _ _ (sliceOk_of_movable hm)) fun e he => ?_
  have hlt : e % s.hart.vl < s.hart.vl := Nat.mod_lt _ (vl_pos_of_lt he)
  have hrow := Nat.div_add_mod' e s.hart.vl
  rw [elem_inRow]
  refine if_ctx_congr (by omega) (fun hk => congrArg _ ?_) fun _ => rfl
  omega

theorem vectorResult_vslideDn : vectorResult (.vslideDn g vd va xb) s vd.toNat (activesOf s.hart g s.hart.n)
    (fun e => if e % s.hart.vl + (s.x xb).toNat < s.hart.vl then s.hart.elem va.toNat (e + (s.x xb).toNat) else 0) := by
  refine vectorResult_of_actives hm (vecIssue_ready hm.1 rfl rfl _ _ _ (sliceOk_of_movable hm)) fun e _ => ?_
  have hrow := Nat.div_add_mod' e s.hart.vl
  rw [elem_inRow]
  refine if_ctx_congr (by omega) (fun hk => congrArg _ ?_) fun _ => rfl
  omega

theorem vectorResult_vtrans : vectorResult (.vtrans g vd va) s vd.toNat (activesOf s.hart g s.hart.n)
    (fun d => s.hart.elem va.toNat (d % s.hart.vh * s.hart.vl + d / s.hart.vh)) :=
  vectorResult_of_actives hm (vecIssue_ready hm.1 rfl rfl _ _ _ (sliceOk_of_movable hm)) fun _ _ => rfl

theorem vectorResult_vcompr : vectorResult (.vcompr g vd va) s vd.toNat
    ((List.range s.hart.vh).flatMap (fun r => (List.range (s.hart.activeRow g r).length).map (r * s.hart.vl + ·)))
    (fun e => s.hart.elem va.toNat ((s.hart.activeRow g (e / s.hart.vl)).getD (e % s.hart.vl) 0)) := by
  have hf := reissue_of_fresh (fresh_of_vReady hm.1)
  exact vectorResult_of_movable hm (vecIssue_ready hm.1 rfl rfl _ _ _ (sliceOk_of_movable hm)) (compression_moves hf)
    (fun _ => lt_n_of_mem_compressed) fun _ _ => rfl

theorem vectorResult_vexpd : vectorResult (.vexpd g vd va) s vd.toNat (activesOf s.hart g s.hart.n)
    (fun e => s.hart.elem va.toNat (e / s.hart.vl * s.hart.vl + (s.hart.activeRow g (e / s.hart.vl)).idxOf e)) := by
  have hf := reissue_of_fresh (fresh_of_vReady hm.1)
  exact vectorResult_of_movable hm (vecIssue_ready hm.1 rfl rfl _ _ _ (sliceOk_of_movable hm)) (expansion_moves hf)
    (fun _ he => (mem_activesOf.1 he).1) fun _ _ => rfl

theorem vectorResult_vperm (hr : s.VReady g [vd.toNat, va.toNat, vb.toNat]) (hl : s.hart.lenOk [vb.toNat] = true)
    (hi : Tag.isIndex (s.hart.tag vb.toNat) = true) : vectorResult (.vperm g vd va vb) s vd.toNat (activesOf s.hart g s.hart.n)
      (fun e => let c := indexVal (s.hart.tag vb.toNat) (s.hart.elem vb.toNat e)
        if 0 ≤ c ∧ c < s.hart.vl then s.hart.elem va.toNat (e / s.hart.vl * s.hart.vl + c.toNat) else 0) := by
  have hs := sound_of_vReady hr
  refine vectorResult_of_actives (j := .vperm g vd va vb) hm ((vecIssue_ready hr rfl rfl _ _ _ (by simp [sliceOk_of_movable hm, hl, hi])).trans ?_) fun e _ => elem_inRow ..
  simp only [touchV_sound hs, vpoiStr_sound hs]
  rw [if_neg (by simp)]
  rfl
end

section
variable {s : State} {g : Hdr} {vd : VReg} {pa : PReg}

theorem isInt_of_isIndex {t : Tag} (h : Tag.isIndex t = true) : t.isInt = true := (Bool.and_eq_true_iff.1 h).1

theorem vectorResult_viota (hr : s.VReady g [vd.toNat]) (hl : s.hart.lenOk [vd.toNat] = true) (hi : Tag.isIndex (s.hart.tag vd.toNat) = true) :
    vectorResult (.viota g vd pa) s vd.toNat (activesOf s.hart g s.hart.n)
      (fun e => ((List.range (e % s.hart.vl)).filter (fun c => (s.pred pa).getLsbD (e / s.hart.vl * s.hart.vl + c))).length) := by
  have hf := reissue_of_fresh (fresh_of_vReady hr)
  refine vectorResult_of_map (w := tagWidth (s.hart.tag vd.toNat)) ?_ (free_of_vReady hr List.mem_cons_self).1 rfl fun e he =>
    fits_of_lenOk hl List.mem_cons_self (isBlock_of_isInt (isInt_of_isIndex hi)) (mem_activesOf.1 he).1
  refine (vecIssue_ready hr rfl rfl _ _ _ (by simp [hl, hi])).trans ?_
  exact (finish_vdone_upd (by simpa using hf)).trans (congrArg (fun ws => Host.Outcome.next (s.vecEnd (s.hart.writeElems vd.toNat _ ws) 0 false false))
    (iota_writes hf (s.pred pa)))
end

/-- Settles O30: every one of them writes fields of one register, each computed by one function of its place. -/
theorem rowMoves : Obligations.RowMoves := by
  intro s g vd va vb xb pa h vl es rowEs
  refine ⟨fun hm => ⟨vectorResult_vslideUp hm, vectorResult_vslideDn hm, vectorResult_vcompr hm, vectorResult_vexpd hm, vectorResult_vtrans hm⟩,
    fun hr hm hl hi => vectorResult_congr (vectorResult_vperm hm hr hl hi) fun e _ => ?_, vectorResult_viota⟩
  dsimp only
  rw [indexVal_eq (isInt_of_isIndex hi)]
end Sys2Proof.Machine
end

section
/-! SUPPORT. Fences, joins of queues, token waits and completion counters (R223, R311 to R313, R322): O12. Every one of these instructions either
completes or waits, and the condition of its wait is one test. -/

namespace Sys2Proof.Machine
open Sys2Proof Sys2Proof.Spec

section
variable {s : State} {i : Instr} {g : Hdr} {wm : BitVec 8}

/-! ## Issue and end -/

/-- Under a true guard, on a hart that is no management hart, an instruction of every mode is its body. -/
theorem issue_compute (h : s.Ready g.wm) (hm : s.hart.isMgmt = false) (hg : s.hart.guard g.grd = true) (xs : List XReg) (body : State → Eff) :
    issue i false .all g xs [] body s = finish (body s) := by
  rw [issue_ready h i false .all xs [] body (by rw [hm]; rfl) rfl, if_pos hg]

/-- An instruction whose guard header names no wait mask waits on no token (R312). -/
theorem ready_hdr (h : s.hart.Sound) (gd : Grd) : s.Ready gd.hdr.wm := ⟨h, by simp [Hart.waits, Grd.hdr]⟩

/-- A body that completes where its test holds, and waits where it does not. -/
theorem finish_done_or_wait {b : Bool} {t : State} :
    (b = true → finish (if b then .done t else .wait s) = .next t.completed)
    ∧ (b = false → finish (if b then .done t else .wait s) = .next s.waiting) := by
  cases b <;> simp [finish]

/-! ## Fences (R223, R322) -/

theorem mmaPending_iff {h : Hart} : h.mmaPending = true ↔ ∃ q ∈ h.mq, ∃ o, q.work = .mma o := by
  rw [Hart.mmaPending, List.any_eq_true]
  refine exists_congr fun q => and_congr_right fun _ => ?_
  cases q.work <;> simp

theorem fenceIssue_eq (h : s.Ready wm) (v : Bool) :
    fenceIssue i wm v s = .next (if v && s.hart.mmaPending then s.waiting else s.completed) := by
  refine (issue_true (g := .plain wm) h (guard_plain ..) i [] [] _).trans ?_
  split <;> rfl

/-! ## QFENCE (R313) -/

theorem queuesEmpty_iff {h : Hart} {qs : BitVec 4} : h.queuesEmpty qs = true ↔
    ¬((qs.getLsbD 0 = true ∧ h.copyQ ≠ []) ∨ (qs.getLsbD 1 = true ∧ h.mq ≠ []) ∨ (qs.getLsbD 2 = true ∧ h.nbQ ≠ [])
      ∨ (qs.getLsbD 3 = true ∧ h.colls ≠ [])) := by
  simp only [Hart.queuesEmpty, Bool.and_eq_true, Bool.or_eq_true, Bool.not_eq_true', List.isEmpty_iff, not_or, not_and_or, not_not, Bool.not_eq_true,
    and_assoc, ne_eq]

theorem exec_qfence (h : s.Ready wm) (hm : s.hart.isMgmt = false) (sc : Scope) (qs : BitVec 4) :
    exec (.qfence wm sc qs) s = finish (if s.hart.queuesEmpty qs then .done s else .wait s) :=
  issue_compute (g := .plain wm) h hm (guard_plain ..) [] _

theorem fencesComplete : FencesComplete := by
  intro s wm sc qs hr mma
  have hp : s.hart.mmaPending = true ↔ mma := mmaPending_iff
  refine ⟨fenceIssue_eq hr false, fun hno => ?_, fun hyes => ?_, fun hm => ⟨fun hb => ?_, fun hb => ?_⟩⟩
  · have hend : ∀ {i}, fenceIssue i wm true s = .next s.completed := (fenceIssue_eq hr true).trans (congrArg _ (if_neg (mt hp.1 hno)))
    exact ⟨hend, hend, hend⟩
  · have hend : ∀ {i}, fenceIssue i wm true s = .next s.waiting := (fenceIssue_eq hr true).trans (congrArg _ (if_pos (hp.2 hyes)))
    exact ⟨hend, hend, hend⟩
  · exact (exec_qfence hr hm sc qs).trans (finish_done_or_wait.1 (queuesEmpty_iff.2 hb))
  · exact (exec_qfence hr hm sc qs).trans (finish_done_or_wait.2 (Bool.eq_false_iff.2 fun he => queuesEmpty_iff.1 he hb))

/-! ## Tokens and counters (R311, R312) -/

section
variable {gd : Grd} {t : Bool} {xd xa xb : XReg}

theorem timedOut_iff {x : Word} : (t && s.timedOut x) = true ↔ t = true ∧ s.hart.waitStart.getD s.cycle + x.toNat ≤ s.cycle := by
  rw [Bool.and_eq_true, State.timedOut, decide_eq_true_iff]

variable (h : s.hart.Sound) (hm : s.hart.isMgmt = false) (hg : s.hart.guard gd = true)
include h hm hg

/-- WAIT.K ends with no token left, or at its limit with those that are left. -/
theorem exec_waitK (mask : BitVec 8) : exec (.waitK gd t mask xd xa) s = finish (
    if s.hart.tok &&& mask = 0 then .done (s.setX xd 0)
    else if t && s.timedOut (s.x xa) then .done (s.setX xd ((s.hart.tok &&& mask).setWidth 64)) else .wait s) :=
  issue_compute (g := gd.hdr) (ready_hdr h gd) hm hg _ _

theorem exec_ccwait (n : BitVec 3) : exec (.ccwait gd t n xd xa xb) s = finish (
    if (s.hart.cc[n.toNat]'n.isLt - s.x xa).toNat < 2 ^ 63 || (t && s.timedOut (s.x xb)) then .done (s.setX xd (s.hart.cc[n.toNat]'n.isLt))
    else .wait s) :=
  issue_compute (g := gd.hdr) (ready_hdr h gd) hm hg _ _
end
end

theorem tokensAndCounters : TokensAndCounters := by
  intro s gd t mask n xd xa xb h hm hg late c
  have hlate {x} : (t && s.timedOut (s.x x)) = true ↔ late x := timedOut_iff
  have hcc : (decide ((c - s.x xa).toNat < 2 ^ 63) || (t && s.timedOut (s.x xb))) = true ↔ (c - s.x xa).toNat < 2 ^ 63 ∨ late xb := by
    rw [Bool.or_eq_true, decide_eq_true_iff, hlate]
  have hw := exec_waitK (t := t) (xd := xd) (xa := xa) h hm hg mask
  have hc := exec_ccwait (t := t) (xd := xd) (xa := xa) (xb := xb) h hm hg n
  refine ⟨fun h0 => ?_, fun hl => ?_, fun h0 hl => ?_, fun hd => ?_, fun hn hl => ?_, ?_, ?_⟩
  · exact hw.trans (congrArg finish (if_pos h0))
  · rw [hw, if_pos (hlate.2 hl)]
    split
    · next h0 => rw [h0]; rfl
    · rfl
  · exact hw.trans (congrArg finish ((if_neg h0).trans (if_neg (mt hlate.1 hl))))
  · exact hc.trans (finish_done_or_wait.1 (hcc.2 hd))
  · exact hc.trans (finish_done_or_wait.2 (Bool.eq_false_iff.2 (mt hcc.1 (not_or.2 ⟨hn.not_gt, hl⟩))))
  · exact issue_compute (g := gd.hdr) (ready_hdr h gd) hm hg _ _
  · exact issue_compute (g := gd.hdr) (ready_hdr h gd) hm hg _ _

/-- Settles O12: the two parts. -/
theorem fencesTokensAndCounters : Obligations.FencesTokensAndCounters := ⟨fencesComplete, tokensAndCounters⟩
end Sys2Proof.Machine
end

section
/-! SUPPORT. What the instructions of the matrix unit do at issue (R221, R222, R225 to R229, R234 to R236, R238): O40. -/

namespace Sys2Proof.Machine
open Sys2Proof Sys2Proof.Spec

/-! ## Issue -/

section
variable {s : State} {g : Hdr} {i : Instr}

/-- An instruction whose guard decides the whole of it and whose own checks fail raises ILLEGAL_OPERAND with its word (R61). -/
theorem vecIssue_whole_illegal {nm : Names} {ok : State → Bool} {body : State → Eff} (h : s.VReady g nm.regs nm.tk nm.dst) (hw : nm.whole = true)
    (hp : nm.priv.allows s.hart.mode = true) (hg : s.hart.guard g.grd = true) (hok : ok s = false) :
    vecIssue i g nm ok body s = .next (s.takeTrap { cause := .illegalOperand, epc := s.hart.pc, val := encode i }) := by
  obtain ⟨⟨hs, hwm⟩, ⟨hm, -, -⟩, htk, -, -, -⟩ := h
  simp only [vecIssue, decodeChecks, hm, hp, hwm, htk, hw, hg, hok, reading_sound hs]
  simp [finish, wordTrap]

/-- An instruction whose body passes work to the matrix queue (R221, R222). -/
theorem entersMatrix_of_enterMatrix {w : MxWork} {tk : Option (BitVec 3)} (hx : exec i s = finish (enterMatrix w tk s)) : entersMatrix i s w tk := by
  cases tk <;> exact hx

/-! ## MACC.LD and MACC.Z (R236, R238) -/

section
variable {ta : AReg} {va : VReg} {xs : XReg} {tk : Option (BitVec 3)} {si : Bool}

/-- The checks of MACC.LD besides that of the length. -/
theorem maccLdOk_iff (hl : s.hart.lenOk [va.toNat] = true) :
    (s.hart.lenOk [va.toNat] && decide (ta.toNat < s.tiles ∧ s.hart.vl ≤ 32 ∧ s.hart.vh ≤ 64)
      && (s.hart.tag va.toNat == .fp32 || s.hart.tag va.toNat == .si32)) = true
    ↔ tileFits s ta ∧ (s.hart.tag va.toNat = .fp32 ∨ s.hart.tag va.toNat = .si32) := by
  simp only [hl, Bool.true_and, Bool.and_eq_true, Bool.or_eq_true, beq_iff_eq, tileFits_iff]

/-- The sticky fields of a status word (R218). -/
theorem statusFields_eq (a : Word) : a.setWidth 8 &&& 0x37#8 = BitVec.ofNat 8 (a.toNat &&& 0x37) := by
  rw [BitVec.ofNat_and, BitVec.ofNat_toNat]

theorem maccLd_enters (hg : s.hart.guard g.grd = true) (hr : s.VReady g [va.toNat] tk []) (hl : s.hart.lenOk [va.toNat] = true)
    (hf : tileFits s ta ∧ (s.hart.tag va.toNat = .fp32 ∨ s.hart.tag va.toNat = .si32)) :
    entersMatrix (.maccLd g ta va xs tk) s (.ld ta.toNat s.hart.vl s.hart.vh (s.hart.tag va.toNat == .si32)
      (BitVec.ofNat 8 ((s.x xs).toNat &&& 0x37)) (s.hart.vstr va.toNat)) tk := by
  have hsd := sound_of_vReady hr
  refine entersMatrix_of_enterMatrix ((vecIssue_whole_ready (nm := { regs := [va.toNat], dst := [], xs := [xs], tk := tk, whole := true })
    hr rfl rfl hg ((maccLdOk_iff hl).2 hf)).trans (congrArg finish ?_))
  simp only [touchV_sound hsd, vpoiStr_sound hsd, any_badAt_zero, statusFields_eq]
  rfl

theorem maccLd_refused (hg : s.hart.guard g.grd = true) (hr : s.VReady g [va.toNat] tk []) (hl : s.hart.lenOk [va.toNat] = true)
    (hf : ¬(tileFits s ta ∧ (s.hart.tag va.toNat = .fp32 ∨ s.hart.tag va.toNat = .si32))) :
    exec (.maccLd g ta va xs tk) s =
      .next (s.takeTrap { cause := .illegalOperand, epc := s.hart.pc, val := encode (.maccLd g ta va xs tk) }) :=
  vecIssue_whole_illegal (nm := { regs := [va.toNat], dst := [], xs := [xs], tk := tk, whole := true })
    hr rfl rfl hg (Bool.eq_false_iff.2 (mt (maccLdOk_iff hl).1 hf))
end

theorem tilesAreFilled : TilesAreFilled := by
  intro s g ta va xs tk si hg tag refused
  refine ⟨fun hr hl => ⟨fun hf => maccLd_enters hg hr hl hf, fun hf => maccLd_refused hg hr hl hf⟩, fun hr => ⟨fun ht => ?_, fun ht => ?_⟩⟩
  · exact entersMatrix_of_enterMatrix
      (vecIssue_whole_ready (nm := { regs := [], tk := tk, whole := true }) hr rfl rfl hg (decide_eq_true ht))
  · exact vecIssue_whole_illegal (nm := { regs := [], tk := tk, whole := true }) hr rfl rfl hg (decide_eq_false ht.not_gt)

/-! ## MMA (R225 to R227, R235, R254) -/

theorem scalable_iff {t : Tag} : scalable t = true ↔ t ∈ [Tag.e2m1, .e3m2, .e2m3, .e4m3, .e5m2] := by
  cases t <;> decide

/-- The tag of A: that of the unfolding state, or of its register (R226). -/
def Hart.mmaTag (h : Hart) (ma : BitVec 6) (asrc : Bool) : Tag :=
  if asrc then (h.unf.map (fun d => (unfoldOf d).tag)).getD .none else h.tag ma.toNat

section
variable {ta : AReg} {ma mb : BitVec 6} {ms : VReg} {tk : Option (BitVec 3)} {asrc bsrc sat scl : Bool} {t : Tag}

theorem lenOk_singleton {h : Hart} {v : Nat} : h.lenOk [v] = true ↔ h.tag v ≠ .none ∧ h.vl * h.vh ≤ mvl (h.tag v) h.nregs := by
  rw [Hart.lenOk, List.all_cons, List.all_nil, Bool.and_true, Bool.and_eq_true, bne_iff_ne, decide_eq_true_iff, Hart.n]

/-- A check that is made where a flag is clear. -/
theorem or_iff_of_clear {b c : Bool} : (b || c) = true ↔ (b = false → c = true) := by
  cases b <;> simp

theorem mmaOk_iff : s.mmaOk ta ma mb ms asrc bsrc scl = true ↔ mmaFits s ta ma mb ms asrc bsrc scl (s.hart.mmaTag ma asrc) := by
  unfold State.mmaOk mmaFits Hart.mmaTag Hart.n
  dsimp only
  cases asrc with
  | false =>
    simp only [or_iff_of_clear, Bool.not_eq_false', Bool.and_eq_true, decide_eq_true_iff, beq_iff_eq, bne_iff_ne, lenOk_singleton, scalable_iff, and_assoc,
      holds, Bool.false_eq_true, false_imp_iff, true_imp_iff, true_and, if_false]
  | true =>
    cases hu : s.hart.unf with
    | none => simp [stepK]
    | some d =>
      simp only [or_iff_of_clear, Bool.not_eq_false', Bool.and_eq_true, decide_eq_true_iff, beq_iff_eq, bne_iff_ne, scalable_iff, and_assoc, holds,
        Bool.true_eq_false, false_imp_iff, true_imp_iff, true_and, if_true, Option.map_some, Option.getD_some, Option.some.injEq, exists_eq_left']

/-- The registers that MMA names (R226, R227). -/
def mmaRegs (ma mb : BitVec 6) (ms : VReg) (asrc bsrc scl : Bool) : List Nat :=
  (if asrc then [] else [ma.toNat]) ++ (if bsrc then [] else [mb.toNat]) ++ (if scl then ms.toNat :: (if bsrc then [] else [ms.toNat + 1]) else [])

/-- What MMA names: it writes no register, and reads scalar registers for the place of A and the offset of its weights (R226, R235). -/
def mmaNames (ma mb : BitVec 6) (ms : VReg) (tk : Option (BitVec 3)) (asrc bsrc scl : Bool) : Names where
  regs := mmaRegs ma mb ms asrc bsrc scl
  dst := []
  xs := (if asrc then [ma] else []) ++ (if bsrc then [mb] else [])
  tk := tk
  whole := true

/-- The A operand of an MMA as it is captured: a place of the unfolded tensor, or a register (R226, R229). -/
def Hart.mmaA (h : Hart) (ma : BitVec 6) (asrc : Bool) (p : Word) : MxA :=
  match asrc, h.unf with
  | true, some d => .unf d p
  | _, _ => .reg (h.vstr ma.toNat) (h.vpoiStr ma.toNat)

/-- The work that MMA passes to the matrix queue (R228, R235). -/
def State.mmaOp (s : State) (ta : AReg) (ma mb : BitVec 6) (ms : VReg) (asrc bsrc sat scl : Bool) (t : Tag) : MmaOp :=
  { tile := ta.toNat, vl := s.hart.vl, vh := s.hart.vh, tag := t, sat := sat, scl := scl, blk := s.hart.blkSize
    a := s.hart.mmaA ma asrc (s.x ma)
    b := if bsrc then .ws (s.x mb).toNat else .reg (s.hart.vstr mb.toNat) (s.hart.vpoiStr mb.toNat)
    sa := s.hart.vstr ms.toNat, saP := s.hart.vpoiStr ms.toNat
    sb := s.hart.vstr (ms.toNat + 1), sbP := s.hart.vpoiStr (ms.toNat + 1)
    regs := mmaRegs ma mb ms asrc bsrc scl }

/-- MMA once its operands fit: the offset of its weights, whether they may be read, and the entry of the queue (R235, R254). -/
def State.mmaEnter (s : State) (i : Instr) (mb : BitVec 6) (bsrc : Bool) (n : Nat) (o : MmaOp) (tk : Option (BitVec 3)) : Eff :=
  if bsrc && (s.x mb).toNat % 128 != 0 then wordTrap .illegalOperand i s
  else match (if bsrc then s.wsFault (s.x mb).toNat n else none) with
    | some a => trapAt .accessFault (BitVec.ofNat 64 (s.pkg.toNat * 2 ^ 45 + wsBase (hidDie s.hart.hid) + a)) s
    | none => enterMatrix (.mma o) tk s

section
variable {i : Instr} {n a : Nat} {o : MmaOp}

theorem mmaEnter_misaligned (h : bsrc = true) (ho : (s.x mb).toNat % 128 ≠ 0) : s.mmaEnter i mb bsrc n o tk = wordTrap .illegalOperand i s :=
  if_pos (by rw [h, Bool.true_and, bne_iff_ne]; exact ho)

theorem mmaEnter_fault (h : bsrc = true) (ho : (s.x mb).toNat % 128 = 0) (hf : s.wsFault (s.x mb).toNat n = some a) :
    s.mmaEnter i mb bsrc n o tk = trapAt .accessFault (BitVec.ofNat 64 (s.pkg.toNat * 2 ^ 45 + wsBase (hidDie s.hart.hid) + a)) s := by
  simp only [State.mmaEnter, h, ho, hf, Bool.true_and, bne_self_eq_false, Bool.false_eq_true, if_false, if_true]

theorem mmaEnter_enters (h : bsrc = true → (s.x mb).toNat % 128 = 0 ∧ s.wsFault (s.x mb).toNat n = none) :
    s.mmaEnter i mb bsrc n o tk = enterMatrix (.mma o) tk s := by
  cases bsrc with
  | false => rfl
  | true =>
    obtain ⟨ho, hf⟩ := h rfl
    simp only [State.mmaEnter, ho, hf, Bool.true_and, bne_self_eq_false, Bool.false_eq_true, if_false, if_true]
end

section
variable (hr : s.VReady g (mmaRegs ma mb ms asrc bsrc scl) tk []) (hg : s.hart.guard g.grd = true)
include hr hg

theorem exec_mma (hf : mmaFits s ta ma mb ms asrc bsrc scl (s.hart.mmaTag ma asrc)) :
    exec (.mma g ta ma mb ms tk asrc bsrc sat scl) s = finish (s.mmaEnter (.mma g ta ma mb ms tk asrc bsrc sat scl) mb bsrc
      (wsLen (s.hart.mmaTag ma asrc) s.hart.vl s.hart.blkSize scl) (s.mmaOp ta ma mb ms asrc bsrc sat scl (s.hart.mmaTag ma asrc)) tk) := by
  refine (vecIssue_whole_ready (nm := mmaNames ma mb ms tk asrc bsrc scl) hr rfl rfl hg (mmaOk_iff.2 hf)).trans (congrArg finish ?_)
  obtain ⟨-, hA, -⟩ := hf
  simp only [touchV_sound (sound_of_vReady hr), ite_self]
  cases asrc with
  | false => rfl
  | true =>
    obtain ⟨d, hu, -⟩ := hA
    simp only [State.mmaEnter, State.mmaOp, Hart.mmaA, Hart.mmaTag, hu] <;> rfl

theorem mma_refused (hf : ¬mmaFits s ta ma mb ms asrc bsrc scl (s.hart.mmaTag ma asrc)) :
    exec (.mma g ta ma mb ms tk asrc bsrc sat scl) s =
      .next (s.takeTrap { cause := .illegalOperand, epc := s.hart.pc, val := encode (.mma g ta ma mb ms tk asrc bsrc sat scl) }) :=
  vecIssue_whole_illegal (nm := mmaNames ma mb ms tk asrc bsrc scl) hr rfl rfl hg (Bool.eq_false_iff.2 (mt mmaOk_iff.1 hf))
end
end

theorem productsEnterTheQueue : ProductsEnterTheQueue := by
  intro s g ta ma mb ms tk asrc bsrc sat scl t hr hg ht h i off fits
  have ht : t = h.mmaTag ma asrc := ht
  subst ht
  refine ⟨fun hf => ?_, fun hf hb o ho => ?_, fun hf hw => ?_⟩
  · by_cases hm : mmaFits s ta ma mb ms asrc bsrc scl (h.mmaTag ma asrc)
    · obtain ⟨hb, ho⟩ := Classical.not_imp.1 (not_and.1 hf hm)
      exact (exec_mma hr hg hm).trans (congrArg finish (mmaEnter_misaligned hb ho))
    · exact mma_refused hr hg hm
  · obtain ⟨hm, hoff⟩ := hf
    refine (exec_mma hr hg hm).trans ((congrArg finish (mmaEnter_fault hb (hoff hb) ho)).trans ?_)
    rw [wsBase, ← Nat.add_assoc]
    rfl
  · obtain ⟨hm, hoff⟩ := hf
    refine ⟨_, entersMatrix_of_enterMatrix ((exec_mma hr hg hm).trans (congrArg finish (mmaEnter_enters fun hb => ⟨hoff hb, hw hb⟩))),
      rfl, rfl, rfl, rfl, rfl, rfl, rfl, ?_, rfl, rfl, rfl⟩
    cases asrc <;> rfl

/-! ## MUNF (R229, R234) -/

/-- The four double words of a descriptor. -/
theorem descriptor_eq (v : Nat) : Vector.ofFn (fun i : Fin 4 => BitVec.ofNat 64 (elemAt 64 v i.val)) =
    #v[BitVec.ofNat 64 v, BitVec.ofNat 64 (v / 2 ^ 64), BitVec.ofNat 64 (v / 2 ^ 128), BitVec.ofNat 64 (v / 2 ^ 192)] := by
  have he (k : Nat) : BitVec.ofNat 64 (elemAt 64 v k) = BitVec.ofNat 64 (v / 2 ^ (k * 64)) := by
    rw [elemAt_def]
    exact BitVec.eq_of_toNat_eq (Nat.mod_mod _ _)
  refine Vector.ext fun k hk => ?_
  rw [Vector.getElem_ofFn, he]
  match k, hk with
  | 0, _ => exact congrArg _ (Nat.div_one v)
  | 1, _ | 2, _ | 3, _ => rfl

section
variable {xa : XReg} (hr : s.VReady g []) (hg : s.hart.guard g.grd = true)
include hr hg

theorem munf_misaligned (ha : (s.x xa).toNat % 32 ≠ 0) :
    exec (.munf g xa) s = .next (s.takeTrap { cause := .misaligned, epc := s.hart.pc, val := s.x xa }) :=
  (vecIssue_whole hr hg ..).trans (congrArg finish (if_pos ha))

/-- MUNF behind the read of its descriptor. -/
theorem exec_munf {v : Nat} {bad : Bool} {s1 : State} {d : Vector Word 4} (ha : (s.x xa).toNat % 32 = 0)
    (hl : s.load (s.req .vector) (s.x xa) 32 = (.ok (v, bad), s1))
    (hd : d = #v[BitVec.ofNat 64 v, BitVec.ofNat 64 (v / 2 ^ 64), BitVec.ofNat 64 (v / 2 ^ 128), BitVec.ofNat 64 (v / 2 ^ 192)]) :
    exec (.munf g xa) s = finish (
      if bad then trapAt .poison (s.x xa) s1
      else if !unfoldOk d then wordTrap .illegalOperand (.munf g xa) s1
      else match s1.outsideSpm (unfoldOf d) with
        | some x => trapAt .accessFault x s1
        | none => .done (s1.upd (fun h => { h with unf := some d }))) := by
  refine (vecIssue_whole hr hg ..).trans (congrArg finish ((if_neg (not_not.2 ha)).trans ?_))
  rw [hl, hd, ← descriptor_eq] <;> rfl
end

theorem unfoldingDescriptors : UnfoldingDescriptors := by
  intro s s1 g xa v bad hr hg i a trap d
  refine ⟨fun ha => munf_misaligned hr hg ha, fun ha hl _ => ?_⟩
  have hx := exec_munf hr hg ha hl (d := d) rfl
  refine ⟨fun hb => ?_, fun hb hd => ?_, fun hb hd x ho => ?_, fun hb hd ho => ?_⟩
  · exact hx.trans (congrArg finish (if_pos hb))
  · exact hx.trans (congrArg finish ((if_neg (Bool.eq_false_iff.1 hb)).trans (if_pos (by rw [hd]; rfl))))
  · rw [hb, hd, ho] at hx
    exact hx
  · rw [hb, hd, ho] at hx
    exact hx
end

/-- Settles O40: the three parts. -/
theorem matrixInstructionsIssue : Obligations.MatrixInstructionsIssue := ⟨tilesAreFilled, productsEnterTheQueue, unfoldingDescriptors⟩
end Sys2Proof.Machine
end

section
/-! SUPPORT. A share of the quay that is written while a clean copy shows bits that its code has missed (R249, R278): O39. -/

namespace Sys2Proof.Machine
open Sys2Proof

/-- Lines 0, 1 and so on of one set of die 0's quay. -/
def setLine (k : Nat) : Nat := 61 * 2048 * k
/-- Nine clean lines fill more of one set than a share of 8 leaves to home lines. The code has missed a flipped bit in the oldest of them, line 0: its copy
shows 1 in byte 0, where HBM holds 0. WFRAC of die 0 is written with 8. -/
def missedInClean : State :=
  { State.reset with
    hart := { Hart.reset 0 with run := .running, pc := 0x100 }
    quay := (List.range 9).map (fun k => (setLine k, ⟨false, 0, k, none⟩))
    errs := [⟨.quay 0, 1, true⟩]
    mem := [(0, 1)]
    input := .work 0 8 0 }

theorem missedInClean_ready : missedInClean.VReady (.plain 0) [] ∧ missedInClean.Inv := by decide +kernel

/-- The write drops line 0, and byte 0 shows again what HBM holds. -/
theorem wfracWrite_changes_mem : nextShows (fun t => t.mem == []) (exec .wfracWrite missedInClean) = true := by decide +kernel

/-- Refutes O39: without `State.NoFlips`, which the statement does not ask for, a new share of the quay that drops a clean copy changes the bytes that
memory shows. -/
theorem not_windowsAndRowLanes : ¬ Obligations.WindowsAndRowLanes := by
  rintro ⟨h, -⟩
  obtain ⟨-, -, hshare⟩ := h missedInClean (.plain 0) 0 0 0 missedInClean_ready.1
  obtain ⟨t, ht, -, hmem, -⟩ := hshare 0 8 0 (by decide) rfl
  obtain ⟨u, hu, hnil⟩ := exists_of_nextShows wfracWrite_changes_mem
  rw [ht] at hu
  obtain rfl := Host.Outcome.next.inj hu
  rw [hmem] at hnil
  exact absurd hnil (by decide)

end Sys2Proof.Machine
end

section
/-! SUPPORT. A vector load outside the invariant `State.Named` (O33): a variant of the state `misnamed`, in which the error that the load meets
replaces the hart in focus. -/

namespace Sys2Proof.Machine
open Sys2Proof Sys2Proof.Spec

/-- The hart in focus, with one element of tag SI32 in `v1`. -/
def misnamedVector : Hart := { misnamedHart with vtag := (Hart.reset 0).vtag.set 1 Tag.si32.code }
/-- The stored error lies in the element that `x6` names; the hart that stands under number 5 is one instruction further. -/
def misnamedLoading : State := { misnamed 8 with hart := misnamedVector, rest := [(5, { misnamedVector with pc := 0x108 })] }
/-- VLD of that element. -/
def misnamedForm : VForm := (loadForms misnamedLoading (.plain 0) 1 0 6 0 0 ⟨0, false, 0, false⟩)[0]
/-- Its run. -/
def misnamedRun : VRun × State := runEach (loadAcc 0 misnamedForm) misnamedForm.w misnamedForm.es ⟨[], []⟩ misnamedLoading

theorem misnamedForm_mem : misnamedForm ∈ loadForms misnamedLoading (.plain 0) 1 0 6 0 0 ⟨0, false, 0, false⟩ := List.getElem_mem _

theorem misnamedLoading_ready : misnamedLoading.VReady (.plain 0) misnamedForm.regs none ∧ misnamedLoading.NoFlips
    ∧ misnamedLoading.hart.lenOk [1] = true ∧ (misnamedLoading.hart.tag 1).isBlock = false ∧ misnamedLoading.hart.pc = 0x100 := by decide +kernel

/-- The element arrives. -/
theorem misnamedRun_arrives : misnamedRun.1.done.length = 1 ∧ misnamedRun.1.left = [] := by decide +kernel

/-- The hart goes on behind the instruction at 0x108. -/
theorem misnamedVld_pc : nextShows (fun u => u.hart.pc == 0x110) (exec misnamedForm.i misnamedLoading) = true := by decide +kernel

/-- Refutes O33: outside the invariant `State.Named`, which the statement does not ask for, the error that the load meets replaces the hart in
focus, so it does not go on with the next word. -/
theorem not_vectorLoadsAndStores : ¬ Obligations.VectorLoadsAndStores := by
  rintro ⟨h, -⟩
  obtain ⟨hr, hf, hl, hb, hpc⟩ := misnamedLoading_ready
  obtain ⟨-, hleft⟩ := misnamedRun_arrives
  have hok : misnamedForm.ok := ⟨hl, fun hc => absurd (hb.symm.trans hc) (by decide)⟩
  have hrun : misnamedRun = (⟨misnamedRun.1.done, []⟩, misnamedRun.2) := by rw [← hleft]
  obtain ⟨u, ⟨hu, hnext, -⟩, -⟩ := h misnamedLoading misnamedRun.2 (.plain 0) 1 0 6 0 0 ⟨0, false, 0, false⟩ misnamedRun.1.done misnamedForm
    misnamedForm_mem hr hok rfl hf hrun
  have hshow := misnamedVld_pc
  rw [hu] at hshow
  have h110 : u.hart.pc = 0x110 := beq_iff_eq.1 hshow
  rw [h110, hpc] at hnext
  exact absurd hnext (by decide)

/-- The state does not satisfy the part `State.Named` of the invariant. -/
theorem not_named_misnamedLoading : ¬misnamedLoading.Named := by decide +kernel

end Sys2Proof.Machine
end

section
/-! SUPPORT. What accesses leave of a state (O6, O14, O32), for a request of any launch and whatever harts are listed: `Accessed` has one lemma for
each operation of the caches, the stored errors, translation and reading, and each follows the text of the operation. -/

namespace Sys2Proof.Machine
open Sys2Proof

/-- What decides the bytes that a reader sees. -/
def State.view (s : State) : List Host.Cell × List (Nat × Byte × Nat) × List (Nat × Nat) × Nat × List Indet × List CollInst :=
  (s.mem, s.written, s.zeroed, s.wno, s.indet, s.insts)

/-- `t` is `s` behind accesses that write nothing. The hart in focus is as it was, but for where a trap from outside stops its instruction; or
ERROR_BUDGET has become pending on the hart in focus. Where no bit error lies stored that its code misses, the bytes are what they were. -/
structure Accessed (s t : State) : Prop where
  hart : t.hart = { s.hart with stopAt := t.hart.stopAt } ∨ (t.hart.hid = s.hart.hid ∧ t.hart.pend.budget.isSome = true)
  view : s.NoFlips → t.NoFlips ∧ t.view = s.view

section
variable {s0 s t : State} {l : Option LaunchId}

/-! ## The relation -/

theorem Accessed.refl (s : State) : Accessed s s := ⟨.inl rfl, fun h => ⟨h, rfl⟩⟩

theorem Accessed.hid (h : Accessed s t) : t.hart.hid = s.hart.hid := by
  obtain hh | ⟨hh, -⟩ := h.hart
  · rw [hh]
  · exact hh

theorem Accessed.trans {u : State} (h : Accessed s t) (k : Accessed t u) : Accessed s u := by
  refine ⟨?_, fun hs => ?_⟩
  · obtain hk | ⟨hk, hb⟩ := k.hart
    · obtain hh | ⟨hh, hb⟩ := h.hart
      · exact .inl (by rw [hk, hh])
      · exact .inr (by rw [hk]; exact ⟨hh, hb⟩)
    · exact .inr ⟨hk.trans h.hid, hb⟩
  · obtain ⟨ht, hv⟩ := h.view hs
    obtain ⟨hu, hw⟩ := k.view ht
    exact ⟨hu, hw.trans hv⟩

theorem Accessed.ite {c : Prop} [Decidable c] {a b : State} (ha : Accessed s a) (hb : Accessed s b) : Accessed s (if c then a else b) := by
  split
  · exact ha
  · exact hb
theorem Accessed.ite_snd {α : Type} {c : Prop} [Decidable c] {a b : α × State} (ha : Accessed s a.2) (hb : Accessed s b.2) :
    Accessed s (if c then a else b).2 := by
  split
  · exact ha
  · exact hb
theorem Accessed.of_snd {α : Type} {p : α × State} {a : α} (h : Accessed s p.2) (hp : p = (a, t)) : Accessed s t := by
  rwa [hp] at h
theorem Accessed.foldl_mem {α : Type} {f : State → α → State} {as : List α} (h : Accessed s0 s)
    (hf : ∀ t, ∀ a ∈ as, Accessed s0 t → Accessed s0 (f t a)) : Accessed s0 (as.foldl f s) :=
  List.foldlRecOn as f h fun t ht a ha => hf t a ha ht
theorem Accessed.foldl {α : Type} {f : State → α → State} {as : List α} (h : Accessed s0 s)
    (hf : ∀ t a, Accessed s0 t → Accessed s0 (f t a)) : Accessed s0 (as.foldl f s) := h.foldl_mem fun t a _ => hf t a

/-- An update of the stored errors and of what neither the hart nor a reader sees; none of the errors is one that its code misses, where none
was. -/
theorem Accessed.set_errs (h : Accessed s0 s) (e : (t.hart, t.view) = (s.hart, s.view)) (he : s.NoFlips → t.NoFlips) : Accessed s0 t := by
  obtain ⟨hh, hv⟩ := Prod.mk.inj e
  exact h.trans ⟨.inl (by rw [hh]), fun hs => ⟨he hs, hv⟩⟩
/-- An update of what neither the hart nor a reader sees. -/
theorem Accessed.frame (h : Accessed s0 s) (e : (t.hart, t.view, t.errs) = (s.hart, s.view, s.errs)) : Accessed s0 t := by
  simp only [Prod.mk.injEq] at e
  obtain ⟨hh, hv, he⟩ := e
  exact h.set_errs (by rw [hh, hv]) fun k => by rwa [State.NoFlips, he]
/-- An error that is stored is none that its code misses, where there was none. -/
theorem Accessed.seenErr (h : Accessed s0 s) {e : StoredErr} (he : e ∈ s.errs) (hs : s0.NoFlips) : e.esc = false := (h.view hs).1 e he

/-! ## Charges (R285) -/

/-- ERROR_BUDGET becomes pending on a hart: on the one in focus, or on one that is not in focus. -/
theorem Accessed.updBudget (h : Accessed s0 s) {k : BitVec 20} {v : Word} :
    Accessed s0 (s.updHart k (fun x => { x with pend := { x.pend with budget := some v } })) := by
  unfold State.updHart State.setHart
  split
  case isTrue hk => exact h.trans ⟨.inr ⟨hk.symm, rfl⟩, fun hs => ⟨hs, rfl⟩⟩
  case isFalse => exact h.frame rfl
theorem Accessed.checkBudget (h : Accessed s0 s) {l : LaunchId} : Accessed s0 (s.checkBudget l) := by
  unfold State.checkBudget
  split
  · exact h
  · refine .ite (Accessed.trans ?_ ⟨.inl rfl, fun hs => ⟨hs, rfl⟩⟩) h
    exact Accessed.foldl (h.frame (by rfl)) fun _ _ h => h.updBudget
theorem Accessed.charge (h : Accessed s0 s) {d : Bool} : Accessed s0 (s.charge l d) := by
  cases l with
  | none => exact h
  | some l => exact Accessed.checkBudget (h.frame (by rfl))

/-! ## The caches and the stored errors of memory (R246 to R249, R278, R292) -/

theorem Accessed.logErr (h : Accessed s0 s) {d : Nat} {c : BitVec 8} {k : Cls} {a : Nat} : Accessed s0 (s.logErr d c k a) := by
  unfold State.logErr State.updDie
  split
  · exact h.frame rfl
  · exact h
theorem Accessed.setUnits (h : Accessed s0 s) {u k : Nat} {b : Bool} : Accessed s0 (s.setUnits u b k) := by
  induction k generalizing s u with
  | zero => exact h
  | succ k ih => exact ih (h.frame (by rfl))
theorem Accessed.set_gran (h : Accessed s0 s) {g : Tab Bool} : Accessed s0 { s with gran := g } := h.frame rfl
theorem Accessed.set_quay (h : Accessed s0 s) {q : Tab Line} : Accessed s0 { s with quay := q } := h.frame rfl
theorem Accessed.set_msc_pack (h : Accessed s0 s) {q : Tab Line} {p : Tab (Nat × Nat)} : Accessed s0 { s with msc := q, pack := p } := h.frame rfl
theorem Accessed.correctErr (h : Accessed s0 s) {c : Cls} {pa : Nat} : Accessed s0 (s.correctErr l c pa) := h.logErr.charge
theorem Accessed.detectErr (h : Accessed s0 s) {c : Cls} {pa k : Nat} : Accessed s0 (s.detectErr l c pa k) := h.setUnits.logErr.charge
theorem Accessed.dropErrs (h : Accessed s0 s) {c : StoredErr → Bool} : Accessed s0 (s.dropErrs c) :=
  h.set_errs rfl fun k e he => k e (List.mem_filter.1 he).1

theorem hart_flipBytes {pa mask k : Nat} : (s.flipBytes pa mask k).hart = s.hart := by
  induction k generalizing s pa mask with
  | zero => rfl
  | succ k ih => exact ih.trans (by split <;> rfl)
/-- Bits flip in memory only where an error is one that its code misses. -/
theorem Accessed.flipBytes (h : Accessed s0 s) {pa mask k : Nat} {e : StoredErr} (he : s0.NoFlips → e.esc = false) (hf : e.esc = true) :
    Accessed s0 (s.flipBytes pa mask k) :=
  ⟨by rw [hart_flipBytes]; exact h.hart, fun hs => absurd (he hs) (by simp [hf])⟩
theorem Accessed.undoErrs (h : Accessed s0 s) {c : StoredErr → Bool} : Accessed s0 (s.undoErrs c) := by
  refine Accessed.dropErrs (h.foldl_mem fun t e he ht => ?_)
  obtain ⟨he, hc⟩ := List.mem_filter.1 he
  split
  · exact ht.flipBytes (h.seenErr he) (by simp_all)
  · exact ht
theorem Accessed.meetGran (h : Accessed s0 s) {e : StoredErr} (he : s0.NoFlips → e.esc = false) : Accessed s0 (s.meetGran l e) := by
  unfold State.meetGran
  dsimp only
  split
  · exact h.flipBytes he ‹_›
  · split
    · exact h
    · exact .ite h.set_gran.detectErr h.correctErr
    · exact h.set_gran.detectErr
theorem Accessed.loadGran (h : Accessed s0 s) {line : Nat} : Accessed s0 (s.loadGran line) := .ite h h.setUnits.setUnits
theorem Accessed.fetchLine (h : Accessed s0 s) {line : Nat} : Accessed s0 (s.fetchLine l line) :=
  Accessed.loadGran (h.dropErrs.foldl_mem fun _ _ he ht => ht.meetGran (h.seenErr (List.mem_filter.1 he).1))
theorem Accessed.refetch (h : Accessed s0 s) {line : Nat} : Accessed s0 (s.refetch l line) := h.undoErrs.fetchLine
theorem Accessed.meetErr (h : Accessed s0 s) {e : StoredErr} (he : s0.NoFlips → e.esc = false) : Accessed s0 (s.meetErr l e) := by
  unfold State.meetErr
  dsimp only
  split
  · exact h.meetGran he
  · split
    · exact .ite h h.logErr
    · exact .ite h.correctErr (.ite h.detectErr h.correctErr.refetch)
    · exact .ite h.detectErr h.correctErr.refetch
  · split
    · exact h
    · exact .ite h.detectErr h.correctErr
    · exact h.detectErr
theorem Accessed.findErrs (h : Accessed s0 s) {c : StoredErr → Bool} : Accessed s0 (s.findErrs l c) := by
  refine h.foldl fun t _ ht => ?_
  split
  · exact ht.dropErrs.meetErr (ht.seenErr (List.mem_of_find?_eq_some ‹_›))
  · exact ht
theorem Accessed.backGran (h : Accessed s0 s) {g : Nat} : Accessed s0 (s.backGran g) := .ite h.set_gran.setUnits h.set_gran
theorem Accessed.writeBack (h : Accessed s0 s) {line : Nat} : Accessed s0 (s.writeBack line) :=
  have h := h.findErrs.dropErrs
  .ite h h.backGran.backGran
theorem Accessed.dropMsc (h : Accessed s0 s) {line : Nat} : Accessed s0 (s.dropMsc line) := .ite h.set_msc_pack h.set_msc_pack.undoErrs
theorem Accessed.evictMsc (h : Accessed s0 s) {e : Nat × Line} : Accessed s0 (s.evictMsc e) :=
  (Accessed.ite h (.ite (.ite h.dropErrs h.dropErrs.set_gran) h.writeBack)).dropMsc
theorem Accessed.packLine (h : Accessed s0 s) {line : Nat} {v : Line} {k : Nat} : Accessed s0 (State.packLine line v k s) := by
  induction k generalizing s with
  | zero =>
    unfold State.packLine
    dsimp only
    split
    · exact h.set_msc_pack
    · exact (Accessed.ite h.writeBack h).dropMsc
  | succ k ih =>
    unfold State.packLine
    dsimp only
    split
    · exact h.set_msc_pack
    · split
      · exact ih h.evictMsc
      · exact h
theorem Accessed.toMsc (h : Accessed s0 s) {line : Nat} {v : Line} : Accessed s0 (s.toMsc line v) := by
  unfold State.toMsc
  split
  · split
    · exact h.evictMsc.packLine
    · exact h
  · exact h.packLine
theorem Accessed.fitLine (h : Accessed s0 s) {line : Nat} : Accessed s0 (s.fitLine line) := by
  unfold State.fitLine
  split
  · exact .ite h.packLine h
  · exact h
theorem Accessed.evictQuay (h : Accessed s0 s) {e : Nat × Line} : Accessed s0 (s.evictQuay e) :=
  have h := (Accessed.ite h.findErrs h.undoErrs).set_quay
  .ite h.toMsc h
theorem Accessed.trimQuay (h : Accessed s0 s) {line w k : Nat} : Accessed s0 (State.trimQuay line w k s) := by
  induction k generalizing s with
  | zero => exact h
  | succ k ih =>
    unfold State.trimQuay
    dsimp only
    split
    · split
      · exact ih h.evictQuay
      · exact h
    · exact h
theorem Accessed.bringLine (h : Accessed s0 s) {line : Nat} {p : BitVec 2} : Accessed s0 (s.bringLine l line p) := by
  unfold State.bringLine
  split
  · exact h.frame rfl
  · exact h.fetchLine.toMsc
theorem Accessed.outdate (h : Accessed s0 s) {line : Nat} : Accessed s0 (s.outdate line) := h.frame rfl
theorem Accessed.touchLine (h : Accessed s0 s) {line : Nat} {p : BitVec 2} {w : Bool} : Accessed s0 (s.touchLine l line p w) := by
  have h := Accessed.ite (c := ((s.quay.find? (fun e => e.1 == line)).map (·.2)).isSome = true) h
    ((h.bringLine (l := l) (line := line) (p := p)).trimQuay (line := line) (w := 15 - (s.die (line / 2 ^ 34)).wfrac) (k := 17))
  exact Accessed.frame (Accessed.ite h.outdate h) rfl
theorem Accessed.meetErrors (h : Accessed s0 s) {pa k : Nat} {w : Bool} : Accessed s0 (s.meetErrors l pa k w) := by
  have hcut : Accessed s0 { s with errs := ((s.errs.filter (fun e => !e.inWhole pa k)).map (StoredErr.cut pa k)).filter (fun e => e.mask != 0) } :=
    h.set_errs rfl fun hs e he => by
      obtain ⟨e', he', rfl⟩ := List.mem_map.1 (List.mem_filter.1 he).1
      rw [StoredErr.cut_esc]
      exact hs e' (List.mem_filter.1 he').1
  unfold State.meetErrors
  dsimp only
  exact .ite h (.ite (Accessed.findErrs (.ite hcut h)) (Accessed.foldl (Accessed.findErrs (.ite hcut h)) fun _ _ h => h.fitLine))
theorem Accessed.atHome (h : Accessed s0 s) {r : Req} {pa k : Nat} {w : Bool} : Accessed s0 (s.atHome r pa k w) :=
  (Accessed.ite (h.foldl fun _ _ h => h.touchLine) h).meetErrors

/-! ## Translation, location and reading (R241, R273, R342 to R350) -/

theorem Accessed.fresh (h : Accessed s0 s) : Accessed s0 s.fresh.2 := h.frame rfl
theorem Accessed.nextSeq (h : Accessed s0 s) {d : Nat} : Accessed s0 (s.nextSeq d).2 := h.frame rfl
theorem Accessed.awayErrors (h : Accessed s0 s) {p i : Nat} : Accessed s0 (s.awayErrors l p i) :=
  .ite h (Accessed.foldl (Accessed.foldl h fun _ _ h => h.charge) fun _ _ h => h.charge)
theorem Accessed.walkRead (h : Accessed s0 s) {r : Req} {p k : Nat} : Accessed s0 (s.walkRead r p k).2 := by
  unfold State.walkRead
  dsimp only
  split
  · split
    · exact h
    · split
      all_goals exact h.nextSeq.fresh.awayErrors
  · split
    · exact h
    · split
      · exact h
      · split
        all_goals exact h.atHome
theorem Accessed.walk4 (h : Accessed s0 s) {r : Req} {a : Nat} {va : Word} : Accessed s0 (s.walk4 r a va).2 := by
  unfold State.walk4
  dsimp only
  split <;> rename_i hq <;> have h := h.walkRead.of_snd hq
  · exact h
  · exact .ite_snd h (.ite_snd h h)
theorem Accessed.walkFrom (h : Accessed s0 s) {r : Req} {va : Word} {k lv a : Nat} : Accessed s0 (State.walkFrom r va k lv a s).2 := by
  induction k generalizing s lv a with
  | zero => exact h.walk4
  | succ k ih =>
    unfold State.walkFrom
    dsimp only
    split <;> rename_i hq <;> have h := h.walkRead.of_snd hq
    · exact h
    · exact .ite_snd h (.ite_snd h (.ite_snd (.ite_snd h h) (ih h)))
theorem Accessed.walk (h : Accessed s0 s) {r : Req} {va : Word} : Accessed s0 (s.walk r va).2 := .ite_snd h h.walkFrom
theorem Accessed.tlbPut (h : Accessed s0 s) {e : TlbEntry} : Accessed s0 (s.tlbPut e) := .ite (h.frame rfl) (h.frame rfl)
theorem Accessed.tlbInstall (h : Accessed s0 s) {e : TlbEntry} {ps : List (BitVec 36)} : Accessed s0 (s.tlbInstall e ps) :=
  (Accessed.foldl h fun _ _ h => h.tlbPut).tlbPut
theorem Accessed.slotOk (h : Accessed s0 s) {e : TlbEntry} : Accessed s0 (s.slotOk e).2 := by
  unfold State.slotOk
  split
  · exact h
  · exact .ite_snd h.fresh h
theorem Accessed.translate (h : Accessed s0 s) {r : Req} {k : Kind} {va : Word} : Accessed s0 (s.translate r k va).2 := by
  unfold State.translate
  refine .ite_snd h (.ite_snd h ?_)
  dsimp only
  split
  · exact .ite_snd h h.slotOk
  · split <;> rename_i hq <;> have h := h.walk.of_snd hq
    · exact h
    · exact .ite_snd h (.ite_snd h.tlbInstall h.tlbInstall.slotOk)
theorem Accessed.locate (h : Accessed s0 s) {r : Req} {k : Kind} {va : Word} {w : Nat} : Accessed s0 (s.locate r k va w).2 := by
  unfold State.locate
  split <;> rename_i hq <;> have h := h.translate.of_snd hq
  · exact h
  · refine .ite_snd h (.ite_snd (.ite_snd h (.ite_snd h ?_)) (.ite_snd h (.ite_snd h (.ite_snd h ?_))))
    · dsimp only
      split
      all_goals exact h.nextSeq.fresh
    · split
      all_goals exact h
theorem Accessed.readAt (h : Accessed s0 s) {r : Req} {p : Place} {k : Nat} : Accessed s0 (s.readAt r p k).2 := by
  cases p with
  | away pod => exact h.fresh.awayErrors
  | here pa => exact .ite_snd h h.atHome
theorem Accessed.load (h : Accessed s0 s) {r : Req} {va : Word} {k : Nat} : Accessed s0 (s.load r va k).2 := by
  unfold State.load
  split <;> rename_i hq <;> have h := h.locate.of_snd hq
  · exact h
  · exact h.readAt

/-! ## Elements of vectors (R251, R258) -/

theorem Accessed.putCopy (h : Accessed s0 s) {c : Copy} : Accessed s0 (s.putCopy c) := h.frame rfl
theorem Accessed.readCopy (h : Accessed s0 s) {r : Req} {t0 k w : Nat} {p : Place} : Accessed s0 (State.readCopy r t0 k p w s).2 := by
  induction k generalizing s p w with
  | zero => exact h
  | succ k ih =>
    have hc : ∀ {line : Nat}, Accessed s0 (s.copyOf r t0 line p.lineStart).2 := by
      intro line
      unfold State.copyOf
      split
      · exact h.putCopy
      · exact h.readAt.putCopy
    unfold State.readCopy
    dsimp only
    split
    · exact h.readAt
    · exact .ite_snd hc (ih hc)
theorem Accessed.windowHit (h : Accessed s0 s) {r : Req} {t0 : Nat} {va : Word} : Accessed s0 (s.windowHit r t0 va).2 := by
  unfold State.windowHit
  split <;> rename_i hq
  · exact h
  · have h := h.translate.of_snd hq
    dsimp only
    split <;> exact h
theorem Accessed.locateSrcs (h : Accessed s0 s) {r : Req} {t0 : Option Nat} {ps : List (Word × Nat)} : Accessed s0 (s.locateSrcs r t0 ps).2 := by
  induction ps generalizing s with
  | nil => exact h
  | cons x ps ih =>
    cases t0 with
    | none =>
      unfold State.locateSrcs
      rcases hq : s.locate r .read x.1 x.2 with ⟨_ | p, t⟩ <;> have h := h.locate.of_snd hq <;> simp only [hq]
      · exact h
      · split <;> rename_i hr <;> exact (ih h).of_snd hr
    | some t0 =>
      unfold State.locateSrcs
      rcases hw : s.windowHit r t0 x.1 with ⟨_ | ⟨c, o⟩, u⟩ <;> have h := h.windowHit.of_snd hw <;> simp only [hw]
      · rcases hq : u.locate r .read x.1 x.2 with ⟨_ | p, t⟩ <;> have h := h.locate.of_snd hq
        · exact h
        · dsimp only
          split <;> rename_i hr <;> exact (ih h).of_snd hr
      · split <;> rename_i hr <;> exact (ih h).of_snd hr
theorem Accessed.readSrcs (h : Accessed s0 s) {r : Req} {t0 : Option Nat} {qs : List (Src × Nat)} : Accessed s0 (s.readSrcs r t0 qs).2 := by
  induction qs generalizing s with
  | nil => exact h
  | cons x qs ih =>
    obtain ⟨q, k⟩ := x
    refine ih ?_
    cases q with
    | copy c off => exact h.putCopy
    | home p =>
      cases t0 with
      | none => exact h.readAt
      | some t0 => exact .ite_snd h.readAt h.readCopy
theorem Accessed.loadElem (h : Accessed s0 s) {r : Req} {b : Bool} {w : Nat} {x : NbElem} : Accessed s0 (s.loadElem r b w x).2 := by
  refine .ite_snd h ?_
  dsimp only
  rcases hq : s.locateSrcs r (if b then s.hart.windowSince x.va else none) (pageSpans x.va (x.len w)) with ⟨_ | qs, t⟩ <;>
    have h := h.locateSrcs.of_snd hq
  · exact h
  · exact h.readSrcs
theorem Accessed.clGuard (h : Accessed s0 s) {α : Type} {w : Nat} {x : NbElem} {f : State → Except MemFault α × State}
    (hf : ∀ {t}, Accessed s0 t → Accessed s0 (f t).2) : Accessed s0 (clGuard w x f s).2 := .ite_snd h (hf h)
theorem Accessed.runEach (h : Accessed s0 s) {acc : NbElem → State → Except MemFault Loaded × State} {w : Nat} {es : List NbElem} {v : VRun}
    (ha : ∀ {x t}, Accessed s0 t → Accessed s0 (acc x t).2) : Accessed s0 (runEach acc w es v s).2 := by
  unfold Machine.runEach
  induction es generalizing s v with
  | nil => exact h
  | cons x es ih =>
    refine .ite_snd (ih h) ?_
    split <;> rename_i hq <;> exact ih ((ha h).of_snd hq)
end

end Sys2Proof.Machine
end

section
/-! SUPPORT. Direct addresses, and the traps of LD and ST (R146, R241, R353, R356): O6. -/

namespace Sys2Proof.Machine
open Sys2Proof Sys2Proof.Spec

/-! ## Direct addresses (R241) -/

theorem toNat_highField (va : Word) : (va.extractLsb' 57 7).toNat = va.toNat / 2 ^ 57 := by
  rw [BitVec.extractLsb'_toNat, Nat.shiftRight_eq_div_pow]
  omega
theorem isDirect_iff (va : Word) : isDirect va = true ↔ va.toNat / 2 ^ 52 % 2 ^ 5 = 0 ∧ 2 ^ 40 ≤ va.toNat % 2 ^ 41 := by
  rw [isDirect, Bool.and_eq_true, beq_iff_eq, decide_eq_true_iff, ← BitVec.toNat_inj, BitVec.extractLsb'_toNat, BitVec.extractLsb'_toNat,
    Nat.shiftRight_eq_div_pow, Nat.shiftRight_zero]
  exact Iff.rfl

theorem directAddresses : DirectAddresses := by
  intro s r k va
  refine ⟨fun hhigh => if_pos fun h => hhigh ?_, fun hlow hdir => ?_⟩
  · rw [← toNat_highField, h]
    rfl
  · have h57 : va.extractLsb' 57 7 = 0 := BitVec.eq_of_toNat_eq ((toNat_highField va).trans (show _ = 0 by omega))
    have hpod : (va.extractLsb' 0 52).toNat = va.toNat := by
      rw [BitVec.extractLsb'_toNat, Nat.shiftRight_zero]
      omega
    refine (if_neg (not_not.2 h57)).trans ((if_pos ((isDirect_iff va).2 ⟨by omega, hdir⟩)).trans ?_)
    rw [hpod]

/-! ## Traps behind an access (R357, R358) -/

section
variable {s s1 : State} {t t' : Trap}

theorem firstPending_of_budget {h : Hart} (hb : h.pend.budget.isSome = true) : ∃ p, h.firstPending = some p := by
  obtain ⟨v, hv⟩ := Option.isSome_iff_exists.1 hb
  unfold Hart.firstPending
  rw [hv]
  split
  · exact ⟨_, rfl⟩
  · exact ⟨_, rfl⟩

/-- While ERROR_BUDGET is pending, a synchronous trap disappears: of the trap only whether it lies inside a vector instruction matters. -/
theorem takeTrap_of_budget (hb : s.hart.pend.budget.isSome = true) (hv : t.vec = t'.vec) : s.takeTrap t = s.takeTrap t' := by
  have hu : (s.upd (fun h => { h with trapped := true })).hart.pend.budget.isSome = true := hb
  unfold State.takeTrap State.takeSync
  generalize s.upd _ = u at hu ⊢
  obtain ⟨p, hp⟩ := firstPending_of_budget hu
  cases he : u.hart.takesExternal with
  | true => simp only [he, if_true, hp, hv]
  | false =>
    obtain ⟨hm, hie⟩ := Bool.or_eq_false_iff.1 he
    cases h : u.hart.mode with
    | u => exact absurd hm (by rw [h]; decide)
    | s | p => simp only [he, h, hie, Bool.false_eq_true, if_false]

/-- The trap of an instruction behind its accesses is that of the hart as it was. -/
theorem Accessed.takeTrap (h : Accessed s s1) (t : Trap) : s1.takeTrap { t with epc := s1.hart.pc } = s1.takeTrap { t with epc := s.hart.pc } := by
  obtain hh | ⟨-, hb⟩ := h.hart
  · rw [hh]
  · exact takeTrap_of_budget hb rfl
end

/-! ## LD and ST (R146, R353, R356) -/

theorem loadEff_misaligned {s : State} {xd : XReg} {a : Word} {n : Nat} {zx : Bool} (ha : a.toNat % n ≠ 0) :
    loadEff xd a n zx s = trapAt .misaligned a s := if_pos ha
theorem storeEff_misaligned {s : State} {a v : Word} {n : Nat} (ha : a.toNat % n ≠ 0) : storeEff a n v s = trapAt .misaligned a s := if_pos ha

section
variable {s s1 : State} {g : Hdr} {x : XReg} {m : MemOp} {sz : BitVec 2}
variable (hr : s.Ready g.wm) (hg : s.hart.guard g.grd = true)
include hr hg

theorem exec_ld {zx : Bool} (ha : s.hart.readAhead = none) :
    exec (.ld g x m sz zx) s = finish (loadEff x (s.memAddr m) (2 ^ sz.toNat) zx s) := by
  refine (issue_true hr hg (.ld g x m sz zx) (memRegs m) [] _).trans (congrArg finish ?_)
  rw [ha] <;> rfl
theorem exec_st : exec (.st g x m sz) s = finish (storeEff (s.memAddr m) (2 ^ sz.toNat) (s.x x) s) :=
  issue_true hr hg (.st g x m sz) (x :: memRegs m) [] _

theorem ld_fault {zx : Bool} {f : MemFault} (ha : s.hart.readAhead = none) (hal : (s.memAddr m).toNat % 2 ^ sz.toNat = 0)
    (hl : s.load (s.req .scalar) (s.memAddr m) (2 ^ sz.toNat) = (.error f, s1)) :
    exec (.ld g x m sz zx) s = .next (s1.takeTrap { cause := f.cause, epc := s.hart.pc, val := f.addr, npg := f.fb.length, fb := f.fb }) := by
  have hacc : Accessed s s1 := (Accessed.refl s).load.of_snd hl
  rw [exec_ld hr hg ha, loadEff, if_neg (not_not.2 hal), hl]
  exact congrArg _ (hacc.takeTrap { cause := f.cause, epc := 0, val := f.addr, npg := f.fb.length, fb := f.fb })
theorem ld_poison {zx : Bool} {v : Nat} (ha : s.hart.readAhead = none) (hal : (s.memAddr m).toNat % 2 ^ sz.toNat = 0)
    (hl : s.load (s.req .scalar) (s.memAddr m) (2 ^ sz.toNat) = (.ok (v, true), s1)) :
    exec (.ld g x m sz zx) s = .next (s1.takeTrap { cause := .poison, epc := s.hart.pc, val := s.memAddr m }) := by
  have hacc : Accessed s s1 := (Accessed.refl s).load.of_snd hl
  rw [exec_ld hr hg ha, loadEff, if_neg (not_not.2 hal), hl]
  exact congrArg _ (hacc.takeTrap { cause := .poison, epc := 0, val := s.memAddr m })
theorem st_fault {f : MemFault} (hal : (s.memAddr m).toNat % 2 ^ sz.toNat = 0)
    (hl : s.locate (s.req .scalar) .write (s.memAddr m) (2 ^ sz.toNat) = (.error f, s1)) (hf : f.amb = false) :
    exec (.st g x m sz) s = .next (s1.takeTrap { cause := f.cause, epc := s.hart.pc, val := f.addr, npg := f.fb.length, fb := f.fb }) := by
  have hacc : Accessed s s1 := (Accessed.refl s).locate.of_snd hl
  rw [exec_st hr hg, storeEff, if_neg (not_not.2 hal), State.storeTo, hl]
  dsimp only
  rw [atomTrap, hf]
  exact congrArg _ (hacc.takeTrap { cause := f.cause, epc := 0, val := f.addr, npg := f.fb.length, fb := f.fb })
end

theorem scalarAccessTraps : ScalarAccessTraps := by
  intro s g x m sz zx s1 f hr hg ha
  refine ⟨fun hmis => ⟨?_, ?_⟩, fun hal => ⟨ld_fault hr hg ha hal, fun _ => ld_poison hr hg ha hal, st_fault hr hg hal⟩⟩
  · rw [exec_ld hr hg ha, loadEff_misaligned hmis]
    rfl
  · rw [exec_st hr hg, storeEff_misaligned hmis]
    rfl

/-- Settles O6: where an address lies, and the trap of each access that fails, behind whatever errors the access has met. -/
theorem addressesAndTraps : Obligations.AddressesAndTraps := ⟨directAddresses, scalarAccessTraps⟩

end Sys2Proof.Machine
end

section
/-! SUPPORT. Work of the non-blocking queue, and the actions on halted queues (R260, R306, R307, R309): O14. -/

namespace Sys2Proof.Machine
open Sys2Proof Sys2Proof.Spec

/-! ## Work on the hart in focus -/

section
variable {s : State} {l : Option LaunchId}

/-- Work that keeps the number of the hart in focus is done where the focus is. -/
theorem onHart_self {f : State → State} (hf : (f s).hart.hid = s.hart.hid) : s.onHart s.hart.hid f = f s := by
  have hs : s.focus s.hart.hid = s := if_pos rfl
  rw [State.onHart, hs]
  exact if_pos hf

theorem ofNat_hid (k : BitVec 20) : BitVec.ofNat 20 k.toNat = k := by simp

variable {i j : Nat} (hin : s.input = .work s.hart.hid.toNat i j)
include hin
theorem exec_loadElementArrival (hh : (s.nbElem i j).hart.hid = s.hart.hid) : exec .loadElementArrival s = .next (s.nbElem i j) := by
  refine Eq.trans (b := execLoadElementArrival s) rfl ?_
  rw [execLoadElementArrival, hin]
  dsimp only
  rw [ofNat_hid, onHart_self hh]
theorem exec_nbRetire {n : Nat} {u : State} (hn : ((s.hart.nbQ[i]?).map (·.todo.length + 1)).getD 0 = n) (hu : State.nbElems i n s = u)
    (hh : (u.hart.nbRetire i).hid = s.hart.hid) : exec .nbRetire s = .next (u.upd (fun h => h.nbRetire i)) := by
  refine Eq.trans (b := execNbRetire s) rfl ?_
  rw [execNbRetire, hin]
  dsimp only
  rw [ofNat_hid, onHart_self (by rw [hn, hu]; exact hh), hn, hu]
end

/-! ## Last use (R248) -/

section
variable {s s0 : State}

theorem hart_lastUse {line : Nat} : (s.lastUse line).hart = s.hart := by
  have hundo {u : State} {c : StoredErr → Bool} : (u.undoErrs c).hart = u.hart := by
    refine List.foldlRecOn (motive := fun (t : State) => t.hart = u.hart) _ _ rfl fun t ht e _ => ?_
    split
    · exact hart_flipBytes.trans ht
    · exact ht
  have hload {u : State} : (u.loadGran line).hart = u.hart := by
    unfold State.loadGran
    split
    · rfl
    · obtain ⟨p, hp⟩ := setUnits_eq u (32 * line) 16 (Tab.get (fun _ => false) u.gran (2 * line))
      obtain ⟨q, hq⟩ := setUnits_eq { u with poison := p } (32 * line + 16) 16 (Tab.get (fun _ => false) u.gran (2 * line + 1))
      dsimp only
      rw [Nat.add_zero, hp, hq]
  refine hload.trans ?_
  unfold State.markIndet
  split
  · exact hundo
  · exact hundo
theorem hart_lastUses {w : Nat} {d : List (NbElem × Loaded)} {es : List NbElem} : (s.lastUses w d es).hart = s.hart :=
  List.foldlRecOn (motive := fun (t : State) => t.hart = s.hart) _ _ rfl fun _ ht _ _ => hart_lastUse.trans ht
end

/-! ## Elements of the non-blocking queue (R260, R306) -/

theorem onlyStorage_freshen (h : Hart) (here : Nat → Bool) : OnlyStorage h (h.freshen here) := by
  unfold Hart.freshen
  split
  · exact .refl h
  · exact ⟨_, _, _, _, rfl⟩
theorem onlyStorage_loadWrites (h : Hart) (v w : Nat) (ws : List (Nat × Nat × Bool)) : OnlyStorage h (h.loadWrites v w ws) := by
  have hput (b q : Nat) : OnlyStorage h (h.putStr v b q) := ⟨_, _, _, _, rfl⟩
  unfold Hart.loadWrites
  split
  · exact .refl h
  · exact (hput _ _).trans (onlyStorage_freshen ..)
@[simp] theorem loadWrites_hid (h : Hart) (v w : Nat) (ws : List (Nat × Nat × Bool)) : (h.loadWrites v w ws).hid = h.hid := by
  obtain ⟨_, _, _, _, he⟩ := onlyStorage_loadWrites h v w ws
  rw [he]

section
variable {s s1 : State} {i j : Nat} {o : NbOp} {x : NbElem}

/-- An instruction of the queue as it stands behind the arrival of element `e`. -/
def NbOp.without (o : NbOp) (e : Nat) : NbOp := { o with begun := true, todo := o.todo.filter (fun y => y.e != e) }

/-- The access of an element of a load keeps the number of the hart in focus. -/
theorem hid_nbAccess_load {r : Except MemFault (Option (Nat × Bool))} (hk : o.kind = .load) (hc : o.cl = false) (ha : s.nbAccess o x = (r, s1)) :
    s1.hart.hid = s.hart.hid := by
  have hl : Accessed s (s.loadElem (o.req s.hart.hid) false o.size x).2 := (Accessed.refl s).loadElem
  rw [State.nbAccess, hk, hc] at ha
  dsimp only at ha
  rw [if_neg Bool.false_ne_true] at ha
  rcases hq : s.loadElem (o.req s.hart.hid) false o.size x with ⟨e | v, t⟩
  · rw [hq] at ha hl
    obtain ⟨-, rfl⟩ := Prod.mk.inj ha
    exact hl.hid
  · rw [hq] at ha hl
    obtain ⟨-, rfl⟩ := Prod.mk.inj ha
    split
    · rw [hart_lastUses]
      exact hl.hid
    · exact hl.hid

variable (hq : s.hart.nbQ[i]? = some o) (hh : o.halt = false)
include hq hh

theorem nbElem_arrives (hk : o.kind = .load) (hc : o.cl = false) (hj : o.todo[j]? = some x) (hb : s.hart.nbSt.halt = true → o.begun = true)
    (hp : o.poison = false) (hpoi : o.todo.find? (·.poi) = none) (hheld : s.nbHeld i o x = false) : s.nbElem i j = s.nbOne i x.e := by
  have hrun : (s.hart.nbSt.halt && !o.begun) = false := by
    cases h : s.hart.nbSt.halt
    · rfl
    · simp [hb h]
  simp [State.nbElem, hq, hk, hh, hrun, hp, hpoi, hj, hc, hheld]

theorem nbElem_poisoned (hk : ∀ no, o.kind ≠ .push no) (hrun : s.hart.nbSt.halt = false) (hp : o.poison = true ∨ ∃ x ∈ o.todo, x.poi = true) :
    ∃ e f, s.nbElem i j = s.upd (fun h => h.nbStop i e f) := by
  unfold State.nbElem
  rw [hq]
  dsimp only
  rw [hh, hrun]
  split
  · exact absurd ‹o.kind = _› (hk _)
  rw [if_neg (by simp)]
  split
  · exact ⟨_, _, rfl⟩
  · obtain hp | ⟨x, hx, hpoi⟩ := hp
    · exact absurd hp ‹_›
    · cases hf : o.todo.find? (·.poi) with
      | none => exact absurd hpoi (by simpa using List.find?_eq_none.1 hf x hx)
      | some y => exact ⟨_, _, rfl⟩
end

theorem nbOne_load {s s1 : State} {i b : Nat} {bad : Bool} {o : NbOp} {x : NbElem} (hq : s.hart.nbQ[i]? = some o)
    (hf : o.todo.find? (fun y => y.e == x.e) = some x) (hb : s.nbBehind o x = false) (ha : s.nbAccess o x = (.ok (some (b, bad)), s1)) :
    s.nbOne i x.e = s1.upd (fun h =>
      ({ h with nbQ := h.nbQ.modify i (fun o => o.without x.e) }).loadWrites o.vd o.size [(fieldIx o.size x.e, b, bad)]) := by
  simp only [State.nbOne, hq, hf, hb, ha, Bool.false_eq_true, if_false] <;> rfl

section
variable {h : Hart} {i e : Nat} {f : EngFault} {o : NbOp}

/-- Stopping an instruction stops its queue. -/
theorem nbStop_halts (hq : h.nbQ[i]? = some o) : ((h.nbStop i e f).nbQ[i]?).map (·.halt) = some true ∧ (h.nbStop i e f).nbSt.halt = true
    ∧ (h.nbStop i e f).cc = h.cc ∧ (h.nbStop i e f).vst = h.vst ∧ (h.nbStop i e f).hid = h.hid := by
  set o' : NbOp := { o with halt := true, begun := true, bad := o.bad ++ [(e, f)] } with ho'
  set q := h.nbQ.modify i (fun o => { o with halt := true, begun := true, bad := o.bad ++ [(e, f)] }) with hq'
  have hi : q[i]? = some o' := by rw [hq', List.getElem?_modify_eq, hq] <;> rfl
  have hstop : h.nbStop i e f = ({ h with nbQ := q } : Hart).nbRecord := rfl
  rw [hstop, Hart.nbRecord]
  cases hf : ({ h with nbQ := q } : Hart).nbQ.find? (·.halt) with
  | none => exact absurd rfl (List.find?_eq_none.1 hf o' (List.mem_of_getElem? hi))
  | some y => exact ⟨by dsimp only; rw [hi] <;> rfl, rfl, rfl, rfl, rfl⟩
end

/-! ## Retirement (R307) -/

theorem nbElems_of_done {s : State} {i : Nat} {o : NbOp} (hq : s.hart.nbQ[i]? = some o) (ht : o.todo = []) (hp : o.poison = false) :
    State.nbElems i 1 s = s := by
  simp [State.nbElems, State.nbElem, hq, ht, hp]
theorem nbRetire_of_done {h : Hart} {i : Nat} {o : NbOp} (hq : h.nbQ[i]? = some o) (ht : o.todo = []) (hh : o.halt = false) (hp : o.poison = false)
    (hb : ∀ p ∈ h.nbQ.take i, p.tc ≠ o.tc) : h.nbRetire i = { h with nbQ := h.nbQ.eraseIdx i }.addCc o.tc 1 := by
  have hall : (h.nbQ.take i).all (fun p => p.tc != o.tc) = true := List.all_eq_true.2 fun p hm => bne_iff_ne.2 (hb p hm)
  simp only [Hart.nbRetire, hq, ht, hh, hp, hall, List.isEmpty_nil, Bool.not_false, Bool.and_self, if_true]

theorem nonBlockingQueue : NonBlockingQueue := by
  intro s i j o hin hq
  refine ⟨fun x b bad s1 hk hc hj hf hh hb hp hpoi hheld hbeh ha => ?_, fun hk hh hrun hp => ?_, fun ht hh hp hb => ?_⟩
  · have he := (nbElem_arrives hq hh hk hc hj hb hp hpoi hheld).trans (nbOne_load hq hf hbeh ha)
    refine (exec_loadElementArrival hin ?_).trans (congrArg _ he)
    rw [he, State.upd_hart, loadWrites_hid]
    exact hid_nbAccess_load hk hc ha
  · obtain ⟨e, f, he⟩ := nbElem_poisoned (j := j) hq hh hk hrun hp
    obtain ⟨hhalt, hst, hcc, hvst, hhid⟩ := nbStop_halts (e := e) (f := f) hq
    refine ⟨_, exec_loadElementArrival hin (by rw [he]; exact hhid), ?_⟩
    rw [he]
    exact ⟨byte_of_frame rfl, hhalt, hst, hcc, hvst⟩
  · have hr := nbRetire_of_done hq ht hh hp hb
    refine ⟨_, exec_nbRetire hin (by rw [hq, Option.map_some, ht] <;> rfl) (nbElems_of_done hq ht hp) (by rw [hr] <;> rfl), ?_⟩
    rw [State.upd_hart, hr]
    refine ⟨rfl, Vector.getElem_set_self .., fun k hk => Vector.getElem_set_ne o.tc.isLt k.isLt fun he => hk (BitVec.eq_of_toNat_eq he.symm),
      byte_of_frame rfl⟩

/-! ## Actions on a halted queue (R309) -/

/-- Streams that owe nothing pay nothing. -/
theorem payQueue_of_paid {q : List Stream} (hq : ∀ y ∈ q, y.owed = 0 ∧ y.copied = false) (held : List (BitVec 3)) :
    (payQueue q held).1 = q ∧ ∀ a ∈ (payQueue q held).2, a.2 = 0 := by
  induction q generalizing held with
  | nil => exact ⟨rfl, nofun⟩
  | cons x q ih =>
    obtain ⟨⟨ho, hc⟩, hq⟩ := List.forall_mem_cons.1 hq
    unfold payQueue
    split
    · obtain ⟨h1, h2⟩ := ih hq (x.n :: held)
      simp only [hc, Bool.false_eq_true, if_false, List.mem_cons, forall_eq_or_imp]
      exact ⟨by rw [h1, ← ho], ho, h2⟩
    · obtain ⟨h1, h2⟩ := ih hq held
      exact ⟨congrArg _ h1, h2⟩

theorem addCc_zero (h : Hart) (n : BitVec 3) : h.addCc n 0 = h := by
  simp [Hart.addCc]

theorem payOwed_of_owesNothing {h : Hart} (ho : owesNothing h) : h.payOwed = h := by
  obtain ⟨hq, ha⟩ := payQueue_of_paid ho []
  unfold Hart.payOwed
  dsimp only
  rw [hq]
  exact List.foldlRecOn (motive := fun k => k = h) _ _ rfl fun k hk a ha' => by rw [hk, ha a ha', addCc_zero]

/-- The tokens of streams that are abandoned are clear. -/
theorem exists_clearToks (l : List Stream) (h : Hart) :
    ∃ t, l.foldl (fun h x => if x.cnt then h else h.clearTok x.n) h = { h with tok := t }
      ∧ (∀ k, h.tok.getLsbD k = false → t.getLsbD k = false) ∧ ∀ x ∈ l, x.cnt = false → t.getLsbD x.n.toNat = false := by
  induction l generalizing h with
  | nil => exact ⟨h.tok, rfl, fun _ => id, fun _ hx => absurd hx List.not_mem_nil⟩
  | cons x l ih =>
    have hstep : ∃ u, (if x.cnt then h else h.clearTok x.n) = { h with tok := u } ∧ (∀ k, h.tok.getLsbD k = false → u.getLsbD k = false)
        ∧ (x.cnt = false → u.getLsbD x.n.toNat = false) := by
      cases x.cnt with
      | true => exact ⟨h.tok, rfl, fun _ => id, fun hc => absurd hc Bool.true_eq_false_eq_False⟩
      | false => exact ⟨_, rfl, fun k hk => by simp [clearBit, hk], fun _ => by simp [clearBit]⟩
    obtain ⟨u, hu, hukeep, huclear⟩ := hstep
    obtain ⟨t, ht, hkeep, hclear⟩ := ih { h with tok := u }
    rw [List.foldl_cons, hu]
    exact ⟨t, ht, fun k hk => hkeep k (hukeep k hk), List.forall_mem_cons.2 ⟨fun hc => hkeep _ (huclear hc), hclear⟩⟩

section
variable {h : Hart}

theorem copyResume_running (hh : h.copySt.halt = false) : h.copyResume = h := if_neg (by rw [hh]; exact Bool.false_ne_true)
theorem copyAbandon_running (hh : h.copySt.halt = false) : h.copyAbandon = h := if_neg (by rw [hh]; exact Bool.false_ne_true)
theorem nbResume_running (hh : h.nbSt.halt = false) : h.nbResume = h := if_neg (by rw [hh]; exact Bool.false_ne_true)
theorem nbAbandon_running (hh : h.nbSt.halt = false) : h.nbAbandon = h := if_neg (by rw [hh]; exact Bool.false_ne_true)

theorem copyResume_halted (hh : h.copySt.halt = true) : h.copyResume =
    { h with copyQ := h.copyQ.map (fun x => { x with stop := none }), copySt := { h.copySt with halt := false } } := if_pos hh
theorem nbResume_halted (hh : h.nbSt.halt = true) : h.nbResume =
    { h with nbQ := (h.nbQ.filter (fun x => !(x.halt && x.pushNo.isSome))).map (fun x => { x with bad := [], halt := false })
             nbSt := { h.nbSt with halt := false } } := if_pos hh
theorem nbAbandon_halted (hh : h.nbSt.halt = true) : h.nbAbandon =
    { h with nbQ := h.nbQ.filter (fun x => !x.halt), nbSt := { h.nbSt with halt := false } } := if_pos hh
theorem copyAbandon_halted (hh : h.copySt.halt = true) (ho : owesNothing h) :
    ∃ t, h.copyAbandon = { h with tok := t, copyQ := h.copyQ.filter (fun x => x.stop.isNone), copySt := { h.copySt with halt := false } }
      ∧ ∀ x ∈ h.copyQ, x.stop.isSome = true → x.cnt = false → t.getLsbD x.n.toNat = false := by
  obtain ⟨t, ht, -, hclear⟩ := exists_clearToks (h.copyQ.filter (fun x => x.stop.isSome)) h
  refine ⟨t, ?_, fun x hx hs => hclear x (List.mem_filter.2 ⟨hx, hs⟩)⟩
  unfold Hart.copyAbandon
  rw [if_pos hh]
  dsimp only
  rw [ht]
  exact payOwed_of_owesNothing fun y hy => ho y (List.mem_filter.1 hy).1
end

section
variable {s : State} {hid : BitVec 20} {q k : Nat} (hin : s.input = .work hid.toNat q k)
include hin
theorem exec_efactResume : exec .efactResume s = .next (s.writeEfact hid (q == 1) 1) := by
  refine Eq.trans (b := execEfactResume s) rfl ?_
  rw [execEfactResume, hin]
  dsimp only
  rw [ofNat_hid]
theorem exec_efactAbandon : exec .efactAbandon s = .next (s.writeEfact hid (q == 1) 2) := by
  refine Eq.trans (b := execEfactAbandon s) rfl ?_
  rw [execEfactAbandon, hin]
  dsimp only
  rw [ofNat_hid]
end

theorem engineActions : EngineActions := by
  intro s hid k hhid h
  have hget {f : Hart → Hart} {h' : Hart} (hf : f h = h') (hk : h'.hid = hid) : (s.updHart hid f).getHart hid = h' :=
    (getHart_updHart (by rw [← hf] at hk; exact hk)).trans hf
  refine ⟨?_, fun hin hh ho => ?_, fun hin hh => ?_⟩
  · rintro (⟨hin, hh⟩ | ⟨hin, hh⟩)
    · exact ⟨⟨_, exec_efactResume hin, hget (copyResume_running hh) hhid⟩, _, exec_efactAbandon hin, hget (copyAbandon_running hh) hhid⟩
    · exact ⟨⟨_, exec_efactResume hin, hget (nbResume_running hh) hhid⟩, _, exec_efactAbandon hin, hget (nbAbandon_running hh) hhid⟩
  · refine ⟨⟨_, exec_efactResume hin, ?_⟩, _, exec_efactAbandon hin, ?_⟩
    · have hr : (s.writeEfact hid (0 == 1) 1).getHart hid = _ := hget (copyResume_halted hh) hhid
      rw [hr]
      exact ⟨rfl, rfl, rfl, rfl⟩
    · obtain ⟨t, ht, hclear⟩ := copyAbandon_halted hh ho
      have hr : (s.writeEfact hid (0 == 1) 2).getHart hid = _ := hget ht hhid
      rw [hr]
      exact ⟨rfl, rfl, rfl, hclear⟩
  · refine ⟨⟨_, exec_efactResume hin, ?_⟩, _, exec_efactAbandon hin, ?_⟩
    · have hr : (s.writeEfact hid (1 == 1) 1).getHart hid = _ := hget (nbResume_halted hh) hhid
      rw [hr]
      exact ⟨rfl, rfl, rfl⟩
    · have hr : (s.writeEfact hid (1 == 1) 2).getHart hid = _ := hget (nbAbandon_halted hh) hhid
      rw [hr]
      exact ⟨rfl, rfl, rfl⟩

/-- Settles O14: the two parts. -/
theorem nonBlockingWorkAndActions : Obligations.NonBlockingWorkAndActions := ⟨nonBlockingQueue, engineActions⟩

end Sys2Proof.Machine
end

section
/-! SUPPORT. Vector elements in memory (R245, R258, R259, R263, R352, R353): where they lie, one element, and a fault of a blocking load: O32. -/

namespace Sys2Proof.Machine
open Sys2Proof Sys2Proof.Spec

/-! ## Where vector elements lie (R245, R263) -/

/-- An index element as a word: sign-extended or zero-extended (R263). -/
theorem ofInt_indexVal {t : Tag} (hi : t.isInt = true) (b : Nat) : BitVec.ofInt 64 (indexVal t b) =
    if t.isSigned = true then (BitVec.ofNat (tagWidth t) b).signExtend 64 else (BitVec.ofNat (tagWidth t) b).setWidth 64 := by
  rw [indexVal_eq hi]
  split
  · rfl
  · rw [BitVec.ofInt_natCast, BitVec.ofNat_toNat]

/-- The moved elements of a tile whose tag is of no block are the active ones. -/
theorem moved_of_fresh {h : Hart} {g : Hdr} {t : Tag} (hb : t.isBlock = false) (hr : h.reissue = false) : h.moved g t = activesOf h g h.n := by
  rw [Hart.moved, hb, actives_of_fresh hr]
  rfl

theorem placeOf_placed {t : Tag} (hb : t.isBlock = false) (b : Word) (e k : Nat) :
    placeOf (placed t b e k) = (e, b + BitVec.ofNat 64 (k * tagWidth t / 8), k * tagWidth t % 8) := by
  simp [placeOf, placed, hb]

theorem vectorAddresses : VectorAddresses := by
  intro s g t vb b p sc hb hr
  refine ⟨?_, ?_, ?_, fun hi => ?_⟩
  · rw [Hart.unitElems, moved_of_fresh hb hr, List.map_map]
    exact List.map_congr_left fun e _ => placeOf_placed hb b e e
  · rw [Hart.unitElems, moved_of_fresh hb hr, List.map_map]
    exact List.map_congr_left fun e _ => placeOf_placed hb _ e _
  · rw [Hart.strideElems, actives_of_fresh hr, List.map_map]
    rfl
  · rw [Hart.indexElems, actives_of_fresh hr, List.map_map]
    refine List.map_congr_left fun e _ => ?_
    rw [Function.comp, placeOf, ofInt_indexVal (isInt_of_isIndex hi)]
    rfl

/-! ## Reading and storing at one place (R14, R258) -/

section
variable {s s1 t : State} {r : Req} {pa n v w : Nat} {x : NbElem}

theorem byte_of_view (h : t.view = s.view) (a : Nat) : t.byte a = s.byte a := by
  simp only [State.view, Prod.mk.injEq] at h
  obtain ⟨hm, hw, hz, -, hi, -⟩ := h
  exact byte_of_frame (by rw [hm, hw, hz, hi]) a
theorem seen_bytes_of_view (h : t.view = s.view) (a n : Nat) : t.seen.bytes a n = s.seen.bytes a n := by
  refine bytes_congr fun b _ _ => byte_of_view ?_ b
  simp only [State.view, Prod.mk.injEq] at h ⊢
  obtain ⟨hm, hw, hz, hn, hi, hc⟩ := h
  unfold State.seen
  rw [hc]
  split
  · exact ⟨hm, hw, hz, hn, hi, hc⟩
  · exact ⟨hm, hw, hz, hn, by simp only [hn, hi], rfl⟩
theorem marksPast_of_view (h : t.view = s.view) (hm : s.MarksPast) : t.MarksPast := by
  simp only [State.view, Prod.mk.injEq] at h
  obtain ⟨-, -, -, hn, hi, hc⟩ := h
  rwa [State.MarksPast, hn, hi, hc]

theorem cutStat_lt (a n v : Nat) : cutStat a n v < 256 ^ n := by
  induction n generalizing a v with
  | zero => exact Nat.one_pos
  | succ n ih =>
    have hb : v % 256 &&& statMask a ≤ v % 256 := Nat.and_le_left
    have := ih (a + 1) (v / 256)
    rw [cutStat, Nat.pow_succ]
    omega
theorem heldBits_lt (h : v < 256 ^ n) : heldBits pa n v < 256 ^ n := by
  unfold heldBits
  split
  · exact cutStat_lt ..
  · exact h

theorem byte_store (b : Nat) : (s.store pa n v).byte b = (s.putBytes pa n (heldBits pa n v)).byte b := by
  unfold State.store State.clearWhole
  split
  · exact byte_setUnits b
  · exact byte_setUnits b
theorem byte_noteHolder (b : Nat) : (s.noteHolder pa n).byte b = s.byte b := by
  unfold State.noteHolder
  dsimp only
  split
  · split <;> exact byte_of_frame rfl b
  · split <;> exact byte_of_frame rfl b
  · rfl

/-- What a write of a value of `n` bytes at a home leaves: the bytes that the home holds of it, and every other byte. -/
theorem writeAt_here (hsys : regionOf pa ≠ .sys) (hm : s.MarksPast) (hf : s.NoFlips) (hv : v < 256 ^ n) :
    (s.writeAt r (.here pa) n v).bytes pa n = heldBits pa n v ∧ SameOutside s (s.writeAt r (.here pa) n v) pa n := by
  obtain ⟨-, hview⟩ := ((Accessed.refl s).atHome (r := r) (pa := pa) (k := n) (w := true)).view hf
  have he : s.writeAt r (.here pa) n v = ((s.atHome r pa n true).store pa n v).noteHolder pa n := if_neg hsys
  have hb (b : Nat) : (s.writeAt r (.here pa) n v).byte b = ((s.atHome r pa n true).putBytes pa n (heldBits pa n v)).byte b := by
    rw [he, byte_noteHolder, byte_store]
  constructor
  · rw [bytes_congr fun b _ _ => hb b, bytes_putBytes (marksPast_of_view hview hm), Nat.mod_eq_of_lt (heldBits_lt hv)]
  · intro b ho
    rw [hb, byte_putBytes_other ho, byte_of_view hview]

/-- Bytes that lie within a line are one span. -/
theorem pageSpans_line {va : Word} (h : va.toNat % 128 + n ≤ 128) : pageSpans va n = [(va, n)] := by
  rw [pageSpans, lineSpans]
  exact if_pos (by omega)

/-- The value of a field of the bytes replaced fits the bytes. -/
theorem replaced_lt {old b d m : Nat} (ho : old < 2 ^ m) (hd : d < 2 ^ w) (hm : b + w ≤ m) :
    old % 2 ^ b + d * 2 ^ b + old / 2 ^ (b + w) * 2 ^ (b + w) < 2 ^ m := by
  have hlow : old % 2 ^ b + d * 2 ^ b < 2 ^ (b + w) := by
    have h1 : old % 2 ^ b < 2 ^ b := Nat.mod_lt _ (Nat.two_pow_pos b)
    calc old % 2 ^ b + d * 2 ^ b < 2 ^ b + d * 2 ^ b := Nat.add_lt_add_right h1 _
      _ = (d + 1) * 2 ^ b := by ring
      _ ≤ 2 ^ w * 2 ^ b := Nat.mul_le_mul_right _ hd
      _ = 2 ^ (b + w) := by rw [Nat.add_comm, pow_add]
  have hhigh : old / 2 ^ (b + w) < 2 ^ (m - (b + w)) := by
    rw [Nat.div_lt_iff_lt_mul (Nat.two_pow_pos _), ← pow_add, Nat.sub_add_cancel hm]
    exact ho
  calc old % 2 ^ b + d * 2 ^ b + old / 2 ^ (b + w) * 2 ^ (b + w) < 2 ^ (b + w) + old / 2 ^ (b + w) * 2 ^ (b + w) := Nat.add_lt_add_right hlow _
    _ = (old / 2 ^ (b + w) + 1) * 2 ^ (b + w) := by ring
    _ ≤ 2 ^ (m - (b + w)) * 2 ^ (b + w) := Nat.mul_le_mul_right _ hhigh
    _ = 2 ^ m := by rw [← pow_add, Nat.sub_add_cancel hm]

theorem alignOf_eq (hw : w ≤ 64) : alignOf w = if w % 8 = 0 then w / 8 else 1 := by
  rw [alignOf, ← ite_not]
  exact if_congr (by omega) rfl rfl

section
variable (hf : s.NoFlips) (ha : x.va.toNat % alignOf w = 0) (hl : x.va.toNat % 128 + x.len w ≤ 128) (hsys : regionOf pa ≠ .sys)
include hf ha hl hsys

/-- The load of an element that lies within one line. -/
theorem loadElem_line (hloc : s.locate r .read x.va (x.len w) = (.ok (.here pa), s1)) : ∃ l t, s.loadElem r false w x = (.ok l, t)
    ∧ l.v = s.seen.bytes pa (x.len w) / 2 ^ x.bit % 2 ^ w ∧ SameMemory s t := by
  obtain ⟨hf1, hv1⟩ := (((Accessed.refl s).locate).of_snd hloc).view hf
  obtain ⟨-, hv2⟩ := ((Accessed.refl s1).atHome (r := r) (pa := pa) (k := x.len w) (w := false)).view hf1
  have hv := hv2.trans hv1
  rw [State.loadElem, if_neg (by rw [ha]; simp), pageSpans_line hl]
  simp only [Bool.false_eq_true, if_false, State.locateSrcs, hloc, State.readSrcs, readAt_here hsys]
  refine ⟨_, _, rfl, ?_, byte_of_view hv⟩
  dsimp only
  rw [Nat.mul_zero, Nat.add_zero, seen_bytes_of_view hv]

/-- The store of an element that lies within one line. -/
theorem storeElem_line (hm : s.MarksPast) (hd : x.data < 2 ^ w) (hbit : w % 8 = 0 → x.bit = 0)
    (hloc : s.locate r .write x.va (x.len w) = (.ok (.here pa), s1)) : ∃ t, s.storeElem r w x = (.ok (), t)
      ∧ SameOutside s t pa (x.len w)
      ∧ let old := s.seen.bytes pa (x.len w)
        t.bytes pa (x.len w) = heldBits pa (x.len w)
          (old % 2 ^ x.bit + x.data * 2 ^ x.bit + old / 2 ^ (x.bit + w) * 2 ^ (x.bit + w)) := by
  have hn : x.bit + w ≤ 8 * x.len w := by rw [NbElem.len]; omega
  have hold : s.seen.bytes pa (x.len w) < 2 ^ (8 * x.len w) := by
    rw [pow_mul]
    exact bytes_lt ..
  have hnew := replaced_lt hold hd hn
  obtain ⟨hf1, hv1⟩ := (((Accessed.refl s).locate).of_snd hloc).view hf
  have hin {u : State} {v : Nat} (huf : u.NoFlips) (hv : u.view = s.view) (h : v < 2 ^ (8 * x.len w)) :
      (u.writeAt r (.here pa) (x.len w) v).bytes pa (x.len w) = heldBits pa (x.len w) v
        ∧ SameOutside s (u.writeAt r (.here pa) (x.len w) v) pa (x.len w) := by
    obtain ⟨h1, h2⟩ := writeAt_here (r := r) hsys (marksPast_of_view hv hm) huf (n := x.len w) (v := v) (by rwa [pow_mul] at h)
    exact ⟨h1, fun b hb => (h2 b hb).trans (byte_of_view hv b)⟩
  have hall : s.locateAll r .write [(x.va, x.len w)] = (.ok [(.here pa, x.len w)], s1) := by simp only [State.locateAll, hloc]
  rw [State.storeElem, if_neg (by rw [ha]; simp), pageSpans_line hl, hall]
  dsimp only
  by_cases hw : w % 8 = 0
  · rw [if_pos hw]
    have hlen : 8 * x.len w = w := by rw [NbElem.len, hbit hw]; omega
    have hval : s.seen.bytes pa (x.len w) % 2 ^ x.bit + x.data * 2 ^ x.bit
        + s.seen.bytes pa (x.len w) / 2 ^ (x.bit + w) * 2 ^ (x.bit + w) = x.data := by
      rw [hlen] at hold
      rw [hbit hw, Nat.zero_add, Nat.div_eq_of_lt hold, pow_zero, Nat.mod_one]
      omega
    rw [hval] at hnew ⊢
    obtain ⟨h1, h2⟩ := hin hf1 hv1 hnew
    refine ⟨_, rfl, ?_⟩
    rw [State.writeAll, State.writeAll, Nat.mod_eq_of_lt hnew]
    exact ⟨h2, h1⟩
  · rw [if_neg hw]
    obtain ⟨hf2, hv2⟩ := ((Accessed.refl s1).atHome (r := r) (pa := pa) (k := x.len w) (w := false)).view hf1
    obtain ⟨h1, h2⟩ := hin hf2 (hv2.trans hv1) hnew
    refine ⟨_, rfl, ?_⟩
    rw [State.writeAll, State.writeAll, State.readAll, readAt_here hsys]
    dsimp only [State.readAll]
    rw [Nat.mul_zero, Nat.add_zero, seen_bytes_of_view (hv2.trans hv1), Nat.mod_eq_of_lt hnew]
    exact ⟨h2, h1⟩
end

theorem elementsInMemory : ElementsInMemory := by
  intro s s1 r w pa x hm hf _ hw _ hd
  rw [← alignOf_eq hw]
  exact ⟨fun ha => ⟨if_pos ha, if_pos ha⟩,
    fun ha hbit hl hsys => ⟨loadElem_line hf ha hl hsys, storeElem_line hf ha hl hsys hm hd hbit⟩⟩
end

/-! ## What a run of elements delivers (R258, R352) -/

section
variable {acc : NbElem → State → Except MemFault Loaded × State} {w : Nat} {es : List NbElem} {r : VRun} {s s1 : State}

/-- The elements done are elements of the run, in its order, each with what its access delivered. -/
theorem done_runSpans {bytes : NbElem → List (Word × Nat)} {v : VRun} (h : runSpans acc bytes es v s = (r, s1)) :
    ∃ d, r.done = v.done.reverse ++ d ∧ (d.map Prod.fst).Sublist es ∧ ∀ p ∈ d, ∃ t t', acc p.1 t = (.ok p.2, t') := by
  induction es generalizing v s with
  | nil =>
    obtain ⟨rfl, -⟩ := Prod.mk.inj h
    exact ⟨[], (List.append_nil _).symm, List.Sublist.slnil, nofun⟩
  | cons x es ih =>
    rw [runSpans] at h
    split at h
    · obtain ⟨d, hd, hs, ha⟩ := ih h
      exact ⟨d, hd, hs.cons x, ha⟩
    · split at h
      case h_1 l t hq =>
        obtain ⟨d, hd, hs, ha⟩ := ih h
        exact ⟨(x, l) :: d, by rw [hd, List.reverse_cons, List.append_assoc]; rfl, hs.cons_cons x, List.forall_mem_cons.2 ⟨⟨s, t, hq⟩, ha⟩⟩
      case h_2 f t hq =>
        obtain ⟨d, hd, hs, ha⟩ := ih h
        exact ⟨d, hd, hs.cons x, ha⟩
theorem done_runEach (h : runEach acc w es ⟨[], []⟩ s = (r, s1)) :
    (r.done.map Prod.fst).Sublist es ∧ ∀ p ∈ r.done, ∃ t t', acc p.1 t = (.ok p.2, t') := by
  obtain ⟨d, hd, h⟩ := done_runSpans h
  rw [List.reverse_nil, List.nil_append] at hd
  rwa [hd]

theorem loadElem_lt {q : Req} {b : Bool} {x : NbElem} {l : Loaded} (h : s.loadElem q b w x = (.ok l, s1)) : l.v < 2 ^ w := by
  unfold State.loadElem at h
  split at h
  · simp at h
  · dsimp only at h
    split at h
    · simp at h
    · obtain ⟨hl, -⟩ := Prod.mk.inj h
      rw [← Except.ok.inj hl]
      exact Nat.mod_lt _ (Nat.two_pow_pos w)
theorem loadAcc_lt {e : BitVec 2} {f : VForm} {x : NbElem} {l : Loaded} (h : loadAcc e f x s = (.ok l, s1)) : l.v < 2 ^ f.w := by
  unfold loadAcc at h
  split at h
  · unfold clGuard at h
    split at h
    · simp at h
    · exact loadElem_lt h
  · exact loadElem_lt h
theorem Accessed.loadAcc {s0 : State} {e : BitVec 2} {f : VForm} {x : NbElem} (h : Accessed s0 s) : Accessed s0 (loadAcc e f x s).2 :=
  .ite_snd (h.clGuard fun h => h.loadElem) h.loadElem
end

/-! ## Loaded elements in their register (R259) -/

section
variable {h : Hart} {v w : Nat} {ws : List (Nat × Nat × Bool)}

theorem vstr_loadWrites (hv : v < h.nregs) (hf : ∀ x ∈ ws, x.1 * w + w ≤ h.regBits) :
    (h.loadWrites v w ws).vstr v = applyWrites w (h.vstr v) (ws.map (fun x => (x.1, x.2.1))) := by
  unfold Hart.loadWrites
  split
  · rename_i he
    rw [List.isEmpty_iff.1 he]
    rfl
  · have hlt : applyWrites w (h.vstr v) (ws.map (fun x => (x.1, x.2.1))) < 2 ^ h.regBits := by
      refine applyWrites_lt _ (vstr_lt h v) fun y hy => ?_
      obtain ⟨x, hx, rfl⟩ := List.mem_map.1 hy
      exact hf x hx
    rw [vstr_freshen, vstr_putStr hv, if_pos rfl, Nat.mod_eq_of_lt hlt]

theorem elemAt_applyWrites_of_mem {ws : Writes} (hn : (ws.map Prod.fst).Nodup) {e b k : Nat} (h : (e, k) ∈ ws) :
    elemAt w (applyWrites w b ws) e = k % 2 ^ w := by
  rw [writes_eq_map hn, elemAt_applyWrites, if_pos (List.mem_map_of_mem (f := Prod.fst) h), lookup_of_mem hn h]
  rfl
end

/-! ## A blocking load (R258, R259, R263) -/

section
variable {s s1 : State} {g : Hdr} {vd vb : VReg} {xa xb : XReg} {sc : BitVec 2} {t : VmTail} {f : VForm}

/-- The register writes of elements that arrived. -/
def arrived (w : Nat) (d : List (NbElem × Loaded)) : List (Nat × Nat × Bool) := d.map (fun d => (fieldIx w d.1.e, d.2.v, d.2.bad))

/-- The end of a blocking load without last use: what arrived is written, and the elements not done decide the rest. -/
def loadEnd (g : Hdr) (v w : Nat) (p : VRun × State) : Eff :=
  vmEnd g w p.1.left [] false (p.2.upd (fun h => h.loadWrites v w (arrived w p.1.done)))

theorem readingIndex_sound {bad body : State → Eff} (hs : s.hart.Sound) : readingIndex bad g vb body s = body s := by
  unfold readingIndex
  dsimp only
  rw [touchV_sound hs, vpoiStr_sound hs, any_badAt_zero]
  rfl

theorem loadVm_blocking {i : Instr} (hf : s.hart.Fresh) (hn : t.nb = false) (hu : t.lu = false) (hw : f.w = memBits (s.hart.tag vd.toNat))
    (hc : f.cl = false) : loadVm i g vd t f.es s = loadEnd g vd.toNat f.w (runEach (loadAcc t.evp f) f.w f.es ⟨[], []⟩ s) := by
  have hacc : loadAcc t.evp f = fun x s => s.loadElem (s.req .vector t.evp) true f.w x := by
    funext x s
    rw [loadAcc, hc, if_neg Bool.false_ne_true]
  rw [loadVm, hn, if_neg Bool.false_ne_true, runLoads, cutAt, stopsAfter_of_fresh hf, hu, ← hw, hacc]
  rfl

/-- What a load writes: elements that fit its register, the active ones. -/
structure LoadsInto (f : VForm) (s : State) (g : Hdr) (vd : VReg) : Prop where
  lt   : vd.toNat < s.hart.nregs
  fits : ∀ e < s.hart.n, e * f.w + f.w ≤ s.hart.regBits
  es   : f.es.map (·.e) = activesOf s.hart g s.hart.n

theorem isBlock_of_memBits {t : Tag} (h : memBits t ≤ 64) : t.isBlock = false := by
  revert h
  cases t <;> decide

section
variable (hr : s.VReady g [vd.toNat] (vmToken t)) (hl : s.hart.lenOk [vd.toNat] = true)
include hr hl

theorem exec_vld (hb : (s.hart.tag vd.toNat).isBlock = false) : exec (.vld g vd xa t) s =
    finish (loadVm (.vld g vd xa t) g vd t (s.hart.unitElems g (s.hart.tag vd.toNat) (s.x xa) none) s) :=
  vecIssue_ready hr rfl rfl (.vld g vd xa t) _ _ (by simp [Hart.unitOk, hl, hb])
theorem exec_vldP (hb : (s.hart.tag vd.toNat).isBlock = false) (hrow : s.hart.vl * tagWidth (s.hart.tag vd.toNat) % 8 = 0) :
    exec (.vldP g vd xa xb t) s =
    finish (loadVm (.vldP g vd xa xb t) g vd t (s.hart.unitElems g (s.hart.tag vd.toNat) (s.x xa) (some (s.x xb))) s) :=
  vecIssue_ready hr rfl rfl (.vldP g vd xa xb t) _ _ (by simp [Hart.unitOk, hl, hb, hrow])
theorem exec_vlds (hb : Tag.isByte (s.hart.tag vd.toNat) = true) : exec (.vlds g vd xa xb t) s =
    finish (loadVm (.vlds g vd xa xb t) g vd t (s.hart.strideElems g (s.x xa) (s.x xb)) s) :=
  vecIssue_ready hr rfl rfl (.vlds g vd xa xb t) _ _ (by simp [hl, hb])
end

section
variable (hr : s.VReady g [vd.toNat, vb.toNat] (vmToken t)) (hl : s.hart.lenOk [vd.toNat, vb.toNat] = true)
  (hb : Tag.isByte (s.hart.tag vd.toNat) = true) (hi : Tag.isIndex (s.hart.tag vb.toNat) = true)
include hr hl hb hi

theorem exec_vgth : exec (.vgth g vd xa vb sc t) s =
    finish (loadVm (.vgth g vd xa vb sc t) g vd t (s.hart.indexElems g (s.x xa) vb sc) s) :=
  (vecIssue_ready (g := g) hr rfl rfl (.vgth g vd xa vb sc t) (indexOk vd vb) _ (by simp [indexOk, hl, hb, hi])).trans
    (congrArg finish (readingIndex_sound hr.1.1))
theorem exec_vgthCl (hn : t.nb = false) (hw : f.w = tagWidth (s.hart.tag vd.toNat)) (hle : f.w ≤ 64)
    (hes : f.es = s.hart.indexElems g (s.clBase xa) vb sc) (hc : f.cl = true) : exec (.vgthCl g vd xa vb sc t) s =
    finish (loadEnd g vd.toNat f.w (runEach (loadAcc t.evp f) f.w f.es ⟨[], []⟩ s)) := by
  have hacc : loadAcc t.evp f = fun x => clGuard f.w x (fun s => s.loadElem (s.req .vector t.evp) true f.w x) := by
    funext x s
    rw [loadAcc, hc, if_pos rfl]
  have hfield (e : Nat) : fieldIx f.w e = e := if_neg (by omega)
  refine (vecIssue_ready (g := g) hr rfl rfl (.vgthCl g vd xa vb sc t) (indexOk vd vb) _ (by simp [indexOk, hl, hb, hi])).trans
    (congrArg finish ((readingIndex_sound hr.1.1).trans ?_))
  have hcut (es : List NbElem) : s.cutPackets es = (es, [], false) := by
    rw [State.cutPackets, stopsAfter_of_fresh hr.2.1]
  rw [hn, if_neg Bool.false_ne_true, ← hw, ← hes, hcut, ← hacc, loadEnd, arrived]
  simp only [hfield]
end

section
variable (hf : f ∈ loadForms s g vd vb xa xb sc t) (hr : s.VReady g f.regs (vmToken t)) (hok : f.ok) (hw : f.w ≤ 64)
include hf hr hok hw

theorem loadsInto_of_loadForm : LoadsInto f s g vd := by
  obtain ⟨-, ⟨-, hre, -⟩, -, -, hv, -⟩ := hr
  have hinto {vs : List Nat} (hl : s.hart.lenOk vs = true) (hm : vd.toNat ∈ vs) (he : f.w = memBits (s.hart.tag vd.toNat)) (hd : vd.toNat ∈ f.regs)
      (hes : (s.hart.tag vd.toNat).isBlock = false → f.es.map (·.e) = activesOf s.hart g s.hart.n) : LoadsInto f s g vd := by
    have hb := isBlock_of_memBits (he ▸ hw)
    have hwe : f.w = tagWidth (s.hart.tag vd.toNat) := by rw [he, memBits, hb]; rfl
    have hlt := List.all_eq_true.1 hv _ hd
    rw [Bool.and_eq_true, decide_eq_true_eq] at hlt
    exact ⟨hlt.1, fun e hlt => hwe ▸ fits_of_lenOk hl hm hb hlt, hes hb⟩
  have hunit (p : Option Word) (b : Word) (hb : (s.hart.tag vd.toNat).isBlock = false) :
      (s.hart.unitElems g (s.hart.tag vd.toNat) b p).map (·.e) = activesOf s.hart g s.hart.n := by
    rw [Hart.unitElems, moved_of_fresh hb hre, List.map_map]
    refine (List.map_congr_left fun e _ => ?_).trans (List.map_id _)
    cases p <;> rfl
  have hstride : (s.hart.strideElems g (s.x xa) (s.x xb)).map (·.e) = activesOf s.hart g s.hart.n := by
    rw [Hart.strideElems, actives_of_fresh hre, List.map_map]
    exact List.map_id _
  have hindex (b : Word) : (s.hart.indexElems g b vb sc).map (·.e) = activesOf s.hart g s.hart.n := by
    rw [Hart.indexElems, actives_of_fresh hre, List.map_map]
    exact List.map_id _
  simp only [loadForms, List.mem_cons, List.not_mem_nil, or_false] at hf
  obtain rfl | rfl | rfl | rfl | rfl := hf
  · exact hinto hok.1 List.mem_cons_self rfl List.mem_cons_self (hunit none _)
  · exact hinto hok.1 List.mem_cons_self rfl List.mem_cons_self (hunit (some _) _)
  · exact hinto hok.1 List.mem_cons_self rfl List.mem_cons_self fun _ => hstride
  · exact hinto hok.1 List.mem_cons_self rfl List.mem_cons_self fun _ => hindex _
  · exact hinto hok.1 List.mem_cons_self rfl List.mem_cons_self fun _ => hindex _

/-- A blocking load without last use runs its elements, and ends as they did. -/
theorem exec_loadForm (hn : t.nb = false) (hu : t.lu = false) :
    exec f.i s = finish (loadEnd g vd.toNat f.w (runEach (loadAcc t.evp f) f.w f.es ⟨[], []⟩ s)) := by
  have hblock (he : f.w = memBits (s.hart.tag vd.toNat)) : (s.hart.tag vd.toNat).isBlock = false := isBlock_of_memBits (he ▸ hw)
  have hrun {i : Instr} {es : List NbElem} (hi : f.i = i) (hes : f.es = es) (hfw : f.w = memBits (s.hart.tag vd.toNat)) (hc : f.cl = false)
      (hx : exec i s = finish (loadVm i g vd t es s)) :
      exec f.i s = finish (loadEnd g vd.toNat f.w (runEach (loadAcc t.evp f) f.w f.es ⟨[], []⟩ s)) := by
    rw [hi, hx, ← hes, loadVm_blocking hr.2.1 hn hu hfw hc]
  simp only [loadForms, List.mem_cons, List.not_mem_nil, or_false] at hf
  obtain h | h | h | h | h := hf
  all_goals
    have hfw : f.w = memBits (s.hart.tag vd.toNat) := by rw [h]
    have hb := hblock hfw
    rw [h] at hr hok
  · exact hrun (by rw [h]) (by rw [h]) hfw (by rw [h]) (exec_vld hr hok.1 hb)
  · obtain ⟨hl, -, hrow⟩ := hok
    exact hrun (by rw [h]) (by rw [h]) hfw (by rw [h]) (exec_vldP hr hl hb (hrow hb))
  · exact hrun (by rw [h]) (by rw [h]) hfw (by rw [h]) (exec_vlds hr hok.1 hok.2)
  · obtain ⟨hl, hby, hi⟩ := hok
    exact hrun (by rw [h]) (by rw [h]) hfw (by rw [h]) (exec_vgth hr hl hby hi)
  · obtain ⟨hl, hby, hi⟩ := hok
    have hi' : f.i = .vgthCl g vd xa vb sc t := by rw [h]
    rw [hi']
    exact exec_vgthCl hr hl hby hi hn (by rw [hfw, memBits, hb]; rfl) hw (by rw [h]) (by rw [h])
end
end

/-! ## A fault of a blocking load (R259, R352, R353) -/

section
variable {s s1 : State} {g : Hdr} {v w : Nat}

/-- Which traps come before a synchronous one. -/
theorem firstPending_eq_none_iff {h : Hart} : h.firstPending = none ↔ h.pend.abort = none ∧ h.pend.budget = none ∧ h.copySt.due = false
    ∧ h.nbSt.due = false ∧ h.pend.push = [] ∧ lowestColl h.pend.coll = none := by
  unfold Hart.firstPending
  repeat' split
  all_goals simp_all

theorem firstPending_congr {h k : Hart} (hp : k.pend = h.pend) (hc : k.copySt = h.copySt) (hn : k.nbSt = h.nbSt) :
    k.firstPending = none ↔ h.firstPending = none := by
  rw [firstPending_eq_none_iff, firstPending_eq_none_iff, hp, hc, hn]

/-- A synchronous trap of mode U that is not delegated, with none before it, is taken on the hart. -/
theorem takeTrap_enters {t : Trap} (hm : s.hart.mode = .u) (hp : s.hart.firstPending = none)
    (hd : (s.die (hidDie s.hart.hid)).tdeleg.getLsbD t.cause.code.toNat = false) :
    s.takeTrap t = s.upd (fun h => { h with trapped := true }.enter t) := by
  have hm' : (s.upd (fun h => { h with trapped := true })).hart.mode = .u := hm
  have hp' : (s.upd (fun h => { h with trapped := true })).hart.firstPending = none :=
    (firstPending_congr (h := s.hart) (k := { s.hart with trapped := true }) rfl rfl rfl).2 hp
  have hd' : ((s.upd (fun h => { h with trapped := true })).die (hidDie (s.upd (fun h => { h with trapped := true })).hart.hid)).tdeleg.getLsbD
      t.cause.code.toNat = false := hd
  have he : s.takeTrap t = (s.upd (fun h => { h with trapped := true })).upd (fun h => h.enter t) := by
    unfold State.takeTrap State.takeSync
    generalize s.upd (fun h => { h with trapped := true }) = u at hm' hp' hd'
    simp only [hp', ite_self, hm', hd', Bool.false_eq_true, if_false]
  exact he

theorem getLsbD_tstatOf_vec {h : Hart} {t : Trap} (hv : t.vec = true) : (tstatOf h t).getLsbD 7 = true := by
  rw [tstatOf, hv, Bool.true_or]
  simp only [BitVec.getLsbD_append]
  simp

/-- A hart that stopped on one element (R352). -/
def Hart.stoppedOn (h : Hart) (e : Nat) : Hart := { h with fm := BitVec.twoPow 32768 e, vstart := BitVec.ofNat 15 e }

/-- A load whose one element not done met a fault raises the trap of that fault, inside a vector instruction. -/
theorem loadEnd_fault {x : NbElem} {e : MemFault} {d : List (NbElem × Loaded)} (hw : w ≤ 64) (ha : e.amb = false) :
    ∃ fb, loadEnd g v w (⟨d, [(x, some e)]⟩, s1) = .trap
      { cause := e.cause, epc := (s1.hart.loadWrites v w (arrived w d)).pc, val := e.addr, npg := fb.length, vec := true, fb := fb }
      { s1 with hart := (s1.hart.loadWrites v w (arrived w d)).stoppedOn x.e } := by
  have hs : settled (x, some e) = false := ha
  have hx (h : Hart) : h.expand g w [x.e] = [x.e] := if_neg (by omega)
  have hm : maskOf [x.e] = BitVec.twoPow 32768 x.e := BitVec.zero_or
  have hl : lowest [x.e] = x.e := Nat.min_self _
  rw [loadEnd, vmEnd]
  simp only [List.filter_cons, hs, Bool.not_false, if_true, List.filter_nil, List.map_cons, List.map_nil, List.append_nil, hx, List.isEmpty_cons]
  rw [vecFault, hm, hl]
  exact ⟨_, rfl⟩

/-- Each element that arrived is in its place. -/
theorem elemAt_loadWrites_arrived {h : Hart} {d : List (NbElem × Loaded)} (hv : v < h.nregs) (hw : w ≤ 64)
    (hf : ∀ p ∈ d, p.1.e * w + w ≤ h.regBits) (hn : (d.map (·.1.e)).Nodup) (hl : ∀ p ∈ d, p.2.v < 2 ^ w) :
    ∀ p ∈ d, elemAt w ((h.loadWrites v w (arrived w d)).vstr v) p.1.e = p.2.v := by
  have hfield (e : Nat) : fieldIx w e = e := if_neg (by omega)
  have hws : (arrived w d).map (fun x => (x.1, x.2.1)) = d.map (fun p => (p.1.e, p.2.v)) := by
    rw [arrived, List.map_map]
    exact List.map_congr_left fun p _ => by rw [Function.comp, hfield]
  intro p hp
  rw [vstr_loadWrites hv, hws, elemAt_applyWrites_of_mem (k := p.2.v), Nat.mod_eq_of_lt (hl p hp)]
  · rw [List.map_map]
    exact hn
  · exact List.mem_map.2 ⟨p, hp, rfl⟩
  · intro y hy
    obtain ⟨q, hq, rfl⟩ := List.mem_map.1 hy
    dsimp only
    rw [hfield]
    exact hf q hq

/-- With no trap of orders 1 to 4 to be taken, accesses leave the hart as it was. -/
theorem Accessed.hart_eq (h : Accessed s s1) (hp : s1.hart.firstPending = none) : s1.hart = { s.hart with stopAt := s1.hart.stopAt } := by
  refine h.hart.resolve_right fun ⟨_, hb⟩ => ?_
  obtain ⟨p, hp'⟩ := firstPending_of_budget hb
  exact nomatch hp'.symm.trans hp

section
variable {vd : VReg} {f : VForm} {e : BitVec 2} {r : VRun} (hi : LoadsInto f s g vd) (hw : f.w ≤ 64)
  (hh : s1.hart = { s.hart with stopAt := s1.hart.stopAt })
include hi hw hh

/-- The elements of a load that arrived, behind it. -/
theorem elemAt_of_loadsInto (hrun : runEach (loadAcc e f) f.w f.es ⟨[], []⟩ s = (r, s1)) :
    ∀ p ∈ r.done, elemAt f.w ((s1.hart.loadWrites vd.toNat f.w (arrived f.w r.done)).vstr vd.toNat) p.1.e = p.2.v := by
  obtain ⟨hsub, hval⟩ := done_runEach hrun
  have hact : (r.done.map (·.1.e)).Sublist (activesOf s.hart g s.hart.n) := by
    rw [← hi.es, ← Function.comp_def, ← List.map_map]
    exact hsub.map _
  refine elemAt_loadWrites_arrived (by rw [hh]; exact hi.lt) hw (fun p hp => ?_) ((List.nodup_range.filter _).sublist hact) fun p hp => ?_
  · rw [hh]
    exact hi.fits _ (mem_activesOf.1 (hact.subset (List.mem_map.2 ⟨p, hp, rfl⟩))).1
  · obtain ⟨_, _, hl⟩ := hval p hp
    exact loadAcc_lt hl
end
end

theorem vectorFaults : VectorFaults := by
  intro s s1 g vd vb xa xb sc t done x e f hf hr hok hn hu hw ha hrun hm hp hd
  have hh := (((Accessed.refl s).runEach fun h => h.loadAcc).of_snd hrun).hart_eq hp
  have hplaces := elemAt_of_loadsInto (loadsInto_of_loadForm hf hr hok hw) hw hh hrun
  have hx := exec_loadForm hf hr hok hw hn hu
  obtain ⟨fb, hend⟩ := loadEnd_fault (g := g) (v := vd.toNat) (s1 := s1) (x := x) (d := done) hw ha
  obtain ⟨_, _, _, _, hst⟩ := onlyStorage_loadWrites s1.hart vd.toNat f.w (arrived f.w done)
  obtain ⟨-, ⟨hmgmt, -⟩, -⟩ := hr
  rw [hrun, hend] at hx
  dsimp only at hplaces
  generalize s1.hart.loadWrites vd.toNat f.w (arrived f.w done) = h1 at hx hst hplaces
  have hp1 : (h1.stoppedOn x.e).firstPending = none :=
    (firstPending_congr (h := s1.hart) (by rw [hst]; rfl) (by rw [hst]; rfl) (by rw [hst]; rfl)).2 hp
  rw [hh] at hst hd
  refine ⟨_, hx.trans (congrArg _ (takeTrap_enters (by rw [hst]; exact hm) hp1 (by rw [hst]; exact hd))), rfl, ?_, rfl, getLsbD_tstatOf_vec rfl, rfl,
    rfl, ?_, ?_, hplaces⟩
  · change h1.pc = s.hart.pc
    rw [hst]
  · change (if h1.isMgmt then Mode.p else Mode.s) = Mode.s
    rw [hst]
    exact if_neg (by rw [Bool.not_eq_true]; exact hmgmt)
  · change h1.tvec = s.hart.tvec
    rw [hst]

/-- Settles O32: the three parts. -/
theorem vectorElementsInMemory : Obligations.VectorElementsInMemory := ⟨vectorAddresses, elementsInMemory, vectorFaults⟩

end Sys2Proof.Machine
end
